-- ==== Sys2Proof/Word.lean ====
section
/-!
DEFINITION. The word types: bytes, 16-, 32- and 64-bit words, 512-byte vectors and 512-byte packet headers.
-/
namespace Sys2Proof

/-- A byte (R2). -/
abbrev Byte := BitVec 8
/-- A half word (R2). -/
abbrev W16 := BitVec 16
/-- A word (R2). -/
abbrev W32 := BitVec 32
/-- A doubleword (R2). -/
abbrev W64 := BitVec 64
/-- A vector register: 512 bytes (R1). -/
abbrev Vec := BitVec 4096

end Sys2Proof
end

