-- ==== Sys2Proof/Config.lean ====
section
/-!
DEFINITION. What is fixed for a module and not given by the spec: free values, keys and what is computed from them. Each is opaque, so a
claim holds whatever it is.
-/
namespace Sys2Proof.Config

/-- FAULTADDR of a fault for which the spec names no address: the value of the k-th such fault (log 5). -/
opaque freeFaultAddr : Nat → W64
/-- The tenant that an EVENT packet names where the spec names none: the value of the k-th such packet (log 67). -/
opaque freeTenant : Nat → BitVec 16
/-- Ralsuost's root public key, whose digest the boot ROM holds (R152, log 6). -/
opaque rootKey : Nat × Nat
/-- The configuration key that a firmware image carries (R50, R152, log 6). -/
opaque configKey : List Byte → Nat × Nat
/-- The lowest version that a signed command names (R152, log 6). -/
opaque commandVersion : List Byte → Nat
/-- The field of a number in the payload of a configuration record of a kind (R51, log 27). -/
opaque configField : Nat → Nat → List Byte → Nat
/-- Whether every other value in the payload of a configuration record of a kind is in its range (R51, log 27). -/
opaque configInRange : Nat → List Byte → Bool
/-- The bytes that stand for a list of units in PARTDIGEST (R153, log 6). -/
opaque unitList : List Nat → List Byte
/-- The signature of the identity key over a report (R153, log 6). -/
opaque identitySign : List Byte → List Byte
/-- The public key of the n-th key-agreement pair (R153, log 6). -/
opaque agreementKey : Nat → List Byte
/-- The AES key that a blob holds, opened with the n-th key-agreement pair for a slot, partition, peer and PANY; none where
it fails to open (R154, log 6). -/
opaque unwrapKey : Nat → Nat → Nat → Nat → Bool → List Byte → Option (BitVec 256)

end Sys2Proof.Config
end

