-- ==== Sys2Proof/Syntax.lean ====
section
/-!
DEFINITION. The instructions: one constructor of Instr for each row of the opcode table. Core instructions carry the
fields that chapter 14 gives them (R328 to R349), pebble operations those of R112 and slate operations those of R201. The steps
of the module that have no word have no fields; what they act on stands in State.args (log 2).
-/
namespace Sys2Proof

/-- A guard: predicate GP and sense GS (R329, R330). -/
structure Guard where
  p : Nat
  neg : Bool
  deriving DecidableEq, Repr

/-- Condition codes (R334). -/
inductive Cond where
  | eq | ne | lt | ge | ltu | geu
  deriving DecidableEq, Repr

/-- Extension codes of EXT (R334). -/
inductive Ext where
  | b | bu | h | hu | w | wu
  deriving DecidableEq, Repr

/-- Widths of the scalar loads (R336). -/
inductive LdKind where
  | b | bu | h | hu | w | wu | d
  deriving DecidableEq, Repr

/-- Widths of the scalar stores (R336). -/
inductive StKind where
  | b | h | w | d
  deriving DecidableEq, Repr

/-- Element types of the vector classes (R340); the code 0x8 is never legal there. -/
inductive VType where
  | f32 | bf16 | e4m3 | e5m2 | i8 | ui8 | i16 | i32
  deriving DecidableEq, Repr

/-- Rounding modes (R340, R310). -/
inductive Rnd where
  | rne | rtz | rsr
  deriving DecidableEq, Repr

/-- The second operand of a class 0x5 arithmetic form: a scalar register or a signed immediate (R343, R383). -/
inductive SOperand where
  | reg (r : Nat)
  | imm (x : BitVec 12)
  deriving DecidableEq, Repr

/-- Scalar operations of a pair (R333). -/
inductive SOp where
  | nop | add | sub | mul | and | or | xor | shl | shr | sar | min | max | minu | maxu
  deriving DecidableEq, Repr

/-- Vector operations of a pair (R333). -/
inductive VOp where
  | nop | addF | subF | mulF | maxF | minF | addI | subI | mulI | and | or | xor | mov | fmaF | maxI | minI
  deriving DecidableEq, Repr

/-- Token bits, repeat count and signed step of an engine command (R344, R346, R215, R217). -/
structure ECtl where
  wp : Bool
  wn : Bool
  sp : Bool
  sn : Bool
  rep : Nat
  step : BitVec 12
  deriving DecidableEq, Repr

/-- Operations of AMO (R435). -/
inductive AmoOp where
  | swap | add | and | or | xor | min | max | minu | maxu | fadd
  deriving DecidableEq, Repr

/-- Ordering modifiers of an atomic (R347). -/
inductive Ord where
  | none | rel | acq
  deriving DecidableEq, Repr

/-- Widths of an atomic (R347). -/
inductive AWid where
  | i32 | i64 | f32
  deriving DecidableEq, Repr

/-- One instruction, operation or step of the module: the rows of the opcode table. -/
inductive Instr where
  /-- R113. Pushes the sign-extended 11-bit immediate onto the pebble stack. -/
  | pushi (i : BitVec 11)
  /-- R113. Pushes slot kn onto the stack. -/
  | pushk (n : Nat)
  /-- R113. Pops the top of the stack into slot kn. -/
  | popk (n : Nat)
  /-- R113. Pops a value and adds it into slot kn modulo 2^64. -/
  | addk (n : Nat)
  /-- R115. Pops a value and branches to pc plus the displacement when it is zero. -/
  | pebbleBz (d : BitVec 11)
  /-- R115. Pops a value and branches to pc plus the displacement when it is not zero. -/
  | pebbleBnz (d : BitVec 11)
  /-- R117. Pushes tenant counter n zero-extended. -/
  | ctr (n : Nat)
  /-- R117. With CINC, increments tenant counter n atomically and pushes its old value. -/
  | ctrinc (n : Nat)
  /-- R118. Pushes the x, y or z coordinate of the executing node. -/
  | coord (sel : Nat)
  /-- R118. With LOADRD, pushes the load of direction d. -/
  | loadCount (d : Nat)
  /-- R119. Ends the visit by one exit in a named direction or along the turn list, applying the exit procedure. -/
  | fwd (d : Nat)
  /-- R120. Ends the visit by sending one copy of the pebble through each direction in the mask, subject to FANOUT and the exit checks. -/
  | clone (m : BitVec 6)
  /-- R202. Reads one snapshot value of a column at an immediate or register-relative index into gd. -/
  | ldv (d : Nat) (a : Nat) (x : Bool) (k : Nat) (c : Nat)
  /-- R203. Reads a persistent m-word into gd. -/
  | ldm (d : Nat) (a : Nat) (x : Bool) (c : Nat)
  /-- R203. Writes gd into a persistent m-word at once. -/
  | stm (d : Nat) (a : Nat) (x : Bool) (c : Nat)
  /-- R207. Scans n snapshot values of a column from base g[GA] and writes the first maximum's index and value. -/
  | argmax (d : Nat) (a : Nat) (k : Nat) (n : Nat)
  /-- R205. Branches forward by D, always or on g[GA] non-zero or zero, leaving loops it jumps past. -/
  | brf (a : Nat) (c : Nat) (d : Nat)
  /-- R206. Opens a counted loop of n passes to its matching ENDL, with index in gd. -/
  | slateLoop (d : Nat) (l : Nat) (n : Nat)
  /-- R208. Appends a dispatch decision for stage g[GD] with die mask g[GA]. -/
  | emitDispatch (d : Nat) (a : Nat)
  /-- R208. Appends a pre-emption decision for team g[GD]. -/
  | emitPreempt (d : Nat)
  /-- R208. Appends a decision setting stage g[GD]'s core share to g[GA]. -/
  | emitShare (d : Nat) (a : Nat)
  /-- R208. Appends a WAIT, MIGRATE, KILL or PREEMPT fault action for fault slot g[GD]. -/
  | emitFaultact (d : Nat) (t : Nat)
  /-- R204. g[GD] gets g[GA] + g[GB] modulo 2^32. -/
  | slateAdd (d : Nat) (a : Nat) (b : Nat)
  /-- R204. g[GD] gets g[GA] plus the sign-extended immediate. -/
  | slateAddImm (d : Nat) (a : Nat) (i : BitVec 18)
  /-- R204. g[GD] gets g[GA] - g[GB] modulo 2^32. -/
  | slateSub (d : Nat) (a : Nat) (b : Nat)
  /-- R204. g[GD] gets g[GA] minus the sign-extended immediate. -/
  | slateSubImm (d : Nat) (a : Nat) (i : BitVec 18)
  /-- R204. g[GD] gets the low 32 bits of g[GA] × g[GB]. -/
  | slateMul (d : Nat) (a : Nat) (b : Nat)
  /-- R204. g[GD] gets the low 32 bits of g[GA] times the immediate. -/
  | slateMulImm (d : Nat) (a : Nat) (i : BitVec 18)
  /-- R204. g[GD] gets g[GA] AND g[GB]. -/
  | slateAnd (d : Nat) (a : Nat) (b : Nat)
  /-- R204. g[GD] gets g[GA] AND the immediate. -/
  | slateAndImm (d : Nat) (a : Nat) (i : BitVec 18)
  /-- R204. g[GD] gets g[GA] OR g[GB]. -/
  | slateOr (d : Nat) (a : Nat) (b : Nat)
  /-- R204. g[GD] gets g[GA] OR the immediate. -/
  | slateOrImm (d : Nat) (a : Nat) (i : BitVec 18)
  /-- R204. g[GD] gets g[GA] XOR g[GB]. -/
  | slateXor (d : Nat) (a : Nat) (b : Nat)
  /-- R204. g[GD] gets g[GA] XOR the immediate. -/
  | slateXorImm (d : Nat) (a : Nat) (i : BitVec 18)
  /-- R204. g[GD] gets g[GA] shifted left by g[GB], or 0 out of range. -/
  | slateShl (d : Nat) (a : Nat) (b : Nat)
  /-- R204. g[GD] gets g[GA] shifted left by the immediate, or 0 out of range. -/
  | slateShlImm (d : Nat) (a : Nat) (i : BitVec 18)
  /-- R204. g[GD] gets g[GA] shifted right logically by g[GB], or 0 out of range. -/
  | slateShr (d : Nat) (a : Nat) (b : Nat)
  /-- R204. g[GD] gets g[GA] shifted right logically by the immediate. -/
  | slateShrImm (d : Nat) (a : Nat) (i : BitVec 18)
  /-- R204. g[GD] gets the signed smaller of g[GA] and g[GB]. -/
  | slateMin (d : Nat) (a : Nat) (b : Nat)
  /-- R204. g[GD] gets the signed smaller of g[GA] and the immediate. -/
  | slateMinImm (d : Nat) (a : Nat) (i : BitVec 18)
  /-- R204. g[GD] gets the signed larger of g[GA] and g[GB]. -/
  | slateMax (d : Nat) (a : Nat) (b : Nat)
  /-- R204. g[GD] gets the signed larger of g[GA] and the immediate. -/
  | slateMaxImm (d : Nat) (a : Nat) (i : BitVec 18)
  /-- R204. g[GD] gets 1 if g[GA] < g[GB] signed, else 0. -/
  | slateCmplt (d : Nat) (a : Nat) (b : Nat)
  /-- R204. g[GD] gets 1 if g[GA] is below the immediate, signed, else 0. -/
  | slateCmpltImm (d : Nat) (a : Nat) (i : BitVec 18)
  /-- R204. g[GD] gets 1 if g[GA] equals g[GB], else 0. -/
  | slateCmpeq (d : Nat) (a : Nat) (b : Nat)
  /-- R204. g[GD] gets 1 if g[GA] equals the immediate, else 0. -/
  | slateCmpeqImm (d : Nat) (a : Nat) (i : BitVec 18)
  /-- R204. g[GD] gets g[GA] if g[GD] is non-zero, else g[GB]. -/
  | slateSel (d : Nat) (a : Nat) (b : Nat)
  /-- R204. g[GD] gets g[GA] if g[GD] is non-zero, else the immediate. -/
  | slateSelImm (d : Nat) (a : Nat) (i : BitVec 18)
  /-- R357. Does nothing. -/
  | nop (g : Guard)
  /-- R354. s SD gets s[SA] + s[SB] modulo 2^64. -/
  | add (g : Guard) (sd : Nat) (sa : Nat) (sb : Nat)
  /-- R354. s SD gets s[SA] - s[SB]. -/
  | sub (g : Guard) (sd : Nat) (sa : Nat) (sb : Nat)
  /-- R354. s SD gets the low 64 bits of s[SA] × s[SB]. -/
  | mul (g : Guard) (sd : Nat) (sa : Nat) (sb : Nat)
  /-- R354. s SD gets the high 64 bits of the signed product. -/
  | mulh (g : Guard) (sd : Nat) (sa : Nat) (sb : Nat)
  /-- R354. s SD gets the high 64 bits of the unsigned product. -/
  | mulhu (g : Guard) (sd : Nat) (sa : Nat) (sb : Nat)
  /-- R355. s SD gets the signed quotient truncated toward zero, with defined results for zero and overflow. -/
  | div (g : Guard) (sd : Nat) (sa : Nat) (sb : Nat)
  /-- R355. s SD gets the unsigned quotient, all ones for division by zero. -/
  | divu (g : Guard) (sd : Nat) (sa : Nat) (sb : Nat)
  /-- R355. s SD gets the signed remainder with the dividend's sign. -/
  | rem (g : Guard) (sd : Nat) (sa : Nat) (sb : Nat)
  /-- R355. s SD gets the unsigned remainder. -/
  | remu (g : Guard) (sd : Nat) (sa : Nat) (sb : Nat)
  /-- R354. s SD gets s[SA] AND s[SB]. -/
  | andR (g : Guard) (sd : Nat) (sa : Nat) (sb : Nat)
  /-- R354. s SD gets s[SA] OR s[SB]. -/
  | orR (g : Guard) (sd : Nat) (sa : Nat) (sb : Nat)
  /-- R354. s SD gets s[SA] XOR s[SB]. -/
  | xorR (g : Guard) (sd : Nat) (sa : Nat) (sb : Nat)
  /-- R354. s SD gets s[SA] AND NOT s[SB]. -/
  | andn (g : Guard) (sd : Nat) (sa : Nat) (sb : Nat)
  /-- R356. s SD gets s[SA] shifted left by s[SB], 0 for counts from 64. -/
  | shl (g : Guard) (sd : Nat) (sa : Nat) (sb : Nat)
  /-- R356. s SD gets s[SA] shifted right logically by s[SB]. -/
  | shr (g : Guard) (sd : Nat) (sa : Nat) (sb : Nat)
  /-- R356. s SD gets s[SA] shifted right arithmetically by s[SB]. -/
  | sar (g : Guard) (sd : Nat) (sa : Nat) (sb : Nat)
  /-- R354. s SD gets the signed smaller operand. -/
  | minR (g : Guard) (sd : Nat) (sa : Nat) (sb : Nat)
  /-- R354. s SD gets the signed larger operand. -/
  | maxR (g : Guard) (sd : Nat) (sa : Nat) (sb : Nat)
  /-- R354. s SD gets the unsigned smaller operand. -/
  | minu (g : Guard) (sd : Nat) (sa : Nat) (sb : Nat)
  /-- R354. s SD gets the unsigned larger operand. -/
  | maxu (g : Guard) (sd : Nat) (sa : Nat) (sb : Nat)
  /-- R357. s SD gets the number of leading zero bits of s[SA]. -/
  | clz (g : Guard) (sd : Nat) (sa : Nat)
  /-- R357. s SD gets the number of trailing zero bits of s[SA]. -/
  | ctz (g : Guard) (sd : Nat) (sa : Nat)
  /-- R357. s SD gets the number of one bits of s[SA]. -/
  | popc (g : Guard) (sd : Nat) (sa : Nat)
  /-- R357. s SD gets the low byte, half or word of s[SA], sign- or zero-extended. -/
  | ext (g : Guard) (sd : Nat) (sa : Nat) (x : Ext)
  /-- R357. s SD gets s[SA] if p[PA] is true, else s[SB]. -/
  | sel (g : Guard) (sd : Nat) (sa : Nat) (sb : Nat) (pa : Nat)
  /-- R358. p[PD] gets the outcome of comparing s[SA] with s[SB] under the condition code. -/
  | cmp (g : Guard) (c : Cond) (sa : Nat) (sb : Nat) (pd : Nat)
  /-- R357. s SD gets the low 64 bits of s[SA] × s[SB] + s[SC]. -/
  | madd (g : Guard) (sd : Nat) (sa : Nat) (sb : Nat) (sc : Nat)
  /-- R359. p[PD] gets p[PA] AND p[PB]. -/
  | pand (g : Guard) (pd : Nat) (pa : Nat) (pb : Nat)
  /-- R359. p[PD] gets p[PA] OR p[PB]. -/
  | por (g : Guard) (pd : Nat) (pa : Nat) (pb : Nat)
  /-- R359. p[PD] gets p[PA] XOR p[PB]. -/
  | pxor (g : Guard) (pd : Nat) (pa : Nat) (pb : Nat)
  /-- R359. p[PD] gets NOT p[PA]. -/
  | pnot (g : Guard) (pd : Nat) (pa : Nat)
  /-- R359. s SD gets p7 to p0 as bits 7 to 0. -/
  | pget (g : Guard) (sd : Nat)
  /-- R359. Sets p1 to p7 from bits 7 to 1 of s[SA]. -/
  | pset (g : Guard) (sa : Nat)
  /-- R354. s SD gets s[SA] plus the sign-extended 32-bit immediate. -/
  | addImm (g : Guard) (sd : Nat) (sa : Nat) (imm : BitVec 32)
  /-- R354. s SD gets s[SA] minus the immediate. -/
  | subImm (g : Guard) (sd : Nat) (sa : Nat) (imm : BitVec 32)
  /-- R354. s SD gets the low 64 bits of s[SA] times the immediate. -/
  | mulImm (g : Guard) (sd : Nat) (sa : Nat) (imm : BitVec 32)
  /-- R354. s SD gets s[SA] AND the immediate. -/
  | andImm (g : Guard) (sd : Nat) (sa : Nat) (imm : BitVec 32)
  /-- R354. s SD gets s[SA] OR the immediate. -/
  | orImm (g : Guard) (sd : Nat) (sa : Nat) (imm : BitVec 32)
  /-- R354. s SD gets s[SA] XOR the immediate. -/
  | xorImm (g : Guard) (sd : Nat) (sa : Nat) (imm : BitVec 32)
  /-- R356. s SD gets s[SA] shifted left by the immediate count. -/
  | shlImm (g : Guard) (sd : Nat) (sa : Nat) (imm : BitVec 32)
  /-- R356. s SD gets s[SA] shifted right logically by the immediate count. -/
  | shrImm (g : Guard) (sd : Nat) (sa : Nat) (imm : BitVec 32)
  /-- R356. s SD gets s[SA] shifted right arithmetically by the immediate count. -/
  | sarImm (g : Guard) (sd : Nat) (sa : Nat) (imm : BitVec 32)
  /-- R354. s SD gets the signed smaller of s[SA] and the immediate. -/
  | minImm (g : Guard) (sd : Nat) (sa : Nat) (imm : BitVec 32)
  /-- R354. s SD gets the signed larger of s[SA] and the immediate. -/
  | maxImm (g : Guard) (sd : Nat) (sa : Nat) (imm : BitVec 32)
  /-- R354. s SD gets the unsigned smaller of s[SA] and the sign-extended immediate. -/
  | minuImm (g : Guard) (sd : Nat) (sa : Nat) (imm : BitVec 32)
  /-- R354. s SD gets the unsigned larger of s[SA] and the sign-extended immediate. -/
  | maxuImm (g : Guard) (sd : Nat) (sa : Nat) (imm : BitVec 32)
  /-- R358. p[PD] gets the outcome of comparing s[SA] with the sign-extended immediate. -/
  | cmpImm (g : Guard) (c : Cond) (sa : Nat) (pd : Nat) (imm : BitVec 32)
  /-- R362. s SD gets a peer scratchpad pointer from the rank in s[SA] and the offset immediate. -/
  | sppeer (g : Guard) (sd : Nat) (sa : Nat) (imm : BitVec 32)
  /-- R361. s SD gets the bundle's address plus the sign-extended immediate. -/
  | addpc (g : Guard) (sd : Nat) (imm : BitVec 32)
  /-- R363. Loads a byte, half, word or doubleword from own or peer scratchpad into s SD, extended, or zero when out of range. -/
  | lds (g : Guard) (k : LdKind) (sd : Nat) (sa : Nat) (imm : BitVec 32)
  /-- R363. Stores the low bytes of s SD to own or peer scratchpad, or nothing when out of range. -/
  | sts (g : Guard) (k : StKind) (sd : Nat) (sa : Nat) (imm : BitVec 32)
  /-- R364. Translates a virtual address and issues a load from its home into s SD, checked at issue. -/
  | ldg (g : Guard) (k : LdKind) (sd : Nat) (sa : Nat) (imm : BitVec 32)
  /-- R364. Translates a virtual address and stores s SD at its home, as a posted write through a remote leaf. -/
  | stg (g : Guard) (k : StKind) (sd : Nat) (sa : Nat) (imm : BitVec 32)
  /-- R366. Branches to PC + disp × 8, closing loop levels it leaves. -/
  | br (g : Guard) (disp : BitVec 32)
  /-- R366. Branches when s[SA] is zero. -/
  | bz (g : Guard) (sa : Nat) (disp : BitVec 32)
  /-- R366. Branches when s[SA] is not zero. -/
  | bnz (g : Guard) (sa : Nat) (disp : BitVec 32)
  /-- R366. Branches when the top of the mask stack is all zeros. -/
  | brmz (g : Guard) (disp : BitVec 32)
  /-- R367. Pushes the return address, spilling if full, increments CALLDEPTH and transfers to the target. -/
  | call (g : Guard) (disp : BitVec 32)
  /-- R367. Calls the address held in s[SA]. -/
  | callr (g : Guard) (sa : Nat)
  /-- R367. Returns to the address taken from the return-address store or stack and closes deeper loop levels. -/
  | ret (g : Guard)
  /-- R366. Jumps to the address in s[SA]. -/
  | jr (g : Guard) (sa : Nat)
  /-- R368. Opens a hardware loop level of s[SA] passes over the body, or skips it when the count is zero. -/
  | loop (g : Guard) (sa : Nat) (disp : BitVec 32)
  /-- R368. Opens a hardware loop whose count is popped from the count queue. -/
  | loopq (g : Guard) (disp : BitVec 32)
  /-- R372. Performs QDRAIN and then ends the strand. -/
  | exit (g : Guard)
  /-- R360. s SD gets the 64-bit immediate of the second word. -/
  | li (g : Guard) (sd : Nat) (imm : BitVec 64)
  /-- R360. s SD gets s[SA] plus the 64-bit immediate. -/
  | addx (g : Guard) (sd : Nat) (sa : Nat) (imm : BitVec 64)
  /-- R360. s SD gets s[SA] AND the 64-bit immediate. -/
  | andx (g : Guard) (sd : Nat) (sa : Nat) (imm : BitVec 64)
  /-- R360. s SD gets s[SA] OR the 64-bit immediate. -/
  | orx (g : Guard) (sd : Nat) (sa : Nat) (imm : BitVec 64)
  /-- R373. s SD gets the value of a CSR. -/
  | csrr (g : Guard) (sd : Nat) (csr : Nat)
  /-- R373. Writes s[SA] into a writable CSR, with any behaviour the CSR defines. -/
  | csrw (g : Guard) (sa : Nat) (csr : Nat)
  /-- R373. Sets the bits of s[SA] in a writable CSR. -/
  | csrs (g : Guard) (sa : Nat) (csr : Nat)
  /-- R373. Clears the bits of s[SA] in a writable CSR. -/
  | csrc (g : Guard) (sa : Nat) (csr : Nat)
  /-- R378. Raises SOFTWARE_TRAP with the immediate in FAULTADDR. -/
  | trap (g : Guard) (imm : BitVec 16)
  /-- R378. Raises BREAKPOINT with the immediate in FAULTADDR. -/
  | brk (g : Guard) (imm : BitVec 16)
  /-- R379. Waits for node-homed prior writes and empties the core's instruction cache. -/
  | icinv (g : Guard)
  /-- R408. Appends the format word in s[SA] to the format queue. -/
  | fmtpush (g : Guard) (sa : Nat)
  /-- R332. Executes a pairable scalar operation and a pairable vector operation in one bundle under one guard. -/
  | pair (g : Guard) (sop : SOp) (sd : Nat) (sa : Nat) (sb : Nat) (vop : VOp) (vd : Nat) (va : Nat) (vb : Nat)
  /-- R384. Adds elements of vA and vB with the type's rounding or saturation. -/
  | vadd (g : Guard) (vd : Nat) (va : Nat) (vb : Nat) (ty : VType) (rnd : Rnd) (sat : Bool)
  /-- R384. Subtracts elements of vB from vA. -/
  | vsub (g : Guard) (vd : Nat) (va : Nat) (vb : Nat) (ty : VType) (rnd : Rnd) (sat : Bool)
  /-- R384. Multiplies elements of vA and vB. -/
  | vmul (g : Guard) (vd : Nat) (va : Nat) (vb : Nat) (ty : VType) (rnd : Rnd) (sat : Bool)
  /-- R384. Writes vA × vB + vC per element with one rounding or saturation. -/
  | vfma (g : Guard) (vd : Nat) (va : Nat) (vb : Nat) (vc : Nat) (ty : VType) (rnd : Rnd) (sat : Bool)
  /-- R384. Writes the smaller element of vA and vB. -/
  | vmin (g : Guard) (vd : Nat) (va : Nat) (vb : Nat) (ty : VType)
  /-- R384. Writes the larger element of vA and vB. -/
  | vmax (g : Guard) (vd : Nat) (va : Nat) (vb : Nat) (ty : VType)
  /-- R384. Writes the absolute value of each element. -/
  | vabs (g : Guard) (vd : Nat) (va : Nat) (ty : VType) (sat : Bool)
  /-- R384. Writes the negation of each element. -/
  | vneg (g : Guard) (vd : Nat) (va : Nat) (ty : VType) (sat : Bool)
  /-- R389. ANDs vA with vB over all 512 bytes. -/
  | vand (g : Guard) (vd : Nat) (va : Nat) (vb : Nat)
  /-- R389. ORs vA with vB over all 512 bytes. -/
  | vor (g : Guard) (vd : Nat) (va : Nat) (vb : Nat)
  /-- R389. XORs vA with vB over all 512 bytes. -/
  | vxor (g : Guard) (vd : Nat) (va : Nat) (vb : Nat)
  /-- R389. Inverts every bit of vA. -/
  | vnot (g : Guard) (vd : Nat) (va : Nat)
  /-- R389. Shifts each element of vA left by the matching element of vB. -/
  | vshl (g : Guard) (vd : Nat) (va : Nat) (vb : Nat) (ty : VType)
  /-- R389. Shifts each element right logically by the matching element of vB. -/
  | vshr (g : Guard) (vd : Nat) (va : Nat) (vb : Nat) (ty : VType)
  /-- R389. Shifts each element right arithmetically by the matching element of vB. -/
  | vsar (g : Guard) (vd : Nat) (va : Nat) (vb : Nat) (ty : VType)
  /-- R386. Writes all ones or zero per element from comparing vA with vB. -/
  | vcmp (g : Guard) (c : Cond) (vd : Nat) (va : Nat) (vb : Nat) (ty : VType)
  /-- R387. Selects vA or vB per element by whether vC's element is non-zero. -/
  | vsel (g : Guard) (vd : Nat) (va : Nat) (vb : Nat) (vc : Nat) (ty : VType)
  /-- R389. Copies vA to vD. -/
  | vmov (g : Guard) (vd : Nat) (va : Nat)
  /-- R390. Converts elements from the source type to the destination type with rounding and saturation. -/
  | vcvt (g : Guard) (vd : Nat) (va : Nat) (dst : VType) (src : VType) (rnd : Rnd) (sat : Bool)
  /-- R392. Writes the bit-exact EXP2 of each FP32 element. -/
  | vexp2 (g : Guard) (vd : Nat) (va : Nat)
  /-- R392. Writes the bit-exact LOG2 of each FP32 element. -/
  | vlog2 (g : Guard) (vd : Nat) (va : Nat)
  /-- R393. Writes the correctly rounded reciprocal of each element. -/
  | vrcp (g : Guard) (vd : Nat) (va : Nat) (ty : VType) (rnd : Rnd)
  /-- R393. Writes the correctly rounded reciprocal square root of each element. -/
  | vrsq (g : Guard) (vd : Nat) (va : Nat) (ty : VType) (rnd : Rnd)
  /-- R394. Writes the exact sum of enabled elements, rounded once, into every written element. -/
  | vredadd (g : Guard) (vd : Nat) (va : Nat) (ty : VType) (rnd : Rnd) (sat : Bool)
  /-- R394. Writes the largest enabled element into every written element. -/
  | vredmax (g : Guard) (vd : Nat) (va : Nat) (ty : VType)
  /-- R394. Writes the smallest enabled element into every written element. -/
  | vredmin (g : Guard) (vd : Nat) (va : Nat) (ty : VType)
  /-- R394. Writes the base-2 log-sum-exp of the enabled elements. -/
  | vlse2 (g : Guard) (vd : Nat) (va : Nat)
  /-- R395. Writes the exclusive prefix sum over enabled elements. -/
  | vscan (g : Guard) (vd : Nat) (va : Nat) (ty : VType) (sat : Bool)
  /-- R396. Adds counts of enabled index elements into 128 bins in vD's lanes. -/
  | vhist (g : Guard) (vd : Nat) (va : Nat) (ty : VType)
  /-- R397. Writes element k of vD as the element of vA indexed by vB[k], or 0. -/
  | vperm (g : Guard) (vd : Nat) (va : Nat) (vb : Nat) (ty : VType)
  /-- R397. Writes k modulo 2^w into element k. -/
  | viota (g : Guard) (vd : Nat) (ty : VType)
  /-- R394. Writes the largest magnitude among the enabled elements. -/
  | vamax (g : Guard) (vd : Nat) (va : Nat) (ty : VType)
  /-- R404. Writes the FP8 block scale of each FP32 element for E4M3 or E5M2. -/
  | vscale (g : Guard) (vd : Nat) (va : Nat) (ty : VType) (rnd : Rnd)
  /-- R402. Writes the block exponent emax of the enabled elements. -/
  | vbexp (g : Guard) (vd : Nat) (va : Nat)
  /-- R403. Converts FP32 elements to BI32 mantissas under per-lane exponents. -/
  | vtobi (g : Guard) (vd : Nat) (va : Nat) (vb : Nat)
  /-- R403. Converts BI32 mantissas back to FP32 under per-lane exponents. -/
  | vfrombi (g : Guard) (vd : Nat) (va : Nat) (vb : Nat) (rnd : Rnd) (sat : Bool)
  /-- R388. Pushes a mask of non-zero lanes of vA ANDed with the top mask. -/
  | mpush (g : Guard) (va : Nat)
  /-- R220. Replaces the top mask with its complement ANDed with the mask below. -/
  | minv (g : Guard)
  /-- R220. Pops the mask stack. -/
  | mpop (g : Guard)
  /-- R383. Adds a scalar register or immediate to every element of vA. -/
  | vaddScalar (g : Guard) (vd : Nat) (va : Nat) (b : SOperand) (ty : VType) (rnd : Rnd) (sat : Bool)
  /-- R383. Subtracts a scalar register or immediate from every element of vA. -/
  | vsubScalar (g : Guard) (vd : Nat) (va : Nat) (b : SOperand) (ty : VType) (rnd : Rnd) (sat : Bool)
  /-- R383. Multiplies every element of vA by a scalar register or immediate. -/
  | vmulScalar (g : Guard) (vd : Nat) (va : Nat) (b : SOperand) (ty : VType) (rnd : Rnd) (sat : Bool)
  /-- R383. Writes the smaller of each element and a scalar value. -/
  | vminScalar (g : Guard) (vd : Nat) (va : Nat) (b : SOperand) (ty : VType)
  /-- R383. Writes the larger of each element and a scalar value. -/
  | vmaxScalar (g : Guard) (vd : Nat) (va : Nat) (b : SOperand) (ty : VType)
  /-- R389. ANDs each element with a scalar value. -/
  | vandScalar (g : Guard) (vd : Nat) (va : Nat) (b : SOperand) (ty : VType)
  /-- R389. ORs each element with a scalar value. -/
  | vorScalar (g : Guard) (vd : Nat) (va : Nat) (b : SOperand) (ty : VType)
  /-- R389. XORs each element with a scalar value. -/
  | vxorScalar (g : Guard) (vd : Nat) (va : Nat) (b : SOperand) (ty : VType)
  /-- R389. Shifts each element left by a scalar count. -/
  | vshlScalar (g : Guard) (vd : Nat) (va : Nat) (b : SOperand) (ty : VType)
  /-- R389. Shifts each element right logically by a scalar count. -/
  | vshrScalar (g : Guard) (vd : Nat) (va : Nat) (b : SOperand) (ty : VType)
  /-- R389. Shifts each element right arithmetically by a scalar count. -/
  | vsarScalar (g : Guard) (vd : Nat) (va : Nat) (b : SOperand) (ty : VType)
  /-- R386. Compares each element with a scalar value, writing all ones or zero. -/
  | vcmpScalar (g : Guard) (c : Cond) (vd : Nat) (va : Nat) (b : SOperand) (ty : VType)
  /-- R398. Writes a scalar register or immediate into every element. -/
  | vbcast (g : Guard) (vd : Nat) (b : SOperand) (ty : VType)
  /-- R399. Loads 512 bytes from own or peer scratchpad into the enabled lanes of vD. -/
  | vld (g : Guard) (vd : Nat) (sb : Nat) (imm : BitVec 12)
  /-- R399. Stores the enabled lanes of vD to 512 bytes of own or peer scratchpad. -/
  | vst (g : Guard) (vd : Nat) (sb : Nat) (imm : BitVec 12)
  /-- R400. Gathers one 32-bit element per enabled lane from scratchpad addresses indexed by vA. -/
  | vldx (g : Guard) (vd : Nat) (va : Nat) (sb : Nat) (imm : BitVec 12)
  /-- R400. Scatters one 32-bit element per enabled lane to scratchpad addresses indexed by vA. -/
  | vstx (g : Guard) (vd : Nat) (va : Nat) (sb : Nat) (imm : BitVec 12)
  /-- R398. Writes one element of vA, extended, into s[SB]. -/
  | vextr (g : Guard) (sb : Nat) (va : Nat) (lane : Nat) (ty : VType)
  /-- R398. Writes the low bits of s[SB] into one element of vD under the mask. -/
  | vins (g : Guard) (vd : Nat) (sb : Nat) (lane : Nat) (ty : VType)
  /-- R411. Fills half of the shadow weight plane per iteration from scratchpad or the resident bedrock copy. -/
  | ldw (g : Guard) (sa : Nat) (bed : Bool) (e : ECtl) (ts : Bool)
  /-- R412. Exchanges the active and shadow weight planes after earlier LDW and MM complete. -/
  | wswap (g : Guard) (e : ECtl) (ts : Bool)
  /-- R413. Multiplies a 32-row activation block against the active plane into a tile with its bound format word and scales. -/
  | mm (g : Guard) (td : Nat) (sa : Nat) (clr : Bool) (e : ECtl) (ts : Bool)
  /-- R414. Runs up to 64 groups, each loading its own plane and multiplying its rows into one tile. -/
  | mgroup (g : Guard) (td : Nat) (sa : Nat) (sb : Nat) (sc : Nat) (e : ECtl) (ts : Bool)
  /-- R415. Zeroes accumulator tiles. -/
  | accz (g : Guard) (td : Nat) (e : ECtl) (ts : Bool)
  /-- R415. Loads a tile's raw 32-bit elements from 16 KiB of scratchpad. -/
  | accld (g : Guard) (td : Nat) (sa : Nat) (e : ECtl) (ts : Bool)
  /-- R417. Drains tile rows to scratchpad under a descriptor, converting, rounding or requantising. -/
  | accwr (g : Guard) (td : Nat) (sa : Nat) (sb : Nat) (e : ECtl) (ts : Bool)
  /-- R419. Sets up a plan configuration on accumulator group 0 or 1, or drops it. -/
  | plnset (g : Guard) (td : Nat) (sa : Nat) (e : ECtl) (ts : Bool)
  /-- R420. Loads 32 kernel rows per iteration into the plan tiles, checking each element. -/
  | plnld (g : Guard) (td : Nat) (sa : Nat) (e : ECtl) (ts : Bool)
  /-- R421. Loads the row and column marginals of the plan. -/
  | margset (g : Guard) (sa : Nat) (sb : Nat) (e : ECtl) (ts : Bool)
  /-- R422. Runs Sinkhorn sweeps in the log2 domain until the residual meets the tolerance or the sweep limit. -/
  | balance (g : Guard) (sa : Nat) (e : ECtl) (ts : Bool)
  /-- R423. Writes 32 rows of plan entries per iteration to scratchpad as FP32. -/
  | plnrd (g : Guard) (td : Nat) (sa : Nat) (e : ECtl) (ts : Bool)
  /-- R424. Writes the row scales, column scales, SWEEPS and RESIDUAL to scratchpad. -/
  | plnscl (g : Guard) (sa : Nat) (sb : Nat) (e : ECtl) (ts : Bool)
  /-- R429. Copies memory bytes from any home into own scratchpad, counting on a barrier object. -/
  | cpin (g : Guard) (sd : Nat) (sa : Nat) (sl : Nat) (sbr : Nat) (e : ECtl)
  /-- R429. Appends FP32 scales from memory to the scale FIFO, promising them at issue. -/
  | cpinScl (g : Guard) (sa : Nat) (sl : Nat) (e : ECtl)
  /-- R429. Appends 32-bit values from scratchpad to the count queue. -/
  | cqfill (g : Guard) (sa : Nat) (sl : Nat) (e : ECtl)
  /-- R430. Gathers rows from memory into own scratchpad through an index table. -/
  | cpgath (g : Guard) (sd : Nat) (sa : Nat) (sl : Nat) (sbr : Nat) (e : ECtl)
  /-- R429. Fills own scratchpad bytes with an 8-byte pattern. -/
  | cpfill (g : Guard) (sd : Nat) (sa : Nat) (sl : Nat) (sbr : Nat) (e : ECtl)
  /-- R429. Copies bytes from own or peer scratchpad into own scratchpad. -/
  | cploc (g : Guard) (sd : Nat) (sa : Nat) (sl : Nat) (sbr : Nat) (e : ECtl)
  /-- R431. Copies own scratchpad bytes to a virtual destination, counting through a destination handle. -/
  | cpout (g : Guard) (sd : Nat) (sa : Nat) (sl : Nat) (sbr : Nat) (e : ECtl)
  /-- R431. Copies own scratchpad bytes into own or a peer's scratchpad, counting at the peer's object. -/
  | cppeer (g : Guard) (sd : Nat) (sa : Nat) (sl : Nat) (sbr : Nat) (e : ECtl)
  /-- R432. Writes own scratchpad bytes at one virtual address on every node of a multicast box. -/
  | cpmc (g : Guard) (sd : Nat) (sa : Nat) (sl : Nat) (sbr : Nat) (e : ECtl)
  /-- R430. Scatters own scratchpad rows to memory through an index table. -/
  | cpscat (g : Guard) (sd : Nat) (sa : Nat) (sl : Nat) (sbr : Nat) (e : ECtl)
  /-- R431. Copies bytes between two virtual memory ranges. -/
  | cpmem (g : Guard) (sd : Nat) (sa : Nat) (sl : Nat) (sbr : Nat) (e : ECtl)
  /-- R436. Issues an atomic read-modify-write at the home of a virtual address, with optional release or acquire. -/
  | amo (g : Guard) (op : AmoOp) (ord : Ord) (w : AWid) (scope : Nat) (sd : Nat) (sa : Nat) (sb : Nat) (imm : BitVec 12)
  /-- R437. Issues an atomic compare-and-swap at the home of a virtual address. -/
  | amocas (g : Guard) (ord : Ord) (w : AWid) (scope : Nat) (sd : Nat) (sa : Nat) (sb : Nat) (sc : Nat) (imm : BitVec 12)
  /-- R291. Waits for earlier waits and prior reads within the scope, ordering later accesses after them. -/
  | fenceAcq (g : Guard) (scope : Nat)
  /-- R291. Waits until prior writes within the scope are acknowledged and prior reads performed. -/
  | fenceRel (g : Guard) (scope : Nat)
  /-- R291. Waits for both the acquire and release conditions within the scope. -/
  | fenceFull (g : Guard) (scope : Nat)
  /-- R290. Waits until prior writes homed within the scope are performed and acknowledged. -/
  | flush (g : Guard) (scope : Nat)
  /-- R216. Stalls until the named engine queues are empty and their last commands complete. -/
  | qfence (g : Guard) (qs : BitVec 3)
  /-- R216. Stalls until the vector unit and all engines complete and every send is acknowledged. -/
  | qdrain (g : Guard)
  /-- R215. Increments token channel 0 or 7, stalling at 15. -/
  | tkpush (g : Guard) (s7 : Bool)
  /-- R215. Waits for token channel 4 or 3 to be non-zero and decrements it. -/
  | tkpop (g : Guard) (s7 : Bool)
  /-- R439. Waits for OUTBOUND zero, then writes a barrier object with its expected arrivals and generation. -/
  | binit (g : Guard) (sa : Nat) (sb : Nat) (sc : Nat)
  /-- R440. Adds an expected byte count to INBOUND, possibly flipping the object. -/
  | bexpect (g : Guard) (sa : Nat) (sb : Nat)
  /-- R441. Releases at the scope, then sends one stamped arrival to an own or peer barrier object. -/
  | barrive (g : Guard) (scope : Nat) (sa : Nat) (sb : Nat)
  /-- R442. Waits for a barrier object's generation to pass g and sets stale and error predicates. -/
  | bwait (g : Guard) (ps : Nat) (pe : Nat) (sa : Nat) (sb : Nat)
  /-- R443. Stalls until OUTBOUND of an object is zero or its failed sends are subtracted. -/
  | bwaitout (g : Guard) (sa : Nat)
  /-- R444. Writes the team, rank and offset handle of a barrier object into s SD. -/
  | bhandle (g : Guard) (sd : Nat) (sa : Nat)
  /-- R445. Puts a 64-byte record into an output queue of the strand's stage, waiting for room and publishing after a node release. -/
  | qput (g : Guard) (sa : Nat) (q : Nat)
  /-- R446. Releases at the scope, then adds a value to a semaphore of the strand's pipeline. -/
  | semsig (g : Guard) (scope : Nat) (sa : Nat) (sb : Nat)
  /-- R186. Adds a count to LOAD of a capacity entry, saturating. -/
  | capadd (g : Guard) (sa : Nat) (sb : Nat)
  /-- R186. Returns LIMIT of a capacity entry. -/
  | capget (g : Guard) (sd : Nat) (sa : Nat)
  /-- R186. Updates EWMA and LIMIT of every capacity entry in one step and zeroes LOAD. -/
  | capupd (g : Guard)
  /-- R448. Appends s[SA] to the count queue. -/
  | cqpush (g : Guard) (sa : Nat)
  /-- R448. In a timed team, appends rank 0's value to every member's count queue at one schedule-counter value. -/
  | cqpushTeam (g : Guard) (sa : Nat)
  /-- R449. Builds a pebble image in own scratchpad from a template, slot registers and payload. -/
  | pbuild (g : Guard) (sd : Nat) (sa : Nat) (sb : Nat) (sc : Nat) (imm : BitVec 12)
  /-- R450. Injects a pebble image toward a node through a named exit or the turn list, counting on OUTBOUND. -/
  | psend (g : Guard) (sa : Nat) (sb : Nat) (sc : Nat) (dir : Nat)
  /-- R451. Reads a window word of a tenant of this node's router into s SD. -/
  | rwld (g : Guard) (sd : Nat) (sa : Nat) (imm : BitVec 12)
  /-- R451. Writes s[SB] as a whole window word of a tenant of this node's router. -/
  | rwst (g : Guard) (sa : Nat) (sb : Nat) (imm : BitVec 12)
  /-- R52. Assertion of module reset holds the module in the RESET phase, clears every flow state and reruns bring-up from the start. -/
  | moduleReset
  /-- R152. Release of module reset makes the security processor verify every firmware image before any other unit leaves reset. -/
  | resetRelease
  /-- R152. Completion of firmware verification ends the RESET phase, or enters FAILED with FAILUNIT 0x10 and FAILCODE 0x04. -/
  | firmwareVerified
  /-- R50. The security processor verifies both configuration areas, applies the valid one with the larger SEQ and sets CFG_APPLIED, or fails bring-up with FAILUNIT 0xF0. -/
  | configApply
  /-- R52. Training of every PHY except the torus ports and calibration of bedrock refresh complete, setting CAL_DONE and starting MEMINIT. -/
  | calDone
  /-- R53. The last zero write to all HBM stacks completes with valid check bits and HBM_READY sets. -/
  | hbmReady
  /-- R53. The last zero write to all LP tier channels completes with valid check bits and LP_READY sets. -/
  | lpReady
  /-- R53. Zero fill of the bedrocks, scratchpads, synchronisation SRAMs, router SRAM and register files completes and BEDROCK_READY sets. -/
  | bedrockReady
  /-- R54. A rail fault enters FAILED with FAILCODE 0x03 naming the unit the rail feeds, stopping all work and taking the ports down. -/
  | railFault
  /-- R54. A unit that can no longer serve in READY enters FAILED with FAILCODE 0x06 and stops the scheduler, cores and router. -/
  | unitFailed
  /-- R44. A UCIe link that exhausts its retries is marked failed in the die's error-log ring and its traffic is routed through the hub die. -/
  | ucieLinkFailed
  /-- R48. The power manager lowers or raises the arithmetic clock of all compute dies together by 25 MHz to keep the draw within the limit. -/
  | clockStep
  /-- R58. A torus port finishes training with a live neighbour, sets its FABRIC_READY bit and raises PORT_UP to the host. -/
  | portUp
  /-- R58. A flit failing 16 consecutive link retries takes its port down, clears FABRIC_READY, discards its output buffers and raises PORT_DOWN. -/
  | portDown
  /-- R84. The package gateway takes a request from a die gateway, splits it into packets, sets ORD, CIPHER and STREAM, numbers SEQ, chooses a turn list, seals and stores a copy. -/
  | packageGatewayEgress
  /-- R66. A router handles an arriving non-pebble packet by its front segment, ejecting, multicasting, forwarding with a shifted turn list, or answering MISROUTE or LINK_DOWN. -/
  | routePacket
  /-- R71. A copy of a multicast packet goes out on a branch of its residual mask once that branch has credits for the whole packet. -/
  | multicastBranch
  /-- R74. The target's package gateway classifies an arriving sequenced request against its flow window, opens it if sealed and passes accepted requests through the ingress MMU checks. -/
  | ingressRequest
  /-- R79. An accepted WRITE is performed at the home of its bytes, counted on a named barrier object if BV is set, and acknowledged. -/
  | writePacket
  /-- R79. An accepted READ is performed at its home and answered with READRESP, or NACK POISON. -/
  | readPacket
  /-- R131. An accepted AMO is performed in one atomic step by the home's synchronisation engine and answered with AMORESP holding the old value. -/
  | amoPacket
  /-- R79. A FLUSH is answered with FLUSHACK once every lower-numbered request of its flow is performed or NACKed. -/
  | flushPacket
  /-- R86. An arriving EVENT packet places its event record in the ring of the partition that owns the tenant, or the management ring if unknown. -/
  | eventPacket
  /-- R471. The requester's gateway matches a READRESP by flow and SEQ and completes the read. -/
  | readResp
  /-- R134. The requester's gateway matches an AMORESP by flow and SEQ, completes the request on the first reply and discards later ones. -/
  | amoResp
  /-- R79. An ACK acknowledges the requests its ACKMAP covers, freeing retransmission copies and counting multicast acknowledgements. -/
  | ackPacket
  /-- R80. A NACK is handled by code: RETRY and LINK_DOWN are handled by the gateway, any other code fails the request and raises its event and error. -/
  | nackPacket
  /-- R79. A FLUSHACK acknowledges every earlier request of the flow that its ACKMAP covers and completes the flush. -/
  | flushAck
  /-- R79. Held acknowledgements are sent, merged into one ACKMAP, when their 2 µs hold ends. -/
  | ackHoldExpiry
  /-- R76. A sequenced request unanswered for 32 µs is resent with the same SEQ on the next list, failing with RETRY_EXHAUSTED after 7 retransmissions. -/
  | retransmit
  /-- R143. After its back-off a request answered RETRY is resent as a new request with a new SEQ, failing on the 32nd RETRY. -/
  | retryBackoff
  /-- R142. A request held 4 µs in the ingress hold buffer is answered RETRY and the page's fault record is posted. -/
  | holdTimeout
  /-- R127. A combined-atomic AMO of level 0 or 1 arriving at a router joins an open slot, opens one as holder, or is forwarded and recorded in the recent-address table. -/
  | combiningArrival
  /-- R128. A combining slot closes 256 ns after opening or at 8 children and forwards its holder or one combined request. -/
  | combiningSlotClose
  /-- R129. A decombining record not consumed within 64 µs of its slot's closing is freed. -/
  | decombiningRecordExpiry
  /-- R133. A router receiving a combined reply sends each leaf and inner group its own reply, from the record or the echoed list. -/
  | decombine
  /-- R69. A pebble or clone copy whose exit is down or has given no credit for 20 µs parks with NO_LINK. -/
  | pebbleExitTimeout
  /-- R95. A whole pebble arriving at a router is run by a pebble engine from its PC under its tenant's entry, or discarded if malformed or parked as UNKNOWN_TENANT. -/
  | pebbleVisit
  /-- R95. A visit that reaches a 33rd instruction parks the pebble with STEP_BUDGET. -/
  | stepBudget
  /-- R121. Ends the visit and discards the pebble without event or count. -/
  | kill
  /-- R113. Pushes a copy of the top of the stack. -/
  | dup
  /-- R113. Exchanges the top two stack entries. -/
  | swap
  /-- R113. Pops and discards the top of the stack. -/
  | pebbleDrop
  /-- R114. Pops b and a and pushes a + b modulo 2^64. -/
  | pebbleAdd
  /-- R114. Pops b and a and pushes a - b modulo 2^64. -/
  | pebbleSub
  /-- R114. Pops b and a and pushes their bitwise and. -/
  | pebbleAnd
  /-- R114. Pops b and a and pushes their bitwise or. -/
  | pebbleOr
  /-- R114. Pops b and a and pushes their exclusive or. -/
  | pebbleXor
  /-- R114. Pops a signed count b and value a and pushes a shifted left or logically right, or 0 out of range. -/
  | pebbleShl
  /-- R114. Pops b and a and pushes 1 if equal, else 0. -/
  | pebbleCmpeq
  /-- R114. Pops b and a and pushes 1 if a < b signed, else 0. -/
  | pebbleCmplt
  /-- R116. Pops a window offset and pushes the tenant's window word there. -/
  | ldr
  /-- R116. With ATOM, pops a value and offset, adds the value to the window word atomically and pushes the old word. -/
  | addr
  /-- R118. Pushes HOPS as the pebble arrived. -/
  | hop
  /-- R107. Ends the visit by writing the slots and payload into the target strand's scratchpad and counting them on its barrier object. -/
  | deliver
  /-- R121. Parks the pebble with code VOLUNTARY. -/
  | park
  /-- R189. The scheduler takes the next pending event, freezes a snapshot and runs the active policy, or the fallback, for it. -/
  | slateInvocation
  /-- R193. An instruction that would take the invocation past 2,048 policy cycles is not executed and the invocation ends abnormally with cause BUDGET. -/
  | budget
  /-- R190. Every 100 µs a TICK event is raised, or added to a pending TICK's count. -/
  | tick
  /-- R199. Between invocations a loaded standby image becomes active, m-words are kept or zeroed, state clears and a SWAP event is queued first. -/
  | slateSwap
  /-- R206. Closes a pass of the innermost loop, returning to its start or leaving it. -/
  | endl
  /-- R209. Ends the invocation normally and has the scheduler apply the decision list in order. -/
  | slateRet
  /-- R173. Once record copies, extent tables, team map and any image load are in place, each strand exchanges contexts and starts at ENTRY. -/
  | strandStart
  /-- R180. When every engine of a stopped team has finished, each strand's state is written to its save-area block and the cores are freed. -/
  | teamSave
  /-- R184. A restored team's state is written back to new cores, its held-access logs are applied and every strand resumes at its saved PC. -/
  | teamRestore
  /-- R171. A ready head record with ROWS 0 and SKIP_IF_ZERO is retired, adding SIGADD to its semaphore without dispatching a team. -/
  | recordRetire
  /-- R176. When every strand has passed EXIT and every posted write is acknowledged, SIGADD is added to the semaphore and the cores are freed. -/
  | taskCompletion
  /-- R160. A running task exceeding its stage's QUANTUM raises a PREEMPT event with reason 1. -/
  | quantumExpiry
  /-- R177. A fault in a strand stops it, increments the stage's fault count and raises a FAULT event while the team holds its cores. -/
  | strandFault
  /-- R211. An engine takes the command at the head of its queue once its token waits are met and begins an iteration. -/
  | engineCommandBegin
  /-- R215. An engine iteration completes its last effect on the core's state and gives its token signals. -/
  | engineCommandComplete
  /-- R302. An uncorrectable error or poison operand in the matrix engine discards the window's tiles and reruns the window from its tile-start command. -/
  | replay
  /-- R243. A bedrock bank group enters its 96-cycle refresh window at its phase of each 4,096-cycle period. -/
  | bedrockRefresh
  /-- R260. An access held on a STALE extent is re-translated by the table walker and then proceeds or faults. -/
  | retranslation
  /-- R265. When every translation agent and cache has acknowledged, a shoot-down completes and signals its semaphore unless deferred. -/
  | shootdownComplete
  /-- R271. A page reaching a migration threshold enters the move table, is invalidated, shot down and copied to its new frame. -/
  | migrationMove
  /-- R271. When a page copy is done the new PTEs are written, the page leaves the move table and held accesses are walked again. -/
  | moveComplete
  /-- R304. The first write to a copy-on-write page after SNAPARM is held, the page copied to a pool frame and the live leaf moved to the copy. -/
  | copyOnWrite
  /-- R145. A host read of module memory is checked, translated and performed or proxied, and completed with data or an error code. -/
  | mread
  /-- R145. A host write to module memory is checked, translated and performed or proxied, and completed OK or with an error code. -/
  | mwrite
  /-- R469. A host read of a management register returns its value or MALFORMED. -/
  | mgmtrd
  /-- R469. A host write to a management register with no behaviour of its own is accepted, ignored, refused or answered MALFORMED by the access rules. -/
  | mgmtwr
  /-- R162. A write to a pipeline descriptor's ENABLE sets it after validating the pipeline, or clears it, stopping dispatch and retirement. -/
  | pipelineEnable
  /-- R148. A host write to an event ring's CONS re-arms the ring and sends another EVENT message at once if records remain. -/
  | cons
  /-- R305. A host write to an error-log ring's ELCONS re-arms the ring's EVENT message. -/
  | elcons
  /-- R147. A doorbell write sets a host-fed queue's tail and raises DISPATCH, or is refused. -/
  | doorbell
  /-- R148. The module sends an EVENT message for a ring after writing the record and advancing PROD, with at most one outstanding per ring. -/
  | eventMessage
  /-- R150. Moves a FREE partition to BUILDING. -/
  | pcreate
  /-- R150. Adds a free resource unit to a BUILDING partition. -/
  | passign
  /-- R150. Clears a unit of a BUILDING partition and frees it. -/
  | prelease
  /-- R150. Makes a BUILDING partition with a policy processor, cluster and HBM group ACTIVE, zeroing semaphores and capacity tables. -/
  | pstart
  /-- R151. Clears ASIDs, stops dispatch, closes windows, empties keys and tenants, zeroes every unit and frees the partition. -/
  | pdestroy
  /-- R470. Writes a whole valid ASID entry for an active partition. -/
  | asidset
  /-- R470. Zeroes a partition's ASID entry and discards its cached translations. -/
  | asidclr
  /-- R470. Binds a held tenant entry to a tenant with a mask, zeroing it, or replaces the mask of an entry already bound. -/
  | tenset
  /-- R470. Releases a bound tenant entry, discarding its parked pebbles. -/
  | tenclr
  /-- R470. Zeroes a tenant entry's counters or its discard counter. -/
  | tenzero
  /-- R470. Writes a free registration window's fields and sets it open. -/
  | openWindow
  /-- R140. Sets an open registration window closing in one step with respect to every window check. -/
  | closeWindow
  /-- R140. Zeroes a closed registration window and sets it free. -/
  | freeWindow
  /-- R106. Restarts a parked pebble with a new visit at a given pc and budget and frees its entry. -/
  | resumeParked
  /-- R106. Sends a parked pebble out through a given exit with a new budget, without the OFFLIST check. -/
  | redirectParked
  /-- R106. Discards a parked pebble and frees its entry. -/
  | dropParked
  /-- R179. Queues a PREEMPT event with reason 2 for a running team of an active partition. -/
  | preemptreq
  /-- R198. Validates a slate image and copies it into the standby slot, setting SWAPPEND. -/
  | sload
  /-- R255. Zeroes a frame and installs it as a page table at level 1 or 2. -/
  | tableCmd
  /-- R255. Writes a leaf PTE, zeroing a local frame unless keep, and replays held and stalled accesses to the page. -/
  | mapCmd
  /-- R255. Invalidates PTEs of pages and shoots them down, signalling a semaphore. -/
  | unmap
  /-- R255. Rewrites attribute bits of valid leaves and shoots them down. -/
  | protect
  /-- R255. Gives unmapped frames of the partition to its migration pool of a tier. -/
  | mpool
  /-- R273. Ends a settled page's settlement, setting MIG and resetting its move count. -/
  | migclr
  /-- R274. Increments a pipeline's CODEGEN. -/
  | codebump
  /-- R304. Copies an ASID's tables into a frozen tree at one instant and makes writable local leaves copy-on-write. -/
  | snaparm
  /-- R304. Atomically flips SEL to the new tree, ends copy-on-write, frees the superseded tree and signals a semaphore. -/
  | snapcommit
  /-- R304. Ends copy-on-write and frees the frozen tree, leaving SEL unchanged. -/
  | snapdrop
  /-- R154. Unwraps a tenant's key blob into an EMPTY key slot, making it RECEIVE with SEALCNT 0. -/
  | keyload
  /-- R155. Makes a RECEIVE key slot ACTIVE and demotes any other ACTIVE slot of the same PART, PEER and PANY. -/
  | promote
  /-- R155. Makes a key slot EMPTY. -/
  | retire
  /-- R153. Returns an attestation report over a nonce and partition, signed by the identity key. -/
  | attest
  /-- R213. The data of an outstanding LDS, LDG, VLD, VLDX or RWLD returns and is written, or its failure is raised at the first bundle that needs it. -/
  | loadReturn
  /-- R372. When EXIT's drain completes without failure the strand ends and issues nothing more. -/
  | strandEnd
  /-- R436. An atomic's old value returns and is written to s SD, or its failure is raised at the first bundle that needs it. -/
  | amoReturn
  /-- R291. A waiting fence's conditions are met and later bundles issue. -/
  | fenceDone
  /-- R290. A waiting FLUSH's writes are all acknowledged and later bundles issue. -/
  | flushDone
  /-- R216. The named queues drain and the stalled sequencer resumes. -/
  | qfenceDone
  /-- R216. Everything issued before a QDRAIN has completed and been acknowledged, and issue resumes. -/
  | qdrainDone
  /-- R215. A waiting TKPOP finds its channel non-zero, decrements it and issue resumes. -/
  | tkpopDone
  /-- R441. A sent arrival is applied, held or logged, and the issuing strand resumes. -/
  | barriveApplied
  /-- R231. A waiting BWAIT sees its object's GEN change and re-evaluates, returning or faulting. -/
  | bwaitWake
  /-- R230. OUTBOUND reaches zero and the stalled sequencer resumes. -/
  | bwaitoutDone
  /-- R168. A waiting QPUT finds room, reserves slot TAIL and writes its record. -/
  | qputReserve
  /-- R168. After its release completes the QPUT publishes its slot in order and issue resumes. -/
  | qputPublish
  /-- R64. A downstream channel returns credits flit by flit, letting a packet, pebble or clone copy that waited for credits for its whole length be sent. -/
  | creditReturn
  /-- R431. An in-package write from a copy engine or peer store arrives at its home over the die network, is performed or logged, counted at its destination barrier object and subtracted from OUTBOUND. -/
  | inPackageWrite
  /-- R446. The semaphore addition of a SEMSIG is performed at the scheduler and the held sequencer resumes issue. -/
  | semsigDone
  /-- R447. The LIMIT value read by a CAPGET returns from the scheduler and is written to s SD. -/
  | capgetReturn
  /-- R379. The node-homed writes of an ICINV's prior set have been performed, the instruction cache is emptied and issue resumes. -/
  | icinvDone
  /-- R266. A core is power-gated and its extents are cleared. -/
  | corePowerGate
  /-- R266. A debugger halts a core, leaving its die's translation agent running to acknowledge shoot-downs for it. -/
  | debugHalt
  deriving DecidableEq, Repr

end Sys2Proof
end

