-- ==== Sys2Proof/WellFormed.lean ====
section
/-!
DEFINITION. Which instructions are well-formed: the limits chapter 14 puts on the fields of a core word (R350), R112 on a
pebble word and R201 on a slate word. Steps that have no word are well-formed as they stand.
-/
namespace Sys2Proof

/-- The guard (!p0) is reserved (R330). -/
def Guard.ok (g : Guard) : Bool := decide (g.p < 8) && !(g.p == 0 && g.neg)

/-- A scalar register number. -/
def sOk (r : Nat) : Bool := decide (r < 64)
/-- A vector register number (R350). -/
def vOk (r : Nat) : Bool := decide (r < 640)
/-- A predicate number. -/
def pOk (r : Nat) : Bool := decide (r < 8)
/-- A predicate destination: never p0 (R334). -/
def pdOk (r : Nat) : Bool := decide (0 < r) && decide (r < 8)
/-- A tile number. -/
def tOk (r : Nat) : Bool := decide (r < 8)
/-- A scope level (R278). -/
def scOk (r : Nat) : Bool := decide (r < 16)

/-- Token, repeat and step fields (R344). -/
def ECtl.ok (e : ECtl) : Bool := decide (e.rep < 256)
/-- A command marked no in the Rep column of R345. -/
def ECtl.noRep (e : ECtl) : Bool := e.rep == 0 && e.step == 0#12

/-- The floating types F of R381. -/
def VType.isF : VType → Bool
  | .f32 | .bf16 => true
  | _ => false
/-- The integer types I of R381. -/
def VType.isI : VType → Bool
  | .i8 | .ui8 | .i16 | .i32 => true
  | _ => false
/-- The signed integer types. -/
def VType.isS : VType → Bool
  | .i8 | .i16 | .i32 => true
  | _ => false
/-- The two 8-bit floating types. -/
def VType.isF8 : VType → Bool
  | .e4m3 | .e5m2 => true
  | _ => false
/-- The element width w of R380. -/
def VType.bits : VType → Nat
  | .f32 | .i32 => 32
  | .bf16 | .i16 => 16
  | .e4m3 | .e5m2 | .i8 | .ui8 => 8
/-- The element count N of R380. -/
def VType.count (t : VType) : Nat := 4096 / t.bits

/-- Types, rounding and saturation of VADD, VSUB, VMUL, VFMA and VREDADD (R381). -/
def arithOk (t : VType) (r : Rnd) (sat : Bool) : Bool :=
  (t.isF && r != .rsr && !sat) || (t.isI && r == .rne)
/-- Types of VMIN, VMAX, VCMP, VREDMAX and VREDMIN (R381). -/
def fiOk (t : VType) : Bool := t.isF || t.isI
/-- Types and saturation of VABS and VNEG (R381). -/
def absOk (t : VType) (sat : Bool) : Bool := (t.isF && !sat) || t.isS
/-- VCMP takes ltu and geu with integer types only (R386). -/
def cmpOk (c : Cond) (t : VType) : Bool := fiOk t && !(t.isF && (c == .ltu || c == .geu))
/-- The second operand of class 0x5 with a type (R343). -/
def SOperand.ok (b : SOperand) (t : VType) : Bool :=
  match b with
  | .reg r => sOk r
  | .imm _ => !t.isF
/-- What VCVT accepts (R391). Types of one width with another layout (.e4m3 and .e5m2, .i16 and .bf16 …) follow the
rounding row when the destination floats (log 20, DEDUCED). -/
def cvtOk (d s : VType) (r : Rnd) (sat : Bool) : Bool :=
  if d == s then false
  else if d.isI then
    if s.isI then r == .rne else r != .rsr && !sat
  else if !s.isI && decide (s.bits < d.bits) then r == .rne && !sat
  else r != .rsr || d != .f32

/-- The widths each operation of AMO accepts (R435). -/
def amoOk (op : AmoOp) (w : AWid) : Bool :=
  match op, w with
  | .swap, _ => true
  | .fadd, .f32 => true
  | .fadd, _ => false
  | _, .f32 => false
  | _, _ => true
/-- An atomic without a modifier holds SCOPE = 0 (R347). -/
def ordOk (o : Ord) (scope : Nat) : Bool := scOk scope && (o != .none || scope == 0)

/-- CSR numbers that a strand may read (R374). -/
def csrReadable (n : Nat) : Bool :=
  decide (n ≤ 0x00E) || (decide (0x010 ≤ n) && decide (n ≤ 0x012)) || (decide (0x020 ≤ n) && decide (n ≤ 0x022)) ||
  (decide (0x030 ≤ n) && decide (n ≤ 0x041))
/-- CSR numbers that a strand may write (R374). -/
def csrWritable (n : Nat) : Bool :=
  n == 0x006 || n == 0x007 || n == 0x008 || n == 0x009 || n == 0x00E || n == 0x012

/-- Router directions of PSEND (R349, R60). -/
def dirOk (d : Nat) : Bool := decide (d < 8) && d != 6

/-- Well-formed: an instruction whose word exists (R350, R112, R201). -/
def WellFormed (i : Instr) : Bool :=
  match i with
  | .pushk n => decide (n < 4)
  | .popk n => decide (n < 4)
  | .addk n => decide (n < 4)
  | .ctr n => decide (n < 256)
  | .ctrinc n => decide (n < 256)
  | .coord sel => decide (sel < 3)
  | .loadCount d => decide (d < 6)
  | .fwd d => dirOk d
  | .clone m => m != 0#6
  | .ldv d a x k c => (x || a == 0) && decide (d < 16) && decide (a < 16) && decide (k < 64) && decide (c < 2048)
  | .ldm d a x c => (x || a == 0) && decide (d < 16) && decide (a < 16) && decide (c < 64)
  | .stm d a x c => (x || a == 0) && decide (d < 16) && decide (a < 16) && decide (c < 64)
  | .argmax d a k n => decide (d < 16) && decide (a < 16) && decide (k < 64) && decide (n < 2048)
  | .brf a c d => decide (c < 3) && (c != 0 || a == 0) && decide (a < 16) && decide (c < 4) && decide (d < 256)
  | .slateLoop d l n => decide (d < 16) && decide (l < 256) && decide (n < 128)
  | .emitDispatch d a => decide (d < 16) && decide (a < 16)
  | .emitPreempt d => decide (d < 16)
  | .emitShare d a => decide (d < 16) && decide (a < 16)
  | .emitFaultact d t => decide (d < 16) && decide (t < 4)
  | .slateAdd d a b => decide (d < 16) && decide (a < 16) && decide (b < 16)
  | .slateAddImm d a _ => decide (d < 16) && decide (a < 16)
  | .slateSub d a b => decide (d < 16) && decide (a < 16) && decide (b < 16)
  | .slateSubImm d a _ => decide (d < 16) && decide (a < 16)
  | .slateMul d a b => decide (d < 16) && decide (a < 16) && decide (b < 16)
  | .slateMulImm d a _ => decide (d < 16) && decide (a < 16)
  | .slateAnd d a b => decide (d < 16) && decide (a < 16) && decide (b < 16)
  | .slateAndImm d a _ => decide (d < 16) && decide (a < 16)
  | .slateOr d a b => decide (d < 16) && decide (a < 16) && decide (b < 16)
  | .slateOrImm d a _ => decide (d < 16) && decide (a < 16)
  | .slateXor d a b => decide (d < 16) && decide (a < 16) && decide (b < 16)
  | .slateXorImm d a _ => decide (d < 16) && decide (a < 16)
  | .slateShl d a b => decide (d < 16) && decide (a < 16) && decide (b < 16)
  | .slateShlImm d a _ => decide (d < 16) && decide (a < 16)
  | .slateShr d a b => decide (d < 16) && decide (a < 16) && decide (b < 16)
  | .slateShrImm d a _ => decide (d < 16) && decide (a < 16)
  | .slateMin d a b => decide (d < 16) && decide (a < 16) && decide (b < 16)
  | .slateMinImm d a _ => decide (d < 16) && decide (a < 16)
  | .slateMax d a b => decide (d < 16) && decide (a < 16) && decide (b < 16)
  | .slateMaxImm d a _ => decide (d < 16) && decide (a < 16)
  | .slateCmplt d a b => decide (d < 16) && decide (a < 16) && decide (b < 16)
  | .slateCmpltImm d a _ => decide (d < 16) && decide (a < 16)
  | .slateCmpeq d a b => decide (d < 16) && decide (a < 16) && decide (b < 16)
  | .slateCmpeqImm d a _ => decide (d < 16) && decide (a < 16)
  | .slateSel d a b => decide (d < 16) && decide (a < 16) && decide (b < 16)
  | .slateSelImm d a _ => decide (d < 16) && decide (a < 16)
  | .nop g => g.ok
  | .add g sd sa sb => g.ok && sOk sd && sOk sa && sOk sb
  | .sub g sd sa sb => g.ok && sOk sd && sOk sa && sOk sb
  | .mul g sd sa sb => g.ok && sOk sd && sOk sa && sOk sb
  | .mulh g sd sa sb => g.ok && sOk sd && sOk sa && sOk sb
  | .mulhu g sd sa sb => g.ok && sOk sd && sOk sa && sOk sb
  | .div g sd sa sb => g.ok && sOk sd && sOk sa && sOk sb
  | .divu g sd sa sb => g.ok && sOk sd && sOk sa && sOk sb
  | .rem g sd sa sb => g.ok && sOk sd && sOk sa && sOk sb
  | .remu g sd sa sb => g.ok && sOk sd && sOk sa && sOk sb
  | .andR g sd sa sb => g.ok && sOk sd && sOk sa && sOk sb
  | .orR g sd sa sb => g.ok && sOk sd && sOk sa && sOk sb
  | .xorR g sd sa sb => g.ok && sOk sd && sOk sa && sOk sb
  | .andn g sd sa sb => g.ok && sOk sd && sOk sa && sOk sb
  | .shl g sd sa sb => g.ok && sOk sd && sOk sa && sOk sb
  | .shr g sd sa sb => g.ok && sOk sd && sOk sa && sOk sb
  | .sar g sd sa sb => g.ok && sOk sd && sOk sa && sOk sb
  | .minR g sd sa sb => g.ok && sOk sd && sOk sa && sOk sb
  | .maxR g sd sa sb => g.ok && sOk sd && sOk sa && sOk sb
  | .minu g sd sa sb => g.ok && sOk sd && sOk sa && sOk sb
  | .maxu g sd sa sb => g.ok && sOk sd && sOk sa && sOk sb
  | .clz g sd sa => g.ok && sOk sd && sOk sa
  | .ctz g sd sa => g.ok && sOk sd && sOk sa
  | .popc g sd sa => g.ok && sOk sd && sOk sa
  | .ext g sd sa _ => g.ok && sOk sd && sOk sa
  | .sel g sd sa sb pa => g.ok && sOk sd && sOk sa && sOk sb && pOk pa
  | .cmp g _ sa sb pd => g.ok && sOk sa && sOk sb && pdOk pd
  | .madd g sd sa sb sc => g.ok && sOk sd && sOk sa && sOk sb && sOk sc
  | .pand g pd pa pb => g.ok && pdOk pd && pOk pa && pOk pb
  | .por g pd pa pb => g.ok && pdOk pd && pOk pa && pOk pb
  | .pxor g pd pa pb => g.ok && pdOk pd && pOk pa && pOk pb
  | .pnot g pd pa => g.ok && pdOk pd && pOk pa
  | .pget g sd => g.ok && sOk sd
  | .pset g sa => g.ok && sOk sa
  | .addImm g sd sa _ => g.ok && sOk sd && sOk sa
  | .subImm g sd sa _ => g.ok && sOk sd && sOk sa
  | .mulImm g sd sa _ => g.ok && sOk sd && sOk sa
  | .andImm g sd sa _ => g.ok && sOk sd && sOk sa
  | .orImm g sd sa _ => g.ok && sOk sd && sOk sa
  | .xorImm g sd sa _ => g.ok && sOk sd && sOk sa
  | .shlImm g sd sa _ => g.ok && sOk sd && sOk sa
  | .shrImm g sd sa _ => g.ok && sOk sd && sOk sa
  | .sarImm g sd sa _ => g.ok && sOk sd && sOk sa
  | .minImm g sd sa _ => g.ok && sOk sd && sOk sa
  | .maxImm g sd sa _ => g.ok && sOk sd && sOk sa
  | .minuImm g sd sa _ => g.ok && sOk sd && sOk sa
  | .maxuImm g sd sa _ => g.ok && sOk sd && sOk sa
  | .cmpImm g _ sa pd _ => g.ok && sOk sa && pdOk pd
  | .sppeer g sd sa imm => g.ok && sOk sd && sOk sa && imm.extractLsb' 22 10 == 0#10
  | .addpc g sd _ => g.ok && sOk sd
  | .lds g _ sd sa _ => g.ok && sOk sd && sOk sa
  | .sts g _ sd sa _ => g.ok && sOk sd && sOk sa
  | .ldg g _ sd sa _ => g.ok && sOk sd && sOk sa
  | .stg g _ sd sa _ => g.ok && sOk sd && sOk sa
  | .br g _ => g.ok
  | .bz g sa _ => g.ok && sOk sa
  | .bnz g sa _ => g.ok && sOk sa
  | .brmz g _ => g.ok
  | .call g _ => g.ok
  | .callr g sa => g.ok && sOk sa
  | .ret g => g.ok
  | .jr g sa => g.ok && sOk sa
  | .loop g sa _ => g.ok && sOk sa
  | .loopq g _ => g.ok
  | .exit g => g.ok
  | .li g sd _ => g.ok && sOk sd
  | .addx g sd sa _ => g.ok && sOk sd && sOk sa
  | .andx g sd sa _ => g.ok && sOk sd && sOk sa
  | .orx g sd sa _ => g.ok && sOk sd && sOk sa
  | .csrr g sd csr => g.ok && sOk sd && csrReadable csr
  | .csrw g sa csr => g.ok && sOk sa && csrWritable csr
  | .csrs g sa csr => g.ok && sOk sa && csrWritable csr
  | .csrc g sa csr => g.ok && sOk sa && csrWritable csr
  | .trap g _ => g.ok
  | .brk g _ => g.ok
  | .icinv g => g.ok
  | .fmtpush g sa => g.ok && sOk sa
  | .pair g sop sd sa sb vop vd va vb => g.ok && sOk sd && sOk sa && sOk sb && vOk vd && vOk va && vOk vb && (sop != .nop || (sd == 0 && sa == 0 && sb == 0)) && (vop != .nop || (vd == 0 && va == 0 && vb == 0)) && (vop != .mov || vb == 0)
  | .vadd g vd va vb ty rnd sat => g.ok && vOk vd && vOk va && vOk vb && arithOk ty rnd sat
  | .vsub g vd va vb ty rnd sat => g.ok && vOk vd && vOk va && vOk vb && arithOk ty rnd sat
  | .vmul g vd va vb ty rnd sat => g.ok && vOk vd && vOk va && vOk vb && arithOk ty rnd sat
  | .vfma g vd va vb vc ty rnd sat => g.ok && vOk vd && vOk va && vOk vb && vOk vc && arithOk ty rnd sat
  | .vmin g vd va vb ty => g.ok && vOk vd && vOk va && vOk vb && fiOk ty
  | .vmax g vd va vb ty => g.ok && vOk vd && vOk va && vOk vb && fiOk ty
  | .vabs g vd va ty sat => g.ok && vOk vd && vOk va && absOk ty sat
  | .vneg g vd va ty sat => g.ok && vOk vd && vOk va && absOk ty sat
  | .vand g vd va vb => g.ok && vOk vd && vOk va && vOk vb
  | .vor g vd va vb => g.ok && vOk vd && vOk va && vOk vb
  | .vxor g vd va vb => g.ok && vOk vd && vOk va && vOk vb
  | .vnot g vd va => g.ok && vOk vd && vOk va
  | .vshl g vd va vb ty => g.ok && vOk vd && vOk va && vOk vb && ty.isS
  | .vshr g vd va vb ty => g.ok && vOk vd && vOk va && vOk vb && ty.isS
  | .vsar g vd va vb ty => g.ok && vOk vd && vOk va && vOk vb && ty.isS
  | .vcmp g c vd va vb ty => g.ok && vOk vd && vOk va && vOk vb && cmpOk c ty
  | .vsel g vd va vb vc ty => g.ok && vOk vd && vOk va && vOk vb && vOk vc && ty.isS
  | .vmov g vd va => g.ok && vOk vd && vOk va
  | .vcvt g vd va dst src rnd sat => g.ok && vOk vd && vOk va && cvtOk dst src rnd sat
  | .vexp2 g vd va => g.ok && vOk vd && vOk va
  | .vlog2 g vd va => g.ok && vOk vd && vOk va
  | .vrcp g vd va ty rnd => g.ok && vOk vd && vOk va && ty.isF && rnd != .rsr
  | .vrsq g vd va ty rnd => g.ok && vOk vd && vOk va && ty.isF && rnd != .rsr
  | .vredadd g vd va ty rnd sat => g.ok && vOk vd && vOk va && arithOk ty rnd sat
  | .vredmax g vd va ty => g.ok && vOk vd && vOk va && fiOk ty
  | .vredmin g vd va ty => g.ok && vOk vd && vOk va && fiOk ty
  | .vlse2 g vd va => g.ok && vOk vd && vOk va
  | .vscan g vd va ty _ => g.ok && vOk vd && vOk va && (ty == .i16 || ty == .i32)
  | .vhist g vd va ty => g.ok && vOk vd && vOk va && ty.isS
  | .vperm g vd va vb ty => g.ok && vOk vd && vOk va && vOk vb && ty.isS
  | .viota g vd ty => g.ok && vOk vd && ty.isS
  | .vamax g vd va ty => g.ok && vOk vd && vOk va && ty.isF
  | .vscale g vd va ty rnd => g.ok && vOk vd && vOk va && ty.isF8 && rnd != .rsr
  | .vbexp g vd va => g.ok && vOk vd && vOk va
  | .vtobi g vd va vb => g.ok && vOk vd && vOk va && vOk vb
  | .vfrombi g vd va vb rnd _ => g.ok && vOk vd && vOk va && vOk vb && rnd != .rsr
  | .mpush g va => g.ok && vOk va
  | .minv g => g.ok
  | .mpop g => g.ok
  | .vaddScalar g vd va b ty rnd sat => g.ok && vOk vd && vOk va && arithOk ty rnd sat && b.ok ty
  | .vsubScalar g vd va b ty rnd sat => g.ok && vOk vd && vOk va && arithOk ty rnd sat && b.ok ty
  | .vmulScalar g vd va b ty rnd sat => g.ok && vOk vd && vOk va && arithOk ty rnd sat && b.ok ty
  | .vminScalar g vd va b ty => g.ok && vOk vd && vOk va && fiOk ty && b.ok ty
  | .vmaxScalar g vd va b ty => g.ok && vOk vd && vOk va && fiOk ty && b.ok ty
  | .vandScalar g vd va b ty => g.ok && vOk vd && vOk va && ty.isS && b.ok ty
  | .vorScalar g vd va b ty => g.ok && vOk vd && vOk va && ty.isS && b.ok ty
  | .vxorScalar g vd va b ty => g.ok && vOk vd && vOk va && ty.isS && b.ok ty
  | .vshlScalar g vd va b ty => g.ok && vOk vd && vOk va && ty.isS && b.ok ty
  | .vshrScalar g vd va b ty => g.ok && vOk vd && vOk va && ty.isS && b.ok ty
  | .vsarScalar g vd va b ty => g.ok && vOk vd && vOk va && ty.isS && b.ok ty
  | .vcmpScalar g c vd va b ty => g.ok && vOk vd && vOk va && cmpOk c ty && b.ok ty
  | .vbcast g vd b ty => g.ok && vOk vd && (ty.isF || ty.isS) && b.ok ty
  | .vld g vd sb _ => g.ok && vOk vd && sOk sb
  | .vst g vd sb _ => g.ok && vOk vd && sOk sb
  | .vldx g vd va sb _ => g.ok && vOk vd && vOk va && sOk sb
  | .vstx g vd va sb _ => g.ok && vOk vd && vOk va && sOk sb
  | .vextr g sb va lane ty => g.ok && sOk sb && vOk va && ty.isI && decide (lane < 4096)
  | .vins g vd sb lane ty => g.ok && vOk vd && sOk sb && ty.isI && decide (lane < 4096)
  | .ldw g sa _ e _ => g.ok && sOk sa && e.ok
  | .wswap g e _ => g.ok && e.ok && e.noRep
  | .mm g td sa _ e _ => g.ok && tOk td && sOk sa && e.ok
  | .mgroup g td sa sb sc e _ => g.ok && tOk td && sOk sa && sOk sb && sOk sc && e.ok && e.noRep
  | .accz g td e _ => g.ok && tOk td && e.ok
  | .accld g td sa e _ => g.ok && tOk td && sOk sa && e.ok
  | .accwr g td sa sb e _ => g.ok && tOk td && sOk sa && sOk sb && e.ok
  | .plnset g td sa e _ => g.ok && tOk td && sOk sa && e.ok && e.noRep
  | .plnld g td sa e _ => g.ok && tOk td && sOk sa && e.ok
  | .margset g sa sb e _ => g.ok && sOk sa && sOk sb && e.ok && e.noRep
  | .balance g sa e _ => g.ok && sOk sa && e.ok && e.noRep
  | .plnrd g td sa e _ => g.ok && tOk td && sOk sa && e.ok
  | .plnscl g sa sb e _ => g.ok && sOk sa && sOk sb && e.ok && e.noRep
  | .cpin g sd sa sl sbr e => g.ok && sOk sd && sOk sa && sOk sl && sOk sbr && e.ok
  | .cpinScl g sa sl e => g.ok && sOk sa && sOk sl && e.ok
  | .cqfill g sa sl e => g.ok && sOk sa && sOk sl && e.ok
  | .cpgath g sd sa sl sbr e => g.ok && sOk sd && sOk sa && sOk sl && sOk sbr && e.ok
  | .cpfill g sd sa sl sbr e => g.ok && sOk sd && sOk sa && sOk sl && sOk sbr && e.ok
  | .cploc g sd sa sl sbr e => g.ok && sOk sd && sOk sa && sOk sl && sOk sbr && e.ok
  | .cpout g sd sa sl sbr e => g.ok && sOk sd && sOk sa && sOk sl && sOk sbr && e.ok
  | .cppeer g sd sa sl sbr e => g.ok && sOk sd && sOk sa && sOk sl && sOk sbr && e.ok
  | .cpmc g sd sa sl sbr e => g.ok && sOk sd && sOk sa && sOk sl && sOk sbr && e.ok
  | .cpscat g sd sa sl sbr e => g.ok && sOk sd && sOk sa && sOk sl && sOk sbr && e.ok
  | .cpmem g sd sa sl sbr e => g.ok && sOk sd && sOk sa && sOk sl && sOk sbr && e.ok
  | .amo g op ord w scope sd sa sb _ => g.ok && sOk sd && sOk sa && sOk sb && amoOk op w && ordOk ord scope
  | .amocas g ord w scope sd sa sb sc _ => g.ok && sOk sd && sOk sa && sOk sb && sOk sc && w != .f32 && ordOk ord scope
  | .fenceAcq g scope => g.ok && scOk scope
  | .fenceRel g scope => g.ok && scOk scope
  | .fenceFull g scope => g.ok && scOk scope
  | .flush g scope => g.ok && scOk scope
  | .qfence g qs => g.ok && qs != 0#3
  | .qdrain g => g.ok
  | .tkpush g _ => g.ok
  | .tkpop g _ => g.ok
  | .binit g sa sb sc => g.ok && sOk sa && sOk sb && sOk sc
  | .bexpect g sa sb => g.ok && sOk sa && sOk sb
  | .barrive g scope sa sb => g.ok && scOk scope && sOk sa && sOk sb
  | .bwait g ps pe sa sb => g.ok && pOk ps && pOk pe && sOk sa && sOk sb
  | .bwaitout g sa => g.ok && sOk sa
  | .bhandle g sd sa => g.ok && sOk sd && sOk sa
  | .qput g sa q => g.ok && sOk sa && decide (q < 4)
  | .semsig g scope sa sb => g.ok && scOk scope && sOk sa && sOk sb
  | .capadd g sa sb => g.ok && sOk sa && sOk sb
  | .capget g sd sa => g.ok && sOk sd && sOk sa
  | .capupd g => g.ok
  | .cqpush g sa => g.ok && sOk sa
  | .cqpushTeam g sa => g.ok && sOk sa
  | .pbuild g sd sa sb sc imm => g.ok && sOk sd && sOk sa && sOk sb && sOk sc && decide (imm.toNat < 64)
  | .psend g sa sb sc dir => g.ok && sOk sa && sOk sb && sOk sc && dirOk dir
  | .rwld g sd sa _ => g.ok && sOk sd && sOk sa
  | .rwst g sa sb _ => g.ok && sOk sa && sOk sb
  | _ => true

end Sys2Proof
end

