-- ==== Sys2Proof/Decode.lean ====
section
/-!
DEFINITION. The decoder, total on any bytes, and the encoder, both from the tables of chapter 14 (core words), R112 (pebble
words) and R201 (slate words). A word that is no instruction decodes to none; R350 then has the core raise ILLEGAL_OP.
-/
namespace Sys2Proof

/-! ### Codes of the field values -/

/-- Condition codes (R334). -/
def Cond.code : Cond → Nat
  | .eq => 0 | .ne => 1 | .lt => 2 | .ge => 3 | .ltu => 4 | .geu => 5
/-- Condition codes (R334); any other value is reserved. -/
def Cond.ofCode : Nat → Option Cond
  | 0 => some .eq | 1 => some .ne | 2 => some .lt | 3 => some .ge | 4 => some .ltu | 5 => some .geu | _ => none
/-- Extension codes (R334). -/
def Ext.code : Ext → Nat
  | .b => 0 | .bu => 1 | .h => 2 | .hu => 3 | .w => 4 | .wu => 5
/-- Extension codes (R334). -/
def Ext.ofCode : Nat → Option Ext
  | 0 => some .b | 1 => some .bu | 2 => some .h | 3 => some .hu | 4 => some .w | 5 => some .wu | _ => none
/-- Position of a load width in the opcode map (R336). -/
def LdKind.code : LdKind → Nat
  | .b => 0 | .bu => 1 | .h => 2 | .hu => 3 | .w => 4 | .wu => 5 | .d => 6
/-- Position of a load width in the opcode map (R336). -/
def LdKind.ofCode : Nat → Option LdKind
  | 0 => some .b | 1 => some .bu | 2 => some .h | 3 => some .hu | 4 => some .w | 5 => some .wu | 6 => some .d | _ => none
/-- Position of a store width in the opcode map (R336). -/
def StKind.code : StKind → Nat
  | .b => 0 | .h => 1 | .w => 2 | .d => 3
/-- Position of a store width in the opcode map (R336). -/
def StKind.ofCode : Nat → Option StKind
  | 0 => some .b | 1 => some .h | 2 => some .w | 3 => some .d | _ => none
/-- TYPE codes (R340). -/
def VType.code : VType → Nat
  | .f32 => 0 | .bf16 => 1 | .e4m3 => 2 | .e5m2 => 3 | .i8 => 4 | .ui8 => 5 | .i16 => 6 | .i32 => 7
/-- TYPE codes (R340); 0x8 is never legal in a vector instruction. -/
def VType.ofCode : Nat → Option VType
  | 0 => some .f32 | 1 => some .bf16 | 2 => some .e4m3 | 3 => some .e5m2 | 4 => some .i8 | 5 => some .ui8 | 6 => some .i16
  | 7 => some .i32 | _ => none
/-- RND codes (R340). -/
def Rnd.code : Rnd → Nat
  | .rne => 0 | .rtz => 1 | .rsr => 2
/-- RND codes (R340); 3 is reserved. -/
def Rnd.ofCode : Nat → Option Rnd
  | 0 => some .rne | 1 => some .rtz | 2 => some .rsr | _ => none
/-- SOP codes (R333). -/
def SOp.code : SOp → Nat
  | .nop => 0 | .add => 1 | .sub => 2 | .mul => 3 | .and => 4 | .or => 5 | .xor => 6 | .shl => 7 | .shr => 8 | .sar => 9
  | .min => 10 | .max => 11 | .minu => 12 | .maxu => 13
/-- SOP codes (R333). -/
def SOp.ofCode : Nat → Option SOp
  | 0 => some .nop | 1 => some .add | 2 => some .sub | 3 => some .mul | 4 => some .and | 5 => some .or | 6 => some .xor
  | 7 => some .shl | 8 => some .shr | 9 => some .sar | 10 => some .min | 11 => some .max | 12 => some .minu
  | 13 => some .maxu | _ => none
/-- VOP codes (R333). -/
def VOp.code : VOp → Nat
  | .nop => 0 | .addF => 1 | .subF => 2 | .mulF => 3 | .maxF => 4 | .minF => 5 | .addI => 6 | .subI => 7 | .mulI => 8
  | .and => 9 | .or => 10 | .xor => 11 | .mov => 12 | .fmaF => 13 | .maxI => 14 | .minI => 15
/-- VOP codes (R333). -/
def VOp.ofCode : Nat → Option VOp
  | 0 => some .nop | 1 => some .addF | 2 => some .subF | 3 => some .mulF | 4 => some .maxF | 5 => some .minF
  | 6 => some .addI | 7 => some .subI | 8 => some .mulI | 9 => some .and | 10 => some .or | 11 => some .xor
  | 12 => some .mov | 13 => some .fmaF | 14 => some .maxI | 15 => some .minI | _ => none
/-- OPX codes of AMO (R435). -/
def AmoOp.code : AmoOp → Nat
  | .swap => 0 | .add => 1 | .and => 2 | .or => 3 | .xor => 4 | .min => 5 | .max => 6 | .minu => 7 | .maxu => 8 | .fadd => 9
/-- OPX codes of AMO (R435). -/
def AmoOp.ofCode : Nat → Option AmoOp
  | 0 => some .swap | 1 => some .add | 2 => some .and | 3 => some .or | 4 => some .xor | 5 => some .min | 6 => some .max
  | 7 => some .minu | 8 => some .maxu | 9 => some .fadd | _ => none
/-- ORDM codes (R347). -/
def Ord.code : Ord → Nat
  | .none => 0 | .rel => 1 | .acq => 2
/-- ORDM codes (R347); 3 is reserved. -/
def Ord.ofCode : Nat → Option Ord
  | 0 => some .none | 1 => some .rel | 2 => some .acq | _ => none
/-- WID codes (R347). -/
def AWid.code : AWid → Nat
  | .i32 => 0 | .i64 => 1 | .f32 => 2
/-- WID codes (R347); 3 is reserved. -/
def AWid.ofCode : Nat → Option AWid
  | 0 => some .i32 | 1 => some .i64 | 2 => some .f32 | _ => none

/-- Bit i of a class 0x5 form (R343). -/
def SOperand.bit : SOperand → Nat
  | .reg _ => 0 | .imm _ => 1
/-- The SB field of a class 0x5 form (R343). -/
def SOperand.sb : SOperand → Nat
  | .reg r => r | .imm _ => 0
/-- The IMM12 field of a class 0x5 form (R343). -/
def SOperand.im : SOperand → Nat
  | .reg _ => 0 | .imm x => x.toNat
/-- The second operand of a class 0x5 form; the field that the form does not use is zero (R343, R350). -/
def op2 (i sb imm : Nat) : Option SOperand :=
  if i == 0 then (if imm == 0 then some (.reg sb) else none)
  else if sb == 0 then some (.imm (BitVec.ofNat 12 imm)) else none

/-- The TOK field: WP, WN, SP, SN from the top (R344). -/
def ECtl.tok (e : ECtl) : Nat := 8 * e.wp.toNat + 4 * e.wn.toNat + 2 * e.sp.toNat + e.sn.toNat
/-- Token, repeat and step fields (R344). -/
def mkE (tok rep step : Nat) : ECtl :=
  ⟨tok / 8 % 2 == 1, tok / 4 % 2 == 1, tok / 2 % 2 == 1, tok % 2 == 1, rep, BitVec.ofNat 12 step⟩

/-- A checked result: a condition that fails makes the word no instruction. -/
def chk (b : Bool) (i : Instr) : Option Instr := if b then some i else none
/-- A checked condition. -/
def chkU (b : Bool) : Option Unit := if b then some () else none
/-- A modifier field that holds 0 or 1 (R345, R348). -/
def bit1 (n : Nat) : Option Unit := chkU (decide (n < 2))
/-- The queue set of QFENCE: three bits (R348). -/
def lt8 (n : Nat) : Option Unit := chkU (decide (n < 8))
/-- The guard fields; (!p0) is reserved (R330). -/
def mkGuard (gp gs : Nat) : Option Guard := if gp == 0 && gs == 1 then none else some ⟨gp, gs == 1⟩

/-! ### Layouts -/

/-- The twelve formats (R329). -/
inductive Layout where
  | c0 | c1 | c2 | c3 | c4 | c5 | c6 | c7 | c8 | c9 | cA | pair
  deriving DecidableEq, Repr

/-- Field widths from bit 63 down (R329, R332, R334, R336 to R339, R341, R343, R344, R346, R347, R349). -/
def Layout.widths : Layout → List Nat
  | .c0 => [4, 3, 1, 8, 6, 6, 6, 6, 3, 3, 3, 15]
  | .c1 => [4, 3, 1, 8, 6, 6, 3, 1, 32]
  | .c2 => [4, 3, 1, 8, 6, 10, 32]
  | .c3 => [4, 3, 1, 8, 6, 6, 36]
  | .cA => [4, 3, 1, 8, 6, 6, 12, 8, 16]
  | .c4 => [4, 3, 1, 8, 10, 10, 10, 10, 4, 2, 1, 1]
  | .c5 => [4, 3, 1, 8, 10, 10, 6, 2, 12, 4, 2, 1, 1]
  | .c6 => [4, 3, 1, 8, 4, 1, 3, 6, 6, 6, 2, 8, 12]
  | .c7 => [4, 3, 1, 8, 4, 6, 6, 6, 6, 8, 12]
  | .c8 => [4, 3, 1, 8, 4, 6, 6, 6, 6, 4, 2, 2, 12]
  | .c9 => [4, 3, 1, 8, 6, 6, 6, 6, 3, 9, 12]
  | .pair => [2, 3, 1, 5, 6, 6, 6, 5, 10, 10, 10]

/-- The fields of n, the first the highest. -/
def splitFields : List Nat → Nat → List Nat
  | [], _ => []
  | w :: ws, n => n / 2 ^ ws.sum % 2 ^ w :: splitFields ws n
/-- The number whose fields are given, the first the highest. -/
def joinFields : List Nat → List Nat → Nat
  | _ :: ws, x :: xs => x * 2 ^ ws.sum + joinFields ws xs
  | _, _ => 0

/-- The format of a word, by its top bits (R329). Class 0xB is no format (R350). -/
def layoutOf (w : Nat) : Option Layout :=
  match w / 2 ^ 60 % 16 with
  | 0 => some .c0 | 1 => some .c1 | 2 => some .c2 | 3 => some .c3 | 4 => some .c4 | 5 => some .c5 | 6 => some .c6
  | 7 => some .c7 | 8 => some .c8 | 9 => some .c9 | 10 => some .cA | 11 => none | _ => some .pair

/-! ### Core instructions -/

/-- The opcodes of class 0x0 (R334, R335). -/
def dec0 (g : Guard) (op sd sa sb sc pd pa pb : Nat) : Option Instr :=
  match op with
  | 0x00 => chk (sd + sa + sb + sc + pd + pa + pb == 0) (.nop g)
  | 0x01 => chk (sc + pd + pa + pb == 0) (.add g sd sa sb)
  | 0x02 => chk (sc + pd + pa + pb == 0) (.sub g sd sa sb)
  | 0x03 => chk (sc + pd + pa + pb == 0) (.mul g sd sa sb)
  | 0x04 => chk (sc + pd + pa + pb == 0) (.mulh g sd sa sb)
  | 0x05 => chk (sc + pd + pa + pb == 0) (.mulhu g sd sa sb)
  | 0x06 => chk (sc + pd + pa + pb == 0) (.div g sd sa sb)
  | 0x07 => chk (sc + pd + pa + pb == 0) (.divu g sd sa sb)
  | 0x08 => chk (sc + pd + pa + pb == 0) (.rem g sd sa sb)
  | 0x09 => chk (sc + pd + pa + pb == 0) (.remu g sd sa sb)
  | 0x0A => chk (sc + pd + pa + pb == 0) (.andR g sd sa sb)
  | 0x0B => chk (sc + pd + pa + pb == 0) (.orR g sd sa sb)
  | 0x0C => chk (sc + pd + pa + pb == 0) (.xorR g sd sa sb)
  | 0x0D => chk (sc + pd + pa + pb == 0) (.andn g sd sa sb)
  | 0x0E => chk (sc + pd + pa + pb == 0) (.shl g sd sa sb)
  | 0x0F => chk (sc + pd + pa + pb == 0) (.shr g sd sa sb)
  | 0x10 => chk (sc + pd + pa + pb == 0) (.sar g sd sa sb)
  | 0x11 => chk (sc + pd + pa + pb == 0) (.minR g sd sa sb)
  | 0x12 => chk (sc + pd + pa + pb == 0) (.maxR g sd sa sb)
  | 0x13 => chk (sc + pd + pa + pb == 0) (.minu g sd sa sb)
  | 0x14 => chk (sc + pd + pa + pb == 0) (.maxu g sd sa sb)
  | 0x15 => chk (sb + sc + pd + pa + pb == 0) (.clz g sd sa)
  | 0x16 => chk (sb + sc + pd + pa + pb == 0) (.ctz g sd sa)
  | 0x17 => chk (sb + sc + pd + pa + pb == 0) (.popc g sd sa)
  | 0x18 => (Ext.ofCode sb).bind fun x => chk (sc + pd + pa + pb == 0) (.ext g sd sa x)
  | 0x19 => chk (sc + pd + pb == 0) (.sel g sd sa sb pa)
  | 0x1A => (Cond.ofCode sd).bind fun c => chk (sc + pa + pb == 0) (.cmp g c sa sb pd)
  | 0x1B => chk (pd + pa + pb == 0) (.madd g sd sa sb sc)
  | 0x1C => chk (sd + sa + sb + sc == 0) (.pand g pd pa pb)
  | 0x1D => chk (sd + sa + sb + sc == 0) (.por g pd pa pb)
  | 0x1E => chk (sd + sa + sb + sc == 0) (.pxor g pd pa pb)
  | 0x1F => chk (sd + sa + sb + sc + pb == 0) (.pnot g pd pa)
  | 0x20 => chk (sa + sb + sc + pd + pa + pb == 0) (.pget g sd)
  | 0x21 => chk (sd + sb + sc + pd + pa + pb == 0) (.pset g sa)
  | _ => none

/-- The opcodes of class 0x1 (R336). -/
def dec1 (g : Guard) (op sd sa pd imm : Nat) : Option Instr :=
  match op with
  | 0x01 => chk (pd == 0) (.addImm g sd sa (BitVec.ofNat 32 imm))
  | 0x02 => chk (pd == 0) (.subImm g sd sa (BitVec.ofNat 32 imm))
  | 0x03 => chk (pd == 0) (.mulImm g sd sa (BitVec.ofNat 32 imm))
  | 0x0A => chk (pd == 0) (.andImm g sd sa (BitVec.ofNat 32 imm))
  | 0x0B => chk (pd == 0) (.orImm g sd sa (BitVec.ofNat 32 imm))
  | 0x0C => chk (pd == 0) (.xorImm g sd sa (BitVec.ofNat 32 imm))
  | 0x0E => chk (pd == 0) (.shlImm g sd sa (BitVec.ofNat 32 imm))
  | 0x0F => chk (pd == 0) (.shrImm g sd sa (BitVec.ofNat 32 imm))
  | 0x10 => chk (pd == 0) (.sarImm g sd sa (BitVec.ofNat 32 imm))
  | 0x11 => chk (pd == 0) (.minImm g sd sa (BitVec.ofNat 32 imm))
  | 0x12 => chk (pd == 0) (.maxImm g sd sa (BitVec.ofNat 32 imm))
  | 0x13 => chk (pd == 0) (.minuImm g sd sa (BitVec.ofNat 32 imm))
  | 0x14 => chk (pd == 0) (.maxuImm g sd sa (BitVec.ofNat 32 imm))
  | 0x1A => (Cond.ofCode sd).bind fun c => chk (true) (.cmpImm g c sa pd (BitVec.ofNat 32 imm))
  | 0x20 => chk (pd == 0) (.sppeer g sd sa (BitVec.ofNat 32 imm))
  | 0x21 => chk (sa + pd == 0) (.addpc g sd (BitVec.ofNat 32 imm))
  | 0x40 | 0x41 | 0x42 | 0x43 | 0x44 | 0x45 | 0x46 => (LdKind.ofCode (op - 0x40)).bind fun k => chk (pd == 0) (.lds g k sd sa (BitVec.ofNat 32 imm))
  | 0x48 | 0x49 | 0x4A | 0x4B => (StKind.ofCode (op - 0x48)).bind fun k => chk (pd == 0) (.sts g k sd sa (BitVec.ofNat 32 imm))
  | 0x50 | 0x51 | 0x52 | 0x53 | 0x54 | 0x55 | 0x56 => (LdKind.ofCode (op - 0x50)).bind fun k => chk (pd == 0) (.ldg g k sd sa (BitVec.ofNat 32 imm))
  | 0x58 | 0x59 | 0x5A | 0x5B => (StKind.ofCode (op - 0x58)).bind fun k => chk (pd == 0) (.stg g k sd sa (BitVec.ofNat 32 imm))
  | _ => none

/-- The opcodes of class 0x2 (R337). -/
def dec2 (g : Guard) (op sa disp : Nat) : Option Instr :=
  match op with
  | 0x01 => chk (sa == 0) (.br g (BitVec.ofNat 32 disp))
  | 0x02 => chk (true) (.bz g sa (BitVec.ofNat 32 disp))
  | 0x03 => chk (true) (.bnz g sa (BitVec.ofNat 32 disp))
  | 0x04 => chk (sa == 0) (.brmz g (BitVec.ofNat 32 disp))
  | 0x05 => chk (sa == 0) (.call g (BitVec.ofNat 32 disp))
  | 0x06 => chk (disp == 0) (.callr g sa)
  | 0x07 => chk (sa + disp == 0) (.ret g)
  | 0x08 => chk (disp == 0) (.jr g sa)
  | 0x09 => chk (true) (.loop g sa (BitVec.ofNat 32 disp))
  | 0x0A => chk (sa == 0) (.loopq g (BitVec.ofNat 32 disp))
  | 0x0B => chk (sa + disp == 0) (.exit g)
  | _ => none

/-- The opcodes of class 0x3 (R338). -/
def dec3 (g : Guard) (op sd sa : Nat) (w2 : W64) : Option Instr :=
  match op with
  | 0x01 => chk (sa == 0) (.li g sd w2)
  | 0x02 => chk (true) (.addx g sd sa w2)
  | 0x03 => chk (true) (.andx g sd sa w2)
  | 0x04 => chk (true) (.orx g sd sa w2)
  | _ => none

/-- The opcodes of class 0xA (R339). -/
def decA (g : Guard) (op sd sa csr imm : Nat) : Option Instr :=
  match op with
  | 0x01 => chk (sa + imm == 0) (.csrr g sd csr)
  | 0x02 => chk (sd + imm == 0) (.csrw g sa csr)
  | 0x03 => chk (sd + imm == 0) (.csrs g sa csr)
  | 0x04 => chk (sd + imm == 0) (.csrc g sa csr)
  | 0x08 => chk (sd + sa + csr == 0) (.trap g (BitVec.ofNat 16 imm))
  | 0x09 => chk (sd + sa + csr == 0) (.brk g (BitVec.ofNat 16 imm))
  | 0x0A => chk (sd + sa + csr + imm == 0) (.icinv g)
  | 0x0B => chk (sd + csr + imm == 0) (.fmtpush g sa)
  | _ => none

/-- The opcodes of class 0x4 (R341, R342). -/
def dec4 (g : Guard) (op vd va vb vc ty rnd sat : Nat) : Option Instr :=
  match op with
  | 0x01 => (VType.ofCode ty).bind fun ty => (Rnd.ofCode rnd).bind fun rnd => chk (vc == 0) (.vadd g vd va vb ty rnd (sat == 1))
  | 0x02 => (VType.ofCode ty).bind fun ty => (Rnd.ofCode rnd).bind fun rnd => chk (vc == 0) (.vsub g vd va vb ty rnd (sat == 1))
  | 0x03 => (VType.ofCode ty).bind fun ty => (Rnd.ofCode rnd).bind fun rnd => chk (vc == 0) (.vmul g vd va vb ty rnd (sat == 1))
  | 0x04 => (VType.ofCode ty).bind fun ty => (Rnd.ofCode rnd).bind fun rnd => chk (true) (.vfma g vd va vb vc ty rnd (sat == 1))
  | 0x05 => (VType.ofCode ty).bind fun ty => chk (vc + rnd + sat == 0) (.vmin g vd va vb ty)
  | 0x06 => (VType.ofCode ty).bind fun ty => chk (vc + rnd + sat == 0) (.vmax g vd va vb ty)
  | 0x07 => (VType.ofCode ty).bind fun ty => chk (vb + vc + rnd == 0) (.vabs g vd va ty (sat == 1))
  | 0x08 => (VType.ofCode ty).bind fun ty => chk (vb + vc + rnd == 0) (.vneg g vd va ty (sat == 1))
  | 0x09 => chk (vc + ty + rnd + sat == 0) (.vand g vd va vb)
  | 0x0A => chk (vc + ty + rnd + sat == 0) (.vor g vd va vb)
  | 0x0B => chk (vc + ty + rnd + sat == 0) (.vxor g vd va vb)
  | 0x0C => chk (vb + vc + ty + rnd + sat == 0) (.vnot g vd va)
  | 0x0D => (VType.ofCode ty).bind fun ty => chk (vc + rnd + sat == 0) (.vshl g vd va vb ty)
  | 0x0E => (VType.ofCode ty).bind fun ty => chk (vc + rnd + sat == 0) (.vshr g vd va vb ty)
  | 0x0F => (VType.ofCode ty).bind fun ty => chk (vc + rnd + sat == 0) (.vsar g vd va vb ty)
  | 0x10 => (Cond.ofCode vc).bind fun c => (VType.ofCode ty).bind fun ty => chk (rnd + sat == 0) (.vcmp g c vd va vb ty)
  | 0x11 => (VType.ofCode ty).bind fun ty => chk (rnd + sat == 0) (.vsel g vd va vb vc ty)
  | 0x12 => chk (vb + vc + ty + rnd + sat == 0) (.vmov g vd va)
  | 0x13 => (VType.ofCode ty).bind fun dst => (VType.ofCode vc).bind fun src => (Rnd.ofCode rnd).bind fun rnd => chk (vb == 0) (.vcvt g vd va dst src rnd (sat == 1))
  | 0x14 => chk (vb + vc + ty + rnd + sat == 0) (.vexp2 g vd va)
  | 0x15 => chk (vb + vc + ty + rnd + sat == 0) (.vlog2 g vd va)
  | 0x16 => (VType.ofCode ty).bind fun ty => (Rnd.ofCode rnd).bind fun rnd => chk (vb + vc + sat == 0) (.vrcp g vd va ty rnd)
  | 0x17 => (VType.ofCode ty).bind fun ty => (Rnd.ofCode rnd).bind fun rnd => chk (vb + vc + sat == 0) (.vrsq g vd va ty rnd)
  | 0x18 => (VType.ofCode ty).bind fun ty => (Rnd.ofCode rnd).bind fun rnd => chk (vb + vc == 0) (.vredadd g vd va ty rnd (sat == 1))
  | 0x19 => (VType.ofCode ty).bind fun ty => chk (vb + vc + rnd + sat == 0) (.vredmax g vd va ty)
  | 0x1A => (VType.ofCode ty).bind fun ty => chk (vb + vc + rnd + sat == 0) (.vredmin g vd va ty)
  | 0x1B => chk (vb + vc + ty + rnd + sat == 0) (.vlse2 g vd va)
  | 0x1C => (VType.ofCode ty).bind fun ty => chk (vb + vc + rnd == 0) (.vscan g vd va ty (sat == 1))
  | 0x1D => (VType.ofCode ty).bind fun ty => chk (vb + vc + rnd + sat == 0) (.vhist g vd va ty)
  | 0x1E => (VType.ofCode ty).bind fun ty => chk (vc + rnd + sat == 0) (.vperm g vd va vb ty)
  | 0x1F => (VType.ofCode ty).bind fun ty => chk (va + vb + vc + rnd + sat == 0) (.viota g vd ty)
  | 0x20 => (VType.ofCode ty).bind fun ty => chk (vb + vc + rnd + sat == 0) (.vamax g vd va ty)
  | 0x21 => (VType.ofCode ty).bind fun ty => (Rnd.ofCode rnd).bind fun rnd => chk (vb + vc + sat == 0) (.vscale g vd va ty rnd)
  | 0x22 => chk (vb + vc + ty + rnd + sat == 0) (.vbexp g vd va)
  | 0x23 => chk (vc + ty + rnd + sat == 0) (.vtobi g vd va vb)
  | 0x24 => (Rnd.ofCode rnd).bind fun rnd => chk (vc + ty == 0) (.vfrombi g vd va vb rnd (sat == 1))
  | 0x25 => chk (vd + vb + vc + ty + rnd + sat == 0) (.mpush g va)
  | 0x26 => chk (vd + va + vb + vc + ty + rnd + sat == 0) (.minv g)
  | 0x27 => chk (vd + va + vb + vc + ty + rnd + sat == 0) (.mpop g)
  | _ => none

/-- The opcodes of class 0x5 (R343). -/
def dec5 (g : Guard) (op vd va sb imm ty rnd sat i : Nat) : Option Instr :=
  match op with
  | 0x01 => (op2 i sb imm).bind fun b => (VType.ofCode ty).bind fun ty => (Rnd.ofCode rnd).bind fun rnd => chk (true) (.vaddScalar g vd va b ty rnd (sat == 1))
  | 0x02 => (op2 i sb imm).bind fun b => (VType.ofCode ty).bind fun ty => (Rnd.ofCode rnd).bind fun rnd => chk (true) (.vsubScalar g vd va b ty rnd (sat == 1))
  | 0x03 => (op2 i sb imm).bind fun b => (VType.ofCode ty).bind fun ty => (Rnd.ofCode rnd).bind fun rnd => chk (true) (.vmulScalar g vd va b ty rnd (sat == 1))
  | 0x05 => (op2 i sb imm).bind fun b => (VType.ofCode ty).bind fun ty => chk (rnd + sat == 0) (.vminScalar g vd va b ty)
  | 0x06 => (op2 i sb imm).bind fun b => (VType.ofCode ty).bind fun ty => chk (rnd + sat == 0) (.vmaxScalar g vd va b ty)
  | 0x09 => (op2 i sb imm).bind fun b => (VType.ofCode ty).bind fun ty => chk (rnd + sat == 0) (.vandScalar g vd va b ty)
  | 0x0A => (op2 i sb imm).bind fun b => (VType.ofCode ty).bind fun ty => chk (rnd + sat == 0) (.vorScalar g vd va b ty)
  | 0x0B => (op2 i sb imm).bind fun b => (VType.ofCode ty).bind fun ty => chk (rnd + sat == 0) (.vxorScalar g vd va b ty)
  | 0x0D => (op2 i sb imm).bind fun b => (VType.ofCode ty).bind fun ty => chk (rnd + sat == 0) (.vshlScalar g vd va b ty)
  | 0x0E => (op2 i sb imm).bind fun b => (VType.ofCode ty).bind fun ty => chk (rnd + sat == 0) (.vshrScalar g vd va b ty)
  | 0x0F => (op2 i sb imm).bind fun b => (VType.ofCode ty).bind fun ty => chk (rnd + sat == 0) (.vsarScalar g vd va b ty)
  | 0x10 => (Cond.ofCode (2 * rnd + sat)).bind fun c => (op2 i sb imm).bind fun b => (VType.ofCode ty).bind fun ty => chk (true) (.vcmpScalar g c vd va b ty)
  | 0x30 => (op2 i sb imm).bind fun b => (VType.ofCode ty).bind fun ty => chk (va + rnd + sat == 0) (.vbcast g vd b ty)
  | 0x31 => chk (va + ty + rnd + sat + i == 0) (.vld g vd sb (BitVec.ofNat 12 imm))
  | 0x32 => chk (va + ty + rnd + sat + i == 0) (.vst g vd sb (BitVec.ofNat 12 imm))
  | 0x33 => chk (ty + rnd + sat + i == 0) (.vldx g vd va sb (BitVec.ofNat 12 imm))
  | 0x34 => chk (ty + rnd + sat + i == 0) (.vstx g vd va sb (BitVec.ofNat 12 imm))
  | 0x35 => (VType.ofCode ty).bind fun ty => chk (vd + rnd + sat + i == 0) (.vextr g sb va imm ty)
  | 0x36 => (VType.ofCode ty).bind fun ty => chk (va + rnd + sat + i == 0) (.vins g vd sb imm ty)
  | _ => none

/-- The opcodes of class 0x6 (R344, R345). -/
def dec6 (g : Guard) (op tok ts td sa sb sc mx rep step : Nat) : Option Instr :=
  match op with
  | 0x01 => (bit1 mx).bind fun _u => chk (td + sb + sc == 0) (.ldw g sa (mx == 1) (mkE tok rep step) (ts == 1))
  | 0x02 => chk (td + sa + sb + sc + mx == 0) (.wswap g (mkE tok rep step) (ts == 1))
  | 0x03 => (bit1 mx).bind fun _u => chk (sb + sc == 0) (.mm g td sa (mx == 1) (mkE tok rep step) (ts == 1))
  | 0x04 => chk (mx == 0) (.mgroup g td sa sb sc (mkE tok rep step) (ts == 1))
  | 0x05 => chk (sa + sb + sc + mx == 0) (.accz g td (mkE tok rep step) (ts == 1))
  | 0x06 => chk (sb + sc + mx == 0) (.accld g td sa (mkE tok rep step) (ts == 1))
  | 0x07 => chk (sc + mx == 0) (.accwr g td sa sb (mkE tok rep step) (ts == 1))
  | 0x08 => chk (sb + sc + mx == 0) (.plnset g td sa (mkE tok rep step) (ts == 1))
  | 0x09 => chk (sb + sc + mx == 0) (.plnld g td sa (mkE tok rep step) (ts == 1))
  | 0x0A => chk (td + sc + mx == 0) (.margset g sa sb (mkE tok rep step) (ts == 1))
  | 0x0B => chk (td + sb + sc + mx == 0) (.balance g sa (mkE tok rep step) (ts == 1))
  | 0x0C => chk (sb + sc + mx == 0) (.plnrd g td sa (mkE tok rep step) (ts == 1))
  | 0x0D => chk (td + sc + mx == 0) (.plnscl g sa sb (mkE tok rep step) (ts == 1))
  | _ => none

/-- The opcodes of class 0x7 (R346, R425). -/
def dec7 (g : Guard) (op tok sd sa sl sbr rep step : Nat) : Option Instr :=
  match op with
  | 0x01 => chk (true) (.cpin g sd sa sl sbr (mkE tok rep step))
  | 0x02 => chk (sd + sbr == 0) (.cpinScl g sa sl (mkE tok rep step))
  | 0x03 => chk (sd + sbr == 0) (.cqfill g sa sl (mkE tok rep step))
  | 0x04 => chk (true) (.cpgath g sd sa sl sbr (mkE tok rep step))
  | 0x05 => chk (true) (.cpfill g sd sa sl sbr (mkE tok rep step))
  | 0x06 => chk (true) (.cploc g sd sa sl sbr (mkE tok rep step))
  | 0x08 => chk (true) (.cpout g sd sa sl sbr (mkE tok rep step))
  | 0x09 => chk (true) (.cppeer g sd sa sl sbr (mkE tok rep step))
  | 0x0A => chk (true) (.cpmc g sd sa sl sbr (mkE tok rep step))
  | 0x0B => chk (true) (.cpscat g sd sa sl sbr (mkE tok rep step))
  | 0x0C => chk (true) (.cpmem g sd sa sl sbr (mkE tok rep step))
  | _ => none

/-- The opcodes of class 0x8 (R347, R348). -/
def dec8 (g : Guard) (op scope sd sa sb sc opx ordm wid imm : Nat) : Option Instr :=
  match op with
  | 0x01 => (AmoOp.ofCode opx).bind fun op => (Ord.ofCode ordm).bind fun ord => (AWid.ofCode wid).bind fun w => chk (sc == 0) (.amo g op ord w scope sd sa sb (BitVec.ofNat 12 imm))
  | 0x02 => (Ord.ofCode ordm).bind fun ord => (AWid.ofCode wid).bind fun w => chk (opx == 0) (.amocas g ord w scope sd sa sb sc (BitVec.ofNat 12 imm))
  | 0x03 => if opx == 1 then chk (sd + sa + sb + sc + ordm + wid + imm == 0) (.fenceAcq g scope) else if opx == 2 then chk (sd + sa + sb + sc + ordm + wid + imm == 0) (.fenceRel g scope) else if opx == 3 then chk (sd + sa + sb + sc + ordm + wid + imm == 0) (.fenceFull g scope) else none
  | 0x04 => chk (sd + sa + sb + sc + opx + ordm + wid + imm == 0) (.flush g scope)
  | 0x05 => (lt8 imm).bind fun _u => chk (scope + sd + sa + sb + sc + opx + ordm + wid == 0) (.qfence g (BitVec.ofNat 3 imm))
  | 0x06 => chk (scope + sd + sa + sb + sc + opx + ordm + wid + imm == 0) (.qdrain g)
  | 0x07 => (bit1 imm).bind fun _u => chk (scope + sd + sa + sb + sc + opx + ordm + wid == 0) (.tkpush g (imm == 1))
  | 0x08 => (bit1 imm).bind fun _u => chk (scope + sd + sa + sb + sc + opx + ordm + wid == 0) (.tkpop g (imm == 1))
  | 0x09 => chk (scope + sd + opx + ordm + wid + imm == 0) (.binit g sa sb sc)
  | 0x0A => chk (scope + sd + sc + opx + ordm + wid + imm == 0) (.bexpect g sa sb)
  | 0x0B => chk (sd + sc + opx + ordm + wid + imm == 0) (.barrive g scope sa sb)
  | 0x0C => chk (scope + sc + opx + ordm + wid + imm == 0) (.bwait g (sd / 8) (sd % 8) sa sb)
  | 0x0D => chk (scope + sd + sb + sc + opx + ordm + wid + imm == 0) (.bwaitout g sa)
  | 0x0E => chk (scope + sb + sc + opx + ordm + wid + imm == 0) (.bhandle g sd sa)
  | 0x10 => chk (scope + sd + sb + sc + opx + ordm + wid == 0) (.qput g sa imm)
  | 0x11 => chk (sd + sc + opx + ordm + wid + imm == 0) (.semsig g scope sa sb)
  | 0x12 => chk (scope + sd + sc + opx + ordm + wid + imm == 0) (.capadd g sa sb)
  | 0x13 => chk (scope + sb + sc + opx + ordm + wid + imm == 0) (.capget g sd sa)
  | 0x14 => chk (scope + sd + sa + sb + sc + opx + ordm + wid + imm == 0) (.capupd g)
  | 0x15 => if opx == 0 then chk (scope + sd + sb + sc + ordm + wid + imm == 0) (.cqpush g sa) else if opx == 1 then chk (scope + sd + sb + sc + ordm + wid + imm == 0) (.cqpushTeam g sa) else none
  | _ => none

/-- The opcodes of class 0x9 (R349). -/
def dec9 (g : Guard) (op sd sa sb sc dir imm : Nat) : Option Instr :=
  match op with
  | 0x01 => chk (dir == 0 && decide (imm < 64)) (.pbuild g sd sa sb sc (BitVec.ofNat 12 imm))
  | 0x02 => chk (sd + imm == 0) (.psend g sa sb sc dir)
  | 0x03 => chk (sb + sc + dir == 0) (.rwld g sd sa (BitVec.ofNat 12 imm))
  | 0x04 => chk (sd + sc + dir == 0) (.rwst g sa sb (BitVec.ofNat 12 imm))
  | _ => none

/-- The instruction whose fields stand in the layout (R329 to R349), before the limits of R350. -/
def decodeFields (l : Layout) (fs : List Nat) (w2 : W64) : Option Instr :=
  match l, fs with
  | .c0, [_, gp, gs, op, sd, sa, sb, sc, pd, pa, pb, z] => (mkGuard gp gs).bind fun g => (chkU (z == 0)).bind fun _ => dec0 g op sd sa sb sc pd pa pb
  | .c1, [_, gp, gs, op, sd, sa, pd, z, imm] => (mkGuard gp gs).bind fun g => (chkU (z == 0)).bind fun _ => dec1 g op sd sa pd imm
  | .c2, [_, gp, gs, op, sa, z, disp] => (mkGuard gp gs).bind fun g => (chkU (z == 0)).bind fun _ => dec2 g op sa disp
  | .c3, [_, gp, gs, op, sd, sa, z] => (mkGuard gp gs).bind fun g => (chkU (z == 0)).bind fun _ => dec3 g op sd sa w2
  | .cA, [_, gp, gs, op, sd, sa, csr, z, imm] => (mkGuard gp gs).bind fun g => (chkU (z == 0)).bind fun _ => decA g op sd sa csr imm
  | .c4, [_, gp, gs, op, vd, va, vb, vc, ty, rnd, sat, z] => (mkGuard gp gs).bind fun g => (chkU (z == 0)).bind fun _ => dec4 g op vd va vb vc ty rnd sat
  | .c5, [_, gp, gs, op, vd, va, sb, z, imm, ty, rnd, sat, i] => (mkGuard gp gs).bind fun g => (chkU (z == 0)).bind fun _ => dec5 g op vd va sb imm ty rnd sat i
  | .c6, [_, gp, gs, op, tok, ts, td, sa, sb, sc, mx, rep, step] => (mkGuard gp gs).bind fun g => (chkU true).bind fun _ => dec6 g op tok ts td sa sb sc mx rep step
  | .c7, [_, gp, gs, op, tok, sd, sa, sl, sbr, rep, step] => (mkGuard gp gs).bind fun g => (chkU true).bind fun _ => dec7 g op tok sd sa sl sbr rep step
  | .c8, [_, gp, gs, op, scope, sd, sa, sb, sc, opx, ordm, wid, imm] => (mkGuard gp gs).bind fun g => (chkU true).bind fun _ => dec8 g op scope sd sa sb sc opx ordm wid imm
  | .c9, [_, gp, gs, op, sd, sa, sb, sc, dir, z, imm] => (mkGuard gp gs).bind fun g => (chkU (z == 0)).bind fun _ => dec9 g op sd sa sb sc dir imm
  | .pair, [_, gp, gs, sop, sd, sa, sb, vop, vd, va, vb] => (mkGuard gp gs).bind fun g =>
      (SOp.ofCode sop).bind fun sop => (VOp.ofCode vop).bind fun vop => some (.pair g sop sd sa sb vop vd va vb)
  | _, _ => none

/-- Keeps an instruction only when it is well-formed (R350). -/
def keepOk (i : Instr) : Option Instr := if WellFormed i then some i else none

/-- The core instruction of a first word and, for class 0x3, its second word (R328, R338). -/
def decodeCore (w w2 : W64) : Option Instr :=
  (layoutOf w.toNat).bind fun l => (decodeFields l (splitFields l.widths w.toNat) w2).bind keepOk

/-- Bytes of a core instruction by its first word: 16 for class 0x3, else 8 (R328). -/
def coreLength (w : W64) : Nat := if w.extractLsb' 60 4 == 3#4 then 16 else 8

/-- The layout, fields and second word of a core instruction. -/
def encodeFields : Instr → Option (Layout × List Nat × W64)
  | .nop g => some (.c0, [0, g.p, g.neg.toNat, 0x00, 0, 0, 0, 0, 0, 0, 0, 0], 0)
  | .add g sd sa sb => some (.c0, [0, g.p, g.neg.toNat, 0x01, sd, sa, sb, 0, 0, 0, 0, 0], 0)
  | .sub g sd sa sb => some (.c0, [0, g.p, g.neg.toNat, 0x02, sd, sa, sb, 0, 0, 0, 0, 0], 0)
  | .mul g sd sa sb => some (.c0, [0, g.p, g.neg.toNat, 0x03, sd, sa, sb, 0, 0, 0, 0, 0], 0)
  | .mulh g sd sa sb => some (.c0, [0, g.p, g.neg.toNat, 0x04, sd, sa, sb, 0, 0, 0, 0, 0], 0)
  | .mulhu g sd sa sb => some (.c0, [0, g.p, g.neg.toNat, 0x05, sd, sa, sb, 0, 0, 0, 0, 0], 0)
  | .div g sd sa sb => some (.c0, [0, g.p, g.neg.toNat, 0x06, sd, sa, sb, 0, 0, 0, 0, 0], 0)
  | .divu g sd sa sb => some (.c0, [0, g.p, g.neg.toNat, 0x07, sd, sa, sb, 0, 0, 0, 0, 0], 0)
  | .rem g sd sa sb => some (.c0, [0, g.p, g.neg.toNat, 0x08, sd, sa, sb, 0, 0, 0, 0, 0], 0)
  | .remu g sd sa sb => some (.c0, [0, g.p, g.neg.toNat, 0x09, sd, sa, sb, 0, 0, 0, 0, 0], 0)
  | .andR g sd sa sb => some (.c0, [0, g.p, g.neg.toNat, 0x0A, sd, sa, sb, 0, 0, 0, 0, 0], 0)
  | .orR g sd sa sb => some (.c0, [0, g.p, g.neg.toNat, 0x0B, sd, sa, sb, 0, 0, 0, 0, 0], 0)
  | .xorR g sd sa sb => some (.c0, [0, g.p, g.neg.toNat, 0x0C, sd, sa, sb, 0, 0, 0, 0, 0], 0)
  | .andn g sd sa sb => some (.c0, [0, g.p, g.neg.toNat, 0x0D, sd, sa, sb, 0, 0, 0, 0, 0], 0)
  | .shl g sd sa sb => some (.c0, [0, g.p, g.neg.toNat, 0x0E, sd, sa, sb, 0, 0, 0, 0, 0], 0)
  | .shr g sd sa sb => some (.c0, [0, g.p, g.neg.toNat, 0x0F, sd, sa, sb, 0, 0, 0, 0, 0], 0)
  | .sar g sd sa sb => some (.c0, [0, g.p, g.neg.toNat, 0x10, sd, sa, sb, 0, 0, 0, 0, 0], 0)
  | .minR g sd sa sb => some (.c0, [0, g.p, g.neg.toNat, 0x11, sd, sa, sb, 0, 0, 0, 0, 0], 0)
  | .maxR g sd sa sb => some (.c0, [0, g.p, g.neg.toNat, 0x12, sd, sa, sb, 0, 0, 0, 0, 0], 0)
  | .minu g sd sa sb => some (.c0, [0, g.p, g.neg.toNat, 0x13, sd, sa, sb, 0, 0, 0, 0, 0], 0)
  | .maxu g sd sa sb => some (.c0, [0, g.p, g.neg.toNat, 0x14, sd, sa, sb, 0, 0, 0, 0, 0], 0)
  | .clz g sd sa => some (.c0, [0, g.p, g.neg.toNat, 0x15, sd, sa, 0, 0, 0, 0, 0, 0], 0)
  | .ctz g sd sa => some (.c0, [0, g.p, g.neg.toNat, 0x16, sd, sa, 0, 0, 0, 0, 0, 0], 0)
  | .popc g sd sa => some (.c0, [0, g.p, g.neg.toNat, 0x17, sd, sa, 0, 0, 0, 0, 0, 0], 0)
  | .ext g sd sa x => some (.c0, [0, g.p, g.neg.toNat, 0x18, sd, sa, x.code, 0, 0, 0, 0, 0], 0)
  | .sel g sd sa sb pa => some (.c0, [0, g.p, g.neg.toNat, 0x19, sd, sa, sb, 0, 0, pa, 0, 0], 0)
  | .cmp g c sa sb pd => some (.c0, [0, g.p, g.neg.toNat, 0x1A, c.code, sa, sb, 0, pd, 0, 0, 0], 0)
  | .madd g sd sa sb sc => some (.c0, [0, g.p, g.neg.toNat, 0x1B, sd, sa, sb, sc, 0, 0, 0, 0], 0)
  | .pand g pd pa pb => some (.c0, [0, g.p, g.neg.toNat, 0x1C, 0, 0, 0, 0, pd, pa, pb, 0], 0)
  | .por g pd pa pb => some (.c0, [0, g.p, g.neg.toNat, 0x1D, 0, 0, 0, 0, pd, pa, pb, 0], 0)
  | .pxor g pd pa pb => some (.c0, [0, g.p, g.neg.toNat, 0x1E, 0, 0, 0, 0, pd, pa, pb, 0], 0)
  | .pnot g pd pa => some (.c0, [0, g.p, g.neg.toNat, 0x1F, 0, 0, 0, 0, pd, pa, 0, 0], 0)
  | .pget g sd => some (.c0, [0, g.p, g.neg.toNat, 0x20, sd, 0, 0, 0, 0, 0, 0, 0], 0)
  | .pset g sa => some (.c0, [0, g.p, g.neg.toNat, 0x21, 0, sa, 0, 0, 0, 0, 0, 0], 0)
  | .addImm g sd sa imm => some (.c1, [1, g.p, g.neg.toNat, 0x01, sd, sa, 0, 0, imm.toNat], 0)
  | .subImm g sd sa imm => some (.c1, [1, g.p, g.neg.toNat, 0x02, sd, sa, 0, 0, imm.toNat], 0)
  | .mulImm g sd sa imm => some (.c1, [1, g.p, g.neg.toNat, 0x03, sd, sa, 0, 0, imm.toNat], 0)
  | .andImm g sd sa imm => some (.c1, [1, g.p, g.neg.toNat, 0x0A, sd, sa, 0, 0, imm.toNat], 0)
  | .orImm g sd sa imm => some (.c1, [1, g.p, g.neg.toNat, 0x0B, sd, sa, 0, 0, imm.toNat], 0)
  | .xorImm g sd sa imm => some (.c1, [1, g.p, g.neg.toNat, 0x0C, sd, sa, 0, 0, imm.toNat], 0)
  | .shlImm g sd sa imm => some (.c1, [1, g.p, g.neg.toNat, 0x0E, sd, sa, 0, 0, imm.toNat], 0)
  | .shrImm g sd sa imm => some (.c1, [1, g.p, g.neg.toNat, 0x0F, sd, sa, 0, 0, imm.toNat], 0)
  | .sarImm g sd sa imm => some (.c1, [1, g.p, g.neg.toNat, 0x10, sd, sa, 0, 0, imm.toNat], 0)
  | .minImm g sd sa imm => some (.c1, [1, g.p, g.neg.toNat, 0x11, sd, sa, 0, 0, imm.toNat], 0)
  | .maxImm g sd sa imm => some (.c1, [1, g.p, g.neg.toNat, 0x12, sd, sa, 0, 0, imm.toNat], 0)
  | .minuImm g sd sa imm => some (.c1, [1, g.p, g.neg.toNat, 0x13, sd, sa, 0, 0, imm.toNat], 0)
  | .maxuImm g sd sa imm => some (.c1, [1, g.p, g.neg.toNat, 0x14, sd, sa, 0, 0, imm.toNat], 0)
  | .cmpImm g c sa pd imm => some (.c1, [1, g.p, g.neg.toNat, 0x1A, c.code, sa, pd, 0, imm.toNat], 0)
  | .sppeer g sd sa imm => some (.c1, [1, g.p, g.neg.toNat, 0x20, sd, sa, 0, 0, imm.toNat], 0)
  | .addpc g sd imm => some (.c1, [1, g.p, g.neg.toNat, 0x21, sd, 0, 0, 0, imm.toNat], 0)
  | .lds g k sd sa imm => some (.c1, [1, g.p, g.neg.toNat, (0x40 + k.code), sd, sa, 0, 0, imm.toNat], 0)
  | .sts g k sd sa imm => some (.c1, [1, g.p, g.neg.toNat, (0x48 + k.code), sd, sa, 0, 0, imm.toNat], 0)
  | .ldg g k sd sa imm => some (.c1, [1, g.p, g.neg.toNat, (0x50 + k.code), sd, sa, 0, 0, imm.toNat], 0)
  | .stg g k sd sa imm => some (.c1, [1, g.p, g.neg.toNat, (0x58 + k.code), sd, sa, 0, 0, imm.toNat], 0)
  | .br g disp => some (.c2, [2, g.p, g.neg.toNat, 0x01, 0, 0, disp.toNat], 0)
  | .bz g sa disp => some (.c2, [2, g.p, g.neg.toNat, 0x02, sa, 0, disp.toNat], 0)
  | .bnz g sa disp => some (.c2, [2, g.p, g.neg.toNat, 0x03, sa, 0, disp.toNat], 0)
  | .brmz g disp => some (.c2, [2, g.p, g.neg.toNat, 0x04, 0, 0, disp.toNat], 0)
  | .call g disp => some (.c2, [2, g.p, g.neg.toNat, 0x05, 0, 0, disp.toNat], 0)
  | .callr g sa => some (.c2, [2, g.p, g.neg.toNat, 0x06, sa, 0, 0], 0)
  | .ret g => some (.c2, [2, g.p, g.neg.toNat, 0x07, 0, 0, 0], 0)
  | .jr g sa => some (.c2, [2, g.p, g.neg.toNat, 0x08, sa, 0, 0], 0)
  | .loop g sa disp => some (.c2, [2, g.p, g.neg.toNat, 0x09, sa, 0, disp.toNat], 0)
  | .loopq g disp => some (.c2, [2, g.p, g.neg.toNat, 0x0A, 0, 0, disp.toNat], 0)
  | .exit g => some (.c2, [2, g.p, g.neg.toNat, 0x0B, 0, 0, 0], 0)
  | .li g sd imm => some (.c3, [3, g.p, g.neg.toNat, 0x01, sd, 0, 0], imm)
  | .addx g sd sa imm => some (.c3, [3, g.p, g.neg.toNat, 0x02, sd, sa, 0], imm)
  | .andx g sd sa imm => some (.c3, [3, g.p, g.neg.toNat, 0x03, sd, sa, 0], imm)
  | .orx g sd sa imm => some (.c3, [3, g.p, g.neg.toNat, 0x04, sd, sa, 0], imm)
  | .csrr g sd csr => some (.cA, [10, g.p, g.neg.toNat, 0x01, sd, 0, csr, 0, 0], 0)
  | .csrw g sa csr => some (.cA, [10, g.p, g.neg.toNat, 0x02, 0, sa, csr, 0, 0], 0)
  | .csrs g sa csr => some (.cA, [10, g.p, g.neg.toNat, 0x03, 0, sa, csr, 0, 0], 0)
  | .csrc g sa csr => some (.cA, [10, g.p, g.neg.toNat, 0x04, 0, sa, csr, 0, 0], 0)
  | .trap g imm => some (.cA, [10, g.p, g.neg.toNat, 0x08, 0, 0, 0, 0, imm.toNat], 0)
  | .brk g imm => some (.cA, [10, g.p, g.neg.toNat, 0x09, 0, 0, 0, 0, imm.toNat], 0)
  | .icinv g => some (.cA, [10, g.p, g.neg.toNat, 0x0A, 0, 0, 0, 0, 0], 0)
  | .fmtpush g sa => some (.cA, [10, g.p, g.neg.toNat, 0x0B, 0, sa, 0, 0, 0], 0)
  | .vadd g vd va vb ty rnd sat => some (.c4, [4, g.p, g.neg.toNat, 0x01, vd, va, vb, 0, ty.code, rnd.code, sat.toNat, 0], 0)
  | .vsub g vd va vb ty rnd sat => some (.c4, [4, g.p, g.neg.toNat, 0x02, vd, va, vb, 0, ty.code, rnd.code, sat.toNat, 0], 0)
  | .vmul g vd va vb ty rnd sat => some (.c4, [4, g.p, g.neg.toNat, 0x03, vd, va, vb, 0, ty.code, rnd.code, sat.toNat, 0], 0)
  | .vfma g vd va vb vc ty rnd sat => some (.c4, [4, g.p, g.neg.toNat, 0x04, vd, va, vb, vc, ty.code, rnd.code, sat.toNat, 0], 0)
  | .vmin g vd va vb ty => some (.c4, [4, g.p, g.neg.toNat, 0x05, vd, va, vb, 0, ty.code, 0, 0, 0], 0)
  | .vmax g vd va vb ty => some (.c4, [4, g.p, g.neg.toNat, 0x06, vd, va, vb, 0, ty.code, 0, 0, 0], 0)
  | .vabs g vd va ty sat => some (.c4, [4, g.p, g.neg.toNat, 0x07, vd, va, 0, 0, ty.code, 0, sat.toNat, 0], 0)
  | .vneg g vd va ty sat => some (.c4, [4, g.p, g.neg.toNat, 0x08, vd, va, 0, 0, ty.code, 0, sat.toNat, 0], 0)
  | .vand g vd va vb => some (.c4, [4, g.p, g.neg.toNat, 0x09, vd, va, vb, 0, 0, 0, 0, 0], 0)
  | .vor g vd va vb => some (.c4, [4, g.p, g.neg.toNat, 0x0A, vd, va, vb, 0, 0, 0, 0, 0], 0)
  | .vxor g vd va vb => some (.c4, [4, g.p, g.neg.toNat, 0x0B, vd, va, vb, 0, 0, 0, 0, 0], 0)
  | .vnot g vd va => some (.c4, [4, g.p, g.neg.toNat, 0x0C, vd, va, 0, 0, 0, 0, 0, 0], 0)
  | .vshl g vd va vb ty => some (.c4, [4, g.p, g.neg.toNat, 0x0D, vd, va, vb, 0, ty.code, 0, 0, 0], 0)
  | .vshr g vd va vb ty => some (.c4, [4, g.p, g.neg.toNat, 0x0E, vd, va, vb, 0, ty.code, 0, 0, 0], 0)
  | .vsar g vd va vb ty => some (.c4, [4, g.p, g.neg.toNat, 0x0F, vd, va, vb, 0, ty.code, 0, 0, 0], 0)
  | .vcmp g c vd va vb ty => some (.c4, [4, g.p, g.neg.toNat, 0x10, vd, va, vb, c.code, ty.code, 0, 0, 0], 0)
  | .vsel g vd va vb vc ty => some (.c4, [4, g.p, g.neg.toNat, 0x11, vd, va, vb, vc, ty.code, 0, 0, 0], 0)
  | .vmov g vd va => some (.c4, [4, g.p, g.neg.toNat, 0x12, vd, va, 0, 0, 0, 0, 0, 0], 0)
  | .vcvt g vd va dst src rnd sat => some (.c4, [4, g.p, g.neg.toNat, 0x13, vd, va, 0, src.code, dst.code, rnd.code, sat.toNat, 0], 0)
  | .vexp2 g vd va => some (.c4, [4, g.p, g.neg.toNat, 0x14, vd, va, 0, 0, 0, 0, 0, 0], 0)
  | .vlog2 g vd va => some (.c4, [4, g.p, g.neg.toNat, 0x15, vd, va, 0, 0, 0, 0, 0, 0], 0)
  | .vrcp g vd va ty rnd => some (.c4, [4, g.p, g.neg.toNat, 0x16, vd, va, 0, 0, ty.code, rnd.code, 0, 0], 0)
  | .vrsq g vd va ty rnd => some (.c4, [4, g.p, g.neg.toNat, 0x17, vd, va, 0, 0, ty.code, rnd.code, 0, 0], 0)
  | .vredadd g vd va ty rnd sat => some (.c4, [4, g.p, g.neg.toNat, 0x18, vd, va, 0, 0, ty.code, rnd.code, sat.toNat, 0], 0)
  | .vredmax g vd va ty => some (.c4, [4, g.p, g.neg.toNat, 0x19, vd, va, 0, 0, ty.code, 0, 0, 0], 0)
  | .vredmin g vd va ty => some (.c4, [4, g.p, g.neg.toNat, 0x1A, vd, va, 0, 0, ty.code, 0, 0, 0], 0)
  | .vlse2 g vd va => some (.c4, [4, g.p, g.neg.toNat, 0x1B, vd, va, 0, 0, 0, 0, 0, 0], 0)
  | .vscan g vd va ty sat => some (.c4, [4, g.p, g.neg.toNat, 0x1C, vd, va, 0, 0, ty.code, 0, sat.toNat, 0], 0)
  | .vhist g vd va ty => some (.c4, [4, g.p, g.neg.toNat, 0x1D, vd, va, 0, 0, ty.code, 0, 0, 0], 0)
  | .vperm g vd va vb ty => some (.c4, [4, g.p, g.neg.toNat, 0x1E, vd, va, vb, 0, ty.code, 0, 0, 0], 0)
  | .viota g vd ty => some (.c4, [4, g.p, g.neg.toNat, 0x1F, vd, 0, 0, 0, ty.code, 0, 0, 0], 0)
  | .vamax g vd va ty => some (.c4, [4, g.p, g.neg.toNat, 0x20, vd, va, 0, 0, ty.code, 0, 0, 0], 0)
  | .vscale g vd va ty rnd => some (.c4, [4, g.p, g.neg.toNat, 0x21, vd, va, 0, 0, ty.code, rnd.code, 0, 0], 0)
  | .vbexp g vd va => some (.c4, [4, g.p, g.neg.toNat, 0x22, vd, va, 0, 0, 0, 0, 0, 0], 0)
  | .vtobi g vd va vb => some (.c4, [4, g.p, g.neg.toNat, 0x23, vd, va, vb, 0, 0, 0, 0, 0], 0)
  | .vfrombi g vd va vb rnd sat => some (.c4, [4, g.p, g.neg.toNat, 0x24, vd, va, vb, 0, 0, rnd.code, sat.toNat, 0], 0)
  | .mpush g va => some (.c4, [4, g.p, g.neg.toNat, 0x25, 0, va, 0, 0, 0, 0, 0, 0], 0)
  | .minv g => some (.c4, [4, g.p, g.neg.toNat, 0x26, 0, 0, 0, 0, 0, 0, 0, 0], 0)
  | .mpop g => some (.c4, [4, g.p, g.neg.toNat, 0x27, 0, 0, 0, 0, 0, 0, 0, 0], 0)
  | .vaddScalar g vd va b ty rnd sat => some (.c5, [5, g.p, g.neg.toNat, 0x01, vd, va, b.sb, 0, b.im, ty.code, rnd.code, sat.toNat, b.bit], 0)
  | .vsubScalar g vd va b ty rnd sat => some (.c5, [5, g.p, g.neg.toNat, 0x02, vd, va, b.sb, 0, b.im, ty.code, rnd.code, sat.toNat, b.bit], 0)
  | .vmulScalar g vd va b ty rnd sat => some (.c5, [5, g.p, g.neg.toNat, 0x03, vd, va, b.sb, 0, b.im, ty.code, rnd.code, sat.toNat, b.bit], 0)
  | .vminScalar g vd va b ty => some (.c5, [5, g.p, g.neg.toNat, 0x05, vd, va, b.sb, 0, b.im, ty.code, 0, 0, b.bit], 0)
  | .vmaxScalar g vd va b ty => some (.c5, [5, g.p, g.neg.toNat, 0x06, vd, va, b.sb, 0, b.im, ty.code, 0, 0, b.bit], 0)
  | .vandScalar g vd va b ty => some (.c5, [5, g.p, g.neg.toNat, 0x09, vd, va, b.sb, 0, b.im, ty.code, 0, 0, b.bit], 0)
  | .vorScalar g vd va b ty => some (.c5, [5, g.p, g.neg.toNat, 0x0A, vd, va, b.sb, 0, b.im, ty.code, 0, 0, b.bit], 0)
  | .vxorScalar g vd va b ty => some (.c5, [5, g.p, g.neg.toNat, 0x0B, vd, va, b.sb, 0, b.im, ty.code, 0, 0, b.bit], 0)
  | .vshlScalar g vd va b ty => some (.c5, [5, g.p, g.neg.toNat, 0x0D, vd, va, b.sb, 0, b.im, ty.code, 0, 0, b.bit], 0)
  | .vshrScalar g vd va b ty => some (.c5, [5, g.p, g.neg.toNat, 0x0E, vd, va, b.sb, 0, b.im, ty.code, 0, 0, b.bit], 0)
  | .vsarScalar g vd va b ty => some (.c5, [5, g.p, g.neg.toNat, 0x0F, vd, va, b.sb, 0, b.im, ty.code, 0, 0, b.bit], 0)
  | .vcmpScalar g c vd va b ty => some (.c5, [5, g.p, g.neg.toNat, 0x10, vd, va, b.sb, 0, b.im, ty.code, (c.code / 2), (c.code % 2), b.bit], 0)
  | .vbcast g vd b ty => some (.c5, [5, g.p, g.neg.toNat, 0x30, vd, 0, b.sb, 0, b.im, ty.code, 0, 0, b.bit], 0)
  | .vld g vd sb imm => some (.c5, [5, g.p, g.neg.toNat, 0x31, vd, 0, sb, 0, imm.toNat, 0, 0, 0, 0], 0)
  | .vst g vd sb imm => some (.c5, [5, g.p, g.neg.toNat, 0x32, vd, 0, sb, 0, imm.toNat, 0, 0, 0, 0], 0)
  | .vldx g vd va sb imm => some (.c5, [5, g.p, g.neg.toNat, 0x33, vd, va, sb, 0, imm.toNat, 0, 0, 0, 0], 0)
  | .vstx g vd va sb imm => some (.c5, [5, g.p, g.neg.toNat, 0x34, vd, va, sb, 0, imm.toNat, 0, 0, 0, 0], 0)
  | .vextr g sb va lane ty => some (.c5, [5, g.p, g.neg.toNat, 0x35, 0, va, sb, 0, lane, ty.code, 0, 0, 0], 0)
  | .vins g vd sb lane ty => some (.c5, [5, g.p, g.neg.toNat, 0x36, vd, 0, sb, 0, lane, ty.code, 0, 0, 0], 0)
  | .ldw g sa bed e ts => some (.c6, [6, g.p, g.neg.toNat, 0x01, e.tok, ts.toNat, 0, sa, 0, 0, bed.toNat, e.rep, e.step.toNat], 0)
  | .wswap g e ts => some (.c6, [6, g.p, g.neg.toNat, 0x02, e.tok, ts.toNat, 0, 0, 0, 0, 0, e.rep, e.step.toNat], 0)
  | .mm g td sa clr e ts => some (.c6, [6, g.p, g.neg.toNat, 0x03, e.tok, ts.toNat, td, sa, 0, 0, clr.toNat, e.rep, e.step.toNat], 0)
  | .mgroup g td sa sb sc e ts => some (.c6, [6, g.p, g.neg.toNat, 0x04, e.tok, ts.toNat, td, sa, sb, sc, 0, e.rep, e.step.toNat], 0)
  | .accz g td e ts => some (.c6, [6, g.p, g.neg.toNat, 0x05, e.tok, ts.toNat, td, 0, 0, 0, 0, e.rep, e.step.toNat], 0)
  | .accld g td sa e ts => some (.c6, [6, g.p, g.neg.toNat, 0x06, e.tok, ts.toNat, td, sa, 0, 0, 0, e.rep, e.step.toNat], 0)
  | .accwr g td sa sb e ts => some (.c6, [6, g.p, g.neg.toNat, 0x07, e.tok, ts.toNat, td, sa, sb, 0, 0, e.rep, e.step.toNat], 0)
  | .plnset g td sa e ts => some (.c6, [6, g.p, g.neg.toNat, 0x08, e.tok, ts.toNat, td, sa, 0, 0, 0, e.rep, e.step.toNat], 0)
  | .plnld g td sa e ts => some (.c6, [6, g.p, g.neg.toNat, 0x09, e.tok, ts.toNat, td, sa, 0, 0, 0, e.rep, e.step.toNat], 0)
  | .margset g sa sb e ts => some (.c6, [6, g.p, g.neg.toNat, 0x0A, e.tok, ts.toNat, 0, sa, sb, 0, 0, e.rep, e.step.toNat], 0)
  | .balance g sa e ts => some (.c6, [6, g.p, g.neg.toNat, 0x0B, e.tok, ts.toNat, 0, sa, 0, 0, 0, e.rep, e.step.toNat], 0)
  | .plnrd g td sa e ts => some (.c6, [6, g.p, g.neg.toNat, 0x0C, e.tok, ts.toNat, td, sa, 0, 0, 0, e.rep, e.step.toNat], 0)
  | .plnscl g sa sb e ts => some (.c6, [6, g.p, g.neg.toNat, 0x0D, e.tok, ts.toNat, 0, sa, sb, 0, 0, e.rep, e.step.toNat], 0)
  | .cpin g sd sa sl sbr e => some (.c7, [7, g.p, g.neg.toNat, 0x01, e.tok, sd, sa, sl, sbr, e.rep, e.step.toNat], 0)
  | .cpinScl g sa sl e => some (.c7, [7, g.p, g.neg.toNat, 0x02, e.tok, 0, sa, sl, 0, e.rep, e.step.toNat], 0)
  | .cqfill g sa sl e => some (.c7, [7, g.p, g.neg.toNat, 0x03, e.tok, 0, sa, sl, 0, e.rep, e.step.toNat], 0)
  | .cpgath g sd sa sl sbr e => some (.c7, [7, g.p, g.neg.toNat, 0x04, e.tok, sd, sa, sl, sbr, e.rep, e.step.toNat], 0)
  | .cpfill g sd sa sl sbr e => some (.c7, [7, g.p, g.neg.toNat, 0x05, e.tok, sd, sa, sl, sbr, e.rep, e.step.toNat], 0)
  | .cploc g sd sa sl sbr e => some (.c7, [7, g.p, g.neg.toNat, 0x06, e.tok, sd, sa, sl, sbr, e.rep, e.step.toNat], 0)
  | .cpout g sd sa sl sbr e => some (.c7, [7, g.p, g.neg.toNat, 0x08, e.tok, sd, sa, sl, sbr, e.rep, e.step.toNat], 0)
  | .cppeer g sd sa sl sbr e => some (.c7, [7, g.p, g.neg.toNat, 0x09, e.tok, sd, sa, sl, sbr, e.rep, e.step.toNat], 0)
  | .cpmc g sd sa sl sbr e => some (.c7, [7, g.p, g.neg.toNat, 0x0A, e.tok, sd, sa, sl, sbr, e.rep, e.step.toNat], 0)
  | .cpscat g sd sa sl sbr e => some (.c7, [7, g.p, g.neg.toNat, 0x0B, e.tok, sd, sa, sl, sbr, e.rep, e.step.toNat], 0)
  | .cpmem g sd sa sl sbr e => some (.c7, [7, g.p, g.neg.toNat, 0x0C, e.tok, sd, sa, sl, sbr, e.rep, e.step.toNat], 0)
  | .amo g op ord w scope sd sa sb imm => some (.c8, [8, g.p, g.neg.toNat, 0x01, scope, sd, sa, sb, 0, op.code, ord.code, w.code, imm.toNat], 0)
  | .amocas g ord w scope sd sa sb sc imm => some (.c8, [8, g.p, g.neg.toNat, 0x02, scope, sd, sa, sb, sc, 0, ord.code, w.code, imm.toNat], 0)
  | .fenceAcq g scope => some (.c8, [8, g.p, g.neg.toNat, 0x03, scope, 0, 0, 0, 0, 1, 0, 0, 0], 0)
  | .fenceRel g scope => some (.c8, [8, g.p, g.neg.toNat, 0x03, scope, 0, 0, 0, 0, 2, 0, 0, 0], 0)
  | .fenceFull g scope => some (.c8, [8, g.p, g.neg.toNat, 0x03, scope, 0, 0, 0, 0, 3, 0, 0, 0], 0)
  | .flush g scope => some (.c8, [8, g.p, g.neg.toNat, 0x04, scope, 0, 0, 0, 0, 0, 0, 0, 0], 0)
  | .qfence g qs => some (.c8, [8, g.p, g.neg.toNat, 0x05, 0, 0, 0, 0, 0, 0, 0, 0, qs.toNat], 0)
  | .qdrain g => some (.c8, [8, g.p, g.neg.toNat, 0x06, 0, 0, 0, 0, 0, 0, 0, 0, 0], 0)
  | .tkpush g s7 => some (.c8, [8, g.p, g.neg.toNat, 0x07, 0, 0, 0, 0, 0, 0, 0, 0, s7.toNat], 0)
  | .tkpop g s7 => some (.c8, [8, g.p, g.neg.toNat, 0x08, 0, 0, 0, 0, 0, 0, 0, 0, s7.toNat], 0)
  | .binit g sa sb sc => some (.c8, [8, g.p, g.neg.toNat, 0x09, 0, 0, sa, sb, sc, 0, 0, 0, 0], 0)
  | .bexpect g sa sb => some (.c8, [8, g.p, g.neg.toNat, 0x0A, 0, 0, sa, sb, 0, 0, 0, 0, 0], 0)
  | .barrive g scope sa sb => some (.c8, [8, g.p, g.neg.toNat, 0x0B, scope, 0, sa, sb, 0, 0, 0, 0, 0], 0)
  | .bwait g ps pe sa sb => some (.c8, [8, g.p, g.neg.toNat, 0x0C, 0, (8 * ps + pe), sa, sb, 0, 0, 0, 0, 0], 0)
  | .bwaitout g sa => some (.c8, [8, g.p, g.neg.toNat, 0x0D, 0, 0, sa, 0, 0, 0, 0, 0, 0], 0)
  | .bhandle g sd sa => some (.c8, [8, g.p, g.neg.toNat, 0x0E, 0, sd, sa, 0, 0, 0, 0, 0, 0], 0)
  | .qput g sa q => some (.c8, [8, g.p, g.neg.toNat, 0x10, 0, 0, sa, 0, 0, 0, 0, 0, q], 0)
  | .semsig g scope sa sb => some (.c8, [8, g.p, g.neg.toNat, 0x11, scope, 0, sa, sb, 0, 0, 0, 0, 0], 0)
  | .capadd g sa sb => some (.c8, [8, g.p, g.neg.toNat, 0x12, 0, 0, sa, sb, 0, 0, 0, 0, 0], 0)
  | .capget g sd sa => some (.c8, [8, g.p, g.neg.toNat, 0x13, 0, sd, sa, 0, 0, 0, 0, 0, 0], 0)
  | .capupd g => some (.c8, [8, g.p, g.neg.toNat, 0x14, 0, 0, 0, 0, 0, 0, 0, 0, 0], 0)
  | .cqpush g sa => some (.c8, [8, g.p, g.neg.toNat, 0x15, 0, 0, sa, 0, 0, 0, 0, 0, 0], 0)
  | .cqpushTeam g sa => some (.c8, [8, g.p, g.neg.toNat, 0x15, 0, 0, sa, 0, 0, 1, 0, 0, 0], 0)
  | .pbuild g sd sa sb sc imm => some (.c9, [9, g.p, g.neg.toNat, 0x01, sd, sa, sb, sc, 0, 0, imm.toNat], 0)
  | .psend g sa sb sc dir => some (.c9, [9, g.p, g.neg.toNat, 0x02, 0, sa, sb, sc, dir, 0, 0], 0)
  | .rwld g sd sa imm => some (.c9, [9, g.p, g.neg.toNat, 0x03, sd, sa, 0, 0, 0, 0, imm.toNat], 0)
  | .rwst g sa sb imm => some (.c9, [9, g.p, g.neg.toNat, 0x04, 0, sa, sb, 0, 0, 0, imm.toNat], 0)
  | .pair g sop sd sa sb vop vd va vb => some (.pair, [3, g.p, g.neg.toNat, sop.code, sd, sa, sb, vop.code, vd, va, vb], 0)
  | _ => none

/-! ### Pebble and slate words -/

/-- The pebble operation of an opcode and its operand (R112), before the limits of the operand. -/
def decodePebbleOp (op x : Nat) : Option Instr :=
  match op with
  | 0x00 => chk (x == 0) .kill
  | 0x01 => chk (decide (x < 2048)) (.pushi (BitVec.ofNat 11 x))
  | 0x02 => some (.pushk x)
  | 0x03 => some (.popk x)
  | 0x04 => some (.addk x)
  | 0x05 => chk (x == 0) .dup
  | 0x06 => chk (x == 0) .swap
  | 0x07 => chk (x == 0) .pebbleDrop
  | 0x08 => chk (x == 0) .pebbleAdd
  | 0x09 => chk (x == 0) .pebbleSub
  | 0x0A => chk (x == 0) .pebbleAnd
  | 0x0B => chk (x == 0) .pebbleOr
  | 0x0C => chk (x == 0) .pebbleXor
  | 0x0D => chk (x == 0) .pebbleShl
  | 0x0E => chk (x == 0) .pebbleCmpeq
  | 0x0F => chk (x == 0) .pebbleCmplt
  | 0x10 => chk (decide (x < 2048)) (.pebbleBz (BitVec.ofNat 11 x))
  | 0x11 => chk (decide (x < 2048)) (.pebbleBnz (BitVec.ofNat 11 x))
  | 0x12 => chk (x == 0) .ldr
  | 0x13 => chk (x == 0) .addr
  | 0x14 => some (.ctr x)
  | 0x15 => some (.ctrinc x)
  | 0x16 => if x == 3 then some .hop else some (.coord x)
  | 0x17 => some (.loadCount x)
  | 0x18 => some (.fwd x)
  | 0x19 => chk (decide (x < 64)) (.clone (BitVec.ofNat 6 x))
  | 0x1A => chk (x == 0) .deliver
  | 0x1B => chk (x == 0) .park
  | _ => none
/-- The pebble operation of a 16-bit word (R112). -/
def decodePebble (w : W16) : Option Instr := (decodePebbleOp (w.toNat / 2048) (w.toNat % 2048)).bind keepOk
/-- The word of a pebble operation (R112). -/
def encodePebble : Instr → Option Nat
  | .kill => some 0x0000
  | .pushi i => some (0x0800 + i.toNat)
  | .pushk n => some (0x1000 + n)
  | .popk n => some (0x1800 + n)
  | .addk n => some (0x2000 + n)
  | .dup => some 0x2800
  | .swap => some 0x3000
  | .pebbleDrop => some 0x3800
  | .pebbleAdd => some 0x4000
  | .pebbleSub => some 0x4800
  | .pebbleAnd => some 0x5000
  | .pebbleOr => some 0x5800
  | .pebbleXor => some 0x6000
  | .pebbleShl => some 0x6800
  | .pebbleCmpeq => some 0x7000
  | .pebbleCmplt => some 0x7800
  | .pebbleBz d => some (0x8000 + d.toNat)
  | .pebbleBnz d => some (0x8800 + d.toNat)
  | .ldr => some 0x9000
  | .addr => some 0x9800
  | .ctr n => some (0xA000 + n)
  | .ctrinc n => some (0xA800 + n)
  | .coord sel => some (0xB000 + sel)
  | .hop => some 0xB003
  | .loadCount d => some (0xB800 + d)
  | .fwd d => some (0xC000 + d)
  | .clone m => some (0xC800 + m.toNat)
  | .deliver => some 0xD000
  | .park => some 0xD800
  | _ => none

/-- The slate operation of an opcode, GD, GA and the low 18 bits (R201), before the limits of the fields. -/
def decodeSlateOp (op gd ga im : Nat) : Option Instr :=
  match op with
  | 0x01 => some (.ldv gd ga (im / 131072 == 1) (im / 2048 % 64) (im % 2048))
  | 0x02 => chk (im / 64 % 2048 == 0) (.ldm gd ga (im / 131072 == 1) (im % 64))
  | 0x03 => chk (im / 64 % 2048 == 0) (.stm gd ga (im / 131072 == 1) (im % 64))
  | 0x04 => chk (im / 131072 == 0) (.argmax gd ga (im / 2048 % 64) (im % 2048))
  | 0x08 => chk (gd == 0 && im / 256 % 256 == 0) (.brf ga (im / 65536) (im % 256))
  | 0x09 => chk (ga == 0 && im / 65536 == 0 && im / 128 % 2 == 0) (.slateLoop gd (im / 256 % 256) (im % 128))
  | 0x0A => chk (gd == 0 && ga == 0 && im == 0) .endl
  | 0x0C => if im == 0 then some (.emitDispatch gd ga) else if im == 65536 then chk (ga == 0) (.emitPreempt gd)
      else if im == 131072 then some (.emitShare gd ga)
      else if decide (196608 ≤ im) && decide (im < 196612) then chk (ga == 0) (.emitFaultact gd (im - 196608)) else none
  | 0x0D => chk (gd == 0 && ga == 0 && im == 0) .slateRet
  | 0x10 => chk (im / 16 == 0) (.slateAdd gd ga (im % 16))
  | 0x30 => some (.slateAddImm gd ga (BitVec.ofNat 18 im))
  | 0x11 => chk (im / 16 == 0) (.slateSub gd ga (im % 16))
  | 0x31 => some (.slateSubImm gd ga (BitVec.ofNat 18 im))
  | 0x12 => chk (im / 16 == 0) (.slateMul gd ga (im % 16))
  | 0x32 => some (.slateMulImm gd ga (BitVec.ofNat 18 im))
  | 0x13 => chk (im / 16 == 0) (.slateAnd gd ga (im % 16))
  | 0x33 => some (.slateAndImm gd ga (BitVec.ofNat 18 im))
  | 0x14 => chk (im / 16 == 0) (.slateOr gd ga (im % 16))
  | 0x34 => some (.slateOrImm gd ga (BitVec.ofNat 18 im))
  | 0x15 => chk (im / 16 == 0) (.slateXor gd ga (im % 16))
  | 0x35 => some (.slateXorImm gd ga (BitVec.ofNat 18 im))
  | 0x16 => chk (im / 16 == 0) (.slateShl gd ga (im % 16))
  | 0x36 => some (.slateShlImm gd ga (BitVec.ofNat 18 im))
  | 0x17 => chk (im / 16 == 0) (.slateShr gd ga (im % 16))
  | 0x37 => some (.slateShrImm gd ga (BitVec.ofNat 18 im))
  | 0x18 => chk (im / 16 == 0) (.slateMin gd ga (im % 16))
  | 0x38 => some (.slateMinImm gd ga (BitVec.ofNat 18 im))
  | 0x19 => chk (im / 16 == 0) (.slateMax gd ga (im % 16))
  | 0x39 => some (.slateMaxImm gd ga (BitVec.ofNat 18 im))
  | 0x1A => chk (im / 16 == 0) (.slateCmplt gd ga (im % 16))
  | 0x3A => some (.slateCmpltImm gd ga (BitVec.ofNat 18 im))
  | 0x1B => chk (im / 16 == 0) (.slateCmpeq gd ga (im % 16))
  | 0x3B => some (.slateCmpeqImm gd ga (BitVec.ofNat 18 im))
  | 0x1C => chk (im / 16 == 0) (.slateSel gd ga (im % 16))
  | 0x3C => some (.slateSelImm gd ga (BitVec.ofNat 18 im))
  | _ => none
/-- The slate operation of a 32-bit word (R201). -/
def decodeSlate (w : W32) : Option Instr :=
  match splitFields [6, 4, 4, 18] w.toNat with
  | [op, gd, ga, im] => (decodeSlateOp op gd ga im).bind keepOk
  | _ => none
/-- Opcode, GD, GA and low 18 bits of a slate operation (R201 to R209). -/
def encodeSlate : Instr → Option (List Nat)
  | .ldv d a x k c => some [0x01, d, a, 131072 * x.toNat + 2048 * k + c]
  | .ldm d a x c => some [0x02, d, a, 131072 * x.toNat + c]
  | .stm d a x c => some [0x03, d, a, 131072 * x.toNat + c]
  | .argmax d a k n => some [0x04, d, a, 2048 * k + n]
  | .brf a c d => some [0x08, 0, a, 65536 * c + d]
  | .slateLoop d l n => some [0x09, d, 0, 256 * l + n]
  | .endl => some [0x0A, 0, 0, 0]
  | .emitDispatch d a => some [0x0C, d, a, 0]
  | .emitPreempt d => some [0x0C, d, 0, 65536]
  | .emitShare d a => some [0x0C, d, a, 131072]
  | .emitFaultact d t => some [0x0C, d, 0, 196608 + t]
  | .slateRet => some [0x0D, 0, 0, 0]
  | .slateAdd d a b => some [0x10, d, a, b]
  | .slateAddImm d a i => some [0x30, d, a, i.toNat]
  | .slateSub d a b => some [0x11, d, a, b]
  | .slateSubImm d a i => some [0x31, d, a, i.toNat]
  | .slateMul d a b => some [0x12, d, a, b]
  | .slateMulImm d a i => some [0x32, d, a, i.toNat]
  | .slateAnd d a b => some [0x13, d, a, b]
  | .slateAndImm d a i => some [0x33, d, a, i.toNat]
  | .slateOr d a b => some [0x14, d, a, b]
  | .slateOrImm d a i => some [0x34, d, a, i.toNat]
  | .slateXor d a b => some [0x15, d, a, b]
  | .slateXorImm d a i => some [0x35, d, a, i.toNat]
  | .slateShl d a b => some [0x16, d, a, b]
  | .slateShlImm d a i => some [0x36, d, a, i.toNat]
  | .slateShr d a b => some [0x17, d, a, b]
  | .slateShrImm d a i => some [0x37, d, a, i.toNat]
  | .slateMin d a b => some [0x18, d, a, b]
  | .slateMinImm d a i => some [0x38, d, a, i.toNat]
  | .slateMax d a b => some [0x19, d, a, b]
  | .slateMaxImm d a i => some [0x39, d, a, i.toNat]
  | .slateCmplt d a b => some [0x1A, d, a, b]
  | .slateCmpltImm d a i => some [0x3A, d, a, i.toNat]
  | .slateCmpeq d a b => some [0x1B, d, a, b]
  | .slateCmpeqImm d a i => some [0x3B, d, a, i.toNat]
  | .slateSel d a b => some [0x1C, d, a, b]
  | .slateSelImm d a i => some [0x3C, d, a, i.toNat]
  | _ => none

/-! ### Bytes -/

/-- The n bytes of a number, the lowest first (R3). -/
def toLE : Nat → Nat → List Byte
  | 0, _ => []
  | n + 1, w => BitVec.ofNat 8 w :: toLE n (w / 256)
/-- The number of bytes, the lowest first (R3). -/
def ofLE : List Byte → Nat
  | [] => 0
  | b :: bs => b.toNat + 256 * ofLE bs

/-- The core instruction at the front of a list of bytes, and the bytes after it (R328). -/
def decodeCoreBytes (bs : List Byte) : Option (Instr × List Byte) :=
  if bs.length < 8 then none
  else
    let w := BitVec.ofNat 64 (ofLE (bs.take 8))
    let n := coreLength w
    if bs.length < n then none
    else (decodeCore w (BitVec.ofNat 64 (ofLE ((bs.drop 8).take 8)))).map fun i => (i, bs.drop n)
/-- The pebble operation at the front of a list of bytes (R112). -/
def decodePebbleBytes (bs : List Byte) : Option (Instr × List Byte) :=
  if bs.length < 2 then none else (decodePebble (BitVec.ofNat 16 (ofLE (bs.take 2)))).map fun i => (i, bs.drop 2)
/-- The slate operation at the front of a list of bytes (R201). -/
def decodeSlateBytes (bs : List Byte) : Option (Instr × List Byte) :=
  if bs.length < 4 then none else (decodeSlate (BitVec.ofNat 32 (ofLE (bs.take 4)))).map fun i => (i, bs.drop 4)

/-- The number of bits and the bits of an instruction, the first word lowest: 16 for a pebble operation, 32 for a slate
operation, 64 or 128 for a core instruction. A step of the module has no word. -/
def encode (i : Instr) : Option (Nat × Nat) :=
  match encodeFields i with
  | some (l, fs, w2) =>
    some (if l = .c3 then 128 else 64, joinFields l.widths fs + (if l = .c3 then 2 ^ 64 * w2.toNat else 0))
  | none =>
    match encodePebble i with
    | some w => some (16, w)
    | none => (encodeSlate i).map fun fs => (32, joinFields [6, 4, 4, 18] fs)

/-- The instruction that the decoder reads from bits numbered as the opcode table numbers them. -/
def decodeTableWord (nbits w : Nat) : Option Instr :=
  match nbits with
  | 16 => (decodePebbleBytes (toLE 2 w)).map (·.1)
  | 32 => (decodeSlateBytes (toLE 4 w)).map (·.1)
  | 64 | 128 => (decodeCoreBytes (toLE 16 w)).map (·.1)
  | _ => none

end Sys2Proof
end

