-- ==== Sys2Proof/Machine/Bits.lean ====
section
/-!
DEFINITION. Bit fields, sign extension and byte order (R2, R3, R5), and the elements of vector registers (R219, R380).
-/
namespace Sys2Proof.Machine

/-- Bits hi to lo of a 64-bit word as a number. -/
def fld (w : W64) (hi lo : Nat) : Nat := w.toNat / 2 ^ lo % 2 ^ (hi + 1 - lo)
/-- Bits hi to lo of a number. -/
def nfld (n hi lo : Nat) : Nat := n / 2 ^ lo % 2 ^ (hi + 1 - lo)
/-- A number with bits hi to lo replaced. -/
def setFld (n hi lo v : Nat) : Nat :=
  n % 2 ^ lo + v % 2 ^ (hi + 1 - lo) * 2 ^ lo + n / 2 ^ (hi + 1) * 2 ^ (hi + 1)
/-- The signed value of the low w bits of a number. -/
def sgn (w n : Nat) : Int := if n % 2 ^ w < 2 ^ (w - 1) then (n % 2 ^ w : Nat) else (n % 2 ^ w : Nat) - (2 ^ w : Nat)
/-- An integer modulo 2^w. -/
def wrap (w : Nat) (x : Int) : Nat := (x % (2 ^ w : Nat)).toNat
/-- An integer clamped to a range. -/
def clampI (lo hi x : Int) : Int := if x < lo then lo else if hi < x then hi else x
/-- A 64-bit word of a number. -/
def w64 (n : Nat) : W64 := BitVec.ofNat 64 n
/-- The number of a list of bytes as a 64-bit word (R3). -/
def word64 (bs : List Byte) : W64 := BitVec.ofNat 64 (ofLE bs)

/-- Element k of width w of a vector register (R219). -/
def elem (v : Vec) (w k : Nat) : Nat := v.toNat / 2 ^ (w * k) % 2 ^ w
/-- The number whose n elements of width w are f 0, f 1, …, the lowest first. -/
def joinElems (w : Nat) (f : Nat → Nat) : Nat → Nat
  | 0 => 0
  | n + 1 => joinElems w f n + f n % 2 ^ w * 2 ^ (w * n)
/-- The vector register whose elements of width w are f 0, f 1, … (R380). -/
def buildV (w : Nat) (f : Nat → Nat) : Vec := BitVec.ofNat 4096 (joinElems w f (4096 / w))
/-- The 512 bytes of a vector register, lane 0 first. -/
def vecBytes (v : Vec) : List Byte := toLE 512 v.toNat
/-- The vector register of 512 bytes. -/
def bytesVec (bs : List Byte) : Vec := BitVec.ofNat 4096 (ofLE bs)
/-- Lane i of a 128-bit mask. -/
def maskBit (m : BitVec 128) (i : Nat) : Bool := m.getLsbD i
/-- The vector that takes its enabled lanes from a and the others from b (R219). -/
def mergeLanes (m : BitVec 128) (a b : Vec) : Vec :=
  if m = BitVec.allOnes 128 then a else buildV 32 fun i => if maskBit m i then elem a 32 i else elem b 32 i
/-- The lane of element k of width w (R380). -/
def laneOf (w k : Nat) : Nat := k * w / 32
/-- n bytes of zero. -/
def zeros (n : Nat) : List Byte := List.replicate n 0#8
/-- Byte order of the fields of a structure in memory: the field at offset o of n bytes. -/
def leField (bs : List Byte) (o n : Nat) : Nat := ofLE ((bs.drop o).take n)
/-- An update of a list at an index. -/
def setAt {α : Type} (l : List α) (i : Nat) (x : α) : List α := l.set i x
/-- A list without its entry i. -/
def dropAt {α : Type} (l : List α) (i : Nat) : List α := l.take i ++ l.drop (i + 1)
/-- floor(log2 n); 0 for n = 0. -/
def lg (n : Nat) : Nat := Nat.log2 n
/-- The number of one bits of the low w bits. -/
def popCount : Nat → Nat → Nat
  | 0, _ => 0
  | w + 1, n => n % 2 + popCount w (n / 2)
/-- Leading zeros of a 64-bit number; 64 for zero. -/
def clz64 (n : Nat) : Nat := if n = 0 then 64 else 63 - lg n
/-- Trailing zeros of the low w bits; w for zero. -/
def ctzN : Nat → Nat → Nat
  | 0, _ => 0
  | w + 1, n => if n % 2 = 1 then 0 else ctzN w (n / 2) + 1

end Sys2Proof.Machine
end

