-- ==== Sys2Proof/Machine/Crypto.lean ====
section
/-!
DEFINITION. The cryptographic functions that the spec names: AES-256-GCM with a 96-bit nonce and a 128-bit tag (R82), SHA-512 (R152, R153), and
the verification of an ECDSA signature on P-521 with SHA-512 (R49, R152). They follow the public standards that define them (log 71).
-/
namespace Sys2Proof.Machine

/-! ### AES-256 -/

/-- Twice an element of the field of 256. -/
def gfTwice (a : Nat) : Nat := if a < 128 then 2 * a else (2 * a) ^^^ 0x11B
/-- The product of two elements of the field of 256; fuel counts the bits of the second. -/
def gfMul : Nat → Nat → Nat → Nat
  | 0, _, _ => 0
  | f + 1, a, b => (if b % 2 = 1 then a else 0) ^^^ gfMul f (gfTwice a) (b / 2)
/-- The inverse of an element, its 254th power; zero for zero. -/
def gfInv (a : Nat) : Nat :=
  ((List.range 7).foldl (fun (r : Nat × Nat) _ => let q := gfMul 8 r.2 r.2; (gfMul 8 r.1 q, q)) (1, a)).1
/-- A byte rotated left. -/
def rotl8 (x k : Nat) : Nat := x * 2 ^ k % 256 + x / 2 ^ (8 - k)
/-- The substitution box. -/
def aesSub (x : Nat) : Nat := let i := gfInv x; i ^^^ rotl8 i 1 ^^^ rotl8 i 2 ^^^ rotl8 i 3 ^^^ rotl8 i 4 ^^^ 0x63
/-- The exclusive or of two strings of numbers. -/
def xorList (a b : List Nat) : List Nat := List.zipWith (· ^^^ ·) a b
/-- The words of the key schedule from the newest, 60 of 4 bytes in all; fuel counts those to come, and the ones held are given newest first. -/
def aesWords : Nat → List (List Nat) → List (List Nat)
  | 0, ws => ws
  | f + 1, ws =>
    let i := ws.length
    let t := ws.headD []
    let u := if i % 8 = 0 then xorList ((t.drop 1 ++ t.take 1).map aesSub) [(List.range (i / 8 - 1)).foldl (fun r _ => gfTwice r) 1, 0, 0, 0]
      else if i % 8 = 4 then t.map aesSub else t
    aesWords f (xorList (ws.getD 7 []) u :: ws)
/-- The 15 round keys of a key of 32 bytes. -/
def aesKeys (key : List Nat) : List (List Nat) :=
  let ws := (aesWords 52 ((List.range 8).map fun i => (key.drop (4 * i)).take 4).reverse).reverse
  (List.range 15).map fun r => ((ws.drop (4 * r)).take 4).flatten
/-- The rows of a block, which stands column by column, shifted. -/
def aesShift (b : List Nat) : List Nat := (List.range 16).map fun i => b.getD ((i + 4 * (i % 4)) % 16) 0
/-- The columns of a block mixed. -/
def aesMix (b : List Nat) : List Nat :=
  (List.range 16).map fun i =>
    let c (k : Nat) : Nat := b.getD (i / 4 * 4 + (i + k) % 4) 0
    gfTwice (c 0) ^^^ (gfTwice (c 1) ^^^ c 1) ^^^ c 2 ^^^ c 3
/-- AES-256 of a block of 16 bytes. -/
def aes (key block : List Nat) : List Nat :=
  let ks := aesKeys key
  let mid := ((ks.drop 1).take 13).foldl (fun b k => xorList (aesMix (aesShift (b.map aesSub))) k) (xorList block (ks.headD []))
  xorList (aesShift (mid.map aesSub)) (ks.getD 14 [])

/-! ### GCM -/

/-- The number of a string of bytes, the highest first. -/
def ofBE (bs : List Nat) : Nat := bs.foldl (fun n b => n * 256 + b) 0
/-- A number in n bytes, the highest first. -/
def toBE (n v : Nat) : List Nat := ((List.range n).map fun i => v / 256 ^ i % 256).reverse
/-- The product of two blocks in the field of GCM, whose first bit is the highest; fuel counts the bits of x that are left. -/
def ghashMul : Nat → Nat → Nat → Nat
  | 0, _, _ => 0
  | f + 1, x, v => (if x.testBit f then v else 0) ^^^ ghashMul f x (if v % 2 = 0 then v / 2 else (v / 2) ^^^ (0xE1 * 2 ^ 120))
/-- A string of bytes filled with zeros to whole blocks. -/
def padBlock (bs : List Nat) : List Nat := bs ++ List.replicate ((16 - bs.length % 16) % 16) 0
/-- GHASH of whole blocks. -/
def ghash (h : Nat) (bs : List Nat) : Nat :=
  (List.range (bs.length / 16)).foldl (fun y i => ghashMul 128 (y ^^^ ofBE ((bs.drop (16 * i)).take 16)) h) 0
/-- A text under the counter blocks that follow the first. -/
def gcmText (key nonce bs : List Nat) : List Nat :=
  (List.range ((bs.length + 15) / 16)).flatMap fun i => xorList ((bs.drop (16 * i)).take 16) (aes key (nonce ++ toBE 4 (2 + i)))
/-- The tag of a ciphertext and additional data. -/
def gcmTag (key nonce aad ct : List Nat) : List Nat :=
  let h := ofBE (aes key (List.replicate 16 0))
  let s := ghash h (padBlock aad ++ padBlock ct ++ toBE 8 (8 * aad.length) ++ toBE 8 (8 * ct.length))
  toBE 16 (s ^^^ ofBE (aes key (nonce ++ toBE 4 1)))
/-- Bytes as numbers. -/
def natsOf (bs : List Byte) : List Nat := bs.map (·.toNat)
/-- Numbers as bytes. -/
def bytesOf (ns : List Nat) : List Byte := ns.map (BitVec.ofNat 8)
/-- The 32 bytes of a key, the first in its low bits. -/
def keyBytes (key : BitVec 256) : List Nat := (List.range 32).map fun i => key.toNat / 256 ^ i % 256
/-- AES-256-GCM: the ciphertext and tag of a plaintext under a key, nonce and additional data (R82). -/
def gcmSeal (key : BitVec 256) (nonce aad text : List Byte) : List Byte × List Byte :=
  let c := gcmText (keyBytes key) (natsOf nonce) (natsOf text)
  (bytesOf c, bytesOf (gcmTag (keyBytes key) (natsOf nonce) (natsOf aad) c))
/-- AES-256-GCM: the plaintext of a ciphertext and tag; none where the tag fails to verify (R82, R83). -/
def gcmOpen (key : BitVec 256) (nonce aad ct tag : List Byte) : Option (List Byte) :=
  if gcmTag (keyBytes key) (natsOf nonce) (natsOf aad) (natsOf ct) = natsOf tag then
    some (bytesOf (gcmText (keyBytes key) (natsOf nonce) (natsOf ct)))
  else none

/-! ### SHA-512 -/

/-- Round constants 0 to 19 of SHA-512. -/
def shaK0 : List W64 := [
  0x428A2F98D728AE22, 0x7137449123EF65CD, 0xB5C0FBCFEC4D3B2F, 0xE9B5DBA58189DBBC,
  0x3956C25BF348B538, 0x59F111F1B605D019, 0x923F82A4AF194F9B, 0xAB1C5ED5DA6D8118,
  0xD807AA98A3030242, 0x12835B0145706FBE, 0x243185BE4EE4B28C, 0x550C7DC3D5FFB4E2,
  0x72BE5D74F27B896F, 0x80DEB1FE3B1696B1, 0x9BDC06A725C71235, 0xC19BF174CF692694,
  0xE49B69C19EF14AD2, 0xEFBE4786384F25E3, 0x0FC19DC68B8CD5B5, 0x240CA1CC77AC9C65]
/-- Round constants 20 to 39 of SHA-512. -/
def shaK1 : List W64 := [
  0x2DE92C6F592B0275, 0x4A7484AA6EA6E483, 0x5CB0A9DCBD41FBD4, 0x76F988DA831153B5,
  0x983E5152EE66DFAB, 0xA831C66D2DB43210, 0xB00327C898FB213F, 0xBF597FC7BEEF0EE4,
  0xC6E00BF33DA88FC2, 0xD5A79147930AA725, 0x06CA6351E003826F, 0x142929670A0E6E70,
  0x27B70A8546D22FFC, 0x2E1B21385C26C926, 0x4D2C6DFC5AC42AED, 0x53380D139D95B3DF,
  0x650A73548BAF63DE, 0x766A0ABB3C77B2A8, 0x81C2C92E47EDAEE6, 0x92722C851482353B]
/-- Round constants 40 to 59 of SHA-512. -/
def shaK2 : List W64 := [
  0xA2BFE8A14CF10364, 0xA81A664BBC423001, 0xC24B8B70D0F89791, 0xC76C51A30654BE30,
  0xD192E819D6EF5218, 0xD69906245565A910, 0xF40E35855771202A, 0x106AA07032BBD1B8,
  0x19A4C116B8D2D0C8, 0x1E376C085141AB53, 0x2748774CDF8EEB99, 0x34B0BCB5E19B48A8,
  0x391C0CB3C5C95A63, 0x4ED8AA4AE3418ACB, 0x5B9CCA4F7763E373, 0x682E6FF3D6B2B8A3,
  0x748F82EE5DEFB2FC, 0x78A5636F43172F60, 0x84C87814A1F0AB72, 0x8CC702081A6439EC]
/-- Round constants 60 to 79 of SHA-512. -/
def shaK3 : List W64 := [
  0x90BEFFFA23631E28, 0xA4506CEBDE82BDE9, 0xBEF9A3F7B2C67915, 0xC67178F2E372532B,
  0xCA273ECEEA26619C, 0xD186B8C721C0C207, 0xEADA7DD6CDE0EB1E, 0xF57D4F7FEE6ED178,
  0x06F067AA72176FBA, 0x0A637DC5A2C898A6, 0x113F9804BEF90DAE, 0x1B710B35131C471B,
  0x28DB77F523047D84, 0x32CAAB7B40C72493, 0x3C9EBE0A15C9BEBC, 0x431D67C49C100D4C,
  0x4CC5D4BECB3E42B6, 0x597F299CFC657E2A, 0x5FCB6FAB3AD6FAEC, 0x6C44198C4A475817]
/-- The round constants of SHA-512. -/
def shaK : List W64 := shaK0 ++ shaK1 ++ shaK2 ++ shaK3
/-- The initial hash value of SHA-512. -/
def shaInit : List W64 := [
  0x6A09E667F3BCC908, 0xBB67AE8584CAA73B, 0x3C6EF372FE94F82B, 0xA54FF53A5F1D36F1,
  0x510E527FADE682D1, 0x9B05688C2B3E6C1F, 0x1F83D9ABFB41BD6B, 0x5BE0CD19137E2179]
/-- The message schedule from the newest word; fuel counts the words to come. -/
def shaSchedule : Nat → List W64 → List W64
  | 0, ws => ws
  | f + 1, ws =>
    let a := ws.getD 14 0
    let b := ws.getD 1 0
    let s0 := a.rotateRight 1 ^^^ a.rotateRight 8 ^^^ a >>> 7
    let s1 := b.rotateRight 19 ^^^ b.rotateRight 61 ^^^ b >>> 6
    shaSchedule f ((ws.getD 15 0 + s0 + ws.getD 6 0 + s1) :: ws)
/-- One round on the eight working words, with its constant and its word of the schedule added. -/
def shaRound (w : List W64) (kw : W64) : List W64 :=
  let g (i : Nat) : W64 := w.getD i 0
  let s1 := (g 4).rotateRight 14 ^^^ (g 4).rotateRight 18 ^^^ (g 4).rotateRight 41
  let t1 := g 7 + s1 + ((g 4 &&& g 5) ^^^ (~~~ (g 4) &&& g 6)) + kw
  let s0 := (g 0).rotateRight 28 ^^^ (g 0).rotateRight 34 ^^^ (g 0).rotateRight 39
  let t2 := s0 + ((g 0 &&& g 1) ^^^ (g 0 &&& g 2) ^^^ (g 1 &&& g 2))
  [t1 + t2, g 0, g 1, g 2, g 3 + t1, g 4, g 5, g 6]
/-- The hash value after a block of 128 bytes. -/
def shaBlock (h : List W64) (block : List Nat) : List W64 :=
  let first := (List.range 16).map fun i => w64 (ofBE ((block.drop (8 * i)).take 8))
  let ws := (shaSchedule 64 first.reverse).reverse
  List.zipWith (· + ·) h ((List.zipWith (· + ·) shaK ws).foldl shaRound h)
/-- SHA-512 of a string of bytes. -/
def sha512 (bs : List Byte) : List Byte :=
  let n := bs.length
  let m := natsOf bs ++ 0x80 :: (List.replicate ((239 - n % 128) % 128) 0 ++ toBE 16 (8 * n))
  bytesOf (((List.range (m.length / 128)).foldl (fun h i => shaBlock h ((m.drop (128 * i)).take 128)) shaInit).flatMap fun w => toBE 8 w.toNat)

/-! ### ECDSA on P-521 with SHA-512 -/

/-- The prime of the field. -/
def p521 : Nat := 2 ^ 521 - 1
/-- The order of the base point. -/
def p521n : Nat :=
  0x1FFFFFFFFFFFFFFFFFFFFFFFFFFFFFFFFFFFFFFFFFFFFFFFFFFFFFFFFFFFFFFFFFA51868783BF2F966B7FCC0148F709A5D03BB5C9B8899C47AEBB6FB71E91386409
/-- The base point. -/
def p521g : Nat × Nat :=
  (0xC6858E06B70404E9CD9E3ECB662395B4429C648139053FB521F828AF606B4D3DBAA14B5E77EFE75928FE1DC127A2FFA8DE3348B3C1856A429BF97E7E31C2E5BD66,
   0x11839296A789A3BC0045C8A5FB42C7D1BD998F54449579B446817AFBD17273E662C97EE72995EF42640C550B9013FAD0761353C7086A272C24088BE94769FD16650)
/-- A power modulo m; fuel counts the bits of the exponent. -/
def powMod (m : Nat) : Nat → Nat → Nat → Nat
  | 0, _, _ => 1 % m
  | f + 1, b, e => (if e % 2 = 1 then b else 1) * powMod m f (b * b % m) (e / 2) % m
/-- The inverse modulo a prime of 521 bits. -/
def invMod (m a : Nat) : Nat := powMod m 521 (a % m) (m - 2)
/-- The sum of two points; none is the point at infinity. -/
def ecAdd (a b : Option (Nat × Nat)) : Option (Nat × Nat) :=
  match a, b with
  | none, q => q
  | p, none => p
  | some (x, y), some (u, v) =>
    if x = u ∧ (y + v) % p521 = 0 then none
    else
      let l := if x = u then (3 * x * x + (p521 - 3)) * invMod p521 (2 * y) % p521
        else (v + (p521 - y)) * invMod p521 (u + (p521 - x)) % p521
      let r := (l * l + (p521 - x) + (p521 - u)) % p521
      some (r, (l * (x + (p521 - r)) + (p521 - y)) % p521)
/-- A multiple of a point; fuel counts the bits of the factor. -/
def ecMul : Nat → Nat → Option (Nat × Nat) → Option (Nat × Nat)
  | 0, _, _ => none
  | f + 1, k, p => ecAdd (if k % 2 = 1 then p else none) (ecMul f (k / 2) (ecAdd p p))
/-- Whether a signature, two halves of 66 bytes each, verifies over a string of bytes under a public key (R49). -/
def p521Verifies (key : Nat × Nat) (text sig : List Byte) : Bool :=
  let r := ofBE (natsOf (sig.take 66))
  let s := ofBE (natsOf ((sig.drop 66).take 66))
  let w := invMod p521n s
  let e := ofBE (natsOf (sha512 text))
  decide (0 < r) && decide (r < p521n) && decide (0 < s) && decide (s < p521n) &&
  (match ecAdd (ecMul 521 (e * w % p521n) (some p521g)) (ecMul 521 (r * w % p521n) (some key)) with
   | some (x, _) => x % p521n == r
   | none => false)
/-- Whether a signature of a firmware image or a command verifies against the root key (R152). -/
def rootVerifies (text sig : List Byte) : Bool := p521Verifies Config.rootKey text sig
/-- Whether a signature of a configuration record verifies against the configuration key that a firmware image carries (R50, R152). -/
def configVerifies (image text sig : List Byte) : Bool := p521Verifies (Config.configKey image) text sig

end Sys2Proof.Machine
end

