-- ==== Sys2Proof/Machine/Sparse.lean ====
section
/-!
DEFINITION. Sparse tables: lists of (key, value) pairs with strictly rising keys and no entry equal to the default. Memory is the
table of bytes whose default is zero (log 1). One lookup, one update and one update of a run of keys serve every store
of the machine.
-/
namespace Sys2Proof.Machine

/-- A sparse table. -/
abbrev Tab (α : Type) := List (Nat × α)

/-- The value at a key; d where the key is not listed. -/
def Tab.get {α : Type} (d : α) : Tab α → Nat → α
  | [], _ => d
  | (k, v) :: t, i => if k = i then v else Tab.get d t i

/-- The table with value v at key i. -/
def Tab.put {α : Type} [DecidableEq α] (d : α) (t : Tab α) (i : Nat) (v : α) : Tab α :=
  t.filter (fun e => decide (e.1 < i)) ++ ((if v = d then [] else [(i, v)]) ++ t.filter (fun e => decide (i < e.1)))

/-- The canonical form: keys strictly rise and no entry holds the default. -/
abbrev Tab.wf {α : Type} [DecidableEq α] (d : α) (t : Tab α) : Prop :=
  t.Pairwise (fun a b => a.1 < b.1) ∧ ∀ e ∈ t, e.2 ≠ d

/-- The table with every value changed. -/
def Tab.mapV {α : Type} [DecidableEq α] (d : α) (f : α → α) (t : Tab α) : Tab α :=
  (t.map fun e => (e.1, f e.2)).filter fun e => decide (e.2 ≠ d)

/-- The entries of a run of values at keys i, i + 1, …, those equal to the default left out. -/
def Tab.cells {α : Type} [DecidableEq α] (d : α) : Nat → List α → Tab α
  | _, [] => []
  | i, v :: vs => if v = d then Tab.cells d (i + 1) vs else (i, v) :: Tab.cells d (i + 1) vs

/-- The table with a run of values at keys i, i + 1, …. -/
def Tab.putRun {α : Type} [DecidableEq α] (d : α) (t : Tab α) (i : Nat) (vs : List α) : Tab α :=
  t.filter (fun e => decide (e.1 < i)) ++ (Tab.cells d i vs ++ t.filter (fun e => decide (i + vs.length ≤ e.1)))

/-- The n values at keys i, i + 1, …. -/
def Tab.getRun {α : Type} (d : α) (t : Tab α) (i n : Nat) : List α :=
  let u := t.filter (fun e => decide (i ≤ e.1) && decide (e.1 < i + n))
  (List.range n).map fun k => Tab.get d u (i + k)

/-- The table without the keys from i to i + n - 1. -/
def Tab.clear {α : Type} (t : Tab α) (i n : Nat) : Tab α :=
  t.filter (fun e => decide (e.1 < i) || decide (i + n ≤ e.1))

end Sys2Proof.Machine
end

