-- ==== Sys2Proof/Machine/State.lean ====
section
/-!
DEFINITION. The state of one GLK-1602 module, as plain data: every piece of state that the spec gives it (INVENTORY.md lists them
with their rules), what is under way between its agents, and the state right after reset.
-/
namespace Sys2Proof.Machine

/-! ### A strand's register context (R158) -/

/-- The control and status registers that a strand holds (R374). BRWIN, TORUSDIM, NODEXYZ and SCOPETAB are read from the
die and the module; the loop registers, CALLDEPTH and the counts of STATUS stand in Ctx. -/
structure Csr where
  physid : BitVec 8
  rank : BitVec 8
  teamSize : BitVec 9
  teamId : W32
  preempts : W32
  part : BitVec 4
  grouped : Bool
  timed : Bool
  stkBase : W64
  stkLim : W64
  oobFlag : Bool
  oobAddr : W32
  faultPc : W64
  faultAddr : W64
  branchPc : W64
  code : BitVec 8
  srcq : BitVec 2
  errAddr : W64
  schedCtr : W64
  seed : W32
  deriving DecidableEq, Repr

/-- One level of the hardware loops: LPSTART, LPEND, LPCNT, LPCD (R374). -/
structure Level where
  start : W64
  last : W64
  cnt : W64
  cd : W32
  deriving DecidableEq, Repr

/-- A register context: what a core holds for one strand (R158, R182). The field via is the model's: the branch whose target is
fetched next (R237). Words of the register file by number: r for scalar register r, and 64 r + w for the 8-byte word w of vector register
r. The poison ones are listed in poisS and poisV; err holds the errors that no read has found yet (R298): under r, or 64 + 64 r + w, 1 for
a correctable one and 2 for an uncorrectable one. -/
structure Ctx where
  s : Tab W64
  p : BitVec 8
  v : Tab Vec
  pc : W64
  via : Option W64
  csr : Csr
  callDepth : W32
  lpDepth : Nat
  levels : List Level
  ras : List W64
  masks : List (BitVec 128)
  toks : Tab (List (List Nat))
  early : List (Nat × Nat)
  rng : Tab W32
  poisS : List Nat
  poisV : List Nat
  err : Tab Nat
  deriving DecidableEq, Repr

/-! ### Accesses that are not yet performed -/

/-- Where an access is performed (R275). -/
inductive Home where
  | spad (core : Nat)
  | die (d : Nat)
  | hub
  | node (n : Nat)
  deriving DecidableEq, Repr

/-- An access of a strand that is issued: its name, its stream (0 sequencer, 1 L, 2 M, 3 S; R281), the engine command it
belongs to (0 none), its home, whether it is strongly ordered (R286), whether it keeps program order with what it
overlaps (R283), whether it lies outside the restricted ordering of R293, its page being unordered (R287) or it being to no page and no scratchpad,
its bytes in the memory's numbering (log 1), its virtual address, and whether it is to a
SYNC page homed here (R233). -/
structure Acc where
  id : Nat
  stream : Nat
  cmd : Nat
  home : Home
  so : Bool
  keep : Bool
  uno : Bool
  lo : Nat
  len : Nat
  va : Nat
  sync : Bool := false
  deriving DecidableEq, Repr

/-- What a load or an atomic does when its data returns (R213, R436). One that a wait shadow has sent early for the load at pc writes no register
then: its bundle takes it (R285). -/
inductive Ret where
  | scalar (k : LdKind) (sd : Nat)
  | early (pc : Nat)
  | gather (vd : Nat) (mask : BitVec 128) (offs : List Nat)
  | rwld (sd : Nat) (tenant : Nat) (off : Nat)
  | atomic (aop : Nat) (n : Nat) (ext : Bool) (a b : W64) (sd : Nat)
  | cap (sd : Nat) (entry : Nat)
  deriving DecidableEq, Repr

/-- An outstanding load or atomic: the access, what it does, whether the request has left for another node, the value a
shadow read has taken (R285), and the failure it has met: the cause and the address (R213, R364). -/
structure Pend where
  acc : Acc
  ret : Ret
  sent : Bool
  fail : Option (BitVec 8 × W64)
  deriving DecidableEq, Repr

/-- A write that a strand has sent and that is not yet acknowledged (R290): the access and the OUTBOUND object it counts
on, an offset in the strand's own scratchpad (R427). -/
structure OutW where
  acc : Acc
  obj : Option Nat
  deriving DecidableEq, Repr

/-- A write that failed and that no bundle has reported yet (R365, R433). -/
structure Failed where
  cmd : Nat
  home : Home
  va : W64
  id : Nat
  deriving DecidableEq, Repr

/-- Why a sequencer holds the issue of later bundles (R284), with the bundle that waits. Only what the wait needs is held: the
scope and restriction of a fence, the object of a barrier wait, the progress of a QPUT. -/
inductive Wait where
  | none
  | fenceAcq (scope : Nat)
  | fenceRel (scope : Nat)
  | fenceFull (scope : Nat)
  | flush (scope : Nat)
  | qfence (qs : BitVec 3)
  | qdrain
  | exit
  | tkpop (ch : Nat)
  | barrive (rank off stamp scope : Nat)
  | bwait (ps pe obj g : Nat)
  | bwaitout (obj : Nat)
  | qput (queue : Nat) (slot : Option Nat) (ptr : Nat)
  | semsig (sem amount scope : Nat)
  | amoAcq (scope id : Nat)
  | icinv
  deriving DecidableEq, Repr

/-! ### The engines (R210, R211) -/

/-- What a command keeps of an iteration that was given back, where its channel or queue has been filled again meanwhile: the tokens by channel, the
words and the scales, with which the iteration begins anew (R213, R214, R223, R224; log 74). -/
structure Kept where
  toks : List (Nat × List Nat)
  words : List W32
  scales : List (W32 × Option W64)
  deriving DecidableEq, Repr
/-- Nothing is kept. -/
def Kept.none : Kept := ⟨[], [], []⟩

/-- A command in a queue: the address and word of its bundle, its register values, its iterations begun, whether its guard
failed (R331), and what it keeps of an iteration given back. -/
structure Cmd where
  id : Nat
  pc : W64
  op : Instr
  a : W64
  b : W64
  c : W64
  d : W64
  begun : Nat
  nullified : Bool
  kept : Kept := .none
  deriving DecidableEq, Repr

/-- A part of a translated access: its virtual address and length, its node, the key of its first byte, and the attributes of its
page (R259). -/
structure Piece where
  va : Nat
  len : Nat
  node : Nat
  key : Nat
  order : Nat
  conf : Bool
  sync : Bool
  tier : Bool
  mig : Bool
  bed : Bool
  deriving DecidableEq, Repr

/-- An iteration that an engine has begun: its command, its number, the format words and scales it consumed (a poison scale with the
address of its word), the commands joined to it by its tokens (R281), the tokens it took, its sources and destinations as
translated when it began (R428), the rows it moves (R430), its destination handle (R427), the remote reads outstanding, the bytes they
have returned and the poison among them, by virtual address, for CPIN.SCL whether its scales are read and those that await room, for ACCWR the
descriptor that it read at its start (R416) and, once it is done, the generator states that it drew from (R312, R302). -/
structure Iter where
  cmd : Cmd
  idx : Nat
  words : List W32
  scales : List (W32 × Option W64)
  joined : List Nat
  took : List (Nat × List Nat)
  src : List Piece
  dst : List Piece
  rows : List Nat
  hand : Option W64
  reads : List Nat
  got : Tab Byte
  gotBad : List Nat
  moved : Bool
  rest : List (W32 × Option W64)
  desc : List Byte
  drew : Option (Tab W32)
  deriving DecidableEq, Repr

/-- An engine: its queue, in which a command stands until its last iteration is done (R217), the iteration on it, for M the iteration on the
plane-load path (R221), the channels it still has to signal (R215), and the iterations that it has completed with those joined to them, as a
QFENCE joins them to what follows it (R281). -/
structure Engine where
  q : List Cmd
  run : Option Iter
  ldw : Option Iter
  sigs : List (Nat × List Nat)
  prior : List Nat
  deriving DecidableEq, Repr

/-- A plan configuration (R225). -/
structure Plan where
  group : Nat
  u : Tab W32
  v : Tab W32
  r : Tab W32
  c : Tab W32
  sweeps : W32
  residual : W32
  deriving DecidableEq, Repr

/-- The matrix engine's data: tiles by row (key 32 t + row), planes in 64 pieces of 512 bytes, the plan, the tiles and the 16 KiB halves of each plane
that an error has spoilt, and whether an error stands in the multiply array (R221, R222, R225, R302). -/
structure Mat where
  tiles : Tab Vec
  planeA : Tab Vec
  planeS : Tab Vec
  plan : Option Plan
  badTiles : List Nat
  badA : List Nat
  badS : List Nat
  badM : Bool
  deriving DecidableEq, Repr

/-- The replay window (R302): the data at its TS command and its iterations. -/
structure Window where
  start : Mat
  iters : List Iter
  deriving DecidableEq, Repr

/-- What the strand of a context is doing (R157, R177, R180). -/
inductive Run where
  | none | setUp | running | faulted | exited | stopped
  deriving DecidableEq, Repr

/-- One core (R158, R210). The entries of the count queue and of the scale FIFO carry poison with the address of its word (R300). The field applied
lists the counts of the strand's own commands that its objects have taken: the object's offset, the stamp of a byte count or none for bytes that left
OUTBOUND, and the command; behind lists the commands joined to each iteration that has begun (R281). -/
structure Core where
  act : Ctx
  sby : Ctx
  run : Run
  told : Bool
  wait : Wait
  halted : Bool
  gated : Bool
  upset : Bool
  mat : Mat
  win : Option Window
  replay : Nat
  el : Engine
  em : Engine
  es : Engine
  counts : List (W32 × Option W64)
  fmt : List W32
  fmtBound : Nat
  fifo : List (W32 × Option W64)
  unbound : Nat
  icache : List (Nat × W64)
  last : Option (Nat × Nat × W32)
  settled : Option (Nat × Nat × W32)
  pend : List Pend
  outw : List OutW
  failed : List Failed
  joined : List Nat
  applied : List (Nat × Option Nat × Nat)
  behind : List (Nat × List Nat)
  shadow : List (Nat × Nat × List Byte)
  brk : List Nat
  deriving DecidableEq, Repr
/-! ### Teams (R174, R180, R258) -/

/-- An extent table entry (R258), with the resident copy's base for each die where BEDROCK = 1 (R269). -/
structure Extent where
  vbase : Nat
  units : Nat
  pbase : Nat
  absent : Bool
  r : Bool
  w : Bool
  x : Bool
  order : Nat
  conf : Bool
  sync : Bool
  bedrock : Bool
  tier : Bool
  mig : Bool
  stale : Bool
  bed : Tab Nat
  deriving DecidableEq, Repr

/-- An entry of a held-access log (R181). -/
inductive LogEntry where
  | data (off : Nat) (bytes : List Byte) (bad : List Nat) (count : Option (Nat × Nat))
  | count (obj n stamp : Nat)
  | arrival (obj n stamp : Nat)
  | sent (obj n : Nat) (err : Bool) (addr : W64)
  deriving DecidableEq, Repr

/-- Where a team stands (R176, R180, R184): being set up, running, stopping (absent, engines finishing), saved (absent), being
restored, or killed and gone. -/
inductive Phase where
  | starting | running | stopping | saved | restoring
  deriving DecidableEq, Repr

/-- A running or saved team (R174, R180 to R185). The fields waiting, areaAt and stop are the ranks that a WAIT holds until their page is
mapped, the physical address of the save area, and the area of a stop that is decided and not yet issued. For a timed team wire tells whether a
member found that it cannot issue (R240), and beat is the cycle from which the next schedule-counter value may issue (R238). -/
structure Team where
  id : Nat
  part : Nat
  pipe : Nat
  stage : Nat
  asid : Nat
  n : Nat
  record : List Byte
  cores : List Nat
  timed : Bool
  grouped : Bool
  image : Bool
  phase : Phase
  exts : List Extent
  pset : List Extent
  saved : List Core
  exitedRanks : List Nat
  logs : List (List LogEntry)
  area : Nat
  notDies : List Nat
  sched : W64
  preempts : W32
  started : Nat
  since : Nat
  quantumTold : Bool
  entry : W64
  waiting : List Nat
  areaAt : Nat
  stop : Option (Nat × Nat)
  wire : Bool
  beat : Nat
  deriving DecidableEq, Repr

/-! ### Partitions and policy processors (R150, R188) -/

/-- A slate event (R189). -/
structure Event where
  kind : W32
  a1 : W32
  a2 : W32
  a3 : W32
  deriving DecidableEq, Repr

/-- A pending fault (R177, R189): what it concerns, its stage index, its cause, the pages it waits for and whether WAIT was
chosen. -/
structure FaultSlot where
  team : Option Nat
  restore : Bool
  stage : Nat
  cause : Nat
  pages : List Nat
  waiting : Bool
  deriving DecidableEq, Repr

/-- An image in a residency table (R269). -/
structure Image where
  die : Nat
  asid : Nat
  va : Nat
  frames : List Nat
  off : Nat
  last : Nat
  drop : List (Option (Nat × Nat))
  deriving DecidableEq, Repr

/-- An entry of the slate's loop stack (R206). -/
structure SlateLoop where
  start : Nat
  last : Nat
  n : Nat
  i : Nat
  reg : Nat
  deriving DecidableEq, Repr

/-- A partition: its state (0 FREE, 1 BUILDING, 2 ACTIVE), its policy processor (R188) and what the scheduler keeps for it. -/
structure Part where
  pstate : Nat
  act : Tab W32
  sby : Tab W32
  g : Tab W32
  m : Tab W32
  loops : List SlateLoop
  decs : List (Nat × W32 × W32)
  pc : Nat
  used : Nat
  inv : Option Event
  snap : Tab W32
  events : List Event
  resync : Bool
  swapPend : Bool
  swapKeep : Bool
  disabled : Bool
  swaps : Nat
  consec : Nat
  lastCause : Nat
  overruns : W32
  invocations : W32
  shares : Tab Nat
  faults : Tab Nat
  slots : Tab (Option FaultSlot)
  headTime : Tab Nat
  readySeen : List Nat
  waitPages : List (Nat × Nat)
  start : Nat
  lastTick : Nat
  teamCount : Nat
  codegen : Tab W32
  images : List Image
  deriving DecidableEq, Repr

/-- A compute die: bedrock refresh (R243), the fault queue of its synchronisation engine and the lines whose backing read awaits repair (R234), and
the slot table loaded into its network (R242). -/
structure Die where
  refGroup : Nat
  refAt : Nat
  refOn : Bool
  parked : List (Nat × Nat)
  stuck : List Nat
  slotTab : List W32
  deriving DecidableEq, Repr
/-! ### The fabric (chapters 3 to 5) -/

/-- A packet: its head flit and its further flits (R59), and the offsets of the bytes of its data whose check code says poison (R299, R300). -/
structure Packet where
  head : BitVec 512
  flits : List (BitVec 512)
  bad : List Nat := []
  deriving DecidableEq, Repr

/-- Who waits for the answer to a request: a load or atomic of a strand, a write of a strand, a read of an engine iteration, the
host, a proxied request (R272), a page move (R271), or nobody. -/
inductive Asker where
  | load (core id : Nat)
  | store (core id : Nat)
  | engine (core stream id : Nat)
  | host
  | proxy (job : Nat)
  | move (page : Nat)
  | nobody
  deriving DecidableEq, Repr

/-- A request that a die gateway hands to the package gateway (R84): kind as R59 codes it, target, attributes of the target range,
data and its poison, operands, barrier, multicast box, who asks, the RETRYs it has met (R143), and the SEQ that it was first sent with, which gives
its place in its flow (R142). -/
structure Req where
  id : Nat
  kind : Nat
  asker : Asker
  part : Nat
  node : Nat
  va : Nat
  asid : Nat
  len : Nat
  order : Nat
  conf : Bool
  sync : Bool
  data : List Byte
  aop : Nat
  opa : W64
  opb : W64
  bar : Option (Nat × W64)
  box : Option (Nat × Nat)
  off : Nat
  retries : Nat
  due : Nat
  bad : List Nat := []
  first : Option Nat := none
  deriving DecidableEq, Repr

/-- A packet in the retransmission store (R84): the packet as sent, the part of its request it carries, when it was last sent,
how often it was retransmitted, the acknowledgements it has (R72), and whether a request before it in its strongly ordered flow has been answered
RETRY since, so that its own answer may be RETRY too (R142). -/
structure Stored where
  pkt : Packet
  req : Req
  dest : Nat
  cls : Nat
  stream : Nat
  seq : Nat
  sentAt : Nat
  again : Nat
  acks : List Nat
  doubt : Bool := false
  deriving DecidableEq, Repr

/-- A flow of this node's requests (R73, R78). -/
structure FlowOut where
  dest : Nat
  cls : Nat
  stream : Nat
  next : Nat
  syn : Bool
  held : Option Nat
  deriving DecidableEq, Repr

/-- The outcome of a sequenced request at its target (R74): 0 pending, 1 performed, 2 + c answered with the NACK of code c. -/
abbrev Outc := Nat

/-- A flow that reaches this node (R74, R78). -/
structure FlowIn where
  src : Nat
  cls : Nat
  stream : Nat
  next : Nat
  accepted : List Nat
  outcomes : List (Nat × Outc)
  replies : List (Nat × W64)
  openSeq : Option Nat
  openAt : Nat
  deriving DecidableEq, Repr

/-- A request accepted at the target and not finished (R85, R136): the packet, its port (0xFF for a request of the node to itself),
the window that counts it, its place in the checks (0 not checked, 1 checked and waiting for its home, 2 held, 3
proxied), its physical address, and the leaves that a combined request applies. -/
structure Job where
  id : Nat
  pkt : Packet
  port : Nat
  stage : Nat
  win : Option Nat
  pa : Nat
  since : Nat
  apply : List Nat
  skip : Nat
  deriving DecidableEq, Repr

/-- A packet that stands in an input buffer (R64), with the residual branch mask of a multicast (R71), and the time and the cycle in which it entered
(R127, R128). -/
structure Arrival where
  pkt : Packet
  port : Nat
  mask : Option Nat
  time : Nat
  cycle : Nat
  deriving DecidableEq, Repr

/-- A packet routed to an exit and waiting for credits (R64, R69), with what a NO_LINK park needs (R102). -/
structure OutPkt where
  pkt : Packet
  dir : Nat
  port : Nat
  time : Nat
  idx : Nat
  sent : Option Nat
  deriving DecidableEq, Repr

/-- A visit under way in a pebble engine (R95). -/
structure Visit where
  pkt : Packet
  port : Nat
  entry : Nat
  pc : Nat
  steps : Nat
  deriving DecidableEq, Repr

/-- A parked pebble (R102); entry 64 is the management park area. -/
structure Park where
  entry : Nat
  idx : Nat
  pkt : Packet
  code : Nat
  index : Nat
  port : Nat
  time : Nat
  deriving DecidableEq, Repr

/-- A combining key (R127): DEST, ASID, VA, LEN. -/
structure Key where
  dest : Nat
  asid : Nat
  va : Nat
  len : Nat
  deriving DecidableEq, Repr

/-- A combining slot (R128). -/
structure Slot where
  key : Key
  recd : Nat
  kids : List (Packet × Nat)
  opened : Nat
  deriving DecidableEq, Repr

/-- A decombining record (R129). -/
structure Record where
  used : Bool
  closed : Option Nat
  key : Key
  nleaf : Nat
  fsrc : Nat
  fseq : Nat
  adds : List Nat
  groups : List (Nat × Nat × Nat × Nat)
  epoch : Nat
  deriving DecidableEq, Repr

/-- Acknowledgements held for merging (R79). -/
structure AckHeld where
  dest : Nat
  as : Nat
  cls : Nat
  stream : Nat
  seqs : List Nat
  since : Nat
  deriving DecidableEq, Repr

/-- The node router (R64 to R133): used counts the credits of the exits that are spent, freed those that this node has returned for its own
input buffers (R64), both by channel. -/
structure Router where
  arrivals : List Arrival
  outq : List OutPkt
  wire : List (Nat × Packet)
  used : Tab Nat
  freed : Tab Nat
  lastCredit : Tab Nat
  visits : Tab (Option Visit)
  parks : List Park
  sent : List (Nat × Nat)
  recents : List (Key × Nat)
  slots : List Slot
  records : Tab Record
  deriving DecidableEq, Repr

/-- The package gateway and the ingress (R67 to R87, R134 to R143). -/
structure Gateway where
  lists : Tab W32
  rot : Tab Nat
  egress : List Req
  store : List Stored
  flowsOut : List FlowOut
  resend : List Req
  inbox : List (Packet × Nat)
  flowsIn : List FlowIn
  jobs : List Job
  acks : List AckHeld
  ancient : Tab Nat
  deriving DecidableEq, Repr

/-! ### The memory system -/

/-- An in-package write on its way to its home (R431): the access, the sender (its core, its team with the partition and address space it had when
the write left, and, for an engine, the object it counts OUTBOUND on), the rank it is aimed at (none: memory), its bytes and their
poison, and the count it carries (R427). -/
structure Flight where
  acc : Acc
  core : Nat
  team : Nat
  part : Nat
  asid : Nat
  dest : Option (Nat × Nat × Nat)
  bytes : List Byte
  bad : List Nat
  obj : Option Nat
  count : Option (Nat × W64)
  arrive : Option Nat
  deriving DecidableEq, Repr

/-- A shoot-down not yet complete (R265). -/
structure Shoot where
  part : Nat
  asid : Nat
  va : Nat
  pages : Nat
  sem : Option (Nat × Nat)
  acked : Bool
  waits : List Nat
  deriving DecidableEq, Repr

/-- An entry of the move table (R271): a tier move, or a move to another node. -/
structure Move where
  asid : Nat
  va : Nat
  pte : W64
  toNode : Option Nat
  frame : Nat
  tier : Bool
  copied : Bool
  part : Nat
  cow : Bool
  deriving DecidableEq, Repr

/-- Migration counts of a page (R270, R273): its local accesses, its remote ones, and its candidate with its count. -/
structure MigPage where
  asid : Nat
  va : Nat
  frame : Nat
  loc : Nat
  rem : Nat
  cand : Nat
  cnt : Nat
  part : Nat
  tier : Bool
  deriving DecidableEq, Repr

/-- The armed snapshot of a partition (R304). -/
structure Snap where
  part : Nat
  asid : Nat
  root : Nat
  tables : List Nat
  cow : List Nat
  copies : List Nat
  deriving DecidableEq, Repr

/-- The node's memory system. -/
structure MemSys where
  flights : List Flight
  shoots : List Shoot
  moves : List Move
  migs : List MigPage
  pools : List (Nat × Nat × Nat)
  moveCnt : List (Nat × Nat × Nat × Nat)
  snaps : List Snap
  oldTrees : List (Nat × Nat × List Nat)
  deriving DecidableEq, Repr

/-! ### Management (chapters 2 and 6) -/

/-- A firmware image in flash: its bytes and signature as one number each, and its version (R152). -/
structure FwImage where
  bytes : List Byte
  sig : List Byte
  version : Nat
  deriving DecidableEq, Repr

/-- A key slot (R154). -/
structure KeySlot where
  st : Nat
  part : Nat
  peer : Nat
  pany : Bool
  key : BitVec 256
  cnt : Nat
  deriving DecidableEq, Repr

/-- The applied configuration (R51). -/
structure Cfg where
  area : Nat
  seq : W64
  powerLimit : Nat
  floor : Nat
  ports : BitVec 6
  migmax : Nat
  migthresh : Nat
  serial : W64
  digest : List Byte
  deriving DecidableEq, Repr

/-- What the module gives to the host (R144): completions and EVENT messages. -/
inductive HostMsg where
  | done (code : Nat) (data : List Byte)
  | event (ring : Nat)
  | ready
  | fabric (port : Nat) (up : Bool)
  deriving DecidableEq, Repr

/-- Management and security. -/
structure Mgmt where
  modstatus : W32
  clock : Nat
  fw : List FwImage
  fwMin : Nat
  cfg : Option Cfg
  linksDown : List Nat
  torus : W64
  node : BitVec 16
  scopetab : W64
  ringOut : List Nat
  hostOut : List HostMsg
  hostWait : Option (Bool × Nat)
  keys : Tab KeySlot
  kaGen : Nat
  sdstat : W32
  owners : Tab Nat
  released : Bool
  deriving DecidableEq, Repr

/-! ### The machine -/

/-- A move to come: who acts next. Bundle, pebble operation and slate operation run the next instruction of a core, pebble engine or
partition. Step runs a step of the module that has no word, with its operands. The others are what the outside world
does: time passes, a packet or credits arrive, a neighbour answers, flash is written, a signed command about firmware arrives (R152), an
error strikes a stored word or a core, the cache drops a word, a debugger acts (log 2). -/
inductive Turn where
  | bundle (core : Nat)
  | pebble (engine : Nat)
  | slate (part : Nat)
  | step (i : Instr) (core eng pol : Nat) (args : List Nat)
  | elapse (ns cycles : Nat)
  | packet (port : Nat) (p : Packet)
  | flash (addr : Nat) (bytes : List Byte)
  | firmware (images : List FwImage)
  | minVersion (command sig : List Byte)
  | mark (key kind : Nat)
  | spoil (core tile : Nat)
  | upset (core : Nat)
  | evict (core addr : Nat)
  | shadowRead (core : Nat)
  | boot (torus : W64) (node : BitVec 16) (scopes : W64)
  | turnList (node k : Nat) (list : W32)
  | breakAt (core : Nat) (addr : Nat)
  | resume (core : Nat)
  deriving DecidableEq, Repr

/-- The state of one module (log 1, log 2). -/
structure State where
  turns : List Turn
  args : List Nat
  core : Nat
  eng : Nat
  pol : Nat
  fresh : Nat
  nextId : Nat
  now : Nat
  cycle : Nat
  mem : Tab Byte
  marks : Tab Nat
  cores : Tab Core
  dies : Tab Die
  parts : Tab Part
  teams : List Team
  router : Router
  gate : Gateway
  msys : MemSys
  mg : Mgmt
  deriving DecidableEq, Repr

/-! ### The outcomes of a step -/

/-- Why the machine stops. -/
inductive Fault where
  /-- Raised by step: a turn names an instruction that has a word as a step of the module. Safe: no machine does this. -/
  | notAStep
  deriving DecidableEq, Repr

/-- Why an instruction has no meaning here. -/
inductive Refusal where
  /-- Raised by exec: the instruction is not modelled yet. Safe: nothing is claimed about it. -/
  | notModelled (mnemonic : String)
  deriving DecidableEq, Repr

/-! ### Reset -/

/-- A strand's CSRs with every bit zero (log 3). -/
def Csr.zero : Csr :=
  ⟨0, 0, 0, 0, 0, 0, false, false, 0, 0, false, 0, 0, 0, 0, 0, 0, 0, 0, 0⟩
/-- A closed loop level. -/
def Level.zero : Level := ⟨0, 0, 0, 0⟩
/-- A register context with every register zero (R53, log 3). -/
def Ctx.zero : Ctx :=
  ⟨[], 0, [], 0, none, Csr.zero, 0, 0, List.replicate 4 Level.zero, [], [], [], [], [], [], [], []⟩
/-- An idle engine. -/
def Engine.idle : Engine := ⟨[], none, none, [], []⟩
/-- Matrix data with every element zero (R53). -/
def Mat.zero : Mat := ⟨[], [], [], none, [], [], [], false⟩
/-- A core without a strand (R53, log 3). -/
def Core.zero : Core :=
  { act := Ctx.zero, sby := Ctx.zero, run := .none, told := false, wait := .none, halted := false, gated := false,
    upset := false, mat := Mat.zero, win := none, replay := 0, el := Engine.idle, em := Engine.idle,
    es := Engine.idle, counts := [], fmt := [], fmtBound := 0, fifo := [], unbound := 0, icache := [], last := none, settled := none,
    pend := [], outw := [], failed := [], joined := [], applied := [], behind := [], shadow := [], brk := [] }
/-- A FREE partition (R150, R188). -/
def Part.zero : Part :=
  { pstate := 0, act := [], sby := [], g := [], m := [], loops := [], decs := [], pc := 0, used := 0, inv := none,
    snap := [], events := [], resync := false, swapPend := false, swapKeep := false, disabled := false, swaps := 0,
    consec := 0, lastCause := 0, overruns := 0, invocations := 0, shares := [], faults := [], slots := [],
    headTime := [], readySeen := [], waitPages := [], start := 0, lastTick := 0, teamCount := 0, codegen := [],
    images := [] }
/-- A die at cycle 0, where the window of bank group 0 begins (R243). -/
def Die.zero : Die := ⟨0, 0, true, [], [], []⟩
/-- An empty record of the decombining table (R129). -/
def Record.zero : Record := ⟨false, none, ⟨0, 0, 0, 0⟩, 0, 0, 0, [], [], 0⟩
/-- An EMPTY key slot (R154). -/
def KeySlot.zero : KeySlot := ⟨0, 0, 0, false, 0, 0⟩
/-- An empty router. -/
def Router.zero : Router := ⟨[], [], [], [], [], [], [], [], [], [], [], []⟩
/-- An empty package gateway. -/
def Gateway.zero : Gateway := ⟨[], [], [], [], [], [], [], [], [], [], []⟩
/-- A memory system with nothing under way. -/
def MemSys.zero : MemSys := ⟨[], [], [], [], [], [], [], []⟩
/-- Management in the RESET phase (R54, R377, R279, R47). -/
def Mgmt.zero : Mgmt :=
  { modstatus := 0, clock := 700, fw := [], fwMin := 0, cfg := none, linksDown := [], torus := 0x10101, node := 0,
    scopetab := 0, ringOut := [], hostOut := [], hostWait := none, keys := [], kaGen := 0, sdstat := 0, owners := [],
    released := false }

/-- The module right after reset: the RESET phase, nothing running, memory with nothing listed (R52, R54, log 3). -/
def State.reset : State :=
  { turns := [], args := [], core := 0, eng := 0, pol := 0, fresh := 0, nextId := 1, now := 0, cycle := 0, mem := [],
    marks := [], cores := [], dies := [], parts := [], teams := [], router := Router.zero, gate := Gateway.zero,
    msys := MemSys.zero, mg := Mgmt.zero }

end Sys2Proof.Machine
end

