-- ==== Sys2Proof/Machine/Ops.lean ====
section
/-!
DEFINITION. The named operations over memory and registers: cores and contexts, scalar, predicate and vector registers, memory with
its check codes, event and error-log rings, taking a fault, and going on to the next bundle.
-/
namespace Sys2Proof.Machine

/-- The outcome of a meaning: the next state. -/
abbrev Out := Host.Outcome State Fault Refusal

/-! ### Cores and contexts -/

/-- Core c. -/
def State.getCore (s : State) (c : Nat) : Core := Tab.get Core.zero s.cores c
/-- The state with core c replaced. -/
def State.setCore (s : State) (c : Nat) (x : Core) : State := { s with cores := Tab.put Core.zero s.cores c x }
/-- The state with core c changed. -/
def State.modCore (s : State) (c : Nat) (f : Core → Core) : State := s.setCore c (f (s.getCore c))
/-- The core whose operation runs. -/
def State.cur (s : State) : Core := s.getCore s.core
/-- The state with the running core changed. -/
def State.modCur (s : State) (f : Core → Core) : State := s.modCore s.core f
/-- The active context of the running core (R158). -/
def State.ctx (s : State) : Ctx := s.cur.act
/-- The state with the active context changed. -/
def State.modCtx (s : State) (f : Ctx → Ctx) : State := s.modCur fun c => { c with act := f c.act }
/-- The state with the CSRs of the active context changed. -/
def State.modCsr (s : State) (f : Csr → Csr) : State := s.modCtx fun x => { x with csr := f x.csr }
/-- The CSRs of the active context. -/
def State.csr (s : State) : Csr := s.ctx.csr

/-! ### Registers -/

/-- s[r]; s0 reads zero (R352). -/
def State.rs (s : State) (r : Nat) : W64 := if r = 0 then 0 else Tab.get 0 s.ctx.s r
/-- A write of s[r]; a write of s0 is discarded (R352). A whole write replaces poison (R300). -/
def State.setS (s : State) (r : Nat) (v : W64) : State :=
  if r = 0 then s
  else s.modCtx fun x => { x with s := Tab.put 0 x.s r v, poisS := x.poisS.filter (· != r), err := x.err.filter fun e => e.1 != r }
/-- p[r]; p0 reads true (R352). -/
def State.rp (s : State) (r : Nat) : Bool := if r = 0 then true else s.ctx.p.getLsbD r
/-- The predicates with p[r] set to b. -/
def predWith (p : BitVec 8) (r : Nat) (b : Bool) : BitVec 8 := BitVec.ofNat 8 (setFld p.toNat r r b.toNat)
/-- A write of p[r]; p0 is never written (R334). -/
def State.setP (s : State) (r : Nat) (b : Bool) : State :=
  if r = 0 then s else s.modCtx fun x => { x with p := predWith x.p r b }
/-- v[r]. -/
def State.rv (s : State) (r : Nat) : Vec := Tab.get 0 s.ctx.v r
/-- TOP of the mask stack; all ones when it is empty (R220). -/
def State.top (s : State) : BitVec 128 := s.ctx.masks.headD (BitVec.allOnes 128)
/-- Whether a write of the lanes that a mask enables in vector register r writes word k of the vector registers whole (R300). -/
def wholeWord (r : Nat) (m : BitVec 128) (k : Nat) : Bool :=
  k / 64 == r && maskBit m (2 * (k % 64)) && maskBit m (2 * (k % 64) + 1)
/-- A write of the lanes of v[r] that a mask enables (R219); a word that it writes in part keeps its poison (R300). -/
def State.setVMask (s : State) (r : Nat) (m : BitVec 128) (x : Vec) : State :=
  s.modCtx fun c => { c with v := Tab.put 0 c.v r (mergeLanes m x (Tab.get 0 c.v r)),
                             poisV := c.poisV.filter fun k => !wholeWord r m k,
                             err := c.err.filter fun e => !(decide (64 ≤ e.1) && wholeWord r m (e.1 - 64)) }
/-- Whether a word of v[r] is poison in a context. -/
def Ctx.vPoison (x : Ctx) (r : Nat) : Bool := x.poisV.any fun k => k / 64 == r
/-- The numbers of the words of v[r] that hold the bytes at some offsets of it. -/
def vWordsAt (r : Nat) (bad : List Nat) : List Nat := (bad.map fun o => 64 * r + o / 8).eraseDups
/-- A write of v[r] under the mask stack (R219). -/
def State.setV (s : State) (r : Nat) (x : Vec) : State := s.setVMask r s.top x

/-! ### Memory (log 1)

Byte keys: a local physical address as it is; 2^48 + 2^22 c + o for offset o of core c's scratchpad; 2^49 + a for management
address a; 2^50 + o for flash, area A at 0 and area B at 2^20. -/

/-- The key of a scratchpad byte (R246). -/
def spadKey (core off : Nat) : Nat := 2 ^ 48 + core * 2 ^ 22 + off
/-- The key of a management byte (R469). -/
def mgKey (a : Nat) : Nat := 2 ^ 49 + a
/-- The key of a flash byte (R49). -/
def flashKey (o : Nat) : Nat := 2 ^ 50 + o

/-- n bytes of memory. -/
def State.readB (s : State) (k n : Nat) : List Byte := Tab.getRun 0 s.mem k n
/-- One byte of memory. -/
def State.byte (s : State) (k : Nat) : Byte := Tab.get 0 s.mem k
/-- n bytes of memory as a number (R3). -/
def State.readN (s : State) (k n : Nat) : Nat := ofLE (s.readB k n)

/-- The check-code state of the word at 8 w: 0 sound, 1 correctable, 2 uncorrectable, 3 poison, 4 damaged on the path of the
next read (R298, R299). -/
def State.mark (s : State) (w : Nat) : Nat := Tab.get 0 s.marks w

/-- Marks after a write of n bytes: a word written whole is sound; one written in part keeps its mark (R300). -/
def marksAfter (t : Tab Nat) (k n : Nat) : Tab Nat :=
  t.filter fun e => !(decide (k ≤ 8 * e.1) && decide (8 * e.1 + 8 ≤ k + n))
/-- A write of bytes (R276, R300). -/
def State.writeB (s : State) (k : Nat) (bs : List Byte) : State :=
  { s with mem := Tab.putRun 0 s.mem k bs, marks := marksAfter s.marks k bs.length }
/-- A write of a number in n bytes (R3). -/
def State.writeN (s : State) (k n v : Nat) : State := s.writeB k (toLE n v)
/-- Marks the words that hold the bytes at offsets bad from key k as poison (R300). -/
def State.spoilB (s : State) (k : Nat) (bad : List Nat) : State :=
  { s with marks := bad.foldl (fun t o => Tab.put 0 t ((k + o) / 8) 3) s.marks }
/-- A copied write: a destination word built partly from poison becomes poison (R300). -/
def State.copyB (s : State) (k : Nat) (bs : List Byte) (bad : List Nat) : State := (s.writeB k bs).spoilB k bad
/-- The offsets of the poison bytes of n bytes (R299). Uncorrectable words count as poison. -/
def State.badB (s : State) (k n : Nat) : List Nat :=
  if s.marks.isEmpty then []
  else (List.range n).filter fun i => let m := s.mark ((k + i) / 8); m == 2 || m == 3 || m == 4

/-! ### Event and error-log rings (R148, R305) -/

/-- The management address of event ring n (R469). -/
def evRing (n : Nat) : Nat := 0x1000 + 0x20 * n
/-- The management address of error-log ring n (R469). -/
def elRing (n : Nat) : Nat := 0x2000 + 0x20 * n
/-- A management register of n bytes. -/
def State.mg4 (s : State) (a n : Nat) : Nat := s.readN (mgKey a) n
/-- The state with a management register of n bytes written. -/
def State.setMg (s : State) (a n v : Nat) : State := s.writeN (mgKey a) n v

/-- A record goes to slot PROD mod 2^RSIZE and PROD advances; a full ring drops it and counts it in LOST, with OVF (R148). A
ring whose RSIZE is outside 6 to 16 has no slots (log 21). -/
def State.ringPut (s : State) (a : Nat) (rec : List Byte) : State :=
  let size := s.mg4 (a + 8) 4 % 32
  let prod := s.mg4 (a + 0xC) 4
  let cons := s.mg4 (a + 0x10) 4
  let lost := s.mg4 (a + 0x14) 4
  if size < 6 ∨ 16 < size ∨ (prod + 2 ^ 32 - cons) % 2 ^ 32 = 2 ^ size then
    s.setMg (a + 0x14) 4 ((lost + 1) % 2 ^ 31 + 2 ^ 31)
  else (s.writeB (s.mg4 a 8 % 2 ^ 48 + 64 * (prod % 2 ^ size)) rec).setMg (a + 0xC) 4 ((prod + 1) % 2 ^ 32)

/-- The fields of an event record (R86) that are not always set by the module. -/
structure EvRec where
  kind : Nat
  code : Nat := 0
  port : Nat := 0xFF
  peer : Nat := 0
  asid : Nat := 0
  tenant : Nat := 0
  seqtag : Nat := 0
  addr : Nat := 0
  arg0 : Nat := 0
  arg1 : Nat := 0

/-- The 64 bytes of an event record raised here and now (R86). -/
def State.evBytes (s : State) (e : EvRec) : List Byte :=
  toLE 2 e.kind ++ toLE 1 e.code ++ toLE 1 e.port ++ toLE 2 s.mg.node.toNat ++ toLE 2 e.peer ++ toLE 2 e.asid ++
  toLE 2 e.tenant ++ toLE 4 e.seqtag ++ toLE 8 e.addr ++ toLE 8 s.now ++ toLE 8 e.arg0 ++ toLE 8 e.arg1 ++ zeros 16
/-- The state of partition p. -/
def State.getPart (s : State) (p : Nat) : Part := Tab.get Part.zero s.parts p
/-- The state with partition p changed. -/
def State.modPart (s : State) (p : Nat) (f : Part → Part) : State :=
  { s with parts := Tab.put Part.zero s.parts p (f (s.getPart p)) }
/-- An event for partition p; ring 0 when it is not active (R148). -/
def State.raisePart (s : State) (p : Nat) (e : EvRec) : State :=
  s.ringPut (evRing (if p < 16 ∧ (s.getPart p).pstate = 2 then 2 + p else 0)) (s.evBytes e)
/-- An event for the host (ring 1) or the management (ring 0). -/
def State.raiseRing (s : State) (n : Nat) (e : EvRec) : State := s.ringPut (evRing n) (s.evBytes e)

/-- The fields of an error-log record (R306). -/
structure LogRec where
  kind : Nat
  sev : Nat := 1
  unit : Nat := 0xFF
  node : Nat := 0
  asid : Nat := 0
  addr : Nat := 0
  paddr : Nat := 0
  code : Nat := 0
  port : Nat := 0xFF
  tenant : Nat := 0
  arg0 : Nat := 0
  arg1 : Nat := 0

/-- The 64 bytes of an error-log record made now (R306). -/
def State.logBytes (s : State) (e : LogRec) : List Byte :=
  toLE 2 e.kind ++ toLE 1 e.sev ++ toLE 1 e.unit ++ toLE 2 e.node ++ toLE 2 e.asid ++ toLE 8 e.addr ++ toLE 8 e.paddr ++
  toLE 8 s.now ++ toLE 1 e.code ++ toLE 1 e.port ++ toLE 2 e.tenant ++ toLE 4 1 ++ toLE 8 e.arg0 ++ toLE 8 e.arg1 ++
  zeros 8
/-- Whether the record at a key is a CE record for the physical address of a record. A word without one, which PADDR 0 means outside a memory slice,
is told by its unit and ADDR (R306; log 67). -/
def State.sameWord (s : State) (k : Nat) (e : LogRec) : Bool :=
  s.readN k 2 == 1 && s.readN (k + 16) 8 == e.paddr &&
  (e.paddr != 0 || (s.readN (k + 3) 1 == e.unit && ((decide (16 ≤ e.unit) && decide (e.unit ≤ 19)) || s.readN (k + 8) 8 == e.addr)))
/-- A record into error-log ring n; a CE record for the physical address of the newest unconsumed record merges into it
(R305, R306). -/
def State.logErr (s : State) (n : Nat) (e : LogRec) : State :=
  let a := elRing n
  let size := s.mg4 (a + 8) 4 % 32
  let prod := s.mg4 (a + 0xC) 4
  let at_ := s.mg4 a 8 % 2 ^ 48 + 64 * ((prod + 2 ^ 32 - 1) % 2 ^ size)
  if e.kind = 1 ∧ 6 ≤ size ∧ size ≤ 16 ∧ prod ≠ s.mg4 (a + 0x10) 4 ∧ s.sameWord at_ e = true then
    (s.writeN (at_ + 36) 4 (min (s.readN (at_ + 36) 4 + 1) 0xFFFFFFFF)).writeN (at_ + 24) 8 s.now
  else s.ringPut a (s.logBytes e)

/-! ### Homes, teams and units -/

/-- The home of a local physical address or a scratchpad key (R275, R249); the router's window and counter words are the hub die's. -/
def homeOf (k : Nat) : Home :=
  if 2 ^ 49 ≤ k then .hub
  else if 2 ^ 48 ≤ k then .spad ((k - 2 ^ 48) / 2 ^ 22)
  else if k < 2 ^ 41 then .die (k / 2 ^ 37)
  else if 0x80000000000 ≤ k then .die ((k - 0x80000000000) / 2 ^ 28)
  else .hub
/-- The error-log ring of a home: its die's, or the hub die's (R305). -/
def ringOf : Home → Nat
  | .spad c => c / 16
  | .die d => d
  | .hub => 16
  | .node _ => 16
/-- The UNIT that owns a key: a core, the memory slice of an HBM or bedrock address, or the hub unit (R306, R241). -/
def unitOf (k : Nat) : Nat :=
  if 2 ^ 49 ≤ k then 0x80
  else if 2 ^ 48 ≤ k then (k - 2 ^ 48) / 2 ^ 22 % 16
  else if k < 2 ^ 41 ∨ 0x80000000000 ≤ k then 16 + k / 4096 % 4
  else 0x80
/-- The global physical address of a key: this node in [63:48]; zero for a word that has none (R248). -/
def State.gpa (s : State) (k : Nat) : Nat := if k < 2 ^ 48 then s.mg.node.toNat * 2 ^ 48 + k else 0
/-- ADDR of a record about the word at 8 w, read at k for a virtual address, if for one: the word's virtual address; for a word that has none, its
offset in the scratchpad or its management address, and else zero (R306; log 67). -/
def wordAddr (k w : Nat) (va : Option Nat) : Nat :=
  if k < 2 ^ 48 then (match va with | some a => a + 8 * w - k | none => 0) else if k < 2 ^ 49 then 8 * w % 2 ^ 22 else 8 * w - 2 ^ 49
/-- The record of a kind about the word at 8 w, read at k for an address of an address space (R306). -/
def State.wordRec (s : State) (k w asid : Nat) (va : Option Nat) (kind : Nat) : LogRec :=
  { kind := kind, sev := if kind = 1 then 0 else 1, unit := unitOf k, asid := asid, addr := wordAddr k w va, paddr := s.gpa (8 * w) }

/-- The state with the check-code state of the word at 8 w set. -/
def State.setMark (s : State) (w v : Nat) : State := { s with marks := Tab.put 0 s.marks w v }
/-- One unsound word of a read at k: a corrected error is written back and logged as CE, an uncorrectable word becomes poison and is logged
as UE, and a word damaged on the path counts for this read alone (R298, R299). It answers whether the word is poison for this read. -/
def State.scanWord (s : State) (k w mark : Nat) (asid : Nat := 0) (va : Option Nat := none) : State × Bool :=
  let ring := ringOf (homeOf k)
  if mark = 1 then ((s.setMark w 0).logErr ring (s.wordRec k w asid va 1), false)
  else if mark = 2 then (((s.writeB (8 * w) (zeros 8)).setMark w 3).logErr ring (s.wordRec k w asid va 2), true)
  else if mark = 4 then ((s.setMark w 0).logErr ring (s.wordRec k w asid va 2), true)
  else (s, true)
/-- The unsound words of n bytes. -/
def State.unsound (s : State) (k n : Nat) : List (Nat × Nat) :=
  s.marks.filter fun e => decide (k / 8 ≤ e.1) && decide (8 * e.1 < k + n)
/-- A read of n bytes by a consumer, for an address of an address space: every unsound word takes effect, and each poison word is logged as
POISONED. It answers the key of the first poison word, if any (R298, R299, R301). -/
def State.scan (s : State) (k n : Nat) (asid : Nat := 0) (va : Option Nat := none) : State × Option Nat :=
  (s.unsound k n).foldl (fun r e =>
    let t := r.1.scanWord k e.1 e.2 asid va
    if t.2 then (t.1.logErr (ringOf (homeOf k)) (r.1.wordRec k e.1 asid va 3), r.2.or (some (8 * e.1)))
    else (t.1, r.2)) (s, none)
/-- A read of n bytes, for an address of an address space, by what carries poison on and is no consumer of it: the state, in which every unsound word
has taken effect, and the offsets of the poison bytes (R298, R299, R300, R306). -/
def State.carry (s : State) (k n : Nat) (asid : Nat := 0) (va : Option Nat := none) : State × List Nat :=
  ((s.unsound k n).foldl (fun t e => (t.scanWord k e.1 e.2 asid va).1) s, s.badB k n)

/-- The running or saved team of an identifier. -/
def State.team (s : State) (id : Nat) : Option Team := s.teams.find? fun t => t.id == id
/-- The state with a team changed. -/
def State.modTeam (s : State) (id : Nat) (f : Team → Team) : State :=
  { s with teams := s.teams.map fun t => if t.id = id then f t else t }
/-- The team of the running core's strand. -/
def State.myTeam (s : State) : Option Team := s.team s.csr.teamId.toNat
/-- Whether a team is absent (R180). -/
def Team.absent (t : Team) : Bool := t.phase == .stopping || t.phase == .saved || t.phase == .restoring
/-- The address space of the running strand (R159). -/
def State.myAsid (s : State) : Nat := (s.myTeam.map (·.asid)).getD 0
/-- The address space of the strand on a core. -/
def State.coreAsid (s : State) (c : Nat) : Nat := ((s.team (s.getCore c).act.csr.teamId.toNat).map (·.asid)).getD 0
/-- Poison that a command has carried from the word at an address is consumed by the running core: POISONED is logged. The word's physical address is
not carried with it (R301, R306; log 67). -/
def State.logPoison (s : State) (addr : W64) : State :=
  s.logErr (s.core / 16) { kind := 3, unit := s.core % 16, asid := s.myAsid, addr := addr.toNat }

/-! ### Taking a fault (R213) -/

/-- Taking a fault at the sequencer or the vector unit: CAUSE, FAULTPC and FAULTADDR are set and the strand stops at the bundle;
STRAND_FAULT then tells the scheduler (R213, R177). Only the first fault is reported. -/
def State.raiseAt (s : State) (cause : Nat) (addr pc : W64) (srcq : Nat) : State :=
  if s.cur.run = .faulted then s
  else s.modCur fun c =>
    { c with run := .faulted, told := false,
             act := { c.act with csr := { c.act.csr with code := BitVec.ofNat 8 cause, srcq := BitVec.ofNat 2 srcq,
                                                         faultPc := pc, faultAddr := addr } } }
/-- A precise fault of the bundle at the PC, with the address concerned. -/
def State.raise (s : State) (cause : Nat) (addr : W64) : State := s.raiseAt cause addr s.ctx.pc 0
/-- A precise fault for which the spec names no address: FAULTADDR is a free value (log 5). -/
def State.raiseFree (s : State) (cause : Nat) : State :=
  { s.raise cause (Config.freeFaultAddr s.fresh) with fresh := s.fresh + 1 }
/-- ILLEGAL_OP: FAULTPC and FAULTADDR both hold the bundle's address (R350). -/
def State.illegal (s : State) : State := s.raise 0x01 s.ctx.pc
/-- The return from a fault: the strand runs on from its PC (R177, R184). -/
def State.unfault (s : State) (c : Nat) : State :=
  s.modCore c fun x => if x.run = .faulted then { x with run := .running, told := false } else x

/-! ### Going on -/

/-- A loop level of a context. -/
def Ctx.level (x : Ctx) (d : Nat) : Level := x.levels.getD d Level.zero
/-- The context with loop level d replaced. -/
def Ctx.setLevel (x : Ctx) (d : Nat) (l : Level) : Ctx := { x with levels := x.levels.set d l }

/-- The loop end of R369 after the bundle at the PC, whose successor in memory is next; fuel bounds the levels. -/
def loopEnd : Nat → Ctx → W64 → Ctx × W64 × Bool
  | 0, x, next => (x, next, false)
  | f + 1, x, next =>
    if x.lpDepth = 0 then (x, next, false)
    else
      let d := x.lpDepth - 1
      let l := x.level d
      if l.last = x.pc ∧ x.callDepth = l.cd then
        if 1 < l.cnt.toNat then (x.setLevel d { l with cnt := l.cnt - 1 }, l.start, true)
        else loopEnd f { x with lpDepth := d } next
      else (x, next, false)
/-- SCHEDCTR after a bundle: in a timed team each bundle takes one value; in an untimed strand it counts the cycles that pass, and a bundle of itself
takes none (R238; log 4). -/
def Csr.tick (c : Csr) : W64 := if c.timed then c.schedCtr + 1 else c.schedCtr
/-- The next bundle after a bundle of n bytes that does not transfer control, loop ends included (R369); the schedule counter of a timed team
advances (R238). -/
def Ctx.advance (x : Ctx) (n : Nat) : Ctx :=
  let r := loopEnd 4 x (x.pc + BitVec.ofNat 64 n)
  { r.1 with pc := r.2.1, via := if r.2.2 then some x.pc else none,
             csr := { r.1.csr with schedCtr := r.1.csr.tick } }
/-- Going on to the bundle after one of n bytes. -/
def State.retireN (s : State) (n : Nat) : State := s.modCtx fun x => x.advance n
/-- Going on to the bundle after one of 8 bytes. -/
def State.retire (s : State) : State := s.retireN 8

/-- The levels that a taken branch to t leaves are closed (R370). -/
def closeLevels : Nat → Ctx → W64 → Ctx
  | 0, x, _ => x
  | f + 1, x, t =>
    if x.lpDepth = 0 then x
    else
      let l := x.level (x.lpDepth - 1)
      if x.callDepth = l.cd ∧ (t.toNat < l.start.toNat ∨ l.last.toNat < t.toNat) then
        closeLevels f { x with lpDepth := x.lpDepth - 1 } t
      else x
/-- A transfer of control: the next bundle is fetched at t, and a fetch fault there names this bundle in BRANCHPC (R237). -/
def Ctx.goto (x : Ctx) (t : W64) : Ctx :=
  { x with pc := t, via := some x.pc, csr := { x.csr with schedCtr := x.csr.tick } }
/-- A taken branch, which closes the loop levels it leaves (R366, R370). -/
def State.jump (s : State) (t : W64) : State := s.modCtx fun x => (closeLevels 4 x t).goto t

/-- A fresh name for a command or a request. -/
def State.newId (s : State) : State × Nat := ({ s with nextId := s.nextId + 1 }, s.nextId)

end Sys2Proof.Machine
end

