-- ==== Sys2Proof/Machine/Flags.lean ====
section
/-!
DEFINITION. Guards, conditions and the mask stack: everything that decides whether and where an instruction acts (R330, R331, R334,
R220, R358, R386).
-/
namespace Sys2Proof.Machine

/-- Whether a guard holds (R329). -/
def State.holds (s : State) (g : Guard) : Bool := s.rp g.p != g.neg
/-- A bundle of n bytes under its guard: when the guard fails the bundle changes nothing (R331). -/
def State.guardedN (s : State) (n : Nat) (g : Guard) (f : State → State) : Out :=
  .next (if s.holds g then f s else s.retireN n)
/-- A bundle of 8 bytes under its guard. -/
def State.guarded (s : State) (g : Guard) (f : State → State) : Out := s.guardedN 8 g f

/-- Whether two 64-bit values satisfy a condition (R358). -/
def condHolds (c : Cond) (a b : W64) : Bool :=
  match c with
  | .eq => a == b
  | .ne => a != b
  | .lt => decide (a.toInt < b.toInt)
  | .ge => decide (b.toInt ≤ a.toInt)
  | .ltu => decide (a.toNat < b.toNat)
  | .geu => decide (b.toNat ≤ a.toNat)

/-- The predicates as bits [7:0]; bit 0 is always 1 (R359). -/
def Ctx.predBits (x : Ctx) : Nat := x.p.toNat / 2 * 2 + 1
/-- The predicates taken from a register; bit 0 is ignored (R359). -/
def predOf (w : W64) : BitVec 8 := BitVec.ofNat 8 (fld w 7 1 * 2)

/-- BELOW: the entry under the top of the mask stack; all ones when there is none (R220). -/
def Ctx.below (x : Ctx) : BitVec 128 := (x.masks.drop 1).headD (BitVec.allOnes 128)
/-- TOP of a context's mask stack (R220). -/
def Ctx.topMask (x : Ctx) : BitVec 128 := x.masks.headD (BitVec.allOnes 128)
/-- The 128-bit value whose bit i tells that lane i is not all zeros (R388). -/
def lanesNonZero (v : Vec) : BitVec 128 := BitVec.ofNat 128 (joinElems 1 (fun i => (elem v 32 i != 0).toNat) 128)

end Sys2Proof.Machine
end

