-- ==== Sys2Proof/Machine/Walk.lean ====
section
/-!
DEFINITION. Page tables and fault records (R250 to R256, R262 to R264): the walk, the conditions on leaves, the frames a partition
holds, and posting a fault record.
-/
namespace Sys2Proof.Machine

/-! ### Resource units (R149)

Units by number: clusters 0 to 63, HBM groups 1,000 to 1,511, LP tier channels 2,000 to 2,031, bedrock bank groups 3,000 to 3,127,
synchronisation banks 4,000 to 4,255, tenant entries 5,000 to 5,063, policy processors 6,000 to 6,015, registration
windows 10,000 to 14,095, key slots 20,000 to 24,095 (log 22). -/

/-- The partition that holds a unit, plus one; 0 for none. -/
def State.owner (s : State) (u : Nat) : Nat := Tab.get 0 s.mg.owners u
/-- Whether partition p holds a unit. -/
def State.holdsUnit (s : State) (p u : Nat) : Bool := s.owner u == p + 1
/-- The unit that a local physical address belongs to (R45, R46, R149, R249); none for a reserved address. -/
def unitOfPa (a : Nat) : Option Nat :=
  if a < 2 ^ 41 then some (1000 + a / 2 ^ 32)
  else if 2 ^ 42 ≤ a ∧ a < 2 ^ 43 then some (2000 + (a - 2 ^ 42) / 2 ^ 37)
  else if 2 ^ 43 ≤ a ∧ a < 2 ^ 43 + 2 ^ 32 then some (3000 + (a - 2 ^ 43) / 2 ^ 25)
  else none
/-- Whether a frame lies in an HBM group or LP tier channel of partition p. -/
def State.frameOf (s : State) (p frame : Nat) : Bool :=
  match unitOfPa (frame * 2 ^ 16) with
  | some u => decide (u < 3000) && s.holdsUnit p u
  | none => false

/-! ### Page-table entries (R251) -/

/-- V. -/
def pteV (p : W64) : Bool := p.getLsbD 0
/-- R. -/
def pteR (p : W64) : Bool := p.getLsbD 1
/-- W. -/
def pteW (p : W64) : Bool := p.getLsbD 2
/-- X. -/
def pteX (p : W64) : Bool := p.getLsbD 3
/-- ORDER. -/
def pteOrder (p : W64) : Nat := fld p 5 4
/-- CONF. -/
def pteConf (p : W64) : Bool := p.getLsbD 6
/-- SYNC. -/
def pteSync (p : W64) : Bool := p.getLsbD 7
/-- BEDROCK. -/
def pteBed (p : W64) : Bool := p.getLsbD 8
/-- TIER. -/
def pteTier (p : W64) : Bool := p.getLsbD 9
/-- MIG. -/
def pteMig (p : W64) : Bool := p.getLsbD 10
/-- CONTIG. -/
def pteContig (p : W64) : Bool := p.getLsbD 11
/-- The node of PPN. -/
def pteNode (p : W64) : Nat := fld p 63 48
/-- The local frame of PPN. -/
def pteFrame (p : W64) : Nat := fld p 47 16

/-- Whether a leaf of an address space of partition p meets R252 or R253, walked at this node. -/
def State.leafOk (s : State) (p : Nat) (e : W64) : Bool :=
  if pteNode e = s.mg.node.toNat then
    let a := pteFrame e * 2 ^ 16
    let inTier := if pteTier e then decide (2 ^ 42 ≤ a) && decide (a < 2 ^ 43) else decide (a < 2 ^ 41)
    inTier && s.frameOf p (pteFrame e) && (!pteBed e || (!pteW e && !pteSync e && !pteMig e)) &&
    (!pteSync e || (!pteTier e && !pteMig e))
  else pteFrame e == 0 && !pteX e && !pteTier e && !pteBed e && !pteContig e

/-- The ASID table entry of an address space (R135). -/
def State.asidEntry (s : State) (asid : Nat) : W64 := w64 (s.mg4 (0x20000000 + 8 * asid) 8)
/-- PART of an ASID entry. -/
def asidPart (e : W64) : Nat := fld e 15 12

/-- The partition that owns an address space; 16, no partition, where its entry has V = 0 (R135). An event for no partition goes to the
management ring as one of a partition that is not active does (R148; log 67). -/
def State.asidOwner (s : State) (asid : Nat) : Nat := if pteV (s.asidEntry asid) then asidPart (s.asidEntry asid) else 16

/-- What a walk finds: an absent page, a malformed one, or a leaf with its level, the key of the PTE and the global physical
address of the byte (R250). -/
inductive WalkRes where
  | absent
  | malformed
  | leaf (pte : W64) (level pteKey pa : Nat)
  deriving DecidableEq, Repr

/-- The walk from the table in frame t at a level, with fuel for the levels below (R250). Poison in a table makes the walk
malformed (R301). -/
def State.walkFrom (s : State) (p va : Nat) : Nat → Nat → Nat → WalkRes
  | 0, _, _ => .malformed
  | f + 1, level, t =>
    if t / 2 ^ 32 ≠ s.mg.node.toNat ∨ !s.frameOf p (t % 2 ^ 32) then .malformed
    else
      let idx := if level = 1 then nfld va 54 42 else if level = 2 then nfld va 41 29 else nfld va 28 16
      let k := t % 2 ^ 32 * 2 ^ 16 + idx * 8
      let e := w64 (s.readN k 8)
      if (s.badB k 8).isEmpty = false then .malformed
      else if !pteV e then .absent
      else if fld e 15 12 ≠ 0 then .malformed
      else if !pteR e ∧ !pteW e ∧ !pteX e then
        if level = 3 ∨ fld e 11 4 ≠ 0 then .malformed else s.walkFrom p va f (level + 1) (fld e 63 16)
      else if level = 1 then .malformed
      else if level = 2 then
        if nfld (fld e 63 16) 12 0 ≠ 0 ∨ pteMig e ∨ pteContig e ∨ !s.leafOk p e then .malformed
        else .leaf e 2 k (fld e 63 16 * 2 ^ 16 + va % 2 ^ 29)
      else if !s.leafOk p e then .malformed
      else .leaf e 3 k (fld e 63 16 * 2 ^ 16 + va % 2 ^ 16)

/-- The walk of a virtual address for an ASID (R250). -/
def State.walk (s : State) (asid va : Nat) : WalkRes :=
  let e := s.asidEntry asid
  if 2 ^ 55 ≤ va then .malformed
  else if !pteV e then .malformed
  else s.walkFrom (asidPart e) va 3 1 (fld e 63 16)

/-- The keys of the table words that a walk reads (R250); fuel bounds the levels. -/
def State.walkKeys (s : State) (p va : Nat) : Nat → Nat → Nat → List Nat
  | 0, _, _ => []
  | f + 1, level, t =>
    if t / 2 ^ 32 ≠ s.mg.node.toNat ∨ !s.frameOf p (t % 2 ^ 32) then []
    else
      let idx := if level = 1 then nfld va 54 42 else if level = 2 then nfld va 41 29 else nfld va 28 16
      let k := t % 2 ^ 32 * 2 ^ 16 + idx * 8
      let e := w64 (s.readN k 8)
      if pteV e ∧ !pteR e ∧ !pteW e ∧ !pteX e ∧ level < 3 ∧ (s.badB k 8).isEmpty then
        k :: s.walkKeys p va f (level + 1) (fld e 63 16)
      else [k]
/-- What a walk does to the words that it reads: the table walker corrects and logs what is wrong with them, and consumes poison (R298, R299, R301). -/
def State.walked (s : State) (asid va : Nat) : State :=
  if s.marks.isEmpty then s
  else
    let e := s.asidEntry asid
    if va < 2 ^ 55 ∧ pteV e then (s.walkKeys (asidPart e) va 3 1 (fld e 63 16)).foldl (fun t k => (t.scan k 8 asid va).1) s else s
/-- The walks of several addresses. -/
def State.walkedAll (s : State) (asid : Nat) (vas : List Nat) : State := vas.foldl (fun t va => t.walked asid va) s

/-- The key of the PTE at a level on the path of va, whatever stands in it; none when a table above it is missing. -/
def State.pteKey (s : State) (p va : Nat) : Nat → Nat → Nat → Nat → Option Nat
  | 0, _, _, _ => none
  | f + 1, level, target, t =>
    if t / 2 ^ 32 ≠ s.mg.node.toNat ∨ !s.frameOf p (t % 2 ^ 32) then none
    else
      let idx := if level = 1 then nfld va 54 42 else if level = 2 then nfld va 41 29 else nfld va 28 16
      let k := t % 2 ^ 32 * 2 ^ 16 + idx * 8
      if level = target then some k
      else
        let e := w64 (s.readN k 8)
        if !pteV e ∨ pteR e ∨ pteW e ∨ pteX e ∨ fld e 15 12 ≠ 0 then none
        else s.pteKey p va f (level + 1) target (fld e 63 16)
/-- The key of the PTE of va at a level in the tree of an ASID. -/
def State.pteAt (s : State) (asid va level : Nat) : Option Nat :=
  let e := s.asidEntry asid
  if !pteV e then none else s.pteKey (asidPart e) va 3 1 level (fld e 63 16)

/-- Whether a page stands in the move table (R271). -/
def State.moving (s : State) (asid va : Nat) : Bool :=
  s.msys.moves.any fun m => m.asid == asid && m.va == va / 2 ^ 16 * 2 ^ 16
/-- Whether a page is copy-on-write and not yet copied; a 512 MiB block is listed by its address plus one (R304). -/
def State.isCow (s : State) (asid va : Nat) : Bool :=
  s.msys.snaps.any fun m => m.asid == asid && (m.cow.contains (va / 2 ^ 16 * 2 ^ 16) || m.cow.contains (va / 2 ^ 29 * 2 ^ 29 + 1))

/-! ### Fault records (R262 to R264) -/

/-- The management block of partition p (R469). -/
def partBlock (p : Nat) : Nat := 0x10000 + 0x10000 * p

/-- The index of the open fault record of a block, searched from index k over n records. -/
def State.findFault (s : State) (base size asid block : Nat) : Nat → Nat → Option Nat
  | 0, _ => none
  | n + 1, k =>
    let a := base + 64 * (k % 2 ^ size)
    if s.readN a 8 = block ∧ s.readN (a + 8) 2 = asid then some a else s.findFault base size asid block n (k + 1)

/-- Posts a fault in a page: the open record of its block is updated in place, or a record is created and FAULT_RECORD raised, or
FRLOST counts it (R264). kinds is the KINDS byte, node the requester from the fabric. An address space that no partition owns (V = 0) has no records
(R135). PEER of the event, which R87 does not name, stays zero (log 67). -/
def State.postFault (s : State) (asid va kinds node : Nat) : State :=
  let p := asidPart (s.asidEntry asid)
  let b := partBlock p
  let size := s.mg4 (b + 0x408) 4 % 32
  let base := s.mg4 (b + 0x400) 8 % 2 ^ 48
  let prod := s.mg4 (b + 0x40C) 4
  let cons := s.mg4 (b + 0x410) 4
  let block := va / 2 ^ 22 * 2 ^ 22
  let bit := 2 ^ (va / 2 ^ 16 % 64)
  let n := (prod + 2 ^ 32 - cons) % 2 ^ 32
  if !pteV (s.asidEntry asid) then s
  else if size < 6 ∨ 16 < size then s.setMg (b + 0x414) 4 ((s.mg4 (b + 0x414) 4 + 1) % 2 ^ 32)
  else
    match s.findFault base size asid block (min n (2 ^ size)) cons with
    | some a =>
      -- NODE is the requester of the record's first fault from the fabric
      let first := kinds / 16 % 2 == 1 && s.readN (a + 10) 1 / 16 % 2 == 0
      (((((s.writeN (a + 10) 1 (s.readN (a + 10) 1 ||| kinds)).writeN (a + 12) 4
        (min (s.readN (a + 12) 4 + 1) 0xFFFFFFFF)).writeN (a + 16) 8 (s.readN (a + 16) 8 ||| bit)).writeN (a + 32) 8 s.now)).writeN (a + 40) 2
        (if first then node else s.readN (a + 40) 2)
    | none =>
      if n = 2 ^ size then s.setMg (b + 0x414) 4 ((s.mg4 (b + 0x414) 4 + 1) % 2 ^ 32)
      else
        let rec_ := toLE 8 block ++ toLE 2 asid ++ toLE 1 kinds ++ toLE 1 0 ++ toLE 4 1 ++ toLE 8 bit ++ toLE 8 s.now ++
          toLE 8 s.now ++ toLE 2 node ++ zeros 22
        ((s.writeB (base + 64 * (prod % 2 ^ size)) rec_).setMg (b + 0x40C) 4 ((prod + 1) % 2 ^ 32)).raisePart p
          { kind := 8, asid := asid, addr := block, arg0 := kinds }

end Sys2Proof.Machine
end

