-- ==== Sys2Proof/Machine/Operands.lean ====
section
/-!
DEFINITION. Every operand form: scratchpad pointers (R246, R247, R405, R425), virtual addresses through extents (R258, R259), the
order that accesses of one stream keep (R283, R286), and requests to other nodes (R84, R253).
-/
namespace Sys2Proof.Machine

/-! ### Immediates -/

/-- IMM32 sign-extended (R336). -/
def sx32 (i : BitVec 32) : W64 := i.signExtend 64
/-- IMM12 as a signed number (R347). -/
def sx12 (i : BitVec 12) : Int := sgn 12 i.toNat
/-- The target of a displacement in 8-byte words (R337). -/
def dispTarget (pc : W64) (d : BitVec 32) : W64 := pc + d.signExtend 64 * 8
/-- A 64-bit address plus a signed offset, modulo 2^64 (R5). -/
def addOff (a : W64) (o : Int) : W64 := w64 (wrap 64 (a.toNat + o))

/-! ### Scratchpad pointers (R246) -/

/-- Bits [31:0] of a register as a pointer. -/
def ptrOf (w : W64) : Nat := fld w 31 0
/-- SPACE is 10 or 11. -/
def ptrBad (p : Nat) : Bool := decide (2 ^ 31 ≤ p)
/-- SPACE is 01. -/
def ptrPeer (p : Nat) : Bool := decide (2 ^ 30 ≤ p) && decide (p < 2 ^ 31)
/-- RANK. -/
def ptrRank (p : Nat) : Nat := nfld p 29 22
/-- OFFSET. -/
def ptrOff (p : Nat) : Nat := nfld p 21 0
/-- Whether a pointer names the own scratchpad of a context's strand (R246). -/
def Ctx.ptrOwn (x : Ctx) (p : Nat) : Bool :=
  !ptrBad p && (!ptrPeer p || ptrRank p == x.csr.rank.toNat)
/-- Whether a pointer's rank is below TEAMSIZE (R247). -/
def Ctx.rankOk (x : Ctx) (p : Nat) : Bool := !ptrPeer p || decide (ptrRank p < x.csr.teamSize.toNat)
/-- A pointer with OFFSET replaced (R363). -/
def ptrAt (p : Nat) (off : Int) : Nat := p / 2 ^ 22 * 2 ^ 22 + wrap 22 off
/-- Whether an access of n bytes at a signed offset lies inside a scratchpad (R247). -/
def inSpad (off : Int) (n : Nat) : Bool := decide (0 ≤ off) && decide (off + n ≤ 4194304)
/-- An out-of-range access: OOBFLAG is set, and OOBADDR takes the pointer when the flag was 0 (R247). -/
def Ctx.oob (x : Ctx) (p : Nat) : Ctx :=
  { x with csr := { x.csr with oobFlag := true, oobAddr := if x.csr.oobFlag then x.csr.oobAddr else BitVec.ofNat 32 p } }
/-- An out-of-range access of the running strand (R247). -/
def State.oob (s : State) (p : Nat) : State := s.modCtx fun x => x.oob p
/-- The core on which the team map places a rank of the running team (R174). -/
def State.rankCore (s : State) (r : Nat) : Nat := ((s.myTeam.map (·.cores)).getD []).getD r s.core
/-- The core that a pointer reaches (R246, R174). -/
def State.ptrCore (s : State) (p : Nat) : Nat := if s.ctx.ptrOwn p then s.core else s.rankCore (ptrRank p)

/-! ### Accesses and their order -/

/-- Whether two accesses touch a common byte. -/
def Acc.overlaps (a b : Acc) : Bool := decide (a.lo < b.lo + b.len) && decide (b.lo < a.lo + a.len)
/-- The outstanding accesses of a core. -/
def Core.accs (c : Core) : List Acc := ((c.pend.filter fun p => p.fail.isNone).map (·.acc)) ++ c.outw.map (·.acc)
/-- Whether an access may be performed now: no earlier outstanding access of its stream is ordered before it, by overlap (R283) or
because both are strongly ordered (R286). -/
def Core.mayPerform (c : Core) (a : Acc) : Bool :=
  !(c.accs.any fun p => p.stream == a.stream && decide (p.id < a.id) &&
      ((p.so && a.so) || (p.keep && a.keep && p.overlaps a)))
/-- Whether a strongly ordered access may be issued: every earlier one of the stream that is outstanding has the same home (R286). -/
def Core.mayIssue (c : Core) (a : Acc) : Bool :=
  !a.so || !(c.accs.any fun p => p.stream == a.stream && decide (p.id < a.id) && p.so && p.home != a.home)

/-! ### Extents (R258, R259) -/

/-- The kinds of access that an extent is asked for (R259). -/
inductive AKind where
  | read | write | atomic | fetch
  deriving DecidableEq, Repr

/-- The outcome of a translation (R259). -/
inductive TRes where
  | ok (ps : List Piece)
  | held
  | fault (cause addr : Nat)
  deriving DecidableEq, Repr

/-- Whether an extent covers an address. -/
def Extent.covers (e : Extent) (va : Nat) : Bool := decide (e.vbase ≤ va) && decide (va < e.vbase + 4096 * e.units)
/-- The extent that an address takes: the lowest-index one that covers it; a STALE one gives way to the page set (R259, R260). -/
def Team.extentAt (t : Team) (va : Nat) : Option Extent :=
  match t.exts.find? (·.covers va) with
  | some e => if e.stale then ((t.pset.find? fun x => x.covers va && !x.stale).or (some e)) else some e
  | none => t.pset.find? fun x => x.covers va && !x.stale
/-- Whether an extent's permissions allow a kind of access. -/
def Extent.allows (e : Extent) (k : AKind) : Bool :=
  match k with
  | .read => e.r
  | .write => e.w
  | .atomic => e.r && e.w
  | .fetch => e.x
/-- Whether a kind of access writes. -/
def AKind.writes : AKind → Bool
  | .write | .atomic => true
  | _ => false
/-- The row of the table of R259 that an address matches; 8 for an access that may be performed. -/
def State.extRow (s : State) (t : Team) (k : AKind) (va : Nat) : Nat :=
  match t.extentAt va with
  | none => 1
  | some e =>
    if e.absent then (if e.allows k then 3 else 2)
    else if k.writes ∧ e.bedrock then 4
    else if e.order = 3 ∨ !e.allows k then 5
    else if e.stale ∨ (k.writes ∧ s.isCow t.asid va) then 7
    else 8
/-- CAUSE of a row of R259 for a kind of access. -/
def rowCause (k : AKind) (row : Nat) : Nat :=
  match row with
  | 3 => 0x04
  | 4 => 0x13
  | _ => if k = .fetch then 0x02 else 0x03

/-- The key of a byte of another node's memory (log 1). -/
def remoteKey (node va : Nat) : Nat := 2 ^ 60 + node * 2 ^ 55 + va
/-- The part of an access that lies in the 4 KiB unit of an address, on a die (R258, R269). -/
def State.pieceAt (s : State) (t : Team) (die va len : Nat) : Option Piece :=
  (t.extentAt va).map fun e =>
    let pa := if e.bedrock then Tab.get 0 e.bed die + (va - e.vbase) else e.pbase + (va - e.vbase)
    let node := if e.bedrock then s.mg.node.toNat else pa / 2 ^ 48
    { va := va, len := len, node := node,
      key := if node = s.mg.node.toNat then pa % 2 ^ 48 else remoteKey node va,
      order := e.order, conf := e.conf, sync := e.sync, tier := e.tier, mig := e.mig, bed := e.bedrock }
/-- Joins neighbouring parts that run on in memory with equal attributes. -/
def joinPieces : List Piece → List Piece
  | [] => []
  | p :: ps =>
    match joinPieces ps with
    | [] => [p]
    | q :: qs =>
      if p.va + p.len = q.va ∧ p.key + p.len = q.key ∧ { p with va := q.va, len := q.len, key := q.key } = q
      then { p with len := p.len + q.len } :: qs
      else p :: q :: qs
/-- The starts and lengths of the 4 KiB units that an access touches. -/
def unitsOf (va len : Nat) : List (Nat × Nat) :=
  if len = 0 then []
  else
    (List.range ((va + len - 1) / 4096 - va / 4096 + 1)).map fun i =>
      let a := max va ((va / 4096 + i) * 4096)
      (a, min (va + len) ((va / 4096 + i + 1) * 4096) - a)
/-- Whether n bytes at a key touch a bedrock bank group of a die that is in its refresh window of 96 cycles (R243). -/
def State.bankBusy (s : State) (die k n : Nat) : Bool :=
  let d := Tab.get Die.zero s.dies die
  let first := (k - 2 ^ 43) / 2 ^ 25
  decide (2 ^ 43 ≤ k) && decide (k < 2 ^ 48) && d.refOn && decide (s.cycle < d.refAt + 96) &&
  (List.range ((k - 2 ^ 43 + (n - 1)) / 2 ^ 25 + 1 - first)).any fun i => (first + i) % 8 == d.refGroup
/-- Whether a part touches a bedrock bank group that is in its refresh window (R243). -/
def State.refreshing (s : State) (die : Nat) (p : Piece) : Bool := p.bed && s.bankBusy die p.key p.len
/-- The translation of an access for a team on a die, a refresh of the bedrock apart. The first row of R259 that any byte matches decides; no entry
covers a byte from 2^55 on (R248). -/
def State.translateNow (s : State) (t : Team) (die : Nat) (k : AKind) (va len : Nat) : TRes :=
  let us := unitsOf va (min len (2 ^ 55 - va))
  let low := us.map fun u => (s.extRow t k u.1, u.1)
  let rows := if 2 ^ 55 < va + len then low ++ [(1, max va (2 ^ 55))] else low
  let best := rows.foldl (fun m r => min m r.1) 8
  if best = 8 then .ok (joinPieces (us.filterMap fun u => s.pieceAt t die u.1 u.2))
  else
    match rows.find? (fun r => r.1 == best) with
    | some r => if best = 7 then .held else .fault (rowCause k best) r.2
    | none => .held
/-- The parts of an access that wait for a refresh window to end (R243). -/
def TRes.waits (s : State) (die : Nat) : TRes → Bool
  | .ok ps => ps.any (s.refreshing die)
  | _ => false
/-- The translation of an access for a team on a die; a bedrock read waits for a refresh window to end (R243, R259). -/
def State.translate (s : State) (t : Team) (die : Nat) (k : AKind) (va len : Nat) : TRes :=
  let r := s.translateNow t die k va len
  if r.waits s die then .held else r
/-- The translation of an access of the running strand. -/
def State.xlate (s : State) (k : AKind) (va len : Nat) : TRes :=
  match s.myTeam with
  | some t => s.translate t (s.core / 16) k va len
  | none => .fault (if k = .fetch then 0x02 else 0x03) va
/-- The KINDS bit of a kind of access (R263). -/
def AKind.bit : AKind → Nat
  | .read => 1 | .write => 2 | .atomic => 4 | .fetch => 8
/-- The fault of a translation at the bundle; PAGE_ABSENT posts a fault record (R259, R264). -/
def State.raiseT (s : State) (k : AKind) (cause addr : Nat) : State :=
  (if cause = 0x04 then s.postFault s.myAsid addr k.bit 0 else s).raise cause (w64 addr)

/-- The access of a stream to a part, named id. -/
def State.accOf (s : State) (id stream cmd : Nat) (p : Piece) : Acc :=
  let here := p.node == s.mg.node.toNat
  { id := id, stream := stream, cmd := cmd, home := if here then homeOf p.key else .node p.node, so := p.order == 2,
    keep := p.order == 2 || (p.order == 1 && here), uno := p.order == 0, lo := p.key, len := p.len, va := p.va, sync := p.sync && here }
/-- The access of a stream to bytes of a scratchpad (R283). -/
def spadAcc (id stream cmd core off len : Nat) : Acc :=
  { id := id, stream := stream, cmd := cmd, home := .spad core, so := false, keep := true, uno := false, lo := spadKey core off,
    len := len, va := off }

/-! ### Migration counts (R270) -/

/-- An access from a node to a MIG page homed here is counted; this node counts as local. The table holds 4,096 pages, the least
recently used last; the frame and tier of a page are those of its leaf at its last access. -/
def State.countAccess (s : State) (asid part va frame node : Nat) (tier : Bool) : State :=
  let page := va / 2 ^ 16 * 2 ^ 16
  let was := (s.msys.migs.find? fun m => m.asid == asid && m.va == page).getD
    { asid := asid, va := page, frame := frame, loc := 0, rem := 0, cand := 0, cnt := 0, part := part, tier := tier }
  let old : MigPage := { was with frame := frame, part := part, tier := tier }
  let new : MigPage :=
    if node = s.mg.node.toNat then { old with loc := old.loc + 1 }
    else if old.cnt = 0 then { old with rem := old.rem + 1, cand := node, cnt := 1 }
    else if old.cand = node then { old with rem := old.rem + 1, cnt := old.cnt + 1 }
    else { old with rem := old.rem + 1, cnt := old.cnt - 1 }
  { s with msys := { s.msys with
      migs := (new :: s.msys.migs.filter fun m => !(m.asid == asid && m.va == page)).take 4096 } }
/-- The count of a strand's local access to a part. -/
def State.countPiece (s : State) (p : Piece) : State :=
  if p.mig ∧ p.node = s.mg.node.toNat then
    s.countAccess s.myAsid s.csr.part.toNat p.va (p.key / 2 ^ 16) p.node p.tier
  else s

/-! ### Requests to other nodes (R84, R253) -/

/-- A request with nothing set but its kind and target. -/
def State.reqTo (s : State) (id kind : Nat) (asker : Asker) (part asid : Nat) (p : Piece) : Req :=
  { id := id, kind := kind, asker := asker, part := part, node := p.node, va := p.va, asid := asid, len := p.len,
    order := p.order, conf := p.conf, sync := p.sync, data := [], aop := 0, opa := 0, opb := 0, bar := none,
    box := none, off := 0, retries := 0, due := s.now }
/-- Hands a request to the package gateway (R84). -/
def State.post (s : State) (r : Req) : State := { s with gate := { s.gate with egress := s.gate.egress ++ [r] } }

end Sys2Proof.Machine
end

