-- ==== Sys2Proof/Machine/Tables.lean ====
section
/-!
DEFINITION. The scheduler's tables in management memory (R159 to R161, R469): pipelines, stages, queues, semaphores and capacity entries; the
head record of a queue (R163 to R167, R473); and the event queue of a slate (R189, R190).
-/
namespace Sys2Proof.Machine

/-- Whether the module is in the READY phase (R54). -/
def State.ready (s : State) : Bool := s.mg.modstatus.getLsbD 31

/-! ### Addresses (R469) -/

/-- The descriptor of pipeline q of partition p. -/
def pipeAt (p q : Nat) : Nat := 0x01000000 + 0x100000 * p + 0x10000 * q
/-- Stage descriptor t. -/
def stageAt (p q t : Nat) : Nat := pipeAt p q + 0x1000 + 0x40 * t
/-- Queue descriptor k. -/
def queueAt (p q k : Nat) : Nat := pipeAt p q + 0x2000 + 0x40 * k
/-- Semaphore i. -/
def semAt (p q i : Nat) : Nat := pipeAt p q + 0x3000 + 4 * i
/-- Capacity entry e. -/
def capAt (p q e : Nat) : Nat := pipeAt p q + 0x4000 + 0x10 * e

/-- ENABLE of a pipeline (R159). -/
def State.pipeOn (s : State) (p q : Nat) : Bool := s.mg4 (pipeAt p q) 1 % 2 == 1
/-- The address space of a pipeline. -/
def State.pipeAsid (s : State) (p q : Nat) : Nat := s.mg4 (pipeAt p q + 2) 2
/-- TEAM of a stage; 0 when it is not declared (R160). -/
def State.stTeam (s : State) (p q t : Nat) : Nat := s.mg4 (stageAt p q t + 8) 2
/-- GROUP of a stage. -/
def State.stGrouped (s : State) (p q t : Nat) : Bool := s.mg4 (stageAt p q t + 10) 1 % 2 == 1
/-- TIMED of a stage. -/
def State.stTimed (s : State) (p q t : Nat) : Bool := s.mg4 (stageAt p q t + 10) 1 / 2 % 2 == 1
/-- INQ of a stage. -/
def State.stInq (s : State) (p q t : Nat) : Nat := s.mg4 (stageAt p q t + 11) 1
/-- OUTQ byte j of a stage. -/
def State.stOutq (s : State) (p q t j : Nat) : Nat := s.mg4 (stageAt p q t + 12 + j) 1
/-- LOGDEPTH of a queue; 0 when it is not declared (R161). -/
def State.quLog (s : State) (p q k : Nat) : Nat := s.mg4 (queueAt p q k + 8) 1
/-- HEAD. -/
def State.quHead (s : State) (p q k : Nat) : Nat := s.mg4 (queueAt p q k + 12) 4
/-- TAIL. -/
def State.quTail (s : State) (p q k : Nat) : Nat := s.mg4 (queueAt p q k + 16) 4
/-- PUB. -/
def State.quPub (s : State) (p q k : Nat) : Nat := s.mg4 (queueAt p q k + 20) 4
/-- The virtual address of record n of a queue (R161). -/
def State.quSlot (s : State) (p q k n : Nat) : Nat := s.mg4 (queueAt p q k) 8 + 64 * (n % 2 ^ s.quLog p q k)
/-- A difference of counts modulo 2^32. -/
def diff32 (a b : Nat) : Nat := (a + 2 ^ 32 - b) % 2 ^ 32
/-- The declared stages of a pipeline. -/
def State.stages (s : State) (p q : Nat) : List Nat := (List.range 64).filter fun t => s.stTeam p q t != 0
/-- Whether a queue is kernel-fed: a declared stage names it in OUTQ (R161). -/
def State.kernelFed (s : State) (p q k : Nat) : Bool :=
  (s.stages p q).any fun t => (List.range 4).any fun j => s.stOutq p q t j == k
/-- The records in a queue that may be popped: PUB − HEAD when kernel-fed, TAIL − HEAD when host-fed (R168, R192). -/
def State.quCount (s : State) (p q k : Nat) : Nat :=
  diff32 (if s.kernelFed p q k then s.quPub p q k else s.quTail p q k) (s.quHead p q k)

/-! ### Records (R163 to R167, R473) -/

/-- ROWS of a record. -/
def recRows (r : List Byte) : Nat := leField r 0 4
/-- WAITVAL. -/
def recWaitVal (r : List Byte) : Nat := leField r 4 4
/-- WAITSEM. -/
def recWaitSem (r : List Byte) : Nat := leField r 8 1
/-- SIGSEM. -/
def recSigSem (r : List Byte) : Nat := leField r 9 1
/-- SIGADD. -/
def recSigAdd (r : List Byte) : Nat := leField r 10 2
/-- SKIP_IF_ZERO. -/
def recSkip (r : List Byte) : Bool := leField r 12 1 % 2 == 1
/-- BEDROCK_IMAGE. -/
def recImage (r : List Byte) : Bool := leField r 12 1 / 2 % 2 == 1
/-- NRANGE. -/
def recRanges (r : List Byte) : Nat := leField r 13 1
/-- TEAMN. -/
def recTeam (r : List Byte) : Nat := leField r 14 2
/-- Word i. -/
def recWord (r : List Byte) (i : Nat) : Nat := leField r (16 + 8 * i) 8
/-- VBASE of a range word, as an address (R164). -/
def rangeBase (w : Nat) : Nat := nfld w 63 21 * 4096
/-- PAGES of a range word, in 4 KiB units. -/
def rangePages (w : Nat) : Nat := nfld w 20 2
/-- MODE of a range word. -/
def rangeMode (w : Nat) : Nat := w % 4
/-- Whether a record is malformed for a stage (R165). -/
def recBad (r : List Byte) (team : Nat) (grouped : Bool) : Bool :=
  decide (4 ≤ leField r 12 1) || decide (6 < recRanges r) ||
  ((List.range (min (recRanges r) 6)).any fun i => rangeMode (recWord r i) == 0 || rangePages (recWord r i) == 0) ||
  decide (team < recTeam r) || (grouped && recTeam r % 4 != 0) ||
  (recImage r && (recRanges r == 0 || rangeMode (recWord r 0) != 1))

/-- What reading a record finds; held is a slot whose page moves (R473, R250). -/
inductive RecRes where
  | held
  | absent (va : Nat)
  | bad
  | ok (bytes : List Byte)
  deriving DecidableEq, Repr
/-- The record at a virtual address, read by the scheduler for partition p (R473). -/
def State.recordAt (s : State) (p asid va : Nat) : RecRes :=
  if asidPart (s.asidEntry asid) ≠ p then .bad
  else
    match s.walk asid va with
    | .absent => if s.moving asid va then .held else .absent va
    | .malformed => .bad
    | .leaf e _ _ pa =>
      let k := pa % 2 ^ 48
      if pteNode e = s.mg.node.toNat ∧ pteR e ∧ (s.badB k 64).isEmpty then .ok (s.readB k 64) else .bad
/-- What the head record of a stage is: no record, or what reading it finds, a malformed one being bad (R165, R473). -/
def State.headOf (s : State) (p q t : Nat) : Option RecRes :=
  let k := s.stInq p q t
  if s.quCount p q k = 0 then none
  else
    match s.recordAt p (s.pipeAsid p q) (s.quSlot p q k (s.quHead p q k)) with
    | .ok r => some (if recBad r (s.stTeam p q t) (s.stGrouped p q t) then .bad else .ok r)
    | r => some r
/-- The bytes of the head record as far as they can be read, well formed or not. -/
def State.headBytes (s : State) (p q t : Nat) : Option (List Byte) :=
  let k := s.stInq p q t
  if s.quCount p q k = 0 then none
  else
    match s.recordAt p (s.pipeAsid p q) (s.quSlot p q k (s.quHead p q k)) with
    | .ok r => some r
    | _ => none
/-- What the read of the head record of a stage does to the words that it reads, those of the walk among them (R298, R299, R301). -/
def State.readHead (s : State) (p q t : Nat) : State :=
  let k := s.stInq p q t
  let asid := s.pipeAsid p q
  let va := s.quSlot p q k (s.quHead p q k)
  let u := s.walked asid va
  match u.walk asid va with
  | .leaf _ _ _ pa => (u.scan (pa % 2 ^ 48) 64 asid va).1
  | _ => u
/-- The semaphore test of R167. -/
def State.semOk (s : State) (p q : Nat) (r : List Byte) : Bool := decide (recWaitVal r ≤ s.mg4 (semAt p q (recWaitSem r)) 4)
/-- Whether a head may be dispatched: its semaphore test holds, or it is malformed and no test can be made (R167, R172, R473). -/
def State.headReady (s : State) (p q t : Nat) : Bool :=
  match s.headOf p q t with
  | none => false
  | some (.absent _) | some .held => false
  | some (.ok r) => s.semOk p q r
  | some .bad => match s.headBytes p q t with | some r => s.semOk p q r | none => true
/-- Whether a head is ready and not malformed (R192). -/
def State.headGood (s : State) (p q t : Nat) : Bool :=
  match s.headOf p q t with
  | some (.ok r) => s.semOk p q r
  | _ => false

/-! ### Slate events (R189, R190) -/

/-- The entries of DISPATCH events in a queue. -/
def dispatches (es : List Event) : List Event := es.filter fun e => e.kind == 1
/-- An event joins the queue of a policy processor: equal DISPATCH events merge and a 257th is dropped, TICKs merge, a SWAP stands first
(R190). -/
def Part.queueEvent (x : Part) (e : Event) : Part :=
  if e.kind = 1 then
    if x.events.contains e then x
    else if 256 ≤ (dispatches x.events).length then { x with resync := true }
    else { x with events := x.events ++ [e] }
  else if e.kind = 4 ∧ x.events.any (·.kind == 4) then
    { x with events := x.events.map fun o => if o.kind = 4 then { o with a1 := o.a1 + e.a1 } else o }
  else if e.kind = 5 then { x with events := e :: x.events }
  else { x with events := x.events ++ [e] }
/-- An event for the slate of partition p. -/
def State.slateEvent (s : State) (p : Nat) (kind a1 a2 a3 : Nat) : State :=
  if (s.getPart p).pstate = 2 then
    s.modPart p fun x => x.queueEvent ⟨BitVec.ofNat 32 kind, BitVec.ofNat 32 a1, BitVec.ofNat 32 a2, BitVec.ofNat 32 a3⟩
  else s
/-- The heads of a partition are looked at: each that has become ready raises DISPATCH with reason 2, and each whose page is absent posts a
fault record once (R170, R473). -/
def State.noteReady (s : State) (p : Nat) : State :=
  ((List.range 16).filter fun q => s.pipeOn p q).foldl (fun s q =>
    (s.stages p q).foldl (fun s t =>
      let i := 64 * q + t
      let x := s.getPart p
      if s.headReady p q t then
        if x.readySeen.contains i then s
        else (s.modPart p fun x => { x with readySeen := i :: x.readySeen, waitPages := x.waitPages.filter (·.1 != i) }).slateEvent p 1 2 i 0
      else
        let s := if x.readySeen.contains i then s.modPart p fun x => { x with readySeen := x.readySeen.filter (· != i) } else s
        match s.headOf p q t with
        | some (.absent va) =>
          if x.waitPages.contains (i, va) then s
          else (s.postFault (s.pipeAsid p q) va 1 0).modPart p fun x =>
            { x with waitPages := (i, va) :: x.waitPages.filter (·.1 != i) }
        | _ => s) s) s
/-- A new head stands in queue k of a pipeline: its age starts (R192), and no stage that takes from the queue has been told of it. -/
def State.newHead (s : State) (p q k : Nat) : State :=
  let told := ((s.stages p q).filter fun t => s.stInq p q t == k).map (64 * q + ·)
  s.modPart p fun x => { x with headTime := Tab.put 0 x.headTime (256 * q + k) (s.now + 1),
                                readySeen := x.readySeen.filter fun i => !told.contains i }
/-- Pops the head record of a queue: HEAD advances (R168, R172). -/
def State.popHead (s : State) (p q k : Nat) : State :=
  (s.setMg (queueAt p q k + 12) 4 ((s.quHead p q k + 1) % 2 ^ 32)).newHead p q k
/-- An addition to a semaphore, saturating (R166). -/
def State.semAdd (s : State) (p q i n : Nat) : State :=
  (s.setMg (semAt p q i) 4 (min (s.mg4 (semAt p q i) 4 + n) 0xFFFFFFFF)).noteReady p

end Sys2Proof.Machine
end

