-- ==== Sys2Proof/Machine/Extents.lean ====
section
/-!
DEFINITION. Regions of memory copied and zeroed whole; the extents of a task (R257, R261), re-translation (R260); and the bedrock: residency,
placement, eviction and loading of images (R268, R269), and the refresh windows (R243).
-/
namespace Sys2Proof.Machine

/-! ### Regions -/

/-- A table with n keys from src copied to dst. -/
def Tab.moveRun {α : Type} (t : Tab α) (src dst n : Nat) : Tab α :=
  t.filter (fun e => decide (e.1 < dst)) ++
  (((t.filter fun e => decide (src ≤ e.1) && decide (e.1 < src + n)).map fun e => (e.1 - src + dst, e.2)) ++
   t.filter (fun e => decide (dst + n ≤ e.1)))
/-- n bytes, a multiple of 8, copied between 8-byte aligned keys, for an address of an address space: an error met on the way is corrected or becomes
poison, and poison travels word for word (R298, R299, R300, R306). -/
def State.copyMem (s : State) (src dst n : Nat) (asid : Nat := 0) (va : Option Nat := none) : State :=
  let r := s.carry src n asid va
  ({ r.1 with mem := Tab.moveRun r.1.mem src dst n, marks := Tab.moveRun r.1.marks (src / 8) (dst / 8) (n / 8) } : State).spoilB dst r.2
/-- n bytes written with zero and valid check bits (R53, R256). -/
def State.zeroMem (s : State) (k n : Nat) : State :=
  { s with mem := Tab.clear s.mem k n, marks := Tab.clear s.marks (k / 8) (n / 8) }

/-! ### The extents of a task (R257) -/

/-- An extent of a valid leaf for a range mode (bit 0 read, bit 1 write) at a virtual address, in 4 KiB units. -/
def leafExtent (e : W64) (mode va units pa : Nat) : Extent :=
  { vbase := va, units := units, pbase := pa, absent := false, r := pteR e && mode % 2 == 1, w := pteW e && mode / 2 % 2 == 1, x := false,
    order := pteOrder e, conf := pteConf e, sync := pteSync e, bedrock := pteBed e, tier := pteTier e, mig := pteMig e, stale := false,
    bed := [] }
/-- An extent of absent pages (R257). -/
def absentExtent (mode va units : Nat) : Extent :=
  { vbase := va, units := units, pbase := 0, absent := true, r := mode % 2 == 1, w := mode / 2 % 2 == 1, x := false, order := 0,
    conf := false, sync := false, bedrock := false, tier := false, mig := false, stale := false, bed := [] }
/-- Joins an extent to the one before it where both run on virtually and physically with equal attributes, or both are absent (R257). -/
def Extent.join (a b : Extent) : Option Extent :=
  let runs := a.vbase + 4096 * a.units = b.vbase ∧ (a.absent = true ∨ a.pbase + 4096 * a.units = b.pbase)
  if runs ∧ { a with vbase := b.vbase, units := b.units, pbase := b.pbase } = b then some { a with units := a.units + b.units } else none
/-- An extent joins the end of a list of extents. -/
def addExtent (es : List Extent) (e : Extent) : List Extent :=
  match es.reverse with
  | [] => [e]
  | l :: rest => match l.join e with
    | some m => (m :: rest).reverse
    | none => es ++ [e]
/-- The parts of a range in each 64 KiB page: address and 4 KiB units. -/
def pagesOf (va units : Nat) : List (Nat × Nat) :=
  if units = 0 then []
  else
    (List.range ((va + 4096 * units - 1) / 65536 - va / 65536 + 1)).map fun i =>
      let a := max va ((va / 65536 + i) * 65536)
      (a, (min (va + 4096 * units) ((va / 65536 + i + 1) * 65536) - a) / 4096)
/-- The failure of a translation: its cause and the absent pages of an image. -/
abbrev TFail := Nat × List Nat
/-- The extents of a range; image tells that it is range 0 of a BEDROCK_IMAGE record (R257, R172, R269). A page that moves is re-translated
on use. -/
def State.rangeExtents (s : State) (p asid : Nat) (image : Bool) (mode va units : Nat) : Except TFail (List Extent) :=
  let ps := pagesOf va units
  if asidPart (s.asidEntry asid) ≠ p ∨ 2 ^ 55 < va + 4096 * units then .error (0x03, [])
  else if image ∧ (va % 65536 ≠ 0 ∨ units % 16 ≠ 0) then .error (0x03, [])
  else
    let gone := ps.filter fun a => s.walk asid a.1 == .absent && !s.moving asid a.1
    let bad := ps.any fun a =>
      match s.walk asid a.1 with
      | .malformed => true
      | .absent => false
      | .leaf e _ _ _ => pteBed e != image
    if bad then .error (0x03, [])
    else if image ∧ !gone.isEmpty then .error (0x04, gone.map (·.1))
    else
      .ok (ps.foldl (fun es a =>
        addExtent es (match s.walk asid a.1 with
          | .leaf e _ _ pa => leafExtent e mode a.1 a.2 pa
          | _ => if s.moving asid a.1 then { absentExtent mode a.1 a.2 with absent := false, stale := true }
                 else absentExtent mode a.1 a.2)) [])
/-- The code extent of a page, where it is a valid local leaf with X = 1 (R261). A page in the move table is held, not absent (R250): the extent of its
leaf is STALE, and so is re-translated when it is used. -/
def State.codeLeaf (s : State) (asid va : Nat) : Option Extent :=
  match s.walk asid va with
  | .leaf e _ _ pa => if pteX e ∧ pteNode e = s.mg.node.toNat then some { leafExtent e 0 va 16 pa with x := true } else none
  | .absent =>
    match s.msys.moves.find? fun m => m.asid == asid && m.va == va with
    | some m =>
      if pteX m.pte ∧ pteNode m.pte = s.mg.node.toNat then some { absentExtent 0 va 16 with absent := false, x := true, stale := true } else none
    | none => none
  | .malformed => none
/-- The code extents of a task: the run of valid local leaves with X = 1 from ENTRY's page, up to 64 pages (R261); none where the address space is
not the partition's (R250). -/
def State.codeExtents (s : State) (p asid entry : Nat) : List Extent :=
  let base := entry / 65536 * 65536
  if asidPart (s.asidEntry asid) ≠ p then []
  else
    (((List.range 64).map fun i => s.codeLeaf asid (base + 65536 * i)).takeWhile (·.isSome)).foldl
      (fun es o => match o with | some e => addExtent es e | none => es) []
/-- The extents of a record's task; more than 64 fails with EXTENT_OVERFLOW (R257, R261, R172). -/
def State.taskExtents (s : State) (p asid entry : Nat) (rec_ : List Byte) : Except TFail (List Extent) :=
  let rs := (List.range (min (recRanges rec_) 6)).map fun i => (i, recWord rec_ i)
  let all := rs.foldl (fun acc r =>
    match acc with
    | .error f => .error f
    | .ok es =>
      match s.rangeExtents p asid (recImage rec_ && r.1 == 0) (rangeMode r.2) (rangeBase r.2) (rangePages r.2) with
      | .error f => .error f
      | .ok xs => .ok (es ++ xs)) (Except.ok [] : Except TFail (List Extent))
  match all with
  | .error f => .error f
  | .ok es =>
    let code := s.codeExtents p asid entry
    if code.isEmpty then .error (0x03, [])
    else if 64 < es.length + code.length then .error (0x17, [])
    else .ok (es ++ code)

/-- The walks that translate the ranges and the code of a record, as far as they touch what is wrong with the tables (R301). -/
def State.taskWalks (s : State) (asid entry : Nat) (rec_ : List Byte) : State :=
  if s.marks.isEmpty then s
  else
    ((List.range (min (recRanges rec_) 6)).foldl (fun t i =>
      t.walkedAll asid ((pagesOf (rangeBase (recWord rec_ i)) (rangePages (recWord rec_ i))).map (·.1))) s).walkedAll asid
        ((List.range 64).map fun i => entry / 65536 * 65536 + 65536 * i)

/-! ### Re-translation (R260) -/

/-- MODE of the first range of the team's record that covers an address; 0 where none does. -/
def Team.modeOf (t : Team) (va : Nat) : Nat :=
  (((List.range (min (recRanges t.record) 6)).map (recWord t.record)).find? fun w =>
    decide (rangeBase w ≤ va) && decide (va < rangeBase w + 4096 * rangePages w)).elim 0 rangeMode
/-- The extent of one page of a stale extent, translated anew, with the permissions that the range or the code gave; none where the page is
absent, an error where it is malformed. -/
def State.freshExtent (s : State) (t : Team) (old : Extent) (va units : Nat) : Except Unit (Option Extent) :=
  match s.walk t.asid va with
  | .absent => .ok none
  | .malformed => .error ()
  | .leaf e _ _ pa =>
    if pteBed e ≠ old.bedrock then .error ()
    else
      .ok (some (if old.x then { leafExtent e 0 va units pa with x := pteX e && pteNode e == s.mg.node.toNat }
                 else leafExtent e (t.modeOf va) va units pa))
/-- What the walk of a unit that has no extent leaves in the page set: an ABSENT entry, on which the access faults, or, for a malformed page, an
entry without permissions (R260). -/
def State.unitEntry (s : State) (t : Team) (old : Extent) (va : Nat) : Extent :=
  match s.freshExtent t old va 1 with
  | .ok (some e) => e
  | .ok none => if old.x then { absentExtent 0 va 1 with x := true } else absentExtent (t.modeOf va) va 1
  | .error _ => { absentExtent 0 va 1 with absent := false }
/-- The 4 KiB units of an extent. -/
def Extent.unitList (e : Extent) : List Nat := (List.range e.units).map fun i => e.vbase + 4096 * i

/-- RETRANSLATION: the first STALE extent of team args[0] that covers address args[1] is translated anew for the pages it covered: one extent
replaces it; otherwise what it covered of the page of the address enters the team's page set, which keeps the newest 16 (R260). A page that moves
waits. -/
def execRetranslation (s : State) : Out :=
  .next (
    let va := s.args.getD 1 0
    match s.team (s.args.getD 0 0) with
    | none => s
    | some t =>
      match t.exts.findIdx? fun e => e.stale && e.covers va with
      | none => s
      | some i =>
        match t.exts[i]? with
        | none => s
        | some old =>
          let us := old.unitList
          if us.any (fun a => s.moving t.asid a) then s
          else
            let xs := us.map fun a => s.freshExtent t old a 1
            let joined := xs.foldl (fun es x => match x with | .ok (some e) => addExtent es e | _ => es) []
            let whole := xs.all fun x => match x with | .ok (some _) => true | _ => false
            let w := s.walkedAll t.asid ((pagesOf old.vbase old.units).map (·.1))
            match whole, joined with
            | true, [e] => w.modTeam t.id fun x => { x with exts := x.exts.set i e }
            | _, _ =>
              let page := (us.filter fun a => a / 65536 == va / 65536).foldl (fun es a => addExtent es (s.unitEntry t old a)) []
              w.modTeam t.id fun x => { x with pset := (page ++ x.pset.filter fun e => !(e.vbase / 65536 == va / 65536)).take 16 })

/-! ### The bedrock (R268, R269, R243) -/

/-- Each die's refresh window as the arithmetic clock has it: bank group g is refreshed from phase 512 g of a period of 4,096 cycles, and a refresh is
never postponed (R243). -/
def State.openWindows (s : State) : State :=
  { s with dies := (List.range 16).foldl (fun t d =>
      Tab.put Die.zero t d { Tab.get Die.zero t d with refGroup := s.cycle / 512 % 8, refAt := s.cycle / 512 * 512, refOn := true }) s.dies }
/-- Time passes: ns of real time and cycles of the arithmetic clock. The schedule counter of a running untimed strand counts the cycles, and the
refresh windows open as the clock reaches them (R47, R238, R243). -/
def State.elapse (s : State) (ns cycles : Nat) : State :=
  let tick (c : Core) : Core :=
    if (c.run = .running ∨ c.run = .faulted) ∧ c.act.csr.timed = false ∧ cycles ≠ 0 then
      { c with act := { c.act with csr := { c.act.csr with schedCtr := c.act.csr.schedCtr + BitVec.ofNat 64 cycles } } }
    else c
  let t : State := { s with now := s.now + ns, cycle := s.cycle + cycles, cores := s.cores.map fun e => (e.1, tick e.2) }
  if t.cycle / 512 = s.cycle / 512 then t else t.openWindows
/-- BEDROCK_REFRESH: the arithmetic clock reaches the next refresh window, and its bank group enters it on every die (R243, R47). -/
def execBedrockRefresh (s : State) : Out :=
  .next (let n := 512 - s.cycle % 512; s.elapse (n * 1000 / s.mg.clock) n)
/-- The address of a bedrock offset of a die (R249). -/
def bedBase (die off : Nat) : Nat := 2 ^ 43 + die * 2 ^ 28 + off
/-- The units of 64 KiB that an image takes. -/
def Image.size (m : Image) : Nat := m.frames.length
/-- Whether n units of 64 KiB at an offset of a die's bedrock are the partition's and hold none of some images. -/
def State.bedFree (s : State) (p die off n : Nat) (held : List Image) : Bool :=
  (List.range ((off + n - 1) / 512 - off / 512 + 1)).all (fun i => s.holdsUnit p (3000 + die * 8 + off / 512 + i)) &&
  decide (off + n ≤ 4096) && held.all fun m => decide (m.off + m.size ≤ off) || decide (off + n ≤ m.off)
/-- The lowest free offset for n units on a die, beside some images: just after an image, or at the start of a bank group (R269). -/
def State.bedPlace (s : State) (p die n : Nat) (held : List Image) : Option Nat :=
  let cands := ((List.range 8).map (· * 512)) ++ held.map fun m => m.off + m.size
  (cands.filter fun o => s.bedFree p die o n held).foldl (fun b o => match b with | none => some o | some x => some (min x o)) none
/-- The image that a record's range 0 names: its address space, range and backing frames (R269). -/
def State.imageFrames (s : State) (asid va pages : Nat) : List Nat :=
  (List.range pages).filterMap fun i =>
    match s.walk asid (va + 65536 * i) with
    | .leaf _ _ _ pa => some (pa / 65536)
    | _ => none
/-- Whether an image on a die is held by a running task of its partition (R267, R269). -/
def State.imageHeld (s : State) (p : Nat) (m : Image) : Bool :=
  s.teams.any fun t => t.part == p && t.image && t.phase != .saved && t.asid == m.asid && (t.cores.any fun c => c / 16 == m.die) &&
    t.exts.any fun e => e.bedrock && Tab.get 0 e.bed m.die == bedBase m.die (65536 * m.off + (e.vbase - m.va))
/-- Evicts images held by no running task, least recently dispatched first, until n units find room; none where evicting all of them
makes none (R269). -/
def State.bedEvict (s : State) (p die n : Nat) (all : List Image) : List Image → Option (Nat × List Image)
  | [] => (s.bedPlace p die n all).map fun o => (o, all)
  | m :: ms =>
    match s.bedPlace p die n all with
    | some o => some (o, all)
    | none => s.bedEvict p die n (all.filter (· != m)) ms
/-- Inserts an image by the time of its last dispatch. -/
def insertImage (m : Image) : List Image → List Image
  | [] => [m]
  | x :: xs => if m.last ≤ x.last then m :: x :: xs else x :: insertImage m xs
/-- Where an image of some frames is or becomes resident on a die: its offset and the images that stay; none where no room can be made
(R269). -/
def State.bedRoom (s : State) (p die asid va : Nat) (frames : List Nat) : Option (Nat × List Image) :=
  let mine := (s.getPart p).images.filter fun m => m.die == die
  match mine.find? fun m => m.asid == asid && m.va == va && m.frames == frames && m.drop.isEmpty with
  | some m => some (m.off, mine)
  | none =>
    if frames.isEmpty then none
    else
      let loose := (mine.filter fun m => !s.imageHeld p m).foldr insertImage []
      match s.bedEvict p die frames.length mine loose with
      | some r => if r.2.length < 64 then some r else none
      | none => none
/-- An image is made resident on a die: images evicted for it go, and its backing frames are copied, poison word for word (R269, R299). -/
def State.bedLoad (s : State) (p die asid va : Nat) (frames : List Nat) : State :=
  match s.bedRoom p die asid va frames with
  | none => s
  | some (off, keep) =>
    let old := (keep.find? fun m => m.asid == asid && m.va == va && m.frames == frames && m.drop.isEmpty)
    match old with
    | some _ =>
      s.modPart p fun x => { x with images := x.images.map fun m =>
        if m.die = die ∧ m.asid = asid ∧ m.va = va ∧ m.frames = frames then { m with last := s.now } else m }
    | none =>
      let t := s.modPart p fun x => { x with images := (x.images.filter fun m => m.die != die) ++ keep ++
        [{ die := die, asid := asid, va := va, frames := frames, off := off, last := s.now, drop := [] }] }
      ((List.range frames.length).foldl (fun u i =>
        u.copyMem (frames.getD i 0 % 2 ^ 32 * 65536) (bedBase die (65536 * (off + i))) 65536 asid (va + 65536 * i)) t)
/-- The bedrock extents of a task name the resident copy on each die (R258, R269). -/
def State.setBed (s : State) (p asid va : Nat) (frames dies : List Nat) (es : List Extent) : List Extent :=
  es.map fun e =>
    if e.bedrock then
      { e with bed := dies.foldl (fun t d =>
          match s.bedRoom p d asid va frames with
          | some (off, _) => Tab.put 0 t d (bedBase d (65536 * off + (e.vbase - va)))
          | none => t) [] }
    else e

end Sys2Proof.Machine
end

