-- ==== Sys2Proof/Machine/Float.lean ====
section
/-!
DEFINITION. Number formats and arithmetic (chapter 13): exact values of floating encodings, the one rounding step, exact sums and
products, reciprocals, EXP2, LOG2 and LSE2, requantising and the block exponent.
-/
namespace Sys2Proof.Machine

/-- The exact value of a floating encoding (R308): NaN, an infinity, or ±m × 2^e. -/
inductive FV where
  | nan
  | inf (neg : Bool)
  | fin (neg : Bool) (m : Nat) (e : Int)
  deriving DecidableEq, Repr

/-- A floating format (R307): precision, bias, emin, and the largest finite value M × 2^E; whether it has infinities. -/
structure FFmt where
  bits : Nat
  p : Nat
  bias : Int
  emin : Int
  maxM : Nat
  maxE : Int
  hasInf : Bool
  nanBits : Nat
  infBits : Nat
  deriving DecidableEq, Repr

/-- FP32 (R307, R308). -/
def fmtF32 : FFmt := ⟨32, 24, 127, -126, 0xFFFFFF, 104, true, 0x7FC00000, 0x7F800000⟩
/-- BF16. -/
def fmtBf16 : FFmt := ⟨16, 8, 127, -126, 0xFF, 120, true, 0x7FC0, 0x7F80⟩
/-- E4M3. -/
def fmtE4m3 : FFmt := ⟨8, 4, 7, -6, 14, 5, false, 0x7F, 0x7F⟩
/-- E5M2. -/
def fmtE5m2 : FFmt := ⟨8, 3, 15, -14, 7, 13, true, 0x7E, 0x7C⟩
/-- The format of a floating type; FP32 for the others. -/
def fmtOf (t : VType) : FFmt :=
  match t with
  | .bf16 => fmtBf16 | .e4m3 => fmtE4m3 | .e5m2 => fmtE5m2 | _ => fmtF32

/-- The value of an encoding (R308). -/
def FFmt.value (f : FFmt) (n : Nat) : FV :=
  let neg := n / 2 ^ (f.bits - 1) % 2 == 1
  let frac := n % 2 ^ (f.p - 1)
  let ew := f.bits - f.p
  let ex := n / 2 ^ (f.p - 1) % 2 ^ ew
  if ex = 0 then .fin neg frac (f.emin - (f.p - 1 : Nat))
  else if f.hasInf ∧ ex = 2 ^ ew - 1 then (if frac = 0 then .inf neg else .nan)
  else if !f.hasInf ∧ ex = 2 ^ ew - 1 ∧ frac = 2 ^ (f.p - 1) - 1 then .nan
  else .fin neg (2 ^ (f.p - 1) + frac) ((ex : Int) - f.bias - (f.p - 1 : Nat))
/-- The value of an FP32. -/
def f32 (n : Nat) : FV := fmtF32.value n

/-- 2^n for a non-negative exponent; 1 below zero. -/
def pow2 (n : Int) : Nat := 2 ^ n.toNat
/-- Whether a × 2^d exceeds b × 2^e. -/
def gtScaled (a : Nat) (d : Int) (b : Nat) (e : Int) : Bool :=
  let l := min d e
  decide (b * pow2 (e - l) < a * pow2 (d - l))

/-- The encoding of a sign and a magnitude. -/
def FFmt.withSign (f : FFmt) (neg : Bool) (n : Nat) : Nat := n + neg.toNat * 2 ^ (f.bits - 1)
/-- The encoding of the largest finite value. -/
def FFmt.largest (f : FFmt) : Nat := if f.hasInf then f.infBits - 1 else f.nanBits - 1
/-- What an overflow gives (R313). -/
def FFmt.overflow (f : FFmt) (mode : Rnd) (sat neg : Bool) : Nat :=
  if sat then f.withSign neg f.largest
  else if !f.hasInf then f.nanBits
  else if mode = .rtz then f.withSign neg f.largest
  else f.withSign neg f.infBits
/-- The multiple of 2^q that a mode takes for m × 2^e, with the random value u for RSR (R310, R311). -/
def roundTo (mode : Rnd) (u m : Nat) (e q : Int) : Nat :=
  if q ≤ e then m * pow2 (e - q)
  else
    let d := pow2 (q - e)
    let k := m / d
    let r := m % d
    match mode with
    | .rtz => k
    | .rne => if 2 * r < d then k else if d < 2 * r then k + 1 else if k % 2 = 0 then k else k + 1
    | .rsr => if r * 65536 / d + u < 65536 then k else k + 1
/-- ROUND of an exact value to a format (R310 to R313), with the random value u for RSR. -/
def FFmt.roundU (f : FFmt) (mode : Rnd) (sat : Bool) (u : Nat) (v : FV) : Nat :=
  match v with
  | .nan => f.nanBits
  | .inf neg => if sat then f.withSign neg f.largest else if f.hasInf then f.withSign neg f.infBits else f.nanBits
  | .fin neg m e =>
    if m = 0 then f.withSign neg 0
    else
      let ev : Int := (lg m : Int) + e
      let q := max ev f.emin - (f.p - 1 : Nat)
      let k := roundTo mode u m e q
      if gtScaled k q f.maxM f.maxE then f.overflow mode sat neg
      else
        let base := q + (f.p - 1 : Nat) + f.bias - 1
        f.withSign neg (base.toNat * 2 ^ (f.p - 1) + k)
/-- ROUND without RSR. -/
def FFmt.round (f : FFmt) (mode : Rnd) (sat : Bool) (v : FV) : Nat := f.roundU mode sat 0 v
/-- RNE32 (R310). -/
def rne32 (v : FV) : Nat := fmtF32.round .rne false v

/-- An exact signed number as a value; an exact zero is +0 (R310). -/
def fvInt (x : Int) (e : Int) : FV := .fin (decide (x < 0)) x.natAbs e
/-- The signed mantissa of a finite value. -/
def sgnM (neg : Bool) (m : Nat) : Int := if neg then -(m : Int) else m
/-- The exact sum (R315, R310). -/
def FV.add (a b : FV) : FV :=
  match a, b with
  | .nan, _ => .nan
  | _, .nan => .nan
  | .inf x, .inf y => if x = y then .inf x else .nan
  | .inf x, _ => .inf x
  | _, .inf y => .inf y
  | .fin x m d, .fin y n e =>
    if m = 0 ∧ n = 0 then .fin (x && y) 0 (min d e)
    else
      let l := min d e
      fvInt (sgnM x m * pow2 (d - l) + sgnM y n * pow2 (e - l)) l
/-- The exact product (R315). -/
def FV.mul (a b : FV) : FV :=
  match a, b with
  | .nan, _ => .nan
  | _, .nan => .nan
  | .inf x, .inf y => .inf (x != y)
  | .inf x, .fin y n _ => if n = 0 then .nan else .inf (x != y)
  | .fin x m _, .inf y => if m = 0 then .nan else .inf (x != y)
  | .fin x m d, .fin y n e => .fin (x != y) (m * n) (d + e)
/-- The negated value. -/
def FV.neg : FV → FV
  | .nan => .nan
  | .inf x => .inf (!x)
  | .fin x m e => .fin (!x) m e
/-- The magnitude. -/
def FV.abs : FV → FV
  | .nan => .nan
  | .inf _ => .inf false
  | .fin _ m e => .fin false m e
/-- Whether a value is NaN. -/
def FV.isNan : FV → Bool
  | .nan => true
  | _ => false
/-- Whether a value is a zero. -/
def FV.isZero : FV → Bool
  | .fin _ m _ => m == 0
  | _ => false
/-- Whether a value is NaN or infinite. -/
def FV.special : FV → Bool
  | .fin .. => false
  | _ => true
/-- a < b for values that are no NaN; -0 equals +0. -/
def FV.lt (a b : FV) : Bool :=
  match a, b with
  | .nan, _ => false
  | _, .nan => false
  | .inf x, .inf y => x && !y
  | .inf x, _ => x
  | _, .inf y => !y
  | .fin x m d, .fin y n e =>
    let l := min d e
    decide (sgnM x m * pow2 (d - l) < sgnM y n * pow2 (e - l))
/-- a < b with -0 below +0 (R385). -/
def FV.below (a b : FV) : Bool :=
  a.lt b || match a, b with
    | .fin x m _, .fin y n _ => m == 0 && n == 0 && x && !y
    | _, _ => false
/-- The exact sum of a list; +0 for none (R316, R394). -/
def fvSum : List FV → FV
  | [] => .fin false 0 0
  | x :: xs => xs.foldl FV.add x

/-- The integer square root, by base-4 digits with fuel. -/
def isqrt : Nat → Nat → Nat
  | 0, _ => 0
  | f + 1, n =>
    if n = 0 then 0
    else
      let r := 2 * isqrt f (n / 4)
      if (r + 1) * (r + 1) ≤ n then r + 1 else r
/-- 1 / x, with a sticky bit below the bits that any rounding reads (R393). -/
def FV.rcp (a : FV) : FV :=
  match a with
  | .nan => .nan
  | .inf x => .fin x 0 0
  | .fin x m e =>
    if m = 0 then .inf x
    else
      let k := lg m + 40
      let q := 2 ^ k / m
      .fin x (2 * q + (2 ^ k % m != 0).toNat) (-e - k - 1)
/-- 1 / √x, likewise (R393). -/
def FV.rsq (a : FV) : FV :=
  match a with
  | .nan => .nan
  | .inf x => if x then .nan else .fin false 0 0
  | .fin x m e =>
    if m = 0 then .inf x
    else if x then .nan
    else
      let m' := if e % 2 = 0 then m else 2 * m
      let e' := if e % 2 = 0 then e else e - 1
      let k := lg m' / 2 + 40
      let r := isqrt (2 * k + 2) (2 ^ (2 * k) / m')
      .fin false (2 * r + (r * r * m' != 2 ^ (2 * k)).toNat) (-(e' / 2) - k - 1)

/-- A value rounded to an integer by RNE or RTZ; the sign is that of the value (R314). -/
def FV.toInt (mode : Rnd) (m : Nat) (e : Int) (neg : Bool) : Int := sgnM neg (roundTo mode 0 m e 0)
/-- Conversion to an integer range: rounded, then saturated; NaN gives 0, an infinity the range's end (R314). -/
def FV.toRange (a : FV) (mode : Rnd) (lo hi : Int) : Int :=
  match a with
  | .nan => 0
  | .inf x => if x then lo else hi
  | .fin x m e => clampI lo hi (FV.toInt mode m e x)

/-! ### Tables and constants of EXP2 and LOG2 (R320) -/

/-- TEXP[j] = round(2^(j/256) × 2^30), entries 0 to 31, 32 bits each, the first lowest. -/
def texp0 : Nat :=
  0x459A9152456A6323453A564D450A6ABB44DAA05444AAF702447B6EAD444C0740441CC0A343ED9AC043BE957F438FB0CB4360EC8D433248AE4303C51842D561B442A71E6C4278FB2B424AF7DA421D146241EF50AE41C1ACA7419428394166C34C41397DCC410C57A240DF50B840B268FA4085A0514058F6A8402C6BE940000000
/-- TEXP[j] = round(2^(j/256) × 2^30), entries 32 to 63, 32 bits each, the first lowest. -/
def texp1 : Nat :=
  0x4BE7492B4BB2BEA54B7E587E4B4A169C4B15F8E64AE1FF434AAE299B4A7A77D44A46E9D64A137F8849E038D049AD1598497A15C44947393F49147FEE48E1E9BA48AF768A487D2646484AF8D64818EE2247E7061147B5408C47839D7B47521CC64720BE5546EF821046BE67E0468D6FAE465C9961462BE4E245FB521A45CAE0F2
/-- TEXP[j] = round(2^(j/256) × 2^30), entries 64 to 95, 32 bits each, the first lowest. -/
def texp2 : Nat :=
  0x52C5F7AA528CABC352538786521A8AD751E1B59A51A907B45170810B5138218250FFE8FE50C7D765508FEC9C5058288850208B0E4FE914134FB1C37C4F7A99304F4395144F0CB70C4ED5FF004E9F6CD44E69006E4E32B9B44DFC988C4DC69CDD4D90C68B4D5B157E4D25899C4CF022CA4CBAE0EF4C85C3F14C50CBB84C1BF829
/-- TEXP[j] = round(2^(j/256) × 2^30), entries 96 to 127, 32 bits each, the first lowest. -/
def texp3 : Nat :=
  0x5A43D2C65A05575159C7071C5988E209594AE7FB590D18D358CF74745891FAC15854AB9B581786E657DA8C83579DBC575761164257249A2956E847EF56AC1F75567020A056344B5255F89F7055BD1CDB5581C37855469329550B8BD454D0AD5A5495F7A1545B6A8B542105FD53E6C9DA53ACB6075372CA68533906E052FF6B55
/-- TEXP[j] = round(2^(j/256) × 2^30), entries 128 to 159, 32 bits each, the first lowest. -/
def texp4 : Nat :=
  0x626F4292622B1F6661E72B6561A3666D615FD05E611C691960D9307B6096266560534AB760109D515FCE1E125F8BCCDB5F49A98C5F07B4055EC5EC265E8451D05E42E4E35E01A53F5DC092C75D7FAD595D3EF4D75CFE69235CBE0A1C5C7DD7A45C3DD19C5BFDF7E55BBE4A615B7EC8F25B3F73775B0049D45AC14BEA5A82799A
/-- TEXP[j] = round(2^(j/256) × 2^30), entries 160 to 191, 32 bits each, the first lowest. -/
def texp5 : Nat :=
  0x6B57FCE96B0DAEFF6AC394856A79AD566A2FF94F69E6784D699D2A2C69540EC9690B260168C26FB16879EBB6683199ED67E97A3467A18C686759D0656712460B66CAED356683C5C3663CCF9265F60A7F65AF766A6569132F6522E0AD64DCDEC364970D4F64516C2E640BFB4163C6BA646381A978633CC85B62F816EB62B39509
/-- TEXP[j] = round(2^(j/256) × 2^30), entries 192 to 223, 32 bits each, the first lowest. -/
def texp6 : Nat :=
  0x750F23AB74BE1C20746D4CAC741CB52873CC556D737C2D55732C3CBA72DC8374728D015D723DB65071EEA226719FC4B971511DE47102AD8070B4736870666F767018A1856FCB096F6F7DA7106F307A416EE382DE6E96C0C36E4A33C96DFDDBCC6DB1B8A86D65CA386D1A10576CCE8AE16C8339B26C381CA66BED33996BA27E65
/-- TEXP[j] = round(2^(j/256) × 2^30), entries 224 to 255, 32 bits each, the first lowest. -/
def texp7 : Nat :=
  0x7FA765AD7F4F08AE7EF6E8DA7E9F06067E4760097DEFF6B67D98C9E67D41D96E7CEB25237C94ACDE7C3E70737BE86FBA7B92AA887B3D20B67AE7D21A7A92BE8B7A3DE5DF79E947EF7994E4927940BB9E78ECCCEC7899185478459DAC77F25CCE779F5590774C87CC76F9F35976A7980F765575C876038C5B75B1DBA275606374
/-- TEXP[j] = round(2^(j/256) × 2^30) (R320). -/
def texp (j : Nat) : Nat :=
  nfld (match j / 32 with | 0 => texp0 | 1 => texp1 | 2 => texp2 | 3 => texp3 | 4 => texp4 | 5 => texp5 | 6 => texp6 | _ => texp7)
    (32 * (j % 32) + 31) (32 * (j % 32))
/-- TLOG[j] = round(log2(1 + j/256) × 2^32), entries 0 to 31, 32 bits each, the first lowest. -/
def tlog0 : Nat :=
  0x2A37572128ED53F327A228DB2655D3C52508529623B9A32F2269C3692118B11A1FC66A0F1E72EC111D1E34E31BC842411A7111DF1918A16E17BEEE971663F6FB1507B83613AA2FDD124B5B7E10EB38A00F89C4C20E26FD5D0CC2DFE20B5D69BB09F6984A088E68EB0724D8EF05B9E5A1044D8C4602DFCA1701709C4700000000
/-- TLOG[j] = round(log2(1 + j/256) × 2^32), entries 32 to 63, 32 bits each, the first lowest. -/
def tlog1 : Nat :=
  0x5141F3FB501918EC4EEF4E834DC4933B4C98E58E4B6C43F14A3EACD749101EAC47E097DB46B016CA457E99DB444C1F6B4318A5D541E42B6F40AEAE893F782D723E40A6723D0817CF3BCE7FC73A93DC9839582C79381B6D9C36DD9E2F359EBC5B345EC646331DBA0F31DB95D0309857A02F53FD902E0E85AA2CC7EDF62B803474
/-- TLOG[j] = round(log2(1 + j/256) × 2^32), entries 64 to 95, 32 bits each, the first lowest. -/
def tlog2 : Nat :=
  0x749053207382924972740BDB7164BEB57054A9B16F43CBA86E3223706D1FAFDD6C0C6FC06AF861E669E3851C68CDD82A67B759D666A008E46587E415646EEA24635519CF623A71CC611EF0CF6002958C5EE55EB15DC74AEA5CA858DF5B8887365A67D49259463F925823C6D1570068E855DC246D54B6F7F15390E2045269E12F
/-- TLOG[j] = round(log2(1 + j/256) × 2^32), entries 96 to 127, 32 bits each, the first lowest. -/
def tlog3 : Nat :=
  0x94C98FB493D2602C92DA8AC691E20EA190E8EADE8FEF1E988EF4A8ED8DF988F58CFDBDC88C01467C8B0422258A064FD58907CE9D88089D8B8708BBAA860828078506E1A88404E794830238D081FED45D80FAB93C7FF5E66A7EF05AE47DEA15A37CE3159F7BDB59CD7AD2E11F79C9AA8878BFB4F477B4FF5176A98888759D4F81
/-- TLOG[j] = round(log2(1 + j/256) × 2^32), entries 128 to 159, 32 bits each, the first lowest. -/
def tlog4 : Nat :=
  0xB26C76BCB1885C7BB0A3B502AFBE7FA1AED8BBA8ADF26866AD0B8526AC241135AB3C0BDCAA537465A96A4A17A8808C38A7963A0DA6AB52DAA5BFD5DFA4D3C25EA3E71797A2F9D4C5A20BF926A11D83F5A02E746A9F3EC9BD9E4E83259D5D9FD59C6C1F019B79FFDB9A8741939993E356989FE45197AB43AF96B6009B95C01A3A
/-- TLOG[j] = round(log2(1 + j/256) × 2^32), entries 160 to 191, 32 bits each, the first lowest. -/
def tlog5 : Nat :=
  0xCDDB87D6CD07C69ECC338BB7CB5ED695CA89A6ACC9B3FB6DC8DDD449C80730B0C7301011C65871DAC5805579C4A7BA58C3CE9FE4C2F50586C21AEAA6C1404EAEC0653103BF89910CBEAD6E2DBDD0C7CABCF39D45BC15EDFFBB37B959BA58FEB2B979BD69B899F4D9B7B9A45EB6D8CB54B5F76913B5157CF3B433064BB3500472
/-- TLOG[j] = round(log2(1 + j/256) × 2^32), entries 192 to 223, 32 bits each, the first lowest. -/
def tlog6 : Nat :=
  0xE764CCF7E69F3506E5D93326E512C6E5E44BEFD0E384AD75E2BCFF5EE1F4E517E12C5E2BE0636A24DF9A088ADED038E6DE05FAC0DD3B4D9DDC703104DBA4A47BDAD8A784DA0C39A5D93F5A60D8720936D7A445A9D6D60F39D6076565D53847ACD468B58CD398AE81D2C83209D1F73F9CD125D6B7D053F6D2CF819F66CEAECFEB
/-- TLOG[j] = round(log2(1 + j/256) × 2^32), entries 224 to 255, 32 bits each, the first lowest. -/
def tlog7 : Nat :=
  0xFF47278BFE8DF264FDD4602EFD1A708CFC60231EFBA57787FAEA6D67FA2F045EF9733C0CF8B7140FF7FA8C05F73DA38EF6805A44F5C2AFC6F504A3AFF446359BF3876524F2C831E4F2089B75F148A170F088436DEFC78104EF0659CCEE44CD5AED82DB45ECC08322EBFDC485EB3A9F02EA77122BE9B31D94E8EEC0CEE829FB69
/-- TLOG[j] = round(log2(1 + j/256) × 2^32) (R320). -/
def tlog (j : Nat) : Nat :=
  nfld (match j / 32 with | 0 => tlog0 | 1 => tlog1 | 2 => tlog2 | 3 => tlog3 | 4 => tlog4 | 5 => tlog5 | 6 => tlog6 | _ => tlog7)
    (32 * (j % 32) + 31) (32 * (j % 32))
/-- C1 = round(ln 2 × 2^32) (R320). -/
def c1 : Nat := 2977044472
/-- C2 = round((ln 2)^2 / 2 × 2^32) (R320). -/
def c2 : Nat := 1031764991
/-- C3 = round((ln 2)^3 / 6 × 2^32) (R320). -/
def c3 : Nat := 238388332
/-- K = round(2^32 / ln 2) (R320). -/
def kLog : Nat := 6196328019

/-! ### EXP2, LOG2 and LSE2 (R321 to R323) -/

/-- floor(±m × 2^(e + 32)) (R321). -/
def floorShift32 (neg : Bool) (m : Nat) (e : Int) : Int :=
  if 0 ≤ e + 32 then sgnM neg m * pow2 (e + 32) else sgnM neg m / (pow2 (-(e + 32)) : Int)
/-- EXP2 of an FP32 (R321). -/
def exp2 (n : Nat) : Nat :=
  match f32 n with
  | .nan => 0x7FC00000
  | .inf x => if x then 0 else 0x7F800000
  | .fin x m e =>
    if !(FV.lt (.fin x m e) (.fin false 128 0)) then 0x7F800000
    else if FV.lt (.fin x m e) (.fin true 151 0) then 0
    else
      let t := floorShift32 x m e
      let k := t / 2 ^ 32
      let low := (t % 2 ^ 32).toNat
      let j := low / 2 ^ 24
      let f := low % 2 ^ 24
      let c := c1 + f * (c2 + f * c3 / 2 ^ 32) / 2 ^ 32
      let ee := f * c / 2 ^ 32
      rne32 (.fin false (texp j + texp j * ee / 2 ^ 32) (k - 30))
/-- LOG2 of an FP32 (R322). -/
def log2 (n : Nat) : Nat :=
  match f32 n with
  | .nan => 0x7FC00000
  | .inf x => if x then 0x7FC00000 else 0x7F800000
  | .fin x m e =>
    if m = 0 then 0xFF800000
    else if x then 0x7FC00000
    else
      let l := lg m
      let g23 := m * 2 ^ (23 - l) - 2 ^ 23
      let j := g23 / 2 ^ 15
      let g := g23 % 2 ^ 15
      let y := g * 2 ^ 33 / (256 + j)
      let q := y - y ^ 2 / 2 ^ 49 + y ^ 3 / (3 * 2 ^ 96)
      let z : Int := ((l : Int) + e) * 2 ^ 32 + (tlog j + q * kLog / 2 ^ 48 : Nat)
      rne32 (fvInt z (-32))
/-- The largest of a list of FP32 values that hold no NaN. -/
def fvMax : List FV → FV
  | [] => .inf true
  | x :: xs => xs.foldl (fun a b => if a.lt b then b else a) x
/-- LSE2 of a list of FP32 encodings (R323). -/
def lse2 (vs : List Nat) : Nat :=
  let xs := vs.map f32
  if xs.any FV.isNan then 0x7FC00000
  else
    match fvMax xs with
    | .inf true => 0xFF800000
    | .inf false => 0x7F800000
    | m =>
      let s := fvSum (xs.map fun v => f32 (exp2 (rne32 (v.add m.neg))))
      rne32 (m.add (f32 (log2 (rne32 s))))

/-! ### Integers (R309, R318, R319) -/

/-- SAT8 (R309). -/
def sat8 (x : Int) (signed : Bool) : Int := if signed then clampI (-128) 127 x else clampI 0 255 x
/-- SAT32 (R309). -/
def sat32 (x : Int) : Int := clampI (-2147483648) 2147483647 x
/-- The requantising drain of one element (R319). -/
def requant (acc mj : Int) (sh : Nat) (zj : Int) (signed : Bool) : Int :=
  let pr := acc * mj
  let q : Int :=
    if sh = 0 then pr
    else
      let q := (((pr.natAbs + 2 ^ (sh - 1)) / 2 ^ sh : Nat) : Int)
      if pr < 0 then -q else q
  sat8 (q + zj) signed

/-! ### Block integers (R325) -/

/-- The block exponent emax of FP32 encodings: 0x7FFF with a non-finite value, -150 when all are zero. -/
def blockExp (vs : List Nat) : Int :=
  let xs := vs.map f32
  if xs.any FV.special then 0x7FFF
  else if xs.all FV.isZero then -150
  else (xs.filterMap fun v => match v with
    | .fin _ m e => if m = 0 then none else some ((lg m : Int) + e)
    | _ => none).foldl max (-150)
/-- The mantissa of an FP32 for exponent e (R403): SAT32 of the nearest integer to v × 2^-e, ties to even; 0 for 0x7FFF. -/
def toBlock (n : Nat) (e : Int) : Int :=
  if e = 0x7FFF then 0
  else
    match f32 n with
    | .fin x m d => if m = 0 then 0 else
        -- bits far above the range saturate without being formed
        if 64 < (lg m : Int) + d - e then sat32 (sgnM x (2 ^ 40))
        else if (lg m : Int) + d - e < -2 then 0
        else sat32 (sgnM x (roundTo .rne 0 m d e))
    | v => FV.toRange v .rne (-2147483648) 2147483647
/-- The FP32 of a mantissa and exponent (R403). An exponent outside -4,096 to 4,096 overflows or vanishes as it would there. -/
def fromBlock (a e : Int) (mode : Rnd) (sat : Bool) : Nat :=
  if e = 0x7FFF then 0x7FC00000 else fmtF32.round mode sat (fvInt a (clampI (-4096) 4096 e))

/-! ### Generators (R312) -/

/-- One step of a generator: its new state and the 16 bits it gives (R312). -/
def rngStep (x : W32) : W32 × Nat :=
  let a := x ^^^ (x <<< 13)
  let b := a ^^^ (a >>> 17)
  let c := b ^^^ (b <<< 5)
  (c, c.toNat / 2 ^ 16)

end Sys2Proof.Machine
end

