-- ==== Sys2Proof/Machine/Order.lean ====
section
/-!
DEFINITION. Scopes, prior sets and the waits of the sequencer (R278 to R284, R290 to R293, R216, R365): what a fence, a FLUSH, a QFENCE
and a QDRAIN wait for, and which failures they report.
-/
namespace Sys2Proof.Machine

/-! ### Scopes (R278, R279) -/

/-- The sizes of the torus, X, Y, Z (R377). -/
def State.torus3 (s : State) : Nat × Nat × Nat := (fld s.mg.torus 22 16, fld s.mg.torus 13 8, fld s.mg.torus 5 0)
/-- The coordinates of a node (R57). -/
def coords (n : Nat) : Nat × Nat × Nat := (nfld n 15 10, nfld n 9 5, nfld n 4 0)
/-- The distance of two coordinates on a ring of n. -/
def ringDist (n a b : Nat) : Nat := let d := (b + n - a % n) % n; min d (n - d)
/-- The torus distance of two nodes (R278). -/
def State.torusDist (s : State) (a b : Nat) : Nat :=
  let n := s.torus3; let p := coords a; let q := coords b
  ringDist n.1 p.1 q.1 + ringDist n.2.1 p.2.1 q.2.1 + ringDist n.2.2 p.2.2 q.2.2
/-- The radius of a level from 4 to 14; 31 is the whole torus (R279). -/
def State.radius (s : State) (lv : Nat) : Nat := fld s.mg.scopetab (5 * (lv - 4) + 4) (5 * (lv - 4))
/-- Whether a home lies within a scope level, taken from core c of this module (R278). -/
def State.inScope (s : State) (lv c : Nat) (h : Home) : Bool :=
  if lv = 0 then h == .spad c
  else if lv = 1 then match h with | .spad x => x / 4 == c / 4 | _ => false
  else if lv = 2 then match h with | .spad x => x / 16 == c / 16 | .die d => d == c / 16 | _ => false
  else match h with
    | .node n =>
      if lv = 3 then n == s.mg.node.toNat
      else if lv = 15 then true
      else n == s.mg.node.toNat || s.radius lv == 31 || decide (s.torusDist s.mg.node.toNat n ≤ s.radius lv)
    | _ => true

/-! ### Prior sets (R282) -/

/-- Whether an access is in the prior set of the next bundle: the sequencer's, or of a command joined to it (R282). -/
def Core.prior (c : Core) (cmd : Nat) : Bool := cmd == 0 || c.joined.contains cmd
/-- Whether an access counts for a restricted fence, which takes strongly ordered and release-consistent pages and scratchpad (R293). -/
def Acc.counts (a : Acc) (restricted : Bool) : Bool := !(restricted && a.uno)

/-- Every write of the prior set within the scope is performed and acknowledged (R290). -/
def State.writesDone (s : State) (lv : Nat) (restricted : Bool) : Bool :=
  !(s.cur.outw.any fun w => s.cur.prior w.acc.cmd && w.acc.counts restricted && s.inScope lv s.core w.acc.home) &&
  !(s.cur.pend.any fun p => p.fail.isNone && (match p.ret with | .atomic .. => true | _ => false) &&
      p.acc.counts restricted && s.inScope lv s.core p.acc.home)
/-- Whether an outstanding read is one that a wait shadow has sent early, for a bundle that has not issued (R285). -/
def Pend.isEarly (p : Pend) : Bool := match p.ret with | .early _ => true | _ => false
/-- Every read of the prior set within the scope has been performed (R291). -/
def State.readsDone (s : State) (lv : Nat) (restricted : Bool) : Bool :=
  !(s.cur.pend.any fun p => p.fail.isNone && !p.isEarly && p.acc.counts restricted && s.inScope lv s.core p.acc.home)
/-- What FENCE.rel waits for (R291). -/
def State.relDone (s : State) (lv : Nat) (restricted : Bool) : Bool :=
  s.writesDone lv restricted && s.readsDone lv restricted

/-- An engine has nothing queued and nothing running. A signal that it still holds belongs to a command that has completed (R216, R211, R215). -/
def Engine.empty (e : Engine) : Bool := e.q.isEmpty && e.run.isNone && e.ldw.isNone
/-- The queues that a QFENCE names are empty and their last commands have completed (R216). -/
def Core.queuesDone (c : Core) (qs : BitVec 3) : Bool :=
  (!qs.getLsbD 0 || c.el.empty) && (!qs.getLsbD 1 || c.em.empty) && (!qs.getLsbD 2 || c.es.empty)
/-- What QDRAIN waits for (R216). -/
def Core.drained (c : Core) : Bool :=
  c.queuesDone 7 && c.outw.isEmpty && (c.pend.all fun p => p.fail.isSome || p.isEarly)
/-- The names of two lists, each once. -/
def joinIds (a b : List Nat) : List Nat := a ++ b.eraseDups.filter fun x => !a.contains x
/-- The commands of the named queues, and those that completed before them, are joined to the sequencer (R281). -/
def Core.joinQueues (c : Core) (qs : BitVec 3) : Core :=
  { c with joined := joinIds c.joined ((if qs.getLsbD 0 then c.el.prior else []) ++ (if qs.getLsbD 1 then c.em.prior else []) ++
      if qs.getLsbD 2 then c.es.prior else []) }

/-! ### The synchronisation engine (R233, R234) -/

/-- A die. -/
def State.die (s : State) (d : Nat) : Die := Tab.get Die.zero s.dies d
/-- The state with a die changed. -/
def State.modDie (s : State) (d : Nat) (f : Die → Die) : State := { s with dies := Tab.put Die.zero s.dies d (f (s.die d)) }
/-- The die of a home. -/
def homeDie : Home → Nat
  | .die d => d
  | .spad c => c / 16
  | _ => 0
/-- Whether a line cannot be read at its home: its page moves, or its backing read awaits repair (R234). -/
def State.lineHeld (s : State) (asid va k : Nat) : Bool :=
  s.moving asid va || (s.die (homeDie (homeOf k))).stuck.contains (k / 64)
/-- What the synchronisation engine does with a request of a name for the line of a key: it may be performed, or it is parked, or it waits. held
tells that the line cannot be read; a full fault queue accepts no new request (R233, R234). -/
def State.syncTurn (s : State) (d id line : Nat) (held : Bool) : State × Bool :=
  let q := (s.die d).parked
  let first := (q.find? fun e => e.2 == line).map (·.1)
  if q.contains (id, line) then
    if !held ∧ first = some id then (s.modDie d fun x => { x with parked := x.parked.filter (· != (id, line)) }, true) else (s, false)
  else if 256 ≤ q.length then (s, false)
  else if held ∨ first.isSome then (s.modDie d fun x => { x with parked := x.parked ++ [(id, line)] }, false)
  else (s, true)
/-- Whether the synchronisation engine would perform a new access at once (R234). -/
def State.syncFree (s : State) (asid : Nat) (a : Acc) : Bool :=
  (s.syncTurn (homeDie a.home) a.id (a.lo / 64) (s.lineHeld asid a.va a.lo)).2
/-- Bytes of one page as its entry now gives them; none where no leaf is found (R250). -/
def State.pieceNow (s : State) (asid va len : Nat) : Option Piece :=
  match s.walk asid va with
  | .leaf e _ _ pa =>
    some { va := va, len := len, node := pteNode e, key := if pteNode e = s.mg.node.toNat then pa % 2 ^ 48 else remoteKey (pteNode e) va,
           order := pteOrder e, conf := pteConf e, sync := pteSync e, tier := pteTier e, mig := pteMig e, bed := false }
  | _ => none
/-- What becomes of an access at the synchronisation engine: it waits, it is performed at a key, it goes to the node to which its page has moved while
it was parked, or no leaf is found for it any more. -/
inductive SyncRes where
  | waits
  | here (k : Nat)
  | away (p : Piece)
  | lost
  deriving DecidableEq, Repr
/-- The turn of an access at the synchronisation engine of its home; one that was parked is replayed where its page then stands (R233, R234, R271). -/
def State.syncAt (s : State) (asid : Nat) (a : Acc) : State × SyncRes :=
  let d := homeDie a.home
  let r := s.syncTurn d a.id (a.lo / 64) (s.lineHeld asid a.va a.lo)
  (r.1,
    if !r.2 then .waits
    else if !(s.die d).parked.contains (a.id, a.lo / 64) then .here a.lo
    else
      match s.pieceNow asid a.va a.len with
      | none => .lost
      | some p => if p.node = s.mg.node.toNat then .here p.key else .away p)
/-- An access to a SYNC page homed here is the synchronisation engine's; any other is performed as it stands (R233, R234). -/
def State.atSync (s : State) (asid : Nat) (a : Acc) : State × SyncRes := if a.sync then s.syncAt asid a else (s, .here a.lo)

/-! ### What is outstanding for a register -/

/-- The destination of an outstanding load or atomic; 0 for s0, which keeps nothing, and for a read sent early. -/
def Ret.reg (r : Ret) : Nat :=
  match r with
  | .scalar _ sd | .rwld sd _ _ | .atomic _ _ _ _ _ sd | .cap sd _ => sd
  | .gather vd _ _ => 64 + vd
  | .early _ => 0
/-- Whether an outstanding load or atomic of a core is to write one of some registers. -/
def Core.awaits (c : Core) (rs : List Nat) : Bool :=
  c.pend.any fun p => p.fail.isNone && p.ret.reg != 0 && rs.contains p.ret.reg

/-! ### Errors in the register file (R298, R299) -/

/-- Word r of the register file of a context is poison with data zero. -/
def Ctx.poisonWord (x : Ctx) (r : Nat) : Ctx :=
  if r < 64 then { x with s := Tab.put 0 x.s r 0, poisS := r :: x.poisS.filter (· != r) }
  else
    let k := r - 64
    { x with v := Tab.put 0 x.v (k / 64) (mergeLanes (BitVec.ofNat 128 (3 * 4 ^ (k % 64))) 0 (Tab.get 0 x.v (k / 64))),
             poisV := k :: x.poisV.filter (· != k) }
/-- A read of word r of the running core's register file finds its error: one that can be corrected is logged as CE and written back, another is
logged as UE and leaves poison. A register has no physical address, so its records do not merge (R298, R299, R306). -/
def State.fixReg (s : State) (r kind : Nat) : State :=
  let t := s.modCtx fun x =>
    let y := { x with err := x.err.filter fun e => e.1 != r }
    if kind = 1 then y else y.poisonWord r
  t.ringPut (elRing (s.core / 16)) (t.logBytes { kind := kind, sev := if kind = 1 then 0 else 1, unit := s.core % 16, asid := s.myAsid })
/-- A read of some words of the running core's register file. -/
def State.fixRegs (s : State) (sel : Nat → Bool) : State :=
  (s.ctx.err.filter fun e => sel e.1).foldl (fun t e => t.fixReg e.1 e.2) s

/-! ### Failures that a later bundle reports (R213, R365, R433, R436) -/

/-- Whether an outstanding access is an atomic. -/
def Pend.isAtomic (p : Pend) : Bool := match p.ret with | .atomic .. => true | _ => false
/-- The earliest failed load or atomic of a kind, raised at this bundle; the load writes no register. Where it is an atomic, the earliest failed
atomic of all is the one reported (R213, R436). -/
def State.reportLoad (s : State) (sel : Pend → Bool) : Option State :=
  match s.cur.pend.find? fun p => p.fail.isSome && sel p with
  | some p =>
    match s.cur.pend.find? fun q => q.fail.isSome && (q.acc.id == p.acc.id || (p.isAtomic && q.isAtomic)) with
    | some q => q.fail.map fun f =>
        (s.modCur fun c => { c with pend := c.pend.filter fun x => x.acc.id != q.acc.id, wait := .none }).raise f.1.toNat f.2
    | none => none
  | none => none
/-- The failed writes that a wait covers, reported as REMOTE_ERROR with the address of the one issued first (R365, R433). -/
def State.reportWrites (s : State) (all : Bool) (lv : Nat) : Option State :=
  let sel (f : Failed) : Bool := (all || s.cur.prior f.cmd) && (all || s.inScope lv s.core f.home)
  match s.cur.failed.filter sel with
  | [] => none
  | f :: fs =>
    let first := fs.foldl (fun a b => if b.id < a.id then b else a) f
    some ((s.modCur fun c => { c with failed := c.failed.filter fun x => !sel x, wait := .none }).raise 0x12 first.va)

/-- The bundle that waits is done: later bundles issue (R284). -/
def State.endWait (s : State) : State := (s.modCur fun c => { c with wait := .none }).retire

/-- The strand of the running core ends: open loop levels, the return-address store and the mask stack are discarded (R372). -/
def State.endStrand (s : State) : State :=
  s.modCur fun c => { c with run := .exited, wait := .none, act := { c.act with lpDepth := 0, ras := [], masks := [] } }

/-- The end of a wait of a fence, a FLUSH, a QFENCE, a QDRAIN, an EXIT, an acquiring atomic or an ICINV when its conditions are met,
with the failures it reports; otherwise the state as it is (R216, R290, R291, R293, R365, R372, R379). -/
def State.finishWait (s : State) : State :=
  let load := s.reportLoad fun _ => true
  match s.cur.wait with
  | .fenceAcq lv => load.getD (if s.readsDone lv false then s.endWait else s)
  | .fenceRel lv => load.getD (if s.relDone lv false then (s.reportWrites false lv).getD s.endWait else s)
  | .fenceFull lv => load.getD (if s.relDone lv false then (s.reportWrites false lv).getD s.endWait else s)
  | .flush lv => load.getD (if s.writesDone lv false then (s.reportWrites false lv).getD s.endWait else s)
  | .qfence qs => if s.cur.queuesDone qs then (s.modCur fun c => c.joinQueues qs).endWait else s
  | .qdrain =>
    load.getD (if s.cur.drained then (s.reportWrites true 15).getD (s.modCur fun c => c.joinQueues 7).endWait else s)
  | .exit => load.getD (if s.cur.drained then (s.reportWrites true 15).getD s.endStrand else s)
  | .amoAcq lv id =>
    if s.readsDone lv true && !(s.cur.pend.any fun p => p.acc.id == id && p.fail.isNone) then s.modCur fun c => { c with wait := .none }
    else s
  | .icinv =>
    if s.writesDone 3 false then (s.modCur fun c => { c with icache := [] }).endWait else s
  | _ => s
/-- The end of a wait as a step of the module makes it. In a timed team a bundle's wait ends only as the bundle issues with every member's
(R240); what is left then is the acquire of an atomic that has issued. -/
def State.settleWait (s : State) : State :=
  let acquires := match s.cur.wait with | .amoAcq .. => true | _ => false
  if s.csr.timed && !acquires then s else s.finishWait
/-- A bundle that waits (R284): its wait starts, and ends at once when nothing holds it. -/
def State.startWait (s : State) (w : Wait) : State := (s.modCur fun c => { c with wait := w }).finishWait

end Sys2Proof.Machine
end

