-- ==== Sys2Proof/Machine/Scalar.lean ====
section
/-!
DEFINITION. Scalar instructions (chapter 15): arithmetic, compares and predicates, wide immediates and addresses, loads and stores, and
the return of a load's data.
-/
namespace Sys2Proof.Machine

/-! ### Integer arithmetic and logic (R354 to R357) -/

/-- NOP: nothing (R357). -/
def execNop (g : Guard) (s : State) : Out := s.guarded g fun s => s.retire

/-- A + b (R354). -/
def aluAdd (a b : W64) : W64 := a + b
/-- ADD: s[SD] ← a + b (R354). -/
def execAdd (g : Guard) (sd sa sb : Nat) (s : State) : Out :=
  s.guarded g fun s => (s.setS sd (aluAdd (s.rs sa) (s.rs sb))).retire
/-- ADD with an immediate: s[SD] ← a + b, b being IMM32 sign-extended (R354, R336). -/
def execAddImm (g : Guard) (sd sa : Nat) (imm : BitVec 32) (s : State) : Out :=
  s.guarded g fun s => (s.setS sd (aluAdd (s.rs sa) (sx32 imm))).retire
/-- A - b (R354). -/
def aluSub (a b : W64) : W64 := a - b
/-- SUB: s[SD] ← a - b (R354). -/
def execSub (g : Guard) (sd sa sb : Nat) (s : State) : Out :=
  s.guarded g fun s => (s.setS sd (aluSub (s.rs sa) (s.rs sb))).retire
/-- SUB with an immediate: s[SD] ← a - b, b being IMM32 sign-extended (R354, R336). -/
def execSubImm (g : Guard) (sd sa : Nat) (imm : BitVec 32) (s : State) : Out :=
  s.guarded g fun s => (s.setS sd (aluSub (s.rs sa) (sx32 imm))).retire
/-- Bits [63:0] of a × b (R354). -/
def aluMul (a b : W64) : W64 := a * b
/-- MUL: s[SD] ← bits [63:0] of a × b (R354). -/
def execMul (g : Guard) (sd sa sb : Nat) (s : State) : Out :=
  s.guarded g fun s => (s.setS sd (aluMul (s.rs sa) (s.rs sb))).retire
/-- MUL with an immediate: s[SD] ← bits [63:0] of a × b, b being IMM32 sign-extended (R354, R336). -/
def execMulImm (g : Guard) (sd sa : Nat) (imm : BitVec 32) (s : State) : Out :=
  s.guarded g fun s => (s.setS sd (aluMul (s.rs sa) (sx32 imm))).retire
/-- Bits [127:64] of the signed product (R354). -/
def aluMulh (a b : W64) : W64 := w64 (wrap 64 (a.toInt * b.toInt / 2 ^ 64))
/-- MULH: s[SD] ← bits [127:64] of the signed product (R354). -/
def execMulh (g : Guard) (sd sa sb : Nat) (s : State) : Out :=
  s.guarded g fun s => (s.setS sd (aluMulh (s.rs sa) (s.rs sb))).retire
/-- Bits [127:64] of the unsigned product (R354). -/
def aluMulhu (a b : W64) : W64 := w64 (a.toNat * b.toNat / 2 ^ 64)
/-- MULHU: s[SD] ← bits [127:64] of the unsigned product (R354). -/
def execMulhu (g : Guard) (sd sa sb : Nat) (s : State) : Out :=
  s.guarded g fun s => (s.setS sd (aluMulhu (s.rs sa) (s.rs sb))).retire
/-- A / b truncated; all ones for b = 0 (R355). -/
def aluDiv (a b : W64) : W64 := if b = 0 then w64 (2 ^ 64 - 1) else w64 (wrap 64 (a.toInt.tdiv b.toInt))
/-- DIV: s[SD] ← a / b truncated; all ones for b = 0 (R355). -/
def execDiv (g : Guard) (sd sa sb : Nat) (s : State) : Out :=
  s.guarded g fun s => (s.setS sd (aluDiv (s.rs sa) (s.rs sb))).retire
/-- A / b unsigned; all ones for b = 0 (R355). -/
def aluDivu (a b : W64) : W64 := if b = 0 then w64 (2 ^ 64 - 1) else w64 (a.toNat / b.toNat)
/-- DIVU: s[SD] ← a / b unsigned; all ones for b = 0 (R355). -/
def execDivu (g : Guard) (sd sa sb : Nat) (s : State) : Out :=
  s.guarded g fun s => (s.setS sd (aluDivu (s.rs sa) (s.rs sb))).retire
/-- A - q × b with q from DIV; a for b = 0 (R355). -/
def aluRem (a b : W64) : W64 := if b = 0 then a else w64 (wrap 64 (a.toInt.tmod b.toInt))
/-- REM: s[SD] ← a - q × b with q from DIV; a for b = 0 (R355). -/
def execRem (g : Guard) (sd sa sb : Nat) (s : State) : Out :=
  s.guarded g fun s => (s.setS sd (aluRem (s.rs sa) (s.rs sb))).retire
/-- A - q × b with q from DIVU; a for b = 0 (R355). -/
def aluRemu (a b : W64) : W64 := if b = 0 then a else w64 (a.toNat % b.toNat)
/-- REMU: s[SD] ← a - q × b with q from DIVU; a for b = 0 (R355). -/
def execRemu (g : Guard) (sd sa sb : Nat) (s : State) : Out :=
  s.guarded g fun s => (s.setS sd (aluRemu (s.rs sa) (s.rs sb))).retire
/-- A AND b (R354). -/
def aluAnd (a b : W64) : W64 := a &&& b
/-- AND: s[SD] ← a AND b (R354). -/
def execAnd (g : Guard) (sd sa sb : Nat) (s : State) : Out :=
  s.guarded g fun s => (s.setS sd (aluAnd (s.rs sa) (s.rs sb))).retire
/-- AND with an immediate: s[SD] ← a AND b, b being IMM32 sign-extended (R354, R336). -/
def execAndImm (g : Guard) (sd sa : Nat) (imm : BitVec 32) (s : State) : Out :=
  s.guarded g fun s => (s.setS sd (aluAnd (s.rs sa) (sx32 imm))).retire
/-- A OR b (R354). -/
def aluOr (a b : W64) : W64 := a ||| b
/-- OR: s[SD] ← a OR b (R354). -/
def execOr (g : Guard) (sd sa sb : Nat) (s : State) : Out :=
  s.guarded g fun s => (s.setS sd (aluOr (s.rs sa) (s.rs sb))).retire
/-- OR with an immediate: s[SD] ← a OR b, b being IMM32 sign-extended (R354, R336). -/
def execOrImm (g : Guard) (sd sa : Nat) (imm : BitVec 32) (s : State) : Out :=
  s.guarded g fun s => (s.setS sd (aluOr (s.rs sa) (sx32 imm))).retire
/-- A XOR b (R354). -/
def aluXor (a b : W64) : W64 := a ^^^ b
/-- XOR: s[SD] ← a XOR b (R354). -/
def execXor (g : Guard) (sd sa sb : Nat) (s : State) : Out :=
  s.guarded g fun s => (s.setS sd (aluXor (s.rs sa) (s.rs sb))).retire
/-- XOR with an immediate: s[SD] ← a XOR b, b being IMM32 sign-extended (R354, R336). -/
def execXorImm (g : Guard) (sd sa : Nat) (imm : BitVec 32) (s : State) : Out :=
  s.guarded g fun s => (s.setS sd (aluXor (s.rs sa) (sx32 imm))).retire
/-- A AND NOT b (R354). -/
def aluAndn (a b : W64) : W64 := a &&& ~~~b
/-- ANDN: s[SD] ← a AND NOT b (R354). -/
def execAndn (g : Guard) (sd sa sb : Nat) (s : State) : Out :=
  s.guarded g fun s => (s.setS sd (aluAndn (s.rs sa) (s.rs sb))).retire
/-- A shifted left by b; 0 from 64 up (R356). -/
def aluShl (a b : W64) : W64 := if 64 ≤ b.toNat then 0 else a <<< b.toNat
/-- SHL: s[SD] ← a shifted left by b; 0 from 64 up (R356). -/
def execShl (g : Guard) (sd sa sb : Nat) (s : State) : Out :=
  s.guarded g fun s => (s.setS sd (aluShl (s.rs sa) (s.rs sb))).retire
/-- SHL with an immediate: s[SD] ← a shifted left by b; 0 from 64 up, b being IMM32 sign-extended (R356, R336). -/
def execShlImm (g : Guard) (sd sa : Nat) (imm : BitVec 32) (s : State) : Out :=
  s.guarded g fun s => (s.setS sd (aluShl (s.rs sa) (sx32 imm))).retire
/-- A shifted right by b; 0 from 64 up (R356). -/
def aluShr (a b : W64) : W64 := if 64 ≤ b.toNat then 0 else a >>> b.toNat
/-- SHR: s[SD] ← a shifted right by b; 0 from 64 up (R356). -/
def execShr (g : Guard) (sd sa sb : Nat) (s : State) : Out :=
  s.guarded g fun s => (s.setS sd (aluShr (s.rs sa) (s.rs sb))).retire
/-- SHR with an immediate: s[SD] ← a shifted right by b; 0 from 64 up, b being IMM32 sign-extended (R356, R336). -/
def execShrImm (g : Guard) (sd sa : Nat) (imm : BitVec 32) (s : State) : Out :=
  s.guarded g fun s => (s.setS sd (aluShr (s.rs sa) (sx32 imm))).retire
/-- A shifted right by b with bit 63 copied (R356). -/
def aluSar (a b : W64) : W64 := a.sshiftRight (min b.toNat 63)
/-- SAR: s[SD] ← a shifted right by b with bit 63 copied (R356). -/
def execSar (g : Guard) (sd sa sb : Nat) (s : State) : Out :=
  s.guarded g fun s => (s.setS sd (aluSar (s.rs sa) (s.rs sb))).retire
/-- SAR with an immediate: s[SD] ← a shifted right by b with bit 63 copied, b being IMM32 sign-extended (R356, R336). -/
def execSarImm (g : Guard) (sd sa : Nat) (imm : BitVec 32) (s : State) : Out :=
  s.guarded g fun s => (s.setS sd (aluSar (s.rs sa) (sx32 imm))).retire
/-- The smaller, signed (R354). -/
def aluMin (a b : W64) : W64 := if a.toInt < b.toInt then a else b
/-- MIN: s[SD] ← the smaller, signed (R354). -/
def execMin (g : Guard) (sd sa sb : Nat) (s : State) : Out :=
  s.guarded g fun s => (s.setS sd (aluMin (s.rs sa) (s.rs sb))).retire
/-- MIN with an immediate: s[SD] ← the smaller, signed, b being IMM32 sign-extended (R354, R336). -/
def execMinImm (g : Guard) (sd sa : Nat) (imm : BitVec 32) (s : State) : Out :=
  s.guarded g fun s => (s.setS sd (aluMin (s.rs sa) (sx32 imm))).retire
/-- The larger, signed (R354). -/
def aluMax (a b : W64) : W64 := if a.toInt < b.toInt then b else a
/-- MAX: s[SD] ← the larger, signed (R354). -/
def execMax (g : Guard) (sd sa sb : Nat) (s : State) : Out :=
  s.guarded g fun s => (s.setS sd (aluMax (s.rs sa) (s.rs sb))).retire
/-- MAX with an immediate: s[SD] ← the larger, signed, b being IMM32 sign-extended (R354, R336). -/
def execMaxImm (g : Guard) (sd sa : Nat) (imm : BitVec 32) (s : State) : Out :=
  s.guarded g fun s => (s.setS sd (aluMax (s.rs sa) (sx32 imm))).retire
/-- The smaller, unsigned (R354). -/
def aluMinu (a b : W64) : W64 := if a.toNat < b.toNat then a else b
/-- MINU: s[SD] ← the smaller, unsigned (R354). -/
def execMinu (g : Guard) (sd sa sb : Nat) (s : State) : Out :=
  s.guarded g fun s => (s.setS sd (aluMinu (s.rs sa) (s.rs sb))).retire
/-- MINU with an immediate: s[SD] ← the smaller, unsigned, b being IMM32 sign-extended (R354, R336). -/
def execMinuImm (g : Guard) (sd sa : Nat) (imm : BitVec 32) (s : State) : Out :=
  s.guarded g fun s => (s.setS sd (aluMinu (s.rs sa) (sx32 imm))).retire
/-- The larger, unsigned (R354). -/
def aluMaxu (a b : W64) : W64 := if a.toNat < b.toNat then b else a
/-- MAXU: s[SD] ← the larger, unsigned (R354). -/
def execMaxu (g : Guard) (sd sa sb : Nat) (s : State) : Out :=
  s.guarded g fun s => (s.setS sd (aluMaxu (s.rs sa) (s.rs sb))).retire
/-- MAXU with an immediate: s[SD] ← the larger, unsigned, b being IMM32 sign-extended (R354, R336). -/
def execMaxuImm (g : Guard) (sd sa : Nat) (imm : BitVec 32) (s : State) : Out :=
  s.guarded g fun s => (s.setS sd (aluMaxu (s.rs sa) (sx32 imm))).retire

/-- CLZ: the number of leading zero bits (R357). -/
def execClz (g : Guard) (sd sa : Nat) (s : State) : Out :=
  s.guarded g fun s => (s.setS sd (w64 (clz64 (s.rs sa).toNat))).retire
/-- CTZ: the number of trailing zero bits (R357). -/
def execCtz (g : Guard) (sd sa : Nat) (s : State) : Out :=
  s.guarded g fun s => (s.setS sd (w64 (ctzN 64 (s.rs sa).toNat))).retire
/-- POPC: the number of one bits (R357). -/
def execPopc (g : Guard) (sd sa : Nat) (s : State) : Out :=
  s.guarded g fun s => (s.setS sd (w64 (popCount 64 (s.rs sa).toNat))).retire
/-- The low bits of a word extended as the code says (R357). -/
def extApply (x : Ext) (a : W64) : W64 :=
  match x with
  | .b => w64 (wrap 64 (sgn 8 a.toNat))
  | .bu => w64 (a.toNat % 2 ^ 8)
  | .h => w64 (wrap 64 (sgn 16 a.toNat))
  | .hu => w64 (a.toNat % 2 ^ 16)
  | .w => w64 (wrap 64 (sgn 32 a.toNat))
  | .wu => w64 (a.toNat % 2 ^ 32)
/-- EXT: the low bits of s[SA], extended (R357). -/
def execExt (g : Guard) (sd sa : Nat) (x : Ext) (s : State) : Out :=
  s.guarded g fun s => (s.setS sd (extApply x (s.rs sa))).retire
/-- SEL: s[SA] if p[PA] is true, else s[SB] (R357). -/
def execSel (g : Guard) (sd sa sb pa : Nat) (s : State) : Out :=
  s.guarded g fun s => (s.setS sd (if s.rp pa then s.rs sa else s.rs sb)).retire
/-- MADD: bits [63:0] of s[SA] × s[SB] + s[SC] (R357). -/
def execMadd (g : Guard) (sd sa sb sc : Nat) (s : State) : Out :=
  s.guarded g fun s => (s.setS sd (s.rs sa * s.rs sb + s.rs sc)).retire

/-! ### Compares and predicates (R358, R359) -/

/-- CMP: p[PD] becomes whether s[SA] and s[SB] satisfy the condition (R358). -/
def execCmp (g : Guard) (c : Cond) (sa sb pd : Nat) (s : State) : Out :=
  s.guarded g fun s => (s.setP pd (condHolds c (s.rs sa) (s.rs sb))).retire
/-- CMP with an immediate, sign-extended before the comparison (R358). -/
def execCmpImm (g : Guard) (c : Cond) (sa pd : Nat) (imm : BitVec 32) (s : State) : Out :=
  s.guarded g fun s => (s.setP pd (condHolds c (s.rs sa) (sx32 imm))).retire
/-- PAND (R359). -/
def execPand (g : Guard) (pd pa pb : Nat) (s : State) : Out :=
  s.guarded g fun s => (s.setP pd (s.rp pa && s.rp pb)).retire
/-- POR (R359). -/
def execPor (g : Guard) (pd pa pb : Nat) (s : State) : Out :=
  s.guarded g fun s => (s.setP pd (s.rp pa || s.rp pb)).retire
/-- PXOR (R359). -/
def execPxor (g : Guard) (pd pa pb : Nat) (s : State) : Out :=
  s.guarded g fun s => (s.setP pd (s.rp pa != s.rp pb)).retire
/-- PNOT (R359). -/
def execPnot (g : Guard) (pd pa : Nat) (s : State) : Out :=
  s.guarded g fun s => (s.setP pd (!s.rp pa)).retire
/-- PGET: s[SD] gets p7 … p0 as bits [7:0]; bit 0 is always 1 (R359). -/
def execPget (g : Guard) (sd : Nat) (s : State) : Out :=
  s.guarded g fun s => (s.setS sd (w64 s.ctx.predBits)).retire
/-- PSET: p1 to p7 get s[SA] bits [7:1] (R359). -/
def execPset (g : Guard) (sa : Nat) (s : State) : Out :=
  s.guarded g fun s => (s.modCtx fun x => { x with p := predOf (s.rs sa) }).retire

/-! ### Wide immediates and addresses (R360 to R362) -/

/-- LI: s[SD] ← IMM64 (R360). -/
def execLi (g : Guard) (sd : Nat) (imm : W64) (s : State) : Out :=
  s.guardedN 16 g fun s => (s.setS sd imm).retireN 16
/-- ADDX: s[SD] ← s[SA] + IMM64 (R360, R338). -/
def execAddx (g : Guard) (sd sa : Nat) (imm : W64) (s : State) : Out :=
  s.guardedN 16 g fun s => (s.setS sd (s.rs sa + imm)).retireN 16
/-- ANDX: s[SD] ← s[SA] AND IMM64 (R360, R338). -/
def execAndx (g : Guard) (sd sa : Nat) (imm : W64) (s : State) : Out :=
  s.guardedN 16 g fun s => (s.setS sd (s.rs sa &&& imm)).retireN 16
/-- ORX: s[SD] ← s[SA] OR IMM64 (R360, R338). -/
def execOrx (g : Guard) (sd sa : Nat) (imm : W64) (s : State) : Out :=
  s.guardedN 16 g fun s => (s.setS sd (s.rs sa ||| imm)).retireN 16
/-- ADDPC: s[SD] ← PC + SEXT(IMM32), PC being the bundle's address (R361). -/
def execAddpc (g : Guard) (sd : Nat) (imm : BitVec 32) (s : State) : Out :=
  s.guarded g fun s => (s.setS sd (s.ctx.pc + sx32 imm)).retire
/-- SPPEER: a peer scratchpad pointer from a rank and an offset (R362). -/
def execSppeer (g : Guard) (sd sa : Nat) (imm : BitVec 32) (s : State) : Out :=
  s.guarded g fun s => (s.setS sd (w64 (2 ^ 30 + fld (s.rs sa) 7 0 * 2 ^ 22 + imm.toNat % 2 ^ 22))).retire

/-! ### Scalar loads and stores (R363 to R365) -/

/-- Bytes of a load. -/
def ldSize : LdKind → Nat
  | .b | .bu => 1
  | .h | .hu => 2
  | .w | .wu => 4
  | .d => 8
/-- Bytes of a store. -/
def stSize : StKind → Nat
  | .b => 1 | .h => 2 | .w => 4 | .d => 8
/-- A loaded number extended to 64 bits (R363). -/
def ldExtend (k : LdKind) (n : Nat) : W64 :=
  match k with
  | .b => w64 (wrap 64 (sgn 8 n))
  | .h => w64 (wrap 64 (sgn 16 n))
  | .w => w64 (wrap 64 (sgn 32 n))
  | .bu => w64 (n % 2 ^ 8)
  | .hu => w64 (n % 2 ^ 16)
  | .wu => w64 (n % 2 ^ 32)
  | .d => w64 n

/-- A load is outstanding (R213). -/
def State.addPend (s : State) (p : Pend) : State := s.modCur fun c => { c with pend := c.pend ++ [p] }
/-- A write is outstanding (R290). -/
def State.addOut (s : State) (w : OutW) : State := s.modCur fun c => { c with outw := c.outw ++ [w] }
/-- A load that has found poison: no register is written, and a later bundle reports it with the load's address (R213; log 75). -/
def State.failPend (s : State) (acc : Acc) (ret : Ret) (cause : Nat) (addr : W64) : State :=
  s.addPend { acc := acc, ret := ret, sent := false, fail := some (BitVec.ofNat 8 cause, addr) }

/-- The checks of a scratchpad access of n bytes at pointer p and signed offset, alignment al: the reserved spaces, then alignment,
then the range, else what it does in range (R246, R247, R363, R399). An out-of-range access does what out says. -/
def State.spadAccess (s : State) (p : Nat) (off : Int) (n al : Nat) (out ok : State → State) : State :=
  if ptrBad p then s.raise 0x03 (w64 p)
  else if off % (al : Int) ≠ 0 then s.raiseFree 0x05
  else if !inSpad off n ∨ !s.ctx.rankOk p then (out (s.oob (ptrAt p off))).retire
  else ok s

/-- LDS: a load of the own or a peer scratchpad (R363). The own one is read in program order as the bundle issues (R212); a peer's is
read when the data returns. -/
def execLds (g : Guard) (k : LdKind) (sd sa : Nat) (imm : BitVec 32) (s : State) : Out :=
  s.guarded g fun s =>
    let p := ptrOf (s.rs sa)
    let off : Int := (ptrOff p : Int) + sgn 32 imm.toNat
    s.spadAccess p off (ldSize k) (ldSize k) (fun s => s.setS sd 0) fun s =>
      let o := off.toNat
      let acc := spadAcc s.nextId 0 0 (s.ptrCore p) o (ldSize k)
      if s.ctx.ptrOwn p then
        let r := s.scan (spadKey s.core o) (ldSize k) s.myAsid
        match r.2 with
        | some _ => (r.1.newId.1.failPend acc (.scalar k sd) 0x0F (w64 (ptrAt p off))).retire
        | none => (r.1.setS sd (ldExtend k (r.1.readN (spadKey s.core o) (ldSize k)))).retire
      else
        (s.newId.1.addPend { acc := { acc with va := ptrAt p off }, ret := .scalar k sd, sent := false, fail := none }).retire

/-- A store of the sequencer sets out for its home over the die network or to a memory of this node: it is outstanding until it is performed (R212,
R283, R233). -/
def State.storeOut (s : State) (acc : Acc) (dest : Option (Nat × Nat × Nat)) (bs : List Byte) : State :=
  let f : Flight := { acc := acc, core := s.core, team := s.csr.teamId.toNat, part := s.csr.part.toNat, asid := s.myAsid,
                      dest := dest, bytes := bs, bad := [], obj := none, count := none, arrive := none }
  let t := s.newId.1.addOut { acc := acc, obj := none }
  { t with msys := { t.msys with flights := t.msys.flights ++ [f] } }
/-- A store of the sequencer into a peer's scratchpad (R212, R283). -/
def State.peerStore (s : State) (p o : Nat) (bs : List Byte) : State :=
  s.storeOut (spadAcc s.nextId 0 0 (s.ptrCore p) o bs.length) (some (s.csr.teamId.toNat, ptrRank p, o)) bs

/-- STS: a store into the own or a peer scratchpad (R363). -/
def execSts (g : Guard) (k : StKind) (sd sa : Nat) (imm : BitVec 32) (s : State) : Out :=
  s.guarded g fun s =>
    let p := ptrOf (s.rs sa)
    let off : Int := (ptrOff p : Int) + sgn 32 imm.toNat
    s.spadAccess p off (stSize k) (stSize k) (fun s => s) fun s =>
      let o := off.toNat
      let bs := toLE (stSize k) (s.rs sd).toNat
      if s.ctx.ptrOwn p then (s.writeB (spadKey s.core o) bs).retire else (s.peerStore p o bs).retire

/-- The checks of an access of n bytes at a virtual address, in the order of R364, and what it does with its one part. An access held
on a STALE extent waits (R260). -/
def State.memAccess (s : State) (k : AKind) (va : W64) (n : Nat) (ok : State → Piece → State) : State :=
  if 2 ^ 55 ≤ va.toNat then s.raise 0x03 va
  else if va.toNat % n ≠ 0 then s.raise 0x05 va
  else
    match s.xlate k va.toNat n with
    | .fault c a => s.raiseT k c a
    | .held => s
    | .ok ps =>
      match ps with
      | p :: _ => ok s p
      | [] => s

/-- The read that a wait shadow has sent for the load at the PC and that has not returned (R285). -/
def State.earlyRead (s : State) (va : Nat) : Option Pend :=
  s.cur.pend.find? fun p => p.ret == .early s.ctx.pc.toNat && p.acc.va == va && p.fail.isNone
/-- LDG: a load by virtual address (R364). The read is performed when its data returns; a remote leaf makes it a READ. A read that the wait
shadow of the BWAIT before it has performed is written now, and one that it has sent is the bundle's from now on (R285). -/
def execLdg (g : Guard) (k : LdKind) (sd sa : Nat) (imm : BitVec 32) (s : State) : Out :=
  s.guarded g fun s =>
    let va := s.rs sa + sx32 imm
    match s.cur.shadow.find? fun e => e.1 == s.ctx.pc.toNat && e.2.1 == va.toNat with
    | some e =>
      ((s.modCur fun c => { c with shadow := c.shadow.filter fun x => x.1 != s.ctx.pc.toNat }).setS sd (ldExtend k (ofLE e.2.2))).retire
    | none =>
      match s.earlyRead va.toNat with
      | some e =>
        (s.modCur fun c => { c with pend := c.pend.map fun p => if p.acc.id = e.acc.id then { p with ret := .scalar k sd } else p }).retire
      | none => s.memAccess .read va (ldSize k) fun s p =>
        let n := s.newId
        let acc := s.accOf n.2 0 0 p
        if !s.cur.mayIssue acc then s
        else
          let here := p.node == s.mg.node.toNat
          let t := (n.1.countPiece p).addPend { acc := acc, ret := .scalar k sd, sent := !here, fail := none }
          (if here then t
           else t.post (t.reqTo n.2 2 (.load s.core n.2) s.csr.part.toNat s.myAsid p)).retire

/-- STG: a store by virtual address (R364, R365). A local store is performed as the bundle issues, after the earlier accesses it is
ordered behind; one to a SYNC page whose turn at the synchronisation engine has not come sets out for it as a request, to be parked or accepted there
(R233, R234). A remote leaf makes it a posted WRITE. -/
def execStg (g : Guard) (k : StKind) (sd sa : Nat) (imm : BitVec 32) (s : State) : Out :=
  s.guarded g fun s =>
    let va := s.rs sa + sx32 imm
    let bs := toLE (stSize k) (s.rs sd).toNat
    s.memAccess .write va (stSize k) fun s p =>
      let n := s.newId
      let acc := s.accOf n.2 0 0 p
      if p.node = s.mg.node.toNat then
        if acc.sync && !s.syncFree s.myAsid acc then (if s.cur.mayIssue acc then ((s.countPiece p).storeOut acc none bs).retire else s)
        else if s.cur.mayPerform acc && s.cur.mayIssue acc then ((s.countPiece p).writeB p.key bs).retire
        else s
      else if !s.cur.mayIssue acc then s
      else
        ((n.1.addOut { acc := acc, obj := none }).post
          { n.1.reqTo n.2 1 (.store s.core n.2) s.csr.part.toNat s.myAsid p with data := bs }).retire

/-! ### The return of a load's data (R213) -/

/-- The state with the pending load of the running core removed. -/
def State.dropPend (s : State) (id : Nat) : State :=
  s.modCur fun c => { c with pend := c.pend.filter fun p => p.acc.id != id }
/-- The state with the pending load of the running core failed (R213). -/
def State.failAt (s : State) (id cause : Nat) (addr : W64) : State :=
  s.modCur fun c => { c with pend := c.pend.map fun p =>
    if p.acc.id = id then { p with fail := some (BitVec.ofNat 8 cause, addr) } else p }
/-- The request of an outstanding load or atomic of the running core for a part (R84, R253). -/
def State.loadReq (s : State) (p : Pend) (kind : Nat) (q : Piece) : Req :=
  s.reqTo p.acc.id kind (.load s.core p.acc.id) s.csr.part.toNat s.myAsid q
/-- A load or atomic whose page has moved to another node while it was parked goes there with its request (R234, R271). -/
def State.sendOn (s : State) (p : Pend) (q : Piece) (r : Req) : State :=
  (s.modCur fun c => { c with pend := c.pend.map fun x =>
    if x.acc.id = p.acc.id then { x with sent := true, acc := s.accOf p.acc.id 0 0 q } else x }).post r
/-- The data of a load is written to its destination (R213, R363, R364, R399, R400, R451). -/
def State.fillLoad (s : State) (r : Ret) (bs : List Byte) : State :=
  match r with
  | .scalar k sd => s.setS sd (ldExtend k (ofLE bs))
  | .early _ => s
  | .gather vd m _ => s.setVMask vd m (bytesVec bs)
  | .rwld sd _ _ => s.setS sd (word64 bs)
  | .cap sd _ => s.setS sd (word64 bs)
  | .atomic _ _ _ _ _ sd => s.setS sd (word64 bs)
/-- Offsets from the scratchpad's start of the lanes that a gather reads. -/
def gatherBytes (s : State) (core : Nat) (m : BitVec 128) (offs : List Nat) : List Byte :=
  (List.range 128).flatMap fun i => if maskBit m i then s.readB (spadKey core (offs.getD i 0)) 4 else zeros 4
/-- LOAD_RETURN: the outstanding load named args[0] of the running core is performed, in the order of its stream, and its data
written; poison fails it with the load's address (R213, R283, R286, R364; log 75). A bedrock read waits for a refresh window to end (R243). A load
sent to another node returns with its READRESP. -/
def execLoadReturn (s : State) : Out :=
  .next (match s.cur.pend.find? fun p => p.acc.id == s.args.headD 0 with
    | none => s
    | some p =>
      if p.fail.isSome ∨ p.sent ∨ !s.cur.mayPerform p.acc ∨ s.bankBusy (s.core / 16) p.acc.lo p.acc.len then s
      else
        match p.ret with
        | .atomic .. => s
        | .cap .. => s
        | .early _ => s
        | .rwld sd t o =>
          let k := mgKey (0x30000000 + 0x10000 * t + o)
          let r := s.scan k 8 s.myAsid
          (match r.2 with
           | some _ => r.1.failAt p.acc.id 0x0F (w64 p.acc.va)
           | none => (r.1.dropPend p.acc.id).setS sd (word64 (r.1.readB k 8))).settleWait
        | .gather vd m offs =>
          let c := (p.acc.lo - 2 ^ 48) / 2 ^ 22
          let r := (List.range 128).foldl (fun (x : State × Option Nat) i =>
            if maskBit m i then let y := x.1.scan (spadKey c (offs.getD i 0)) 4 s.myAsid; (y.1, x.2.or y.2) else x) (s, none)
          (match r.2 with
           | some _ => r.1.failAt p.acc.id 0x0F (w64 p.acc.va)
           | none => (r.1.dropPend p.acc.id).fillLoad (.gather vd m offs) (gatherBytes r.1 c m offs)).settleWait
        | .scalar k sd =>
          match s.atSync s.myAsid p.acc with
          | (t, .waits) => t
          | (t, .here a) =>
            let r := t.scan a p.acc.len s.myAsid p.acc.va
            (match r.2 with
             | some _ => r.1.failAt p.acc.id 0x0F (w64 p.acc.va)
             | none => (r.1.dropPend p.acc.id).setS sd (ldExtend k (ofLE (r.1.readB a p.acc.len)))).settleWait
          | (t, .away q) => t.sendOn p q (t.loadReq p 2 q)
          | (t, .lost) => (t.failAt p.acc.id 0x12 (w64 p.acc.va)).settleWait)

end Sys2Proof.Machine
end

