-- ==== Sys2Proof/Machine/Vector.lean ====
section
/-!
DEFINITION. Vector instructions (chapter 16) and the pair format (R333): element arithmetic, compares and the mask stack, conversions,
exponentials, reductions, scans, histograms, lane moves, scratchpad access, block integers and block scales.
-/
namespace Sys2Proof.Machine

/-! ### Elements (R380) -/

/-- The width of an element type (R380). -/
def vWidth (t : VType) : Nat :=
  match t with
  | .f32 | .i32 => 32
  | .bf16 | .i16 => 16
  | .e4m3 | .e5m2 | .i8 | .ui8 => 8
/-- Whether a type is floating. -/
def vIsFloat (t : VType) : Bool :=
  match t with
  | .f32 | .bf16 | .e4m3 | .e5m2 => true
  | _ => false
/-- The integer value of an element (R384). -/
def vInt (t : VType) (n : Nat) : Int := if t = .ui8 then (n : Int) else sgn (vWidth t) n
/-- An exact integer narrowed to a type: modulo 2^w, or clamped to the type's range (R384). -/
def vNarrow (t : VType) (sat : Bool) (r : Int) : Nat :=
  let w := vWidth t
  if sat then wrap w (if t = .ui8 then clampI 0 255 r else clampI (-(2 ^ (w - 1) : Int)) (2 ^ (w - 1) - 1) r) else wrap w r
/-- The value of a floating element. -/
def vVal (t : VType) (n : Nat) : FV := (fmtOf t).value n
/-- The canonical NaN of a type (R308). -/
def vNan (t : VType) : Nat := (fmtOf t).nanBits
/-- The exact integer function or the exact real function of two elements, narrowed or rounded once (R384, R385). -/
def vArith (fi : Int → Int → Int) (ff : FV → FV → FV) (t : VType) (rnd : Rnd) (sat : Bool) (a b : Nat) : Nat :=
  if vIsFloat t then (fmtOf t).round rnd false (ff (vVal t a) (vVal t b)) else vNarrow t sat (fi (vInt t a) (vInt t b))
/-- Element addition. -/
def vAddE : VType → Rnd → Bool → Nat → Nat → Nat := vArith (· + ·) FV.add
/-- Element subtraction. -/
def vSubE : VType → Rnd → Bool → Nat → Nat → Nat := vArith (· - ·) fun a b => a.add b.neg
/-- Element multiplication. -/
def vMulE : VType → Rnd → Bool → Nat → Nat → Nat := vArith (· * ·) FV.mul
/-- a × b + c with one rounding or one saturation (R384, R385). -/
def vFmaE (t : VType) (rnd : Rnd) (sat : Bool) (a b c : Nat) : Nat :=
  if vIsFloat t then (fmtOf t).round rnd false (((vVal t a).mul (vVal t b)).add (vVal t c))
  else vNarrow t sat (vInt t a * vInt t b + vInt t c)
/-- Whether a is below b: signed, unsigned for .ui8, and floating with -0 below +0 (R384, R385). -/
def vBelow (t : VType) (a b : Nat) : Bool :=
  if vIsFloat t then (vVal t a).below (vVal t b) else decide (vInt t a < vInt t b)
/-- Whether an element is a NaN. -/
def vIsNan (t : VType) (a : Nat) : Bool := vIsFloat t && (vVal t a).isNan
/-- The smaller element; the canonical NaN when either is a NaN (R384, R385). -/
def vMinE (t : VType) (a b : Nat) : Nat :=
  if vIsNan t a || vIsNan t b then vNan t else if vBelow t b a then b else a
/-- The larger element (R384, R385). -/
def vMaxE (t : VType) (a b : Nat) : Nat :=
  if vIsNan t a || vIsNan t b then vNan t else if vBelow t a b then b else a
/-- The absolute value (R384, R385). -/
def vAbsE (t : VType) (sat : Bool) (a : Nat) : Nat :=
  if vIsFloat t then (if vIsNan t a then vNan t else a % 2 ^ (vWidth t - 1)) else vNarrow t sat ((vInt t a).natAbs : Int)
/-- The negated value (R384, R385). -/
def vNegE (t : VType) (sat : Bool) (a : Nat) : Nat :=
  if vIsFloat t then (if vIsNan t a then vNan t else a ^^^ 2 ^ (vWidth t - 1)) else vNarrow t sat (-(vInt t a))
/-- A shift left by a count, unsigned (R389). -/
def vShlE (t : VType) (a n : Nat) : Nat := if vWidth t ≤ n then 0 else a * 2 ^ n % 2 ^ vWidth t
/-- A shift right that brings in zeros (R389). -/
def vShrE (t : VType) (a n : Nat) : Nat := if vWidth t ≤ n then 0 else a / 2 ^ n
/-- A shift right that copies the top bit (R389). -/
def vSarE (t : VType) (a n : Nat) : Nat := wrap (vWidth t) (sgn (vWidth t) a / (2 ^ min n (vWidth t) : Nat))
/-- Whether a condition holds for two elements (R386). -/
def vHolds (t : VType) (c : Cond) (a b : Nat) : Bool :=
  if vIsFloat t then
    let x := vVal t a
    let y := vVal t b
    let eq := !x.isNan && !y.isNan && !x.lt y && !y.lt x
    match c with
    | .eq => eq
    | .ne => !eq
    | .lt => x.lt y
    | .ge => y.lt x || eq
    | .ltu => false
    | .geu => false
  else
    match c with
    | .eq => a == b
    | .ne => a != b
    | .lt => decide (vInt t a < vInt t b)
    | .ge => decide (vInt t b ≤ vInt t a)
    | .ltu => decide (a < b)
    | .geu => decide (b ≤ a)
/-- All ones or zero (R386). -/
def vFlag (t : VType) (b : Bool) : Nat := if b then 2 ^ vWidth t - 1 else 0
/-- The conversion of an element, with the random value u for RSR (R391, R314). Between .e4m3 and .e5m2 the value is rounded
(log 20). -/
def vCvtE (dst src : VType) (rnd : Rnd) (sat : Bool) (u a : Nat) : Nat :=
  if vIsFloat src then
    let v := vVal src a
    if vIsFloat dst then (fmtOf dst).roundU rnd sat u v
    else
      let w := vWidth dst
      wrap w (if dst = .ui8 then v.toRange rnd 0 255 else v.toRange rnd (-(2 ^ (w - 1) : Int)) (2 ^ (w - 1) - 1))
  else if vIsFloat dst then (fmtOf dst).roundU rnd sat u (fvInt (vInt src a) 0)
  else vNarrow dst sat (vInt src a)

/-! ### Operands -/

/-- The operand b of R383, of width w. -/
def State.vScalar (s : State) (b : SOperand) (w : Nat) : Nat :=
  match b with
  | .reg r => (s.rs r).toNat % 2 ^ w
  | .imm x => wrap w (sx12 x)
/-- VD ← f of each element of VA (R380). -/
def State.vMap1 (s : State) (vd va w : Nat) (f : Nat → Nat) : State :=
  let a := s.rv va
  s.setV vd (buildV w fun k => f (elem a w k))
/-- VD ← f of each element of VA and VB (R380). -/
def State.vMap2 (s : State) (vd va vb w : Nat) (f : Nat → Nat → Nat) : State :=
  let a := s.rv va
  let b := s.rv vb
  s.setV vd (buildV w fun k => f (elem a w k) (elem b w k))
/-- VD ← f of each element of VA, VB and VC (R380). -/
def State.vMap3 (s : State) (vd va vb vc w : Nat) (f : Nat → Nat → Nat → Nat) : State :=
  let a := s.rv va
  let b := s.rv vb
  let c := s.rv vc
  s.setV vd (buildV w fun k => f (elem a w k) (elem b w k) (elem c w k))
/-- VD ← f of each element of VA and the scalar operand (R383). -/
def State.vMapS (s : State) (vd va : Nat) (b : SOperand) (w : Nat) (f : Nat → Nat → Nat) : State :=
  let x := s.vScalar b w
  s.vMap1 vd va w fun a => f a x
/-- The elements of width w that lie in enabled lanes (R394). -/
def enabledElems (m : BitVec 128) (w : Nat) (a : Vec) : List Nat :=
  ((List.range (4096 / w)).filter fun k => maskBit m (laneOf w k)).map fun k => elem a w k
/-- A reduction: one value into every element of the written lanes; nothing when no lane is enabled (R394). -/
def State.vReduce (s : State) (vd va w : Nat) (f : List Nat → Nat) : State :=
  match enabledElems s.top w (s.rv va) with
  | [] => s
  | x :: xs => let r := f (x :: xs); s.setV vd (buildV w fun _ => r)
/-- The fold of a non-empty list. -/
def foldOne (f : Nat → Nat → Nat) (l : List Nat) : Nat := l.tail.foldl f (l.headD 0)

/-! ### Arithmetic (R384, R385) -/

/-- VADD on each element (R384, R385). -/
def execVadd (g : Guard) (vd va vb : Nat) (ty : VType) (rnd : Rnd) (sat : Bool) (s : State) : Out :=
  s.guarded g fun s => (s.vMap2 vd va vb (vWidth ty) (vAddE ty rnd sat)).retire
/-- VADD with the operand b of R383 in every element. -/
def execVaddScalar (g : Guard) (vd va : Nat) (b : SOperand) (ty : VType) (rnd : Rnd) (sat : Bool) (s : State) : Out :=
  s.guarded g fun s => (s.vMapS vd va b (vWidth ty) (vAddE ty rnd sat)).retire
/-- VSUB on each element (R384, R385). -/
def execVsub (g : Guard) (vd va vb : Nat) (ty : VType) (rnd : Rnd) (sat : Bool) (s : State) : Out :=
  s.guarded g fun s => (s.vMap2 vd va vb (vWidth ty) (vSubE ty rnd sat)).retire
/-- VSUB with the operand b of R383 in every element. -/
def execVsubScalar (g : Guard) (vd va : Nat) (b : SOperand) (ty : VType) (rnd : Rnd) (sat : Bool) (s : State) : Out :=
  s.guarded g fun s => (s.vMapS vd va b (vWidth ty) (vSubE ty rnd sat)).retire
/-- VMUL on each element (R384, R385). -/
def execVmul (g : Guard) (vd va vb : Nat) (ty : VType) (rnd : Rnd) (sat : Bool) (s : State) : Out :=
  s.guarded g fun s => (s.vMap2 vd va vb (vWidth ty) (vMulE ty rnd sat)).retire
/-- VMUL with the operand b of R383 in every element. -/
def execVmulScalar (g : Guard) (vd va : Nat) (b : SOperand) (ty : VType) (rnd : Rnd) (sat : Bool) (s : State) : Out :=
  s.guarded g fun s => (s.vMapS vd va b (vWidth ty) (vMulE ty rnd sat)).retire
/-- VFMA: VA × VB + VC, rounded or saturated once (R384, R385). -/
def execVfma (g : Guard) (vd va vb vc : Nat) (ty : VType) (rnd : Rnd) (sat : Bool) (s : State) : Out :=
  s.guarded g fun s => (s.vMap3 vd va vb vc (vWidth ty) (vFmaE ty rnd sat)).retire
/-- VMIN: the smaller of each pair of elements (R384, R385). -/
def execVmin (g : Guard) (vd va vb : Nat) (ty : VType) (s : State) : Out :=
  s.guarded g fun s => (s.vMap2 vd va vb (vWidth ty) (vMinE ty)).retire
/-- VMIN: the smaller of each pair of elements, with the operand b of R383 in every element (R384, R385). -/
def execVminScalar (g : Guard) (vd va : Nat) (b : SOperand) (ty : VType) (s : State) : Out :=
  s.guarded g fun s => (s.vMapS vd va b (vWidth ty) (vMinE ty)).retire
/-- VMAX: the larger of each pair of elements (R384, R385). -/
def execVmax (g : Guard) (vd va vb : Nat) (ty : VType) (s : State) : Out :=
  s.guarded g fun s => (s.vMap2 vd va vb (vWidth ty) (vMaxE ty)).retire
/-- VMAX: the larger of each pair of elements, with the operand b of R383 in every element (R384, R385). -/
def execVmaxScalar (g : Guard) (vd va : Nat) (b : SOperand) (ty : VType) (s : State) : Out :=
  s.guarded g fun s => (s.vMapS vd va b (vWidth ty) (vMaxE ty)).retire
/-- VSHL: shifts left by unsigned counts (R389). -/
def execVshl (g : Guard) (vd va vb : Nat) (ty : VType) (s : State) : Out :=
  s.guarded g fun s => (s.vMap2 vd va vb (vWidth ty) (vShlE ty)).retire
/-- VSHL: shifts left by unsigned counts, with the operand b of R383 in every element (R389). -/
def execVshlScalar (g : Guard) (vd va : Nat) (b : SOperand) (ty : VType) (s : State) : Out :=
  s.guarded g fun s => (s.vMapS vd va b (vWidth ty) (vShlE ty)).retire
/-- VSHR: shifts right, zeros brought in (R389). -/
def execVshr (g : Guard) (vd va vb : Nat) (ty : VType) (s : State) : Out :=
  s.guarded g fun s => (s.vMap2 vd va vb (vWidth ty) (vShrE ty)).retire
/-- VSHR: shifts right, zeros brought in, with the operand b of R383 in every element (R389). -/
def execVshrScalar (g : Guard) (vd va : Nat) (b : SOperand) (ty : VType) (s : State) : Out :=
  s.guarded g fun s => (s.vMapS vd va b (vWidth ty) (vShrE ty)).retire
/-- VSAR: shifts right, the top bit copied (R389). -/
def execVsar (g : Guard) (vd va vb : Nat) (ty : VType) (s : State) : Out :=
  s.guarded g fun s => (s.vMap2 vd va vb (vWidth ty) (vSarE ty)).retire
/-- VSAR: shifts right, the top bit copied, with the operand b of R383 in every element (R389). -/
def execVsarScalar (g : Guard) (vd va : Nat) (b : SOperand) (ty : VType) (s : State) : Out :=
  s.guarded g fun s => (s.vMapS vd va b (vWidth ty) (vSarE ty)).retire
/-- VABS: the absolute value of each element (R384, R385). -/
def execVabs (g : Guard) (vd va : Nat) (ty : VType) (sat : Bool) (s : State) : Out :=
  s.guarded g fun s => (s.vMap1 vd va (vWidth ty) (vAbsE ty sat)).retire
/-- VNEG: the negated value of each element (R384, R385). -/
def execVneg (g : Guard) (vd va : Nat) (ty : VType) (sat : Bool) (s : State) : Out :=
  s.guarded g fun s => (s.vMap1 vd va (vWidth ty) (vNegE ty sat)).retire
/-- VAND over all 512 bytes (R389). -/
def execVand (g : Guard) (vd va vb : Nat) (s : State) : Out :=
  s.guarded g fun s => (s.setV vd (s.rv va &&& s.rv vb)).retire
/-- VAND with the operand b of R383 in every element (R389). -/
def execVandScalar (g : Guard) (vd va : Nat) (b : SOperand) (ty : VType) (s : State) : Out :=
  s.guarded g fun s => (s.vMapS vd va b (vWidth ty) fun x y => x &&& y).retire
/-- VOR over all 512 bytes (R389). -/
def execVor (g : Guard) (vd va vb : Nat) (s : State) : Out :=
  s.guarded g fun s => (s.setV vd (s.rv va ||| s.rv vb)).retire
/-- VOR with the operand b of R383 in every element (R389). -/
def execVorScalar (g : Guard) (vd va : Nat) (b : SOperand) (ty : VType) (s : State) : Out :=
  s.guarded g fun s => (s.vMapS vd va b (vWidth ty) fun x y => x ||| y).retire
/-- VXOR over all 512 bytes (R389). -/
def execVxor (g : Guard) (vd va vb : Nat) (s : State) : Out :=
  s.guarded g fun s => (s.setV vd (s.rv va ^^^ s.rv vb)).retire
/-- VXOR with the operand b of R383 in every element (R389). -/
def execVxorScalar (g : Guard) (vd va : Nat) (b : SOperand) (ty : VType) (s : State) : Out :=
  s.guarded g fun s => (s.vMapS vd va b (vWidth ty) fun x y => x ^^^ y).retire
/-- VCMP: all ones where the condition holds, else zero (R386). -/
def execVcmp (g : Guard) (c : Cond) (vd va vb : Nat) (ty : VType) (s : State) : Out :=
  s.guarded g fun s => (s.vMap2 vd va vb (vWidth ty) fun a b => vFlag ty (vHolds ty c a b)).retire
/-- VCMP with the operand b of R383 (R386). -/
def execVcmpScalar (g : Guard) (c : Cond) (vd va : Nat) (b : SOperand) (ty : VType) (s : State) : Out :=
  s.guarded g fun s => (s.vMapS vd va b (vWidth ty) fun x y => vFlag ty (vHolds ty c x y)).retire

/-! ### Selection and the mask stack (R387, R388, R220) -/

/-- VSEL: element k of VA where element k of VC is not zero, else of VB (R387). -/
def execVsel (g : Guard) (vd va vb vc : Nat) (ty : VType) (s : State) : Out :=
  s.guarded g fun s => (s.vMap3 vd va vb vc (vWidth ty) fun a b c => if c = 0 then b else a).retire
/-- MPUSH: pushes the lanes of VA that are not zero, AND TOP; MASK_OVERFLOW at depth 8 (R388, R220). -/
def execMpush (g : Guard) (va : Nat) (s : State) : Out :=
  s.guarded g fun s =>
    if s.ctx.masks.length = 8 then s.raiseFree 0x08
    else (s.modCtx fun x => { x with masks := (lanesNonZero (s.rv va) &&& s.top) :: x.masks }).retire
/-- MINV: TOP ← NOT TOP AND BELOW; MASK_UNDERFLOW at depth 0 (R388, R220). -/
def execMinv (g : Guard) (s : State) : Out :=
  s.guarded g fun s =>
    match s.ctx.masks with
    | [] => s.raiseFree 0x09
    | t :: rest => (s.modCtx fun x => { x with masks := (~~~t &&& s.ctx.below) :: rest }).retire
/-- MPOP: pops the mask stack; MASK_UNDERFLOW at depth 0 (R388, R220). -/
def execMpop (g : Guard) (s : State) : Out :=
  s.guarded g fun s =>
    match s.ctx.masks with
    | [] => s.raiseFree 0x09
    | _ :: rest => (s.modCtx fun x => { x with masks := rest }).retire

/-! ### Logic, moves and broadcasts (R389, R397, R398) -/

/-- VNOT: inverts every bit (R389). -/
def execVnot (g : Guard) (vd va : Nat) (s : State) : Out := s.guarded g fun s => (s.setV vd (~~~(s.rv va))).retire
/-- VMOV: copies VA (R389). -/
def execVmov (g : Guard) (vd va : Nat) (s : State) : Out := s.guarded g fun s => (s.setV vd (s.rv va)).retire
/-- VPERM: element k of VD is element VB[k] of VA, or 0 when the index is N or more (R397). -/
def execVperm (g : Guard) (vd va vb : Nat) (ty : VType) (s : State) : Out :=
  s.guarded g fun s =>
    let w := vWidth ty
    let a := s.rv va
    let b := s.rv vb
    (s.setV vd (buildV w fun k => let i := elem b w k; if 4096 / w ≤ i then 0 else elem a w i)).retire
/-- VIOTA: element k is k mod 2^w (R397). -/
def execViota (g : Guard) (vd : Nat) (ty : VType) (s : State) : Out :=
  s.guarded g fun s => (s.setV vd (buildV (vWidth ty) fun k => k)).retire
/-- VBCAST: the operand b in every element (R398). -/
def execVbcast (g : Guard) (vd : Nat) (b : SOperand) (ty : VType) (s : State) : Out :=
  s.guarded g fun s => let x := s.vScalar b (vWidth ty); (s.setV vd (buildV (vWidth ty) fun _ => x)).retire
/-- VEXTR: s[SB] ← an element of VA, extended; the mask does not apply (R398). -/
def execVextr (g : Guard) (sb va lane : Nat) (ty : VType) (s : State) : Out :=
  s.guarded g fun s =>
    if ty.count ≤ lane then s.illegal else (s.setS sb (w64 (wrap 64 (vInt ty (elem (s.rv va) (vWidth ty) lane))))).retire
/-- VINS: one element of VD ← the low bits of s[SB], under the mask of its lane; no other element is written (R398, R300). -/
def execVins (g : Guard) (vd sb lane : Nat) (ty : VType) (s : State) : Out :=
  s.guarded g fun s =>
    if ty.count ≤ lane then s.illegal
    else
      let w := vWidth ty
      let d := s.rv vd
      let x := (s.rs sb).toNat % 2 ^ w
      (s.setVMask vd (s.top &&& BitVec.ofNat 128 (2 ^ laneOf w lane)) (buildV w fun k => if k = lane then x else elem d w k)).retire

/-! ### Conversions (R390, R391, R312) -/

/-- A generator after n steps. -/
def rngSteps : Nat → W32 → W32
  | 0, x => x
  | n + 1, x => rngSteps n (rngStep x).1
/-- The generators after every lane has stepped n times (R312). -/
def rngAll (n : Nat) (t : Tab W32) : Tab W32 :=
  (List.range 128).foldl (fun t i => Tab.put 0 t i (rngSteps n (Tab.get 0 t i))) t
/-- VCVT: element k of VD is the conversion of element k mod N of VA; under RSR every lane steps once for each of its elements, in
ascending order, whatever the mask (R390, R391). -/
def execVcvt (g : Guard) (vd va : Nat) (dst src : VType) (rnd : Rnd) (sat : Bool) (s : State) : Out :=
  s.guarded g fun s =>
    let wd := vWidth dst
    let ws := vWidth src
    let a := s.rv va
    let n := 32 / wd
    let u (k : Nat) : Nat :=
      if rnd = .rsr then (rngStep (rngSteps (k % n) (Tab.get 0 s.ctx.rng (laneOf wd k)))).2 else 0
    let t := s.setV vd (buildV wd fun k => vCvtE dst src rnd sat (u k) (elem a ws (k % (4096 / ws))))
    (if rnd = .rsr then t.modCtx fun x => { x with rng := rngAll n x.rng } else t).retire

/-! ### Exponentials, logarithms and reciprocals (R392, R393) -/

/-- VEXP2: EXP2 of each element (R392). -/
def execVexp2 (g : Guard) (vd va : Nat) (s : State) : Out := s.guarded g fun s => (s.vMap1 vd va 32 exp2).retire
/-- VLOG2: LOG2 of each element (R392). -/
def execVlog2 (g : Guard) (vd va : Nat) (s : State) : Out := s.guarded g fun s => (s.vMap1 vd va 32 log2).retire
/-- VRCP: the correctly rounded reciprocal (R393). -/
def execVrcp (g : Guard) (vd va : Nat) (ty : VType) (rnd : Rnd) (s : State) : Out :=
  s.guarded g fun s => (s.vMap1 vd va (vWidth ty) fun a => (fmtOf ty).round rnd false (vVal ty a).rcp).retire
/-- VRSQ: the correctly rounded reciprocal square root (R393). -/
def execVrsq (g : Guard) (vd va : Nat) (ty : VType) (rnd : Rnd) (s : State) : Out :=
  s.guarded g fun s => (s.vMap1 vd va (vWidth ty) fun a => (fmtOf ty).round rnd false (vVal ty a).rsq).retire

/-! ### Reductions, scans and histograms (R394 to R396) -/

/-- The sum of elements: exact, then narrowed or rounded once (R394). -/
def vSum (ty : VType) (rnd : Rnd) (sat : Bool) (l : List Nat) : Nat :=
  if vIsFloat ty then (fmtOf ty).round rnd false (fvSum (l.map (vVal ty)))
  else vNarrow ty sat ((l.map (vInt ty)).foldl (· + ·) 0)
/-- VREDADD (R394). -/
def execVredadd (g : Guard) (vd va : Nat) (ty : VType) (rnd : Rnd) (sat : Bool) (s : State) : Out :=
  s.guarded g fun s => (s.vReduce vd va (vWidth ty) (vSum ty rnd sat)).retire
/-- VREDMAX: the largest element, with the rules of R385 (R394). -/
def execVredmax (g : Guard) (vd va : Nat) (ty : VType) (s : State) : Out :=
  s.guarded g fun s => (s.vReduce vd va (vWidth ty) fun l => vMaxE ty (foldOne (vMaxE ty) l) (l.headD 0)).retire
/-- VREDMIN: the smallest element (R394). -/
def execVredmin (g : Guard) (vd va : Nat) (ty : VType) (s : State) : Out :=
  s.guarded g fun s => (s.vReduce vd va (vWidth ty) fun l => vMinE ty (foldOne (vMinE ty) l) (l.headD 0)).retire
/-- VLSE2: LSE2 of the elements read (R394, R323). -/
def execVlse2 (g : Guard) (vd va : Nat) (s : State) : Out := s.guarded g fun s => (s.vReduce vd va 32 lse2).retire
/-- VAMAX: the largest magnitude; canonical NaN with a NaN, +∞ with an infinity (R394). -/
def execVamax (g : Guard) (vd va : Nat) (ty : VType) (s : State) : Out :=
  s.guarded g fun s =>
    (s.vReduce vd va (vWidth ty) fun l => let xs := l.map (vAbsE ty false); vMaxE ty (foldOne (vMaxE ty) xs) (xs.headD 0)).retire
/-- The exclusive prefix sums of the enabled elements, as exact integers in element order; disabled elements add nothing (R395). -/
def vPrefix (ty : VType) (m : BitVec 128) (a : Vec) : List Int :=
  let w := vWidth ty
  ((List.range (4096 / w)).foldl (fun (r : List Int × Int) k =>
    (r.2 :: r.1, if maskBit m (laneOf w k) then r.2 + vInt ty (elem a w k) else r.2)) ([], 0)).1.reverse
/-- VSCAN: the exclusive prefix sum (R395). -/
def execVscan (g : Guard) (vd va : Nat) (ty : VType) (sat : Bool) (s : State) : Out :=
  s.guarded g fun s =>
    let p := vPrefix ty s.top (s.rv va)
    (s.setV vd (buildV (vWidth ty) fun k => vNarrow ty sat (p.getD k 0))).retire
/-- VHIST: adds to each 32-bit bin b of VD the number of enabled elements equal to b (R396). -/
def execVhist (g : Guard) (vd va : Nat) (ty : VType) (s : State) : Out :=
  s.guarded g fun s =>
    let xs := enabledElems s.top (vWidth ty) (s.rv va)
    let d := s.rv vd
    (s.setV vd (buildV 32 fun b => elem d 32 b + (xs.filter (· == b)).length)).retire

/-! ### Block integers and block scales (R402 to R404) -/

/-- VBEXP: the block exponent of the enabled lanes, as an INT32 (R402). -/
def execVbexp (g : Guard) (vd va : Nat) (s : State) : Out :=
  s.guarded g fun s => (s.vReduce vd va 32 fun l => wrap 32 (blockExp l)).retire
/-- VTOBI: the mantissa of VA[i] for the exponent in lane i of VB (R403). -/
def execVtobi (g : Guard) (vd va vb : Nat) (s : State) : Out :=
  s.guarded g fun s => (s.vMap2 vd va vb 32 fun a e => wrap 32 (toBlock a (sgn 32 e))).retire
/-- VFROMBI: the FP32 of a mantissa and exponent (R403). -/
def execVfrombi (g : Guard) (vd va vb : Nat) (rnd : Rnd) (sat : Bool) (s : State) : Out :=
  s.guarded g fun s => (s.vMap2 vd va vb 32 fun a e => fromBlock (sgn 32 a) (sgn 32 e) rnd sat).retire
/-- The quotient |x| / L, exact but for a sticky bit below the bits that any rounding reads, L being m × 2^e with m below 8 (R404). -/
def scaleOf (ty : VType) (x : Nat) (rnd : Rnd) : Nat :=
  match (f32 x).abs with
  | .fin _ m e =>
    if m = 0 then 0x3F800000
    else
      let l : Nat := if ty = .e4m3 then 448 else 57344
      let q := m * 2 ^ 60 / l
      fmtF32.round rnd false (.fin false (2 * q + (m * 2 ^ 60 % l != 0).toNat) (e - 61))
  | _ => 0x7FC00000
/-- VSCALE: the block scale |x| / L; 1.0 for a zero, the canonical NaN for a NaN or an infinity (R404). -/
def execVscale (g : Guard) (vd va : Nat) (ty : VType) (rnd : Rnd) (s : State) : Out :=
  s.guarded g fun s => (s.vMap1 vd va 32 fun x => scaleOf ty x rnd).retire

/-! ### Scratchpad access (R399 to R401) -/

/-- The runs of bytes that the enabled lanes touch, lane i at its offset: whole aligned units where two neighbours make one (R399). -/
def laneRuns (m : BitVec 128) (a : Nat) : List (Nat × Nat × Nat) :=
  if m = BitVec.allOnes 128 then [(a, 0, 512)]
  else (List.range 64).flatMap fun j =>
    match maskBit m (2 * j), maskBit m (2 * j + 1) with
    | true, true => [(a + 8 * j, 8 * j, 8)]
    | true, false => [(a + 8 * j, 8 * j, 4)]
    | false, true => [(a + 8 * j + 4, 8 * j + 4, 4)]
    | false, false => []
/-- The runs of a gather or scatter: 4 bytes for each enabled lane, lanes in order (R400). -/
def gatherRuns (m : BitVec 128) (offs : List Nat) : List (Nat × Nat × Nat) :=
  ((List.range 128).filter fun i => maskBit m i).map fun i => (offs.getD i 0, 4 * i, 4)
/-- Stores runs of a vector register into the own scratchpad, in order, or into a peer's (R399, R400, R212). -/
def State.storeRuns (s : State) (p : Nat) (v : Vec) (runs : List (Nat × Nat × Nat)) : State :=
  let bs := vecBytes v
  runs.foldl (fun s r =>
    let x := (bs.drop r.2.1).take r.2.2
    if s.ctx.ptrOwn p then s.writeB (spadKey s.core r.1) x else s.peerStore p r.1 x) s
/-- Scans runs of a scratchpad for poison. -/
def State.scanRuns (s : State) (core : Nat) (runs : List (Nat × Nat × Nat)) : State × Option Nat :=
  runs.foldl (fun r x => let y := r.1.scan (spadKey core x.1) x.2.2 s.myAsid; (y.1, r.2.or y.2)) (s, none)
/-- A vector load of runs: the own scratchpad is read as the bundle issues, a peer's when the data returns; what a read finds in its words takes
effect, poison included, which fails the load (R399 to R401, R213, R298, R299; log 75). -/
def State.loadRuns (s : State) (vd p lo len : Nat) (off : Int) (offs : List Nat) (runs : List (Nat × Nat × Nat)) : State :=
  let acc := { spadAcc s.nextId 0 0 (s.ptrCore p) lo len with va := ptrAt p off }
  if s.ctx.ptrOwn p then
    let r := s.scanRuns s.core runs
    match r.2 with
    | some _ => r.1.newId.1.failPend acc (.gather vd s.top offs) 0x0F (w64 (ptrAt p off))
    | none => r.1.setV vd (bytesVec (gatherBytes r.1 s.core s.top offs))
  else s.newId.1.addPend { acc := acc, ret := .gather vd s.top offs, sent := false, fail := none }

/-- VLD: 512 bytes of scratchpad into the enabled lanes (R399). -/
def execVld (g : Guard) (vd sb : Nat) (imm : BitVec 12) (s : State) : Out :=
  s.guarded g fun s =>
    let p := ptrOf (s.rs sb)
    let off : Int := (ptrOff p : Int) + sx12 imm
    s.spadAccess p off 512 64 (fun s => s.setV vd 0) fun s =>
      (s.loadRuns vd p off.toNat 512 off ((List.range 128).map fun i => off.toNat + 4 * i) (laneRuns s.top off.toNat)).retire
/-- VST: the enabled lanes into 512 bytes of scratchpad (R399). -/
def execVst (g : Guard) (vd sb : Nat) (imm : BitVec 12) (s : State) : Out :=
  s.guarded g fun s =>
    let p := ptrOf (s.rs sb)
    let off : Int := (ptrOff p : Int) + sx12 imm
    s.spadAccess p off 512 64 (fun s => s) fun s => (s.storeRuns p (s.rv vd) (laneRuns s.top off.toNat)).retire
/-- The checks of a gather or scatter (R400), and what it does in range with its lanes' offsets. An out-of-range one records its
pointer with OFFSET replaced by a (log 24). -/
def State.gatherAccess (s : State) (va sb : Nat) (imm : BitVec 12) (out : State → State)
    (ok : State → Nat → Int → List Nat → State) : State :=
  let p := ptrOf (s.rs sb)
  let a : Int := (ptrOff p : Int) + sx12 imm
  let v := s.rv va
  let offs : List Int := (List.range 128).map fun i => a + (elem v 32 i % 2 ^ 22 : Nat)
  let on := (List.range 128).filter fun i => maskBit s.top i
  if ptrBad p then s.raise 0x03 (w64 p)
  else if on.any fun i => offs.getD i 0 % 4 != 0 then s.raiseFree 0x05
  else if !s.ctx.rankOk p || on.any fun i => !inSpad (offs.getD i 0) 4 then (out (s.oob (ptrAt p a))).retire
  else ok s p a (offs.map Int.toNat)
/-- VLDX: gathers one 32-bit element for each enabled lane (R400). -/
def execVldx (g : Guard) (vd va sb : Nat) (imm : BitVec 12) (s : State) : Out :=
  s.guarded g fun s =>
    s.gatherAccess va sb imm (fun s => s.setV vd 0) fun s p a offs =>
      let on := (gatherRuns s.top offs).map (·.1)
      let lo := on.foldl min 4194304
      (s.loadRuns vd p lo (on.foldl max 0 + 4 - lo) a offs (gatherRuns s.top offs)).retire
/-- VSTX: scatters one 32-bit element for each enabled lane; the higher lane's value stands (R400). -/
def execVstx (g : Guard) (vd va sb : Nat) (imm : BitVec 12) (s : State) : Out :=
  s.guarded g fun s =>
    s.gatherAccess va sb imm (fun s => s) fun s p _ offs => (s.storeRuns p (s.rv vd) (gatherRuns s.top offs)).retire

/-! ### The pair format (R333) -/

/-- The result of the scalar part of a pair; none for NOP (R333). -/
def pairS (o : SOp) (a b : W64) : Option W64 :=
  match o with
  | .nop => none
  | .add => some (aluAdd a b)
  | .sub => some (aluSub a b)
  | .mul => some (aluMul a b)
  | .and => some (aluAnd a b)
  | .or => some (aluOr a b)
  | .xor => some (aluXor a b)
  | .shl => some (aluShl a b)
  | .shr => some (aluShr a b)
  | .sar => some (aluSar a b)
  | .min => some (aluMin a b)
  | .max => some (aluMax a b)
  | .minu => some (aluMinu a b)
  | .maxu => some (aluMaxu a b)
/-- The vector part of a pair (R333). -/
def State.pairV (s : State) (o : VOp) (vd va vb : Nat) : State :=
  match o with
  | .nop => s
  | .addF => s.vMap2 vd va vb 32 (vAddE .f32 .rne false)
  | .subF => s.vMap2 vd va vb 32 (vSubE .f32 .rne false)
  | .mulF => s.vMap2 vd va vb 32 (vMulE .f32 .rne false)
  | .maxF => s.vMap2 vd va vb 32 (vMaxE .f32)
  | .minF => s.vMap2 vd va vb 32 (vMinE .f32)
  | .addI => s.vMap2 vd va vb 32 (vAddE .i32 .rne false)
  | .subI => s.vMap2 vd va vb 32 (vSubE .i32 .rne false)
  | .mulI => s.vMap2 vd va vb 32 (vMulE .i32 .rne false)
  | .and => s.setV vd (s.rv va &&& s.rv vb)
  | .or => s.setV vd (s.rv va ||| s.rv vb)
  | .xor => s.setV vd (s.rv va ^^^ s.rv vb)
  | .mov => s.setV vd (s.rv va)
  | .fmaF => s.vMap3 vd va vb vd 32 (vFmaE .f32 .rne false)
  | .maxI => s.vMap2 vd va vb 32 (vMaxE .i32)
  | .minI => s.vMap2 vd va vb 32 (vMinE .i32)
/-- PAIR: a scalar part and a vector part in one bundle, both under its guard (R333, R331). -/
def execPair (g : Guard) (sop : SOp) (sd sa sb : Nat) (vop : VOp) (vd va vb : Nat) (s : State) : Out :=
  s.guarded g fun s =>
    let t := s.pairV vop vd va vb
    (match pairS sop (s.rs sa) (s.rs sb) with
     | none => t
     | some r => t.setS sd r).retire

end Sys2Proof.Machine
end

