-- ==== Sys2Proof/Machine/Queue.lean ====
section
/-!
DEFINITION. Engine queues and dependence tokens (R211, R214, R215, R217): enqueueing a command, taking and giving tokens, and giving back a
command that has faulted (R213).
-/
namespace Sys2Proof.Machine

/-! ### Tokens (R214, R215) -/

/-- The tokens of a channel. -/
def Ctx.channel (x : Ctx) (ch : Nat) : List (List Nat) := Tab.get [] x.toks ch
/-- The context with the tokens of a channel replaced. -/
def Ctx.setChannel (x : Ctx) (ch : Nat) (l : List (List Nat)) : Ctx := { x with toks := Tab.put [] x.toks ch l }
/-- The channel from the previous member to an engine: L, M, S are 1, 2, 3 (R214). -/
def chanFromPrev (e : Nat) : Nat := if e = 1 then 0 else if e = 2 then 1 else 2
/-- The channel from the next member to an engine. -/
def chanFromNext (e : Nat) : Nat := if e = 1 then 5 else if e = 2 then 6 else 7
/-- The channel from an engine to the previous member. -/
def chanToPrev (e : Nat) : Nat := if e = 1 then 4 else if e = 2 then 5 else 6
/-- The channel from an engine to the next member. -/
def chanToNext (e : Nat) : Nat := if e = 1 then 1 else if e = 2 then 2 else 3
/-- An engine of a core. -/
def Core.engine (c : Core) (e : Nat) : Engine := if e = 1 then c.el else if e = 2 then c.em else c.es
/-- The core with an engine replaced. -/
def Core.setEngine (c : Core) (e : Nat) (x : Engine) : Core :=
  if e = 1 then { c with el := x } else if e = 2 then { c with em := x } else { c with es := x }
/-- The core with an engine changed. -/
def Core.modEngine (c : Core) (e : Nat) (f : Engine → Engine) : Core := c.setEngine e (f (c.engine e))

/-- Engine e signals the channels it still has to, as far as their counters are below 15 (R215). -/
def Core.giveSigs (e : Nat) : Nat → Core → Core
  | 0, c => c
  | n + 1, c =>
    match (c.engine e).sigs with
    | [] => c
    | (ch, js) :: rest =>
      if (c.act.channel ch).length < 15 then
        Core.giveSigs e n { (c.modEngine e fun x => { x with sigs := rest }) with
          act := c.act.setChannel ch (c.act.channel ch ++ [js]) }
      else c
/-- Every engine signals what it can. -/
def Core.flushSigs (c : Core) : Core := Core.giveSigs 3 8 (Core.giveSigs 2 8 (Core.giveSigs 1 8 c))
/-- The signals of a completed command: SP before SN (R215). -/
def Core.signal (c : Core) (e : Nat) (k : ECtl) (js : List Nat) : Core :=
  (c.modEngine e fun x => { x with sigs := x.sigs ++ (if k.sp then [(chanToPrev e, js)] else []) ++
    (if k.sn then [(chanToNext e, js)] else []) }).flushSigs
/-- The channels that a command waits on (R215). -/
def waitChannels (e : Nat) (k : ECtl) : List Nat :=
  (if k.wp then [chanFromPrev e] else []) ++ (if k.wn then [chanFromNext e] else [])
/-- The channels from which a command still has to take a token: those that it waits on, but for tokens that it has kept. -/
def Kept.needs (k : Kept) (chs : List Nat) : List Nat := chs.filter fun ch => !k.toks.any (·.1 == ch)
/-- Whether channels hold a token each. -/
def Core.tokensReady (c : Core) (chs : List Nat) : Bool := chs.all fun ch => !(c.act.channel ch).isEmpty
/-- The first token of a channel is taken, and engines that were held by the channel signal (R215). -/
def Core.takeToken (c : Core) (ch : Nat) : Core × List Nat :=
  ({ c with act := c.act.setChannel ch (c.act.channel ch).tail }.flushSigs, (c.act.channel ch).headD [])
/-- The tokens of several channels are taken. -/
def Core.takeTokens (c : Core) (chs : List Nat) : Core × List (Nat × List Nat) :=
  chs.foldl (fun r ch => let t := r.1.takeToken ch; (t.1, r.2 ++ [(ch, t.2)])) (c, [])

/-! ### Engine control of a command -/

/-- The token bits, repeat count and step of an engine command (R344, R346). -/
def ectlOf (i : Instr) : ECtl :=
  match i with
  | .ldw _ _ _ e _ | .wswap _ e _ | .mm _ _ _ _ e _ | .mgroup _ _ _ _ _ e _ | .accz _ _ e _ | .accld _ _ _ e _
  | .accwr _ _ _ _ e _ | .plnset _ _ _ e _ | .plnld _ _ _ e _ | .margset _ _ _ e _ | .balance _ _ e _ | .plnrd _ _ _ e _
  | .plnscl _ _ _ e _ | .cpin _ _ _ _ _ e | .cpinScl _ _ _ e | .cqfill _ _ _ e | .cpgath _ _ _ _ _ e | .cpfill _ _ _ _ _ e
  | .cploc _ _ _ _ _ e | .cpout _ _ _ _ _ e | .cppeer _ _ _ _ _ e | .cpmc _ _ _ _ _ e | .cpscat _ _ _ _ _ e
  | .cpmem _ _ _ _ _ e => e
  | _ => ⟨false, false, false, false, 0, 0⟩
/-- The TS bit of a class 0x6 command (R222). -/
def tsOf (i : Instr) : Bool :=
  match i with
  | .ldw _ _ _ _ t | .wswap _ _ t | .mm _ _ _ _ _ t | .mgroup _ _ _ _ _ _ t | .accz _ _ _ t | .accld _ _ _ _ t
  | .accwr _ _ _ _ _ t | .plnset _ _ _ _ t | .plnld _ _ _ _ t | .margset _ _ _ _ t | .balance _ _ _ t | .plnrd _ _ _ _ t
  | .plnscl _ _ _ _ t => t
  | _ => false
/-- The command that an engine takes next: the first in its queue with an iteration that has not begun. A command stands in the queue until its last
iteration is done (R211, R217). -/
def Engine.next (x : Engine) : Option Cmd := x.q.find? fun c => decide (c.begun ≤ (ectlOf c.op).rep)
/-- The queue with an entry changed. -/
def modCmd (q : List Cmd) (id : Nat) (f : Cmd → Cmd) : List Cmd := q.map fun c => if c.id = id then f c else c
/-- The queue after an iteration of a command is done: the entry leaves with its last one (R217). -/
def leaveQueue (q : List Cmd) (it : Iter) : List Cmd :=
  if it.idx = (ectlOf it.cmd.op).rep then q.filter fun c => c.id != it.cmd.id else q
/-- The name of an iteration, which is one command for all order (R217, R281). -/
def Iter.name (it : Iter) : Nat := it.cmd.id * 256 + it.idx
/-- The bytes that iteration i adds to each stepped address (R217). -/
def stepBytes (op : Instr) (i : Nat) : Int := sx12 (ectlOf op).step * 64 * i

/-! ### Enqueueing (R211, R213, R331) -/

/-- A command enters queue e with its register values; a full queue stalls the sequencer, which tries again (R211). -/
def State.enqueue (s : State) (e : Nat) (op : Instr) (a b c d : W64) (nullified : Bool) (also : State → State) : State :=
  if 64 ≤ (s.cur.engine e).q.length then s
  else
    let n := s.newId
    let cmd : Cmd := { id := n.2, pc := s.ctx.pc, op := op, a := a, b := b, c := c, d := d, begun := 0, nullified := nullified }
    (also (n.1.modCur fun x => x.modEngine e fun y => { y with q := y.q ++ [cmd] })).retire
/-- An engine command under its guard: one whose guard fails is enqueued nullified (R331). -/
def State.engineCmd (s : State) (g : Guard) (e : Nat) (op : Instr) (ok : State → State) : Out :=
  .next (if s.holds g then ok s else s.enqueue e op 0 0 0 0 true fun s => s)

/-! ### Giving back (R213) -/

/-- What a command keeps of an iteration given back: the tokens of channels that hold 15 again, and the words and scales for which their queues have no
room (R214, R223, R224). -/
def Core.keptOf (c : Core) (it : Iter) : Kept :=
  { toks := it.took.filter fun t => decide (15 ≤ (c.act.channel t.1).length),
    words := if 64 < it.words.length + c.fmt.length then it.words else [],
    scales := if 512 < it.scales.length + c.fifo.length then it.scales else [] }
/-- The begun iteration of a command stands unexecuted in its queue again, with its tokens, words and scales given back; what finds no room any more
stays with the command (R213, R214, R223, R224; log 74). -/
def Core.giveBack (c : Core) (e : Nat) (it : Iter) : Core :=
  let k := c.keptOf it
  let words := if k.words.isEmpty then it.words else []
  let scales := if k.scales.isEmpty then it.scales else []
  let act := (it.took.filter fun t => !k.toks.contains t).foldl (fun y t => y.setChannel t.1 (t.2 :: y.channel t.1)) c.act
  { (c.modEngine e fun x => { x with q := modCmd x.q it.cmd.id fun y => { y with begun := it.idx, kept := k } }) with
    act := act, fmt := words ++ c.fmt, fmtBound := c.fmtBound + words.length, fifo := scales ++ c.fifo,
    behind := c.behind.filter fun b => b.1 != it.name }
/-- A fault of an engine command at its bundle (R213): reported when the strand runs, and only the first; the address is a free value where
the spec names none (log 5). -/
def State.engineFault (s : State) (e : Nat) (cmd : Cmd) (cause : Nat) (addr : Option W64) : State :=
  if s.cur.run ≠ .running then s
  else
    match addr with
    | some a => s.raiseAt cause a cmd.pc e
    | none => { s.raiseAt cause (Config.freeFaultAddr s.fresh) cmd.pc e with fresh := s.fresh + 1 }

end Sys2Proof.Machine
end

