-- ==== Sys2Proof/Machine/Barrier.lean ====
section
/-!
DEFINITION. Barrier objects (R226 to R232), the held-access log of an absent team (R181), and delivery of bytes and counts to a rank
of a team wherever the team stands.
-/
namespace Sys2Proof.Machine

/-! ### The object (R226) -/

/-- A barrier object. Its reserved bits, 31 and 127:120, are kept as they stand. -/
structure Obj where
  gen : Nat
  expect : Nat
  pend : Nat
  err : Bool
  ovr : Bool
  armed : Bool
  rsv : Nat
  inb : Int
  outb : Int
  next : Int
  deriving DecidableEq, Repr

/-- The object that 16 bytes hold (R226). -/
def objOf (n : Nat) : Obj :=
  { gen := nfld n 3 0, expect := nfld n 15 4, pend := nfld n 27 16, err := nfld n 28 28 == 1, ovr := nfld n 29 29 == 1,
    armed := nfld n 30 30 == 1, rsv := nfld n 31 31 + 2 * nfld n 127 120, inb := sgn 32 (nfld n 63 32),
    outb := sgn 32 (nfld n 95 64), next := sgn 24 (nfld n 119 96) }
/-- The 16 bytes of an object as a number (R226). -/
def Obj.num (o : Obj) : Nat :=
  o.gen % 16 + o.expect % 4096 * 2 ^ 4 + o.pend % 4096 * 2 ^ 16 + o.err.toNat * 2 ^ 28 + o.ovr.toNat * 2 ^ 29 +
  o.armed.toNat * 2 ^ 30 + o.rsv % 2 * 2 ^ 31 + wrap 32 o.inb * 2 ^ 32 + wrap 32 o.outb * 2 ^ 64 + wrap 24 o.next * 2 ^ 96 +
  o.rsv / 2 % 256 * 2 ^ 120
/-- ARMED = 1 and no reserved bit set. -/
def Obj.ok (o : Obj) : Bool := o.armed && o.rsv == 0
/-- The object that BINIT writes (R226, R439). -/
def Obj.fresh (expect gen : Nat) : Obj := ⟨gen, expect, expect, false, false, true, 0, 0, 0, 0⟩

/-- A count applied to an object: bytes with a stamp, an arrival with a stamp, or BEXPECT (R227, R440). -/
inductive Cnt where
  | bytes (stamp n : Nat)
  | arrive (stamp : Nat)
  | expect (n : Int)
  deriving DecidableEq, Repr
/-- What becomes of a count: applied or held, an overrun, or not accepted (R227, R228). -/
inductive Verdict where
  | ok | overrun | full
  deriving DecidableEq, Repr

/-- The range of a 32-bit signed value (R227). -/
def fits32 (x : Int) : Bool := decide (-2147483648 ≤ x) && decide (x ≤ 2147483647)
/-- The range of a 24-bit signed value (R227). -/
def fits24 (x : Int) : Bool := decide (-8388608 ≤ x) && decide (x ≤ 8388607)
/-- The flip of an object whose phase is complete, with the arrivals held for it applied and their entry freed (R229). -/
def Obj.flip (o : Obj) (held : Nat) : Obj × Nat :=
  if o.pend = 0 ∧ o.inb = 0 then
    ({ o with gen := (o.gen + 1) % 16, pend := o.expect - held, inb := o.next, next := 0 }, 0)
  else (o, held)
/-- A count against an object, with the arrivals held for it (0 for no entry) and whether the buffer has a free entry (R227, R228). -/
def Obj.count (o : Obj) (held : Nat) (free : Bool) (c : Cnt) : Verdict × Obj × Nat :=
  let bad : Verdict × Obj × Nat := (.overrun, { o with ovr := true, err := true }, held)
  let done (x : Obj) (h : Nat) : Verdict × Obj × Nat := (.ok, x.flip h)
  match c with
  | .expect n => if o.ok && fits32 (o.inb + n) then done { o with inb := o.inb + n } held else bad
  | .bytes st n =>
    if !o.ok then bad
    else if st = o.gen then (if fits32 (o.inb - n) then done { o with inb := o.inb - n } held else bad)
    else if st = (o.gen + 1) % 16 then (if fits24 (o.next - n) then done { o with next := o.next - n } held else bad)
    else bad
  | .arrive st =>
    if !o.ok then bad
    else if st = o.gen then (if o.pend = 0 then bad else done { o with pend := o.pend - 1 } held)
    else if st = (o.gen + 1) % 16 then
      if o.expect < held + 1 then bad
      else if held = 0 ∧ !free then (.full, o, held)
      else done o (held + 1)
    else bad

/-! ### Objects in a running strand's scratchpad -/

/-- The arrivals that a context holds for an object (R227). -/
def Ctx.heldFor (x : Ctx) (off : Nat) : Nat := ((x.early.find? fun e => e.1 == off).map (·.2)).getD 0
/-- The context with the arrivals held for an object replaced; none frees the entry (R227). -/
def Ctx.setHeld (x : Ctx) (off n : Nat) : Ctx :=
  let old := x.early.filter fun e => e.1 != off
  { x with early := if n = 0 then old
                    else if x.heldFor off = 0 then old ++ [(off, n)]
                    else x.early.map fun e => if e.1 = off then (off, n) else e }
/-- The object at an offset of a core's scratchpad. -/
def State.obj (s : State) (core off : Nat) : Obj := objOf (s.readN (spadKey core off) 16)
/-- The state with an object written (R226: one update). -/
def State.setObj (s : State) (core off : Nat) (o : Obj) : State := s.writeN (spadKey core off) 16 o.num
/-- Bits of byte 3 of an object are set: 0x10 is ERR, 0x20 OVERRUN. A poison object stays poison (R226, R300). -/
def State.setObjBits (s : State) (core off bits : Nat) : State :=
  let k := spadKey core off + 3
  s.writeN k 1 (s.readN k 1 ||| bits)
/-- The commands that an object's phases of 8 generations ago counted are forgotten: no BWAIT can return on them any more (R281, R231). -/
def Core.aged (c : Core) (off gen : Nat) : Core :=
  { c with applied := c.applied.filter fun a => !(a.1 == off && a.2.1.any fun st => wrap 4 ((gen : Int) - st) == 8) }
/-- A count applied to the object at an offset of a core's scratchpad. A count aimed at a poison object is an overrun, which sets OVERRUN and ERR
there (R227, R228, R301). -/
def State.countAt (s : State) (core off : Nat) (c : Cnt) : State × Verdict :=
  let r := s.scan (spadKey core off) 16 (s.coreAsid core)
  match r.2 with
  | some _ => (r.1.setObjBits core off 0x30, .overrun)
  | none =>
    let x := (s.getCore core).act
    let v := (r.1.obj core off).count (x.heldFor off) (decide (x.early.length < 16)) c
    (((r.1.setObj core off v.2.1)).modCore core fun k => { k with act := k.act.setHeld off v.2.2 }.aged off v.2.1.gen, v.1)
/-- Bytes written to a core's scratchpad and then counted on an object there: an overrun of the object as it stands discards the bytes. Where the bytes
cover the object itself, they are performed and then the count meets what they have made of it (R108, R227, R228; log 72). -/
def State.putCounted (s : State) (core off : Nat) (bs : List Byte) (bad : List Nat) (obj stamp : Nat) : State × Verdict :=
  let r := s.countAt core obj (.bytes stamp bs.length)
  if r.2 = .ok then (s.copyB (spadKey core off) bs bad).countAt core obj (.bytes stamp bs.length) else r
/-- Bytes of a send are subtracted from OUTBOUND, the object's bytes 8 to 11; a failure sets ERR and ERRADDR. Neither cures a poison object (R230,
R300). R230 makes no check of the object at a response: one with a reserved bit set changes too (log 70). -/
def State.sentAt (s : State) (core off n : Nat) (fail : Option W64) : State :=
  let t := s.writeN (spadKey core off + 8) 4 (wrap 32 ((s.obj core off).outb - n))
  match fail with
  | some va => (t.setObjBits core off 0x10).modCore core fun k => { k with act := { k.act with csr := { k.act.csr with errAddr := va } } }
  | none => t

/-! ### The held-access log (R181) -/

/-- The bytes of the data part that an entry of a held-access log takes, a count-only entry taking none of its own. -/
def LogEntry.dataBytes (e : LogEntry) : Nat :=
  match e with
  | .data _ bs _ _ => 16 + (bs.length + 15) / 16 * 16
  | _ => 0
/-- Whether an entry is count-only. -/
def LogEntry.isCount (e : LogEntry) : Bool :=
  match e with
  | .data .. => false
  | _ => true
/-- The bytes of the data part in use: data entries, and count entries beyond the 4,096 of the count part. -/
def logUsed (l : List LogEntry) : Nat :=
  (l.map LogEntry.dataBytes).sum + 16 * ((l.filter LogEntry.isCount).length - 4096)
/-- Merges a count into an entry for the same object, field and stamp; none where they differ, or where the sum does not fit the 32 bits of an
entry (log 13). -/
def LogEntry.merge (e x : LogEntry) : Option LogEntry :=
  let fits (a b : Nat) : Bool := decide (a + b < 2 ^ 32)
  match e, x with
  | .count o n st, .count o' n' st' => if o = o' ∧ st = st' ∧ fits n n' then some (.count o (n + n') st) else none
  | .arrival o n st, .arrival o' n' st' => if o = o' ∧ st = st' ∧ fits n n' then some (.arrival o (n + n') st) else none
  | .sent o n e a, .sent o' n' e' a' => if o = o' ∧ fits n n' then some (.sent o (n + n') (e || e') (if e' then a' else a)) else none
  | _, _ => none
/-- The log with a count merged into the first entry that takes it, and that entry's index from i on. -/
def logMerge (x : LogEntry) : Nat → List LogEntry → Option (List LogEntry × Nat)
  | _, [] => none
  | i, e :: es =>
    match e.merge x with
    | some y => some (y :: es, i)
    | none => (logMerge x (i + 1) es).map fun r => (e :: r.1, r.2)
/-- The log with an entry added, and the index of the entry that holds it; none where it has no room (R181). -/
def logAdd (l : List LogEntry) (x : LogEntry) : Option (List LogEntry × Nat) :=
  let last := some (l ++ [x], l.length)
  if x.isCount then
    if (l.filter LogEntry.isCount).length < 4096 then last
    else (logMerge x 0 l).or (if logUsed l + 16 ≤ 983040 then last else none)
  else if logUsed l + x.dataBytes ≤ 983040 then last else none

/-! The bytes of a log. A count entry takes 16 bytes: its kind in [2:0] (1 bytes, 2 arrivals, 3 sent, 4 sent with an error), its object in 16 byte
units in [20:3], its stamp in [24:21], its count in [56:25], the failed address in [111:57] and its place in the order of arrival in [127:112]. The
header of a data entry holds 5 in [2:0], whether a count travels with it in [3], the object in [21:4], the stamp in [25:22], the offset in [47:26], the
length in [70:48] and its place in [127:112] (R181, log 13). -/

/-- The first 16 bytes of the entry at a place of a log, as a number. -/
def LogEntry.code (e : LogEntry) (place : Nat) : Nat :=
  place % 2 ^ 16 * 2 ^ 112 +
  match e with
  | .count o n st => 1 + o / 16 * 2 ^ 3 + st * 2 ^ 21 + n * 2 ^ 25
  | .arrival o n st => 2 + o / 16 * 2 ^ 3 + st * 2 ^ 21 + n * 2 ^ 25
  | .sent o n er a => (if er then 4 else 3) + o / 16 * 2 ^ 3 + n * 2 ^ 25 + a.toNat % 2 ^ 55 * 2 ^ 57
  | .data off bs _ c =>
    5 + (match c with | some (o, st) => 8 + o / 16 * 2 ^ 4 + st * 2 ^ 22 | none => 0) + off * 2 ^ 26 + bs.length * 2 ^ 48
/-- The key of a rank's block in the save area of a team (R182). -/
def Team.block (t : Team) (r : Nat) : Nat := t.areaAt + 0x10000 + r * 0x590000
/-- The key of a rank's log pointers in the team header: the count entries, and the bytes of the data part in use (R182, log 13). -/
def Team.logPtr (t : Team) (r : Nat) : Nat := t.areaAt + 0x400 + 16 * r
/-- Where entry i of a log stands in the log's megabyte (R181). -/
def logPos (l : List LogEntry) (i : Nat) : Nat :=
  let before := l.take i
  let n := (before.filter LogEntry.isCount).length
  if (l.getD i (.count 0 0 0)).isCount ∧ n < 4096 then 16 * n else 0x10000 + logUsed before
/-- The bytes of entry i of a rank's log, and the log's pointers, are written to the save area (R181, R182). -/
def State.putLog (s : State) (t : Team) (rank : Nat) (l : List LogEntry) (i : Nat) : State :=
  let k := t.block rank + 0x490000 + logPos l i
  let e := l.getD i (.count 0 0 0)
  let u := s.writeB k (toLE 16 (e.code i))
  let v := match e with
    | .data _ bs bad _ => u.copyB (k + 16) bs bad
    | _ => u
  v.writeB (t.logPtr rank) (toLE 8 (min (l.filter LogEntry.isCount).length 4096) ++ toLE 8 (logUsed l))
/-- Logs an entry for a rank of an absent team; none where the log has no room. -/
def State.logFor (s : State) (team rank : Nat) (x : LogEntry) : Option State :=
  match s.team team with
  | none => none
  | some t =>
    (logAdd (t.logs.getD rank []) x).map fun r =>
      (s.putLog t rank r.1 r.2).modTeam team fun t => { t with logs := t.logs.set rank r.1 }

/-! ### Ranks of teams (R174, R178, R181) -/

/-- Where a rank of a team stands: on a core, absent, or nowhere. -/
inductive Place where
  | here (core : Nat)
  | away
  | gone
  deriving DecidableEq, Repr
/-- Where a rank stands (R174, R178, R181). -/
def State.place (s : State) (team rank : Nat) : Place :=
  match s.team team with
  | none => .gone
  | some t => if t.n ≤ rank then .gone else if t.absent then .away else .here (t.cores.getD rank 0)

/-- Bytes for a rank's scratchpad with the count that travels with them, as (object, stamp): written and then counted, or logged; an
overrun discards the data (R181, R227, R228). Nothing comes back where the rank is gone. -/
def State.deliver (s : State) (team rank off : Nat) (bs : List Byte) (bad : List Nat) (cnt : Option (Nat × Nat)) :
    Option (State × Verdict) :=
  match s.place team rank with
  | .gone => none
  | .away =>
    some (match s.logFor team rank (.data off bs bad cnt) with
      | some t => (t, .ok)
      | none => (s, .full))
  | .here c =>
    some (match cnt with
      | none => (s.copyB (spadKey c off) bs bad, .ok)
      | some (o, st) => s.putCounted c off bs bad o st)
/-- A byte count for the object of a rank (R227, R181). -/
def State.countFor (s : State) (team rank off stamp n : Nat) : Option (State × Verdict) :=
  match s.place team rank with
  | .gone => none
  | .away => some (match s.logFor team rank (.count off n stamp) with | some t => (t, .ok) | none => (s, .full))
  | .here c => some (s.countAt c off (.bytes stamp n))
/-- Whether a byte count for the object of a rank would be taken: an absent team takes it into its log (R181). -/
def State.countOk (s : State) (team rank off stamp n : Nat) : Bool :=
  match s.countFor team rank off stamp n with
  | some r => r.2 == .ok
  | none => false

/-! ### Handles (R62, R232, R427) -/

/-- TEAMID of a barrier handle. -/
def handTeam (h : W64) : Nat := fld h 63 32
/-- The rank of a barrier handle. -/
def handRank (h : W64) : Nat := fld h 29 22
/-- The offset of a barrier handle. -/
def handOff (h : W64) : Nat := fld h 21 0
/-- Whether a handle meets the conditions of R427 for a partition: a running or saved team of it, a rank below the team size, and a
16-byte aligned offset inside the scratchpad. -/
def State.handOk (s : State) (part : Nat) (h : W64) : Bool :=
  match s.team (handTeam h) with
  | none => false
  | some t => t.part == part && decide (handRank h < t.n) && fld h 31 30 == 0 && handOff h % 16 == 0

end Sys2Proof.Machine
end

