-- ==== Sys2Proof/Machine/Matrix.lean ====
section
/-!
DEFINITION. Matrix and plan instructions (chapter 17): binding format words and scales at issue, the effect of one iteration of each
class 0x6 command, and the instructions that enqueue them.
-/
namespace Sys2Proof.Machine

/-! ### Binding (R223, R224, R410) -/

/-- CLS of a format word. -/
def fwCls (w : W32) : Nat := nfld w.toNat 31 28
/-- Whether a format word keeps R409. LIMIT and TOLEXP are not checked here. -/
def fwOk (w : W32) : Bool :=
  let n := w.toNat
  let ty (c : Nat) : Bool := c == 1 || c == 2 || c == 3
  match fwCls w with
  | 1 => ty (nfld n 27 24) && ty (nfld n 23 20) && nfld n 19 0 == 0
  | 2 => nfld n 24 0 == 0
  | 3 => nfld n 11 0 == 0
  | _ => false
/-- FMTPUSH: appends a format word; stalls with 64 words held of which any is bound, FORMAT_UNDERFLOW when none is (R408, R223). -/
def execFmtpush (g : Guard) (sa : Nat) (s : State) : Out :=
  s.guarded g fun s =>
    let w : W32 := (s.rs sa).truncate 32
    if !fwOk w then s.illegal
    else if 64 ≤ s.cur.fmt.length then (if 0 < s.cur.fmtBound then s else s.raiseFree 0x0A)
    else (s.modCur fun c => { c with fmt := c.fmt ++ [w] }).retire
/-- The words and scales that a command binds at issue, with whether it is a plan command (R410). -/
def bindCount (op : Instr) (c : W64) : Nat × Nat × Bool :=
  let n := (ectlOf op).rep + 1
  match op with
  | .mm .. => (n, 33 * n, false)
  | .mgroup .. => (c.toNat, if c = 0 then 0 else 32 + c.toNat, false)
  | .plnset .. | .margset .. | .balance .. | .plnscl .. => (1, 0, true)
  | .plnld .. | .plnrd .. => (n, 0, true)
  | _ => (0, 0, false)
/-- Whether no promised scale may remain unbound after a command: TS = 1, and ACCWR (R224). -/
def closesScales (op : Instr) : Bool :=
  tsOf op || match op with
    | .accwr .. => true
    | _ => false
/-- A class 0x6 command at issue: words first, then scales, then the queue (R223, R224, R410, R414). -/
def State.issueM (s : State) (g : Guard) (op : Instr) (a b c : W64) : Out :=
  s.engineCmd g 2 op fun s =>
    let k := bindCount op c
    let words := (s.cur.fmt.drop s.cur.fmtBound).take k.1
    let cls (w : W32) : Bool := if k.2.2 then fwCls w == 3 else fwCls w == 1 || fwCls w == 2
    if words.length < k.1 ∨ words.any (fun w => !cls w) then s.raiseFree 0x0A
    else if s.cur.unbound < k.2.1 ∨ (closesScales op ∧ k.2.1 < s.cur.unbound) then s.raiseFree 0x0B
    else s.enqueue 2 op a b c 0 false fun s =>
      s.modCur fun x => { x with fmtBound := x.fmtBound + k.1, unbound := x.unbound - k.2.1 }

/-! ### Instructions of class 0x6 (R345, R405, R411 to R424) -/

/-- LDW (R411). -/
def execLdw (g : Guard) (sa : Nat) (bed : Bool) (e : ECtl) (ts : Bool) (s : State) : Out :=
  s.issueM g (.ldw g sa bed e ts) (s.rs sa) 0 0
/-- WSWAP (R412). -/
def execWswap (g : Guard) (e : ECtl) (ts : Bool) (s : State) : Out := s.issueM g (.wswap g e ts) 0 0 0
/-- MM (R413). -/
def execMm (g : Guard) (td sa : Nat) (clr : Bool) (e : ECtl) (ts : Bool) (s : State) : Out :=
  s.issueM g (.mm g td sa clr e ts) (s.rs sa) 0 0
/-- MGROUP (R414). -/
def execMgroup (g : Guard) (td sa sb sc : Nat) (e : ECtl) (ts : Bool) (s : State) : Out :=
  s.issueM g (.mgroup g td sa sb sc e ts) (s.rs sa) (s.rs sb) (s.rs sc)
/-- ACCZ (R415). -/
def execAccz (g : Guard) (td : Nat) (e : ECtl) (ts : Bool) (s : State) : Out := s.issueM g (.accz g td e ts) 0 0 0
/-- ACCLD (R415). -/
def execAccld (g : Guard) (td sa : Nat) (e : ECtl) (ts : Bool) (s : State) : Out :=
  s.issueM g (.accld g td sa e ts) (s.rs sa) 0 0
/-- ACCWR (R415). -/
def execAccwr (g : Guard) (td sa sb : Nat) (e : ECtl) (ts : Bool) (s : State) : Out :=
  s.issueM g (.accwr g td sa sb e ts) (s.rs sa) (s.rs sb) 0
/-- PLNSET (R419). -/
def execPlnset (g : Guard) (td sa : Nat) (e : ECtl) (ts : Bool) (s : State) : Out :=
  s.issueM g (.plnset g td sa e ts) (s.rs sa) 0 0
/-- PLNLD (R420). -/
def execPlnld (g : Guard) (td sa : Nat) (e : ECtl) (ts : Bool) (s : State) : Out :=
  s.issueM g (.plnld g td sa e ts) (s.rs sa) 0 0
/-- MARGSET (R421). -/
def execMargset (g : Guard) (sa sb : Nat) (e : ECtl) (ts : Bool) (s : State) : Out :=
  s.issueM g (.margset g sa sb e ts) (s.rs sa) (s.rs sb) 0
/-- BALANCE (R422). -/
def execBalance (g : Guard) (sa : Nat) (e : ECtl) (ts : Bool) (s : State) : Out :=
  s.issueM g (.balance g sa e ts) (s.rs sa) 0 0
/-- PLNRD (R423). -/
def execPlnrd (g : Guard) (td sa : Nat) (e : ECtl) (ts : Bool) (s : State) : Out :=
  s.issueM g (.plnrd g td sa e ts) (s.rs sa) 0 0
/-- PLNSCL (R424). -/
def execPlnscl (g : Guard) (sa sb : Nat) (e : ECtl) (ts : Bool) (s : State) : Out :=
  s.issueM g (.plnscl g sa sb e ts) (s.rs sa) (s.rs sb) 0

/-! ### Operands of an iteration (R405, R247, R301) -/

/-- The outcome of an iteration of M: done, an operand that an error has spoilt, with the poison
word's address where there is one (R302, R301), a fault with its address if the spec names one, or
an access held on a STALE extent (R260). -/
inductive MRes where
  | ok (s : State)
  | spoilt (s : State) (addr : Option W64)
  | fault (cause : Nat) (addr : Option W64)
  | held
  deriving Repr
/-- The outcome of an iteration that leaves no effect on the matrix data where poison is met: that it began with is given (R302, R213). -/
def MRes.undo (r : MRes) (m : Mat) : MRes :=
  match r with
  | .spoilt s a => .spoilt (s.modCur fun c => { c with mat := m }) a
  | r => r
/-- The checks of a scratchpad operand after stepping, alignment al; FAULTADDR holds the pointer, stepped where the alignment fails (R405, R213). -/
def State.mPtr (s : State) (w : W64) (o : Int) (al : Nat) (k : MRes) : MRes :=
  if !s.ctx.ptrOwn (ptrOf w) then .fault 0x03 (some (w64 (ptrOf w)))
  else if ((ptrOff (ptrOf w) : Int) + o) % (al : Int) ≠ 0 then .fault 0x05 (some (w64 (ptrAt (ptrOf w) ((ptrOff (ptrOf w) : Int) + o))))
  else k
/-- n bytes of memory read by an engine at address a, with the address of the first poison word (R301, R306). -/
def State.take (s : State) (k n : Nat) (a : Int) : State × List Byte × Option W64 :=
  let r := s.scan k n s.myAsid a.toNat
  (r.1, r.1.readB k n, r.2.map fun x => w64 (wrap 64 (a + (x : Int) - (k : Int))))
/-- Whether a stepped scratchpad operand of n bytes is in range (R247). -/
def mIn (w : W64) (o : Int) (n : Nat) : Bool := inSpad ((ptrOff (ptrOf w) : Int) + o) n
/-- n bytes at a stepped scratchpad operand; zeros when it is out of range (R247, R405). -/
def State.takeSpad (s : State) (w : W64) (o : Int) (n : Nat) : State × List Byte × Option W64 :=
  let off := (ptrOff (ptrOf w) : Int) + o
  if inSpad off n then s.take (spadKey s.core off.toNat) n off else (s.oob (ptrAt (ptrOf w) off), zeros n, none)
/-- Writes bytes at a stepped scratchpad operand; nothing when it is out of range (R247, R405). -/
def State.putSpad (s : State) (w : W64) (o : Int) (bs : List Byte) : State :=
  let off := (ptrOff (ptrOf w) : Int) + o
  if inSpad off bs.length then s.writeB (spadKey s.core off.toNat) bs else s.oob (ptrAt (ptrOf w) off)
/-- n bytes of the die's resident bedrock copy at a virtual address, every byte through an extent with BEDROCK = 1 (R411, R268). -/
def State.takeBed (s : State) (va : W64) (n : Nat) (k : State → List Byte → Option W64 → MRes) : MRes :=
  if va.toNat % 64 ≠ 0 then .fault 0x05 (some va)
  else
    match s.xlate .read va.toNat n with
    | .fault c a => .fault c (some (w64 a))
    | .held => .held
    | .ok ps =>
      match ps.find? fun p => !p.bed with
      | some p => .fault 0x03 (some (w64 p.va))
      | none =>
        let r := ps.foldl (fun (x : State × List Byte × Option W64) p =>
          let y := x.1.take p.key p.len p.va; (y.1, x.2.1 ++ y.2.1, x.2.2.or y.2.2)) (s, [], none)
        k r.1 r.2.1 r.2.2
/-- The source of a plane: scratchpad, or the bedrock (R411, R414). -/
def State.takePlane (s : State) (bed : Bool) (w : W64) (o : Int) (n : Nat) (k : State → List Byte → Option W64 → MRes) : MRes :=
  if bed then s.takeBed (addOff w o) n k
  else s.mPtr w o 64 (let r := s.takeSpad w o n; k r.1 r.2.1 r.2.2)

/-! ### Planes and tiles (R221, R222, R411) -/

/-- The state with the matrix data of the running core changed. -/
def State.modMat (s : State) (f : Mat → Mat) : State := s.modCur fun c => { c with mat := f c.mat }
/-- A plane with bytes stored from its piece k on. -/
def putPieces (t : Tab Vec) (k : Nat) (bs : List Byte) : Tab Vec :=
  (List.range (bs.length / 512)).foldl (fun t i => Tab.put 0 t (k + i) (bytesVec ((bs.drop (512 * i)).take 512))) t
/-- Element (k, j) of a plane of 8- or 16-bit elements (R411). -/
def planeElem (t : Tab Vec) (w k j : Nat) : Nat :=
  let e := 128 * k + j
  elem (Tab.get 0 t (e / (4096 / w))) w (e % (4096 / w))
/-- A row of a tile. -/
def Mat.row (m : Mat) (t r : Nat) : Vec := Tab.get 0 m.tiles (32 * t + r)
/-- The matrix data with a row of a tile replaced. -/
def Mat.setRow (m : Mat) (t r : Nat) (v : Vec) : Mat := { m with tiles := Tab.put 0 m.tiles (32 * t + r) v }
/-- The matrix data with the 32 rows of a tile replaced, and the tile sound. -/
def Mat.setTile (m : Mat) (t : Nat) (f : Nat → Vec) : Mat :=
  let x := (List.range 32).foldl (fun m r => m.setRow t r (f r)) m
  { x with badTiles := x.badTiles.filter (· != t) }
/-- Whether a tile lies in the configured plan group (R225). -/
def Mat.planTile (m : Mat) (t : Nat) : Bool :=
  match m.plan with
  | some p => p.group == t / 4
  | none => false

/-! ### The arithmetic of a block (R316, R318) -/

/-- The floating type of an AT or WT code (R409). -/
def fwType (c : Nat) : VType := if c = 1 then .bf16 else if c = 2 then .e4m3 else .e5m2
/-- The activation type of a floating word. -/
def fwAt (f : W32) : VType := fwType (nfld f.toNat 27 24)
/-- The weight type of a floating word. -/
def fwWt (f : W32) : VType := fwType (nfld f.toNat 23 20)
/-- Bytes of an activation element under a format word. -/
def atBytes (f : W32) : Nat := if fwCls f = 1 ∧ fwAt f = .bf16 then 2 else 1
/-- Bytes of a weight element under a format word. -/
def wtBytes (f : W32) : Nat := if fwCls f = 1 ∧ fwWt f = .bf16 then 2 else 1
/-- The block product of an activation row and column j: the exact sum, rounded once (R316). -/
def blockP (f : W32) (row : Nat) (plane : Tab Vec) (j : Nat) : Nat :=
  let wa := vWidth (fwAt f)
  let ww := vWidth (fwWt f)
  rne32 (fvSum ((List.range 128).map fun k =>
    (vVal (fwAt f) (row / 2 ^ (wa * k) % 2 ^ wa)).mul (vVal (fwWt f) (planeElem plane ww k j))))
/-- The exact integer sum of an activation row and column j (R318). -/
def blockS (f : W32) (row : Nat) (plane : Tab Vec) (j : Nat) : Int :=
  let v (sg : Bool) (n : Nat) : Int := if sg then sgn 8 n else (n : Int)
  ((List.range 128).map fun k =>
    v (nfld f.toNat 27 27 == 1) (row / 2 ^ (8 * k) % 2 ^ 8) * v (nfld f.toNat 26 26 == 1) (planeElem plane 8 k j)).foldl (· + ·) 0
/-- One row of a block added to a tile row, under a word, a row scale and a plane scale (R413, R316, R318). -/
def blockRow (f : W32) (row : Nat) (plane : Tab Vec) (sa sw : W32) (old : Vec) : Vec :=
  if fwCls f = 1 then
    let sc := rne32 ((f32 sa.toNat).mul (f32 sw.toNat))
    buildV 32 fun j =>
      rne32 ((f32 (elem old 32 j)).add (f32 (rne32 ((f32 (blockP f row plane j)).mul (f32 sc)))))
  else
    buildV 32 fun j =>
      let x := sgn 32 (elem old 32 j) + blockS f row plane j
      wrap 32 (if nfld f.toNat 25 25 = 1 then sat32 x else x)
/-- A row of n bytes at an offset of a list of bytes, as a number. -/
def rowAt (bs : List Byte) (o n : Nat) : Nat := ofLE ((bs.drop o).take n)
/-- A scale of a bound list. -/
def scaleAt (l : List (W32 × Option W64)) (i : Nat) : W32 := (l.getD i (0, none)).1
/-- The address of the first poison word among bound scales (R301). -/
def scalesBad (l : List (W32 × Option W64)) : Option W64 := l.findSome? (·.2)
/-- The first bound word; a plan word of zeros where there is none. -/
def wordAt (l : List W32) (i : Nat) : W32 := l.getD i 0

/-! ### One iteration of each command (R411 to R417) -/

/-- LDW: 16 KiB into half i mod 2 of the shadow plane, which an error in the other half still spoils (R411, R302). -/
def State.runLdw (s : State) (bed : Bool) (w : W64) (o : Int) (i : Nat) : MRes :=
  s.takePlane bed w o 16384 fun s bs bad =>
    if bad.isSome then .spoilt s bad
    else .ok (s.modMat fun m =>
      { m with planeS := putPieces m.planeS (32 * (i % 2)) bs, badS := m.badS.filter (· != i % 2) })
/-- Whether an error stands in the halves of a plane that a format word's weights take (R302, R221). -/
def planeBad (bad : List Nat) (f : W32) : Bool := bad.any fun h => decide (h < wtBytes f)
/-- The poison scales of an iteration are consumed: each is logged (R301). -/
def State.usedScales (s : State) (sc : List (W32 × Option W64)) : State := (sc.filterMap (·.2)).foldl State.logPoison s
/-- WSWAP exchanges the planes (R412). -/
def State.runWswap (s : State) : MRes :=
  .ok (s.modMat fun m => { m with planeA := m.planeS, planeS := m.planeA, badA := m.badS, badS := m.badA })
/-- MM: one activation block against the active plane into tile t; an error in the multiply array spoils it (R413, R302). -/
def State.runMm (s : State) (t : Nat) (w : W64) (o : Int) (clr : Bool) (f : W32) (sc : List (W32 × Option W64)) : MRes :=
  let b := atBytes f
  s.mPtr w o 64
    (if s.cur.mat.planTile t then .fault 0x18 none
     else
      let r := s.takeSpad w o (4096 * b)
      let m := s.cur.mat
      if r.2.2.isSome || (scalesBad sc).isSome || planeBad m.badA f || m.badM || (!clr && m.badTiles.contains t) then
        .spoilt (r.1.usedScales sc) (r.2.2.or (scalesBad sc))
      else .ok (r.1.modMat fun m => m.setTile t fun k =>
        blockRow f (rowAt r.2.1 (128 * b * k) (128 * b)) m.planeA (scaleAt sc k) (scaleAt sc 32) (if clr then 0 else m.row t k)))

/-- An entry of a group table (R414). -/
structure GroupEnt where
  waddr : W64
  rows : Nat
  wsrc : Nat
  rsv : Nat
/-- The entries of a group table of g groups (R414). -/
def groupEnts (bs : List Byte) (g : Nat) : List GroupEnt :=
  (List.range g).map fun i =>
    ⟨w64 (leField bs (16 * i) 8), leField bs (16 * i + 8) 1, leField bs (16 * i + 9) 1, leField bs (16 * i + 10) 6⟩
/-- The index of the first bad entry: reserved bytes, WSRC, ROWS or the running total of ROWS out of range, or a scratchpad pointer with
[63:32] not zero (R414). -/
def badGroup : List GroupEnt → Nat → Nat → Option Nat
  | [], _, _ => none
  | e :: es, i, tot =>
    if e.rsv ≠ 0 ∨ 1 < e.wsrc ∨ 32 < e.rows ∨ 32 < tot + e.rows ∨ (e.wsrc = 0 ∧ 2 ^ 32 ≤ e.waddr.toNat) then some i
    else badGroup es (i + 1) (tot + e.rows)
/-- The groups from entry g on: plane load, exchange, and the rows of the group (R414). row is the next tile row and o the offset of its
activations from s[SA]. -/
def State.runGroups (s : State) (t : Nat) (w : W64) (fs : List W32) (sc : List (W32 × Option W64)) :
    List GroupEnt → Nat → Nat → Nat → MRes
  | [], _, _, _ => .ok s
  | e :: es, g, row, o =>
    if e.rows = 0 then s.runGroups t w fs sc es (g + 1) row o
    else
      let f := wordAt fs g
      let b := atBytes f
      s.takePlane (e.wsrc == 1) e.waddr 0 (16384 * wtBytes f) fun s bs bad =>
        let r := s.takeSpad w o (128 * b * e.rows)
        if bad.isSome || r.2.2.isSome then .spoilt r.1 (bad.or r.2.2)
        else
          let u := r.1.modMat fun m =>
            { m with planeA := putPieces m.planeS 0 bs, planeS := m.planeA, badA := m.badS.filter fun h => decide (wtBytes f ≤ h), badS := m.badA }
          let v := u.modMat fun m => (List.range e.rows).foldl (fun m k =>
            m.setRow t (row + k) (blockRow f (rowAt r.2.1 (128 * b * k) (128 * b)) m.planeA (scaleAt sc (row + k))
              (scaleAt sc (32 + g)) (m.row t (row + k)))) m
          v.runGroups t w fs sc es (g + 1) (row + e.rows) (o + 128 * b * e.rows)
/-- The faults of the plane sources of groups from entry g on, in table order; then k (R411, R414). -/
def State.probeGroups (s : State) (fs : List W32) (k : MRes) : List GroupEnt → Nat → MRes
  | [], _ => k
  | e :: es, g =>
    if e.rows = 0 then s.probeGroups fs k es (g + 1)
    else
      match s.takePlane (e.wsrc == 1) e.waddr 0 (16384 * wtBytes (wordAt fs g)) fun s _ _ => .ok s with
      | .fault c x => .fault c x
      | .held => .held
      | _ => s.probeGroups fs k es (g + 1)
/-- The scratchpad operands of the groups from entry g on, as a pointer and a length: the activation rows, then the planes. n is the length of the
rows so far (R414). -/
def groupSpans (w : W64) (fs : List W32) : List GroupEnt → Nat → Nat → List (W64 × Nat)
  | [], _, n => [(w, n)]
  | e :: es, g, n =>
    let rest := groupSpans w fs es (g + 1) (n + 128 * atBytes (wordAt fs g) * e.rows)
    if e.rows = 0 ∨ e.wsrc = 1 then rest else rest ++ [(e.waddr, 16384 * wtBytes (wordAt fs g))]
/-- MGROUP: the table is checked whole, then the groups run. The iteration is one access: where any scratchpad operand of it is out of range, every
read returns zero, so that no group has rows. The activation rows need no alignment (R414, R405, R247). -/
def State.runMgroup (s : State) (t : Nat) (a b c : W64) (fs : List W32) (sc : List (W32 × Option W64)) : MRes :=
  let g := c.toNat
  s.mPtr a 0 1 (s.mPtr b 0 16
    (let r := if g = 0 then (s, [], none) else s.takeSpad b 0 (16 * g)
     let es := groupEnts r.2.1 g
     let rows := es.any fun e => e.rows != 0
     if r.2.2.isSome then .spoilt r.1 r.2.2
     else
      match badGroup es 0 0 with
      | some i => .fault 0x01 (some (w64 (ptrAt (ptrOf b) ((ptrOff (ptrOf b) : Int) + 16 * i))))
      | none =>
        if s.cur.mat.planTile t then .fault 0x18 none
        else r.1.probeGroups fs
          (if (scalesBad sc).isSome || (rows && (s.cur.mat.badM || s.cur.mat.badTiles.contains t)) then .spoilt (r.1.usedScales sc) (scalesBad sc)
           else
            match (groupSpans a fs es 0 0).find? fun x => x.2 != 0 && !mIn x.1 0 x.2 with
            | some x => .ok (r.1.oob (ptrOf x.1))
            | none => (r.1.runGroups t a fs sc es 0 0 0).undo s.cur.mat) es 0))
/-- ACCZ: a tile of zeros (R415). -/
def State.runAccz (s : State) (t : Nat) : MRes :=
  if s.cur.mat.planTile t then .fault 0x18 none else .ok (s.modMat fun m => m.setTile t fun _ => 0)
/-- ACCLD: 16 KiB into a tile, as raw bits (R415). -/
def State.runAccld (s : State) (t : Nat) (w : W64) (o : Int) : MRes :=
  s.mPtr w o 64
    (if s.cur.mat.planTile t then .fault 0x18 none
     else
      let r := s.takeSpad w o 16384
      if r.2.2.isSome then .spoilt r.1 r.2.2
      else .ok (r.1.modMat fun m => m.setTile t fun k => bytesVec ((r.2.1.drop (512 * k)).take 512)))

/-- The output type of an OTYPE code (R416); none for a code that no row accepts. -/
def otypeOf (n : Nat) : Option VType :=
  match n with
  | 0 => some .f32 | 1 => some .bf16 | 2 => some .e4m3 | 3 => some .e5m2 | 4 => some .i8 | 5 => some .ui8 | 7 => some .i32
  | _ => none
/-- The rounding mode of an RND code. -/
def rndOf (n : Nat) : Rnd := if n = 1 then .rtz else if n = 2 then .rsr else .rne
/-- Whether a descriptor keeps R416. own says whether a pointer keeps R405. -/
def descOk (d : List Byte) (own : Nat → Bool) : Bool :=
  let ot := leField d 0 1
  let mode := leField d 1 1
  let rows := leField d 2 1
  let stride := leField d 4 4
  let mult := leField d 8 4
  let zpt := leField d 12 4
  let rnd := mode % 4
  let sat := mode / 4 % 2
  let rq := mode / 8 % 2
  mode / 16 == 0 && leField d 16 48 == 0 && decide (1 ≤ rows) && decide (rows ≤ 32) && decide (leField d 3 1 ≤ 63) &&
  stride % 64 == 0 && decide (64 ≤ stride) && decide (stride ≤ 65536) &&
  (if rq = 1 then (ot == 4 || ot == 5) && rnd == 0 && sat == 0 && own mult && own zpt
   else mult == 0 && zpt == 0 &&
    (((ot == 0 || ot == 7) && rnd == 0 && sat == 0) || ((ot == 1 || ot == 2 || ot == 3) && decide (rnd ≤ 2))))
/-- ACCWR: drains rows of a tile under a descriptor, which the iteration read at its start (desc; none there before it has begun). The rows, and the
multipliers and zero points, are one access: where one is out of range nothing is written. drew are the generator states that the iteration drew from
when it ran before (R415 to R417, R405, R247, R312, R302). -/
def State.runAccwr (s : State) (t : Nat) (w : W64) (o : Int) (dw : W64) (desc : List Byte) (drew : Option (Tab W32)) : MRes :=
  s.mPtr dw 0 64 (s.mPtr w o 64
    (if s.cur.mat.planTile t then .fault 0x18 none
     else
      let d := if desc.isEmpty then s.takeSpad dw 0 64 else (s, desc, none)
      let s := d.1
      let own (n : Nat) : Bool := s.ctx.ptrOwn n && ptrOff n % 64 == 0
      if d.2.2.isSome then .spoilt s d.2.2
      else if !descOk d.2.1 own then .fault 0x01 (some (w64 (ptrOf dw)))
      else
        let ty := (otypeOf (leField d.2.1 0 1)).getD .f32
        let mode := leField d.2.1 1 1
        let rows := leField d.2.1 2 1
        let sh := leField d.2.1 3 1
        let stride := leField d.2.1 4 4
        let rnd := rndOf (mode % 4)
        let sat := mode / 4 % 2 == 1
        let rq := mode / 8 % 2 == 1
        let mp := w64 (leField d.2.1 8 4)
        let zq := w64 (leField d.2.1 12 4)
        let wd := vWidth ty
        let drawn (u : State) : State :=
          if rnd = .rsr ∧ drew.isNone then u.modCtx fun x => { x with rng := rngAll rows x.rng } else u
        if s.cur.mat.badTiles.contains t then .spoilt s none
        else if !(List.range rows).all fun r => mIn w (o + (r * stride : Nat)) (16 * wd) then
          .ok (drawn (s.oob (ptrAt (ptrOf w) ((ptrOff (ptrOf w) : Int) + o))))
        else if rq ∧ !mIn mp 0 512 then .ok (s.oob (ptrOf mp))
        else if rq ∧ !mIn zq 0 512 then .ok (s.oob (ptrOf zq))
        else
          let mu := if rq then s.takeSpad mp 0 512 else (s, [], none)
          let zp := if rq then mu.1.takeSpad zq 0 512 else (mu.1, [], none)
          let s := zp.1
          let m := s.cur.mat
          let rng := drew.getD s.ctx.rng
          let out (r j : Nat) : Nat :=
            let x := elem (m.row t r) 32 j
            if rq then wrap 8 (requant (sgn 32 x) (sgn 32 (rowAt mu.2.1 (4 * j) 4)) sh (sgn 32 (rowAt zp.2.1 (4 * j) 4)) (ty == .i8))
            else if ty = .f32 ∨ ty = .i32 then x
            else (fmtOf ty).roundU rnd sat (if rnd = .rsr then (rngStep (rngSteps r (Tab.get 0 rng j))).2 else 0) (f32 x)
          if mu.2.2.isSome || zp.2.2.isSome then .spoilt s (mu.2.2.or zp.2.2)
          else .ok (drawn ((List.range rows).foldl (fun s r =>
            s.putSpad w (o + (r * stride : Nat)) (toLE (16 * wd) (joinElems wd (out r) 128))) s))))

/-! ### Plan commands (R418 to R424) -/

/-- Negative infinity, FP32. -/
def negInf32 : Nat := 0xFF800000
/-- ADD3 (R422). -/
def add3 (a b c : Nat) : Nat :=
  if a = negInf32 ∨ b = negInf32 ∨ c = negInf32 then negInf32 else rne32 ((f32 (rne32 ((f32 a).add (f32 b)))).add (f32 c))
/-- A value of a vector of 128 FP32. -/
def pv (t : Tab W32) (i : Nat) : Nat := (Tab.get 0 t i).toNat
/-- A vector of 128 FP32 from a function. -/
def pvOf (f : Nat → Nat) : Tab W32 := (List.range 128).foldl (fun t i => Tab.put 0 t i (BitVec.ofNat 32 (f i))) []
/-- Kernel element K[i][j] of a plan (R225). -/
def Mat.kern (m : Mat) (p : Plan) (i j : Nat) : Nat := elem (m.row (4 * p.group + i / 32) (i % 32)) 32 j
/-- PE(i, j) (R422). -/
def Mat.pe (m : Mat) (p : Plan) (i j : Nat) : Nat := exp2 (add3 (m.kern p i j) (pv p.u i) (pv p.v j))
/-- Whether an FP32 is a zero. -/
def isZero32 (n : Nat) : Bool := n % 2 ^ 31 == 0
/-- A scale from a marginal and the LSE2 of a row or column (R422). -/
def scaleFrom (marg : Nat) (l : Nat) : Nat :=
  if isZero32 marg then negInf32
  else if l = negInf32 then negInf32
  else rne32 ((f32 (log2 marg)).add (f32 l).neg)
/-- One sweep of BALANCE: the row scales, then the column scales, and the residual (R422). -/
def Mat.sweep (m : Mat) (p : Plan) : Plan × Nat :=
  let q := { p with u := pvOf fun i => scaleFrom (pv p.r i) (lse2 ((List.range 128).map fun j => add3 (m.kern p i j) 0 (pv p.v j))) }
  let q := { q with v := pvOf fun j => scaleFrom (pv p.c j) (lse2 ((List.range 128).map fun i => add3 (m.kern p i j) (pv q.u i) 0)) }
  let res (i : Nat) : Nat :=
    let sum := rne32 (fvSum ((List.range 128).map fun j => f32 (m.pe q i j)))
    rne32 (((f32 sum).add (f32 (pv q.r i)).neg)).abs
  (q, (List.range 128).foldl (fun x i => vMaxE .f32 x (res i)) 0)
/-- Sweeps until the residual is at most tol or the limit is reached (R422). n sweeps are done. -/
def Mat.sweeps (m : Mat) (tol : Nat) : Nat → Nat → Plan → Plan
  | 0, _, p => p
  | left + 1, n, p =>
    let r := m.sweep p
    let q := { r.1 with sweeps := BitVec.ofNat 32 (n + 1), residual := BitVec.ofNat 32 r.2 }
    if left = 0 ∨ (!(f32 tol).lt (f32 r.2) && !(f32 r.2).isNan) = true then q else m.sweeps tol left (n + 1) q
/-- The configuration under which a plan command other than PLNSET runs: one must stand, and only BALANCE uses LIMIT and TOLEXP
(R418). -/
def State.withPlan (s : State) (f : W32) (k : Plan → MRes) : MRes :=
  match s.cur.mat.plan with
  | none => .fault 0x18 none
  | some p => if nfld f.toNat 27 12 ≠ 0 then .fault 0x18 none else k p
/-- The tile of a plan group that iteration i of a command naming td uses, with its first kernel row (R418). -/
def planTileOf (td i : Nat) : Nat := td / 4 * 4 + (td % 4 + i) % 4
/-- PLNSET: sets or drops the configuration (R419). -/
def State.runPlnset (s : State) (td : Nat) (a : W64) (f : W32) : MRes :=
  if nfld f.toNat 27 12 ≠ 0 then .fault 0x18 none
  else if a = 0 ∧ td % 4 = 0 then
    .ok (s.modMat fun m => { m with plan := some ⟨td / 4, [], [], [], [], 0, 0⟩ })
  else if a = 1 ∧ td % 4 = 0 ∧ s.cur.mat.planTile td then .ok (s.modMat fun m => { m with plan := none })
  else .fault 0x18 none
/-- Whether PLNLD takes an element: -∞, or finite of magnitude at most 2^30 (R420). -/
def kernOk (n : Nat) : Bool := n == negInf32 || decide (n % 2 ^ 31 ≤ 0x4E800000)
/-- PLNLD: 32 kernel rows (R420). -/
def State.runPlnld (s : State) (td i : Nat) (w : W64) (o : Int) (f : W32) : MRes :=
  s.withPlan f fun p =>
    if p.group ≠ td / 4 then .fault 0x18 none
    else s.mPtr w o 64
      (let r := s.takeSpad w o 16384
       if r.2.2.isSome then .spoilt r.1 r.2.2
       else
        match (List.range 4096).find? fun k => !kernOk (rowAt r.2.1 (4 * k) 4) with
        | some k => .fault 0x18 (some (w64 (ptrAt (ptrOf w) ((ptrOff (ptrOf w) : Int) + o + (4 * k : Nat)))))
        | none => .ok (r.1.modMat fun m => m.setTile (planTileOf td i) fun k => bytesVec ((r.2.1.drop (512 * k)).take 512)))
/-- Whether MARGSET takes a value: finite and at least zero (R421). -/
def margOk (n : Nat) : Bool := n == 0x80000000 || decide (n ≤ 0x7F7FFFFF)
/-- MARGSET: the row and column marginals; the two sources are one access for R247, so that with either out of range every value reads as zero and no
word is looked at (R421, R405). -/
def State.runMargset (s : State) (a b : W64) (f : W32) : MRes :=
  s.withPlan f fun p => s.mPtr a 0 64 (s.mPtr b 0 64
    (let both := mIn a 0 512 && mIn b 0 512
     let ra := if both then s.takeSpad a 0 512 else (s.oob (ptrOf (if mIn a 0 512 then b else a)), zeros 512, none)
     let rb := if both then ra.1.takeSpad b 0 512 else (ra.1, zeros 512, none)
     let x (l : List Byte) (i : Nat) : Nat := rowAt l (4 * i) 4
     if ra.2.2.isSome || rb.2.2.isSome then .spoilt rb.1 (ra.2.2.or rb.2.2)
     else if (List.range 128).any fun i => !margOk (x ra.2.1 i) || !margOk (x rb.2.1 i) then .fault 0x18 none
     else .ok (rb.1.modMat fun m => { m with plan := some { p with r := pvOf (x ra.2.1), c := pvOf (x rb.2.1) } })))
/-- Whether a tile of a plan's group is spoilt. -/
def Mat.groupBad (m : Mat) (p : Plan) : Bool := m.badTiles.any fun t => t / 4 == p.group
/-- BALANCE: Sinkhorn sweeps (R422). -/
def State.runBalance (s : State) (a : W64) (f : W32) : MRes :=
  let lim := nfld f.toNat 27 20
  let te := nfld f.toNat 19 12
  match s.cur.mat.plan with
  | none => .fault 0x18 none
  | some p =>
    if 1 < a.toNat ∨ lim = 0 ∨ (150 ≤ te ∧ te ≤ 254) then .fault 0x18 none
    else if s.cur.mat.groupBad p then .spoilt s none
    else
      let tol := if te = 255 then 0 else rne32 (.fin false 1 (-(te : Int)))
      let u (i : Nat) : Nat := if isZero32 (pv p.r i) then negInf32 else if a = 0 then 0 else pv p.u i
      let v (j : Nat) : Nat := if isZero32 (pv p.c j) then negInf32 else if a = 0 then 0 else pv p.v j
      .ok (s.modMat fun m => { m with plan := some (m.sweeps tol lim 0 { p with u := pvOf u, v := pvOf v }) })
/-- The element that PLNRD writes: +0 in an excluded row or column, else PE(i, j) (R423, R421). -/
def Mat.planElem (m : Mat) (p : Plan) (i j : Nat) : Nat := if isZero32 (pv p.r i) || isZero32 (pv p.c j) then 0 else m.pe p i j
/-- PLNRD: writes 32 rows of the plan (R423). -/
def State.runPlnrd (s : State) (td i : Nat) (w : W64) (o : Int) (f : W32) : MRes :=
  s.withPlan f fun p =>
    if p.group ≠ td / 4 then .fault 0x18 none
    else s.mPtr w o 64
      (let m := s.cur.mat
       let row := 32 * ((td % 4 + i) % 4)
       if m.badTiles.contains (planTileOf td i) then .spoilt s none
       else .ok (s.putSpad w o ((List.range 32).flatMap fun r => toLE 512 (joinElems 32 (fun j => m.planElem p (row + r) j) 128))))
/-- PLNSCL: writes u, and v with SWEEPS and RESIDUAL; the two destinations are one access for R247 (R424, R405). -/
def State.runPlnscl (s : State) (a b : W64) (f : W32) : MRes :=
  s.withPlan f fun p => s.mPtr a 0 64 (s.mPtr b 0 64
    (let u := toLE 512 (joinElems 32 (pv p.u) 128)
     let v := toLE 512 (joinElems 32 (pv p.v) 128) ++ toLE 4 p.sweeps.toNat ++ toLE 4 p.residual.toNat ++ zeros 56
     if mIn a 0 512 && mIn b 0 576 then .ok ((s.putSpad a 0 u).putSpad b 0 v)
     else .ok (s.oob (ptrOf (if mIn a 0 512 then b else a)))))

/-! ### One iteration (R217, R405) -/

/-- The effect of one iteration of an M command (R405, R411 to R424). -/
def State.runM (s : State) (it : Iter) : MRes :=
  let c := it.cmd
  let o := stepBytes c.op it.idx
  let f := wordAt it.words 0
  if c.nullified then .ok s
  else
    match c.op with
    | .ldw _ _ bed _ _ => s.runLdw bed c.a o it.idx
    | .wswap _ _ _ => s.runWswap
    | .mm _ td _ clr _ _ => s.runMm ((td + it.idx) % 8) c.a o clr f it.scales
    | .mgroup _ td _ _ _ _ _ => s.runMgroup td c.a c.b c.c it.words it.scales
    | .accz _ td e _ => s.runAccz (wrap 3 ((td : Int) + sx12 e.step * it.idx))
    | .accld _ td _ _ _ => s.runAccld ((td + it.idx) % 8) c.a o
    | .accwr _ td _ _ _ _ => s.runAccwr ((td + it.idx) % 8) c.a o c.b it.desc it.drew
    | .plnset _ td _ _ _ => s.runPlnset td c.a f
    | .plnld _ td _ _ _ => s.runPlnld td it.idx c.a o f
    | .margset _ _ _ _ _ => s.runMargset c.a c.b f
    | .balance _ _ _ _ => s.runBalance c.a f
    | .plnrd _ td _ _ _ => s.runPlnrd td it.idx c.a o f
    | .plnscl _ _ _ _ _ => s.runPlnscl c.a c.b f
    | _ => .ok s
/-- The format words that an iteration takes from the queue (R223, R410). -/
def wordsOf (c : Cmd) : Nat :=
  if c.nullified then 0
  else
    match c.op with
    | .mm .. | .plnset .. | .plnld .. | .margset .. | .balance .. | .plnrd .. | .plnscl .. => 1
    | .mgroup .. => c.c.toNat
    | _ => 0
/-- The scales that an iteration consumes (R224, R410). -/
def scalesOf (c : Cmd) : Nat :=
  if c.nullified then 0
  else
    match c.op with
    | .mm .. => 33
    | .mgroup .. => if c.c = 0 then 0 else 32 + c.c.toNat
    | _ => 0
/-- The tiles that an iteration writes (R302). -/
def tilesWritten (it : Iter) : List Nat :=
  if it.cmd.nullified then []
  else
    match it.cmd.op with
    | .mm _ td _ _ _ _ | .accld _ td _ _ _ => [(td + it.idx) % 8]
    | .mgroup _ td _ _ _ _ _ => [td]
    | .accz _ td e _ => [wrap 3 ((td : Int) + sx12 e.step * it.idx)]
    | .plnld _ td _ _ _ => [planTileOf td it.idx]
    | _ => []
/-- Whether an iteration accumulates into its tile (R302). -/
def accumulates (it : Iter) : Bool :=
  !it.cmd.nullified && match it.cmd.op with
    | .mm _ _ _ clr _ _ => !clr
    | .mgroup .. => true
    | _ => false

/-! ### The footprint of an iteration in the scratchpad (R283) -/

/-- Whether a command is an ACCWR that is not nullified. -/
def drains (c : Cmd) : Bool :=
  match c.op with
  | .accwr .. => !c.nullified
  | _ => false
/-- The descriptor of an ACCWR as an iteration reads it at its start; nothing for any other command, or where it is poison, so that it is read again
(R416, R302). -/
def State.readDesc (s : State) (it : Iter) : State × List Byte :=
  if drains it.cmd then
    let d := s.takeSpad it.cmd.b 0 64
    (d.1, if d.2.2.isSome then [] else d.2.1)
  else (s, [])
/-- The scratchpad bytes that an iteration on the plane-load path reads, as offset and length. -/
def ldwReads (it : Iter) : List (Int × Nat) :=
  match it.cmd.op with
  | .ldw _ _ false _ _ => if it.cmd.nullified then [] else [((ptrOff (ptrOf it.cmd.a) : Int) + stepBytes it.cmd.op it.idx, 16384)]
  | _ => []
/-- The scratchpad bytes that an iteration on the multiply array writes, as offset and length. -/
def arrayWrites (it : Iter) : List (Int × Nat) :=
  let c := it.cmd
  let at_ (w : W64) (o : Int) (n : Nat) : Int × Nat := ((ptrOff (ptrOf w) : Int) + o, n)
  if c.nullified then []
  else
    match c.op with
    | .accwr .. => [at_ c.a (stepBytes c.op it.idx) (leField it.desc 2 1 * leField it.desc 4 4)]
    | .plnrd .. => [at_ c.a (stepBytes c.op it.idx) 16384]
    | .plnscl .. => [at_ c.a 0 512, at_ c.b 0 576]
    | _ => []
/-- Whether two lists of spans share a byte. -/
def spansMeet (a b : List (Int × Nat)) : Bool := a.any fun x => b.any fun y => decide (x.1 < y.1 + y.2) && decide (y.1 < x.1 + x.2)
/-- Whether the iteration on a path of M (2 the array, 4 the plane-load path) must leave its last effect to the earlier one on the other path, whose
scratchpad bytes it touches (R283). -/
def Engine.pathWaits (e : Engine) (path : Nat) : Bool :=
  match e.run, e.ldw with
  | some x, some y => spansMeet (arrayWrites x) (ldwReads y) && (if path = 4 then decide (x.name < y.name) else decide (y.name < x.name))
  | _, _ => false

end Sys2Proof.Machine
end

