-- ==== Sys2Proof/Machine/Copy.lean ====
section
/-!
DEFINITION. Copy commands (R425 to R433): the checks at issue, one iteration as it begins and as it completes, the in-package writes it
sends, and the end of a write, acknowledged or failed.
-/
namespace Sys2Proof.Machine

/-! ### Checks at issue (R425, R426) -/

/-- A failing check: its cause, and its address where the spec names one. -/
abbrev Chk := Option (Nat × Option W64)
/-- The first failing check. -/
def firstChk : List Chk → Chk
  | [] => none
  | c :: cs => c.or (firstChk cs)
/-- Raises a failing check at the bundle; ILLEGAL_OP names the bundle (log 25). -/
def State.raiseChk (s : State) (c : Nat × Option W64) : State :=
  match c.2 with
  | some a => s.raise c.1 a
  | none => if c.1 = 0x01 then s.illegal else s.raiseFree c.1
/-- ILLEGAL_OP when a condition holds. -/
def chkIllegal (b : Bool) : Chk := if b then some (0x01, none) else none
/-- ALIGNMENT when a condition holds. -/
def chkAlign (b : Bool) : Chk := if b then some (0x05, none) else none
/-- An own-scratchpad operand (R425). -/
def Ctx.chkOwn (x : Ctx) (w : W64) : Chk := if x.ptrOwn (ptrOf w) then none else some (0x03, some (w64 (ptrOf w)))
/-- A peer operand (R425). -/
def chkPeer (w : W64) : Chk := if ptrBad (ptrOf w) then some (0x03, some (w64 (ptrOf w))) else none
/-- A length of 0 to 4,194,304 bytes (R425). -/
def chkLen (w : W64) : Chk := chkIllegal (decide (4194304 < w.toNat))

/-- DCNT of a barrier operand (R426). -/
def barD (w : W64) : Bool := w.getLsbD 59
/-- OCNT of a barrier operand (R426). -/
def barO (w : W64) : Bool := w.getLsbD 58
/-- DGEN of a barrier operand (R426). -/
def barGen (w : W64) : Nat := fld w 63 60
/-- The offset of the object that a barrier operand names. -/
def barOff (w : W64) : Nat := ptrOff (ptrOf w)
/-- The first four checks of a barrier operand, in the order of R426; noO and noD say that OCNT and DCNT are refused. -/
def State.chkBar (s : State) (w : W64) (noO noD : Bool) : Chk :=
  if !barD w && !barO w then none
  else if fld w 57 32 ≠ 0 then some (0x01, none)
  else if !s.ctx.ptrOwn (ptrOf w) || decide (4194304 < barOff w + 16) then some (0x03, some (w64 (ptrOf w)))
  else if barOff w % 16 ≠ 0 then some (0x05, none)
  else if (barO w && noO) || (barD w && noD) then some (0x01, none)
  else none
/-- The object at an offset of the own scratchpad as a send counts its bytes there: poison, and an object that is not set up, stop the bundle; else
ok with the object (R426, R301). -/
def State.sendObj (s : State) (off : Nat) (ok : State → Obj → State) : State :=
  let r := s.scan (spadKey s.core off) 16 s.myAsid
  match r.2 with
  | some a => r.1.raise 0x0F (w64 (a - spadKey s.core 0))
  | none => let o := r.1.obj s.core off; if o.ok then ok r.1 o else r.1.raiseFree 0x0D

/-- A class 0x7 command at issue: its checks, OUTBOUND of what it will send, and the queue (R425 to R427). -/
def State.issueCopy (s : State) (g : Guard) (e : Nat) (op : Instr) (d a b c : W64) (checks : State → Chk) (total : Nat)
    (also : State → State) : Out :=
  s.engineCmd g e op fun s =>
    match checks s with
    | some f => s.raiseChk f
    | none =>
      if barO c then
        s.sendObj (barOff c) fun s o =>
          if fits32 (o.outb + total) then
            s.enqueue e op a b c d false fun t => also (t.setObj t.core (barOff c) { o with outb := o.outb + total })
          else s.raiseFree 0x0E
      else s.enqueue e op a b c d false also

/-- Iterations of a command (R217). -/
def iters (e : ECtl) : Nat := e.rep + 1
/-- ITAB of a row word (R430). -/
def rowTab (w : W64) : Nat := fld w 63 42
/-- ROWS of a row word. -/
def rowRows (w : W64) : Nat := fld w 41 30
/-- RLEN of a row word. -/
def rowLen (w : W64) : Nat := fld w 16 0
/-- The checks of a row word (R430). -/
def chkRow (w : W64) : Chk :=
  firstChk [chkIllegal (fld w 29 17 != 0 || rowRows w == 0 || rowLen w == 0 || decide (65536 < rowLen w)),
    chkAlign (rowTab w % 4 != 0)]
/-- The nodes of a box: its origin and extents (R70). -/
def State.boxNodes (s : State) (origin ext : Nat) : List Nat :=
  let n := s.torus3
  let o := coords origin
  let e := coords ext
  (List.range (e.1 + 1)).flatMap fun i => (List.range (e.2.1 + 1)).flatMap fun j => (List.range (e.2.2 + 1)).map fun k =>
    (o.1 + i) % n.1 * 1024 + (o.2.1 + j) % n.2.1 * 32 + (o.2.2 + k) % n.2.2
/-- The number of nodes of a box. -/
def boxSize (ext : Nat) : Nat := let e := coords ext; (e.1 + 1) * (e.2.1 + 1) * (e.2.2 + 1)
/-- LEN of a multicast word (R432). -/
def mcLen (w : W64) : Nat := fld w 22 0
/-- MCEXT of a multicast word. -/
def mcExt (w : W64) : Nat := fld w 47 32
/-- The checks of a multicast word (R432). -/
def State.chkMc (s : State) (w : W64) : Chk :=
  let n := s.torus3
  let e := coords (mcExt w)
  chkIllegal (fld w 31 23 != 0 || decide (4194304 < mcLen w) || decide (n.1 ≤ e.1) || decide (n.2.1 ≤ e.2.1) || decide (n.2.2 ≤ e.2.2))

/-- CPIN (R425, R429). -/
def execCpin (g : Guard) (sd sa sl sbr : Nat) (e : ECtl) (s : State) : Out :=
  s.issueCopy g 1 (.cpin g sd sa sl sbr e) (s.rs sd) (s.rs sa) (s.rs sl) (s.rs sbr)
    (fun s => firstChk [chkLen (s.rs sl), s.ctx.chkOwn (s.rs sd), s.chkBar (s.rs sbr) true false]) 0 fun s => s
/-- CPIN.SCL promises its scales at issue (R425, R429, R224). -/
def execCpinScl (g : Guard) (sa sl : Nat) (e : ECtl) (s : State) : Out :=
  s.issueCopy g 1 (.cpinScl g sa sl e) 0 (s.rs sa) (s.rs sl) 0
    (fun s => firstChk [chkLen (s.rs sl), chkIllegal ((s.rs sl).toNat == 0 || (s.rs sl).toNat % 4 != 0)]) 0
    fun t => t.modCur fun x => { x with unbound := x.unbound + iters e * ((s.rs sl).toNat / 4) }
/-- CQFILL (R425, R429). -/
def execCqfill (g : Guard) (sa sl : Nat) (e : ECtl) (s : State) : Out :=
  s.issueCopy g 1 (.cqfill g sa sl e) 0 (s.rs sa) (s.rs sl) 0
    (fun s => firstChk [chkIllegal (s.rs sl == 0 || decide (64 < (s.rs sl).toNat)), s.ctx.chkOwn (s.rs sa),
      chkAlign ((s.rs sa).toNat % 4 != 0)]) 0 fun s => s
/-- CPGATH (R425, R430). -/
def execCpgath (g : Guard) (sd sa sl sbr : Nat) (e : ECtl) (s : State) : Out :=
  s.issueCopy g 1 (.cpgath g sd sa sl sbr e) (s.rs sd) (s.rs sa) (s.rs sl) (s.rs sbr)
    (fun s => firstChk [chkRow (s.rs sl), s.ctx.chkOwn (s.rs sd), s.chkBar (s.rs sbr) true false]) 0 fun s => s
/-- CPFILL (R425, R429). -/
def execCpfill (g : Guard) (sd sa sl sbr : Nat) (e : ECtl) (s : State) : Out :=
  s.issueCopy g 1 (.cpfill g sd sa sl sbr e) (s.rs sd) (s.rs sa) (s.rs sl) (s.rs sbr)
    (fun s => firstChk [chkLen (s.rs sl), s.ctx.chkOwn (s.rs sd), s.chkBar (s.rs sbr) true false]) 0 fun s => s
/-- CPLOC (R425, R429). -/
def execCploc (g : Guard) (sd sa sl sbr : Nat) (e : ECtl) (s : State) : Out :=
  s.issueCopy g 1 (.cploc g sd sa sl sbr e) (s.rs sd) (s.rs sa) (s.rs sl) (s.rs sbr)
    (fun s => firstChk [chkLen (s.rs sl), s.ctx.chkOwn (s.rs sd), chkPeer (s.rs sa), s.chkBar (s.rs sbr) true false]) 0 fun s => s
/-- CPOUT (R425, R431). -/
def execCpout (g : Guard) (sd sa sl sbr : Nat) (e : ECtl) (s : State) : Out :=
  s.issueCopy g 3 (.cpout g sd sa sl sbr e) (s.rs sd) (s.rs sa) (s.rs sl) (s.rs sbr)
    (fun s => firstChk [chkLen (s.rs sl), s.ctx.chkOwn (s.rs sa), s.chkBar (s.rs sbr) false false])
    (iters e * (s.rs sl).toNat) fun s => s
/-- CPPEER (R425, R431). -/
def execCppeer (g : Guard) (sd sa sl sbr : Nat) (e : ECtl) (s : State) : Out :=
  s.issueCopy g 3 (.cppeer g sd sa sl sbr e) (s.rs sd) (s.rs sa) (s.rs sl) (s.rs sbr)
    (fun s => firstChk [chkLen (s.rs sl), chkPeer (s.rs sd), s.ctx.chkOwn (s.rs sa), s.chkBar (s.rs sbr) false false])
    (iters e * (s.rs sl).toNat) fun s => s
/-- CPMC (R425, R432). -/
def execCpmc (g : Guard) (sd sa sl sbr : Nat) (e : ECtl) (s : State) : Out :=
  s.issueCopy g 3 (.cpmc g sd sa sl sbr e) (s.rs sd) (s.rs sa) (s.rs sl) (s.rs sbr)
    (fun s => firstChk [s.chkMc (s.rs sl), s.ctx.chkOwn (s.rs sa), s.chkBar (s.rs sbr) false true])
    (iters e * mcLen (s.rs sl) * boxSize (mcExt (s.rs sl))) fun s => s
/-- CPSCAT (R425, R430). -/
def execCpscat (g : Guard) (sd sa sl sbr : Nat) (e : ECtl) (s : State) : Out :=
  s.issueCopy g 3 (.cpscat g sd sa sl sbr e) (s.rs sd) (s.rs sa) (s.rs sl) (s.rs sbr)
    (fun s => firstChk [chkRow (s.rs sl), s.ctx.chkOwn (s.rs sa), s.chkBar (s.rs sbr) false false])
    (iters e * rowRows (s.rs sl) * rowLen (s.rs sl)) fun s => s
/-- CPMEM (R425, R431). -/
def execCpmem (g : Guard) (sd sa sl sbr : Nat) (e : ECtl) (s : State) : Out :=
  s.issueCopy g 3 (.cpmem g sd sa sl sbr e) (s.rs sd) (s.rs sa) (s.rs sl) (s.rs sbr)
    (fun s => firstChk [chkLen (s.rs sl), s.chkBar (s.rs sbr) false false]) (iters e * (s.rs sl).toNat) fun s => s

/-! ### Runs, poison and writes under way -/

/-- The aligned 64-byte runs of a range (R241): offset from its start and length. -/
def runs64 (k n : Nat) : List (Nat × Nat) :=
  if n = 0 then []
  else (List.range ((k + n - 1) / 64 - k / 64 + 1)).map fun i =>
    let a := max k ((k / 64 + i) * 64)
    (a - k, min (k + n) ((k / 64 + i + 1) * 64) - a)
/-- Offsets of poison bytes that fall into a run. -/
def badIn (bad : List Nat) (o n : Nat) : List Nat := (bad.filter fun x => decide (o ≤ x) && decide (x < o + n)).map (· - o)
/-- A command has applied a count to the object at an offset of its own strand's scratchpad: a byte count of a stamp, or bytes that left OUTBOUND
(R281). -/
def Core.apply (c : Core) (off : Nat) (stamp : Option Nat) (name : Nat) : Core :=
  if name = 0 ∨ c.applied.contains (off, stamp, name) then c else { c with applied := c.applied ++ [(off, stamp, name)] }
/-- An in-package write leaves for its home: it is outstanding until it is performed (R431). -/
def State.launch (s : State) (it : Iter) (acc : Acc) (dest : Option (Nat × Nat × Nat)) (bs : List Byte) (bad : List Nat)
    (cnt : Option (Nat × W64)) : State :=
  let obj := if barO it.cmd.c then some (barOff it.cmd.c) else none
  let f : Flight := { acc := acc, core := s.core, team := s.csr.teamId.toNat, part := s.csr.part.toNat, asid := s.myAsid, dest := dest,
                      bytes := bs, bad := bad, obj := obj, count := cnt, arrive := none }
  let t := s.addOut { acc := acc, obj := obj }
  { t with msys := { t.msys with flights := t.msys.flights ++ [f] } }

/-! ### An iteration as it begins (R428, R430, R427) -/

/-- n bytes of a core's scratchpad at a signed offset for a copy, with the offsets of poison ones; zeros out of range (R247, R300). -/
def State.copySpad (s : State) (core : Nat) (ptr : Nat) (off : Int) (n : Nat) : State × List Byte × List Nat :=
  if n = 0 then (s, [], [])
  else if inSpad off n then
    let k := spadKey core off.toNat
    let t := s.carry k n s.myAsid
    (t.1, t.1.readB k n, t.2)
  else (s.oob (ptrAt ptr off), zeros n, [])
/-- The 32-bit values of a list of bytes that stands at a virtual address; a poison one with the address of its 8-byte word (R301). -/
def words32 (va : Nat) (bs : List Byte) (bad : List Nat) : List (W32 × Option W64) :=
  (List.range (bs.length / 4)).map fun i =>
    (BitVec.ofNat 32 (leField bs (4 * i) 4),
     if bad.any fun x => decide (4 * i ≤ x) && decide (x < 4 * i + 4) then some (w64 ((va + 4 * i) / 8 * 8)) else none)
/-- The outcome of beginning an iteration: begun, a fault, or held on a STALE extent (R428, R260). -/
inductive CRes where
  | ok (s : State) (it : Iter)
  | fault (cause : Nat) (addr : Option W64)
  | held
/-- A translation of a copy; a length of 0 needs none (R428). -/
def State.copyXlate (s : State) (k : AKind) (va : W64) (n : Nat) : TRes := if n = 0 then .ok [] else s.xlate k va.toNat n
/-- The translations of several ranges of n bytes; the first that is not done decides (R428). -/
def State.xlateAll (s : State) (k : AKind) (n : Nat) : List W64 → TRes
  | [] => .ok []
  | va :: vas =>
    match s.copyXlate k va n with
    | .ok ps =>
      match s.xlateAll k n vas with
      | .ok qs => .ok (ps ++ qs)
      | r => r
    | r => r
/-- The packets into which a transfer is split: at most 448 bytes, or 384 sealed, never across a 64 KiB boundary; fuel bounds them
(R84). -/
def splitBy (most : Nat) : Nat → Nat → Nat → List (Nat × Nat)
  | 0, _, _ => []
  | f + 1, va, n =>
    if n = 0 then []
    else
      let k := min (min n most) (65536 - va % 65536)
      (va, k) :: splitBy most f (va + k) (n - k)
/-- The packets of a part of a transfer (R84). -/
def Piece.packets (p : Piece) : List (Nat × Nat) := splitBy (if p.conf then 384 else 448) (p.len / 384 + p.len / 65536 + 3) p.va p.len
/-- Sends the READs of the remote parts of an iteration's sources (R428, R84). -/
def State.sendReads (s : State) (e : Nat) (ps : List Piece) : State × List Nat :=
  ps.foldl (fun r p =>
    if p.node = s.mg.node.toNat then r
    else p.packets.foldl (fun r k =>
      let n := r.1.newId
      (n.1.post (n.1.reqTo n.2 2 (.engine s.core e n.2) s.csr.part.toNat s.myAsid { p with va := k.1, len := k.2 }), r.2 ++ [n.2])) r)
    (s, [])
/-- The entries of an index table: row number and index, skipped rows left out; an entry out of range reads zero (R430, R247). -/
def State.rowEntries (s : State) (tab : Int) (rows : Nat) : State × List (Nat × Nat) :=
  (List.range rows).foldl (fun r i =>
    let o := tab + (4 * i : Nat)
    let k := spadKey s.core o.toNat
    let t := if inSpad o 4 then (r.1.carry k 4 s.myAsid).1 else r.1.oob (wrap 22 o)
    let x := if inSpad o 4 then t.readN k 4 else 0
    (t, if x = 0xFFFFFFFF then r.2 else r.2 ++ [(i, x)])) (s, [])
/-- The destination handle of an iteration whose barrier pointer is p: the 8 bytes at B + 16, zero where they lie outside the scratchpad (R427, R247).
Where the 8 bytes at B + 24 are not zero the handle fails: it is carried with an offset that is no multiple of 16, so that every write of the iteration is
refused where a failing handle is (R427; DEDUCED). -/
def State.handleAt (s : State) (p : Nat) : State × W64 :=
  let b := ptrOff p
  if 4194304 < b + 32 then (s.oob (ptrAt p (b + 16 : Nat)), 0)
  else
    let k := spadKey s.core (b + 16)
    let t := (s.carry k 16 s.myAsid).1
    (t, w64 (t.readN k 8) ||| (if t.readN (k + 8) 8 = 0 then 0 else 1))
/-- The address of row x of a base (R430). -/
def rowAddr (base : W64) (o : Int) (x n : Nat) : W64 := addOff base (o + (x * n : Nat))
/-- The accesses to bytes of this node that an iteration makes as it reads its source. -/
def State.srcAccs (s : State) (e : Nat) (it : Iter) : List Acc :=
  let c := it.cmd
  let off : Int := (ptrOff (ptrOf c.a) : Int) + stepBytes c.op it.idx
  let own (core n : Nat) : List Acc := if inSpad off n then [spadAcc s.nextId e it.name core off.toNat n] else []
  match c.op with
  | .cpout .. | .cppeer .. => own s.core c.b.toNat
  | .cpmc .. => own s.core (mcLen c.b)
  | .cpscat .. => own s.core (rowRows c.b * rowLen c.b)
  | .cploc .. => own (s.ptrCore (ptrOf c.a)) c.b.toNat
  | _ => (it.src.filter fun p => p.node == s.mg.node.toNat).map (s.accOf s.nextId e it.name)
/-- Whether an iteration may read its source: no earlier access of its stream is ordered before a read of it, and no bedrock bank of it is in its
refresh window (R283, R286, R243). -/
def State.srcReady (s : State) (e : Nat) (it : Iter) : Bool :=
  ((s.srcAccs e it).all fun a => s.cur.mayPerform a) && !it.src.any (s.refreshing (s.core / 16))
/-- Whether an iteration may read what it reads of the own scratchpad as it begins, its index table and its destination handle: no earlier access of its
stream to those bytes is outstanding (R283). -/
def State.beginReady (s : State) (e : Nat) (it : Iter) : Bool :=
  let c := it.cmd
  let free (o : Int) (n : Nat) : Bool :=
    s.cur.mayPerform (spadAcc s.nextId e it.name s.core o.toNat (min (o + n).toNat 4194304 - o.toNat))
  let hand : Bool := !barD c.c || free (barOff c.c + 16 : Nat) 16
  match c.op with
  | .cpscat .. => free ((rowTab c.b : Int) + stepBytes c.op it.idx) (4 * rowRows c.b) && hand
  | .cpout .. | .cpmem .. => hand
  | _ => true
/-- Bytes that an iteration does not send after all leave OUTBOUND (R427, R281). -/
def State.unsent (s : State) (it : Iter) (n : Nat) : State :=
  if barO it.cmd.c then (s.sentAt s.core (barOff it.cmd.c) n none).modCur fun x => x.apply (barOff it.cmd.c) none it.name else s
/-- A CPPEER reads its source and sends its writes, by 64-byte runs; out of range it writes nothing, and its bytes leave OUTBOUND (R431, R427,
R247). -/
def State.sendPeer (s : State) (it : Iter) : State :=
  let c := it.cmd
  let o := stepBytes c.op it.idx
  let len := c.b.toNat
  let dOff : Int := (ptrOff (ptrOf c.d) : Int) + o
  let r := s.copySpad s.core (ptrOf c.a) ((ptrOff (ptrOf c.a) : Int) + o) len
  let p := ptrOf c.d
  let rank := if s.ctx.ptrOwn p then s.csr.rank.toNat else ptrRank p
  let team := s.csr.teamId.toNat
  if len = 0 then r.1
  else if !inSpad dOff len ∨ !s.ctx.rankOk p then
    (r.1.oob (ptrAt p dOff)).unsent it len
  else
    (runs64 dOff.toNat len).foldl (fun s k =>
      let n := s.newId
      let f := dOff.toNat + k.1
      n.1.launch it { spadAcc n.2 3 it.name (s.rankCore rank) f k.2 with va := ptrAt p (dOff + (k.1 : Nat)) } (some (team, rank, f))
        ((r.2.1.drop k.1).take k.2) (badIn r.2.2 k.1 k.2)
        (if barD c.c then some (barGen c.c, w64 (team * 2 ^ 32 + rank * 2 ^ 22 + barOff c.c)) else none)) r.1
/-- An iteration of a copy command begins: its sources and destinations are translated before anything is performed, remote reads leave,
the rows, handle and skipped rows are settled, and a CPPEER reads its source and sends its writes (R428, R430, R427, R431; log 9). -/
def State.beginCopy (s : State) (e : Nat) (it : Iter) : CRes :=
  let c := it.cmd
  let o := stepBytes c.op it.idx
  let len := c.b.toNat
  let reads (k : State) (r : TRes) (it : Iter) (next : State → Iter → CRes) : CRes :=
    match r with
    | .fault x a => .fault x (some (w64 a))
    | .held => .held
    | .ok ps => let q := k.sendReads e ps; next q.1 { it with src := ps, reads := q.2 }
  let writes (k : State) (r : TRes) (it : Iter) : CRes :=
    match r with
    | .fault x a => .fault x (some (w64 a))
    | .held => .held
    | .ok ps =>
      if barD c.c then let h := k.handleAt (ptrOf c.c); .ok h.1 { it with dst := ps, hand := some h.2 } else .ok k { it with dst := ps }
  if c.nullified then .ok s it
  else if !s.beginReady e it then .held
  else
    match c.op with
    | .cpin .. => reads s (s.copyXlate .read (addOff c.a o) len) it .ok
    | .cpinScl .. => reads s (s.copyXlate .read (addOff c.a o) len) it .ok
    | .cqfill .. =>
      -- the entries are read and appended as the iteration begins, so that no later push finds their places taken (log 9)
      if 64 < s.cur.counts.length + len then .fault 0x0C none
      else
        let r := s.copySpad s.core (ptrOf c.a) ((ptrOff (ptrOf c.a) : Int) + o) (4 * len)
        .ok (r.1.modCur fun x => { x with counts := x.counts ++ words32 (wrap 22 ((ptrOff (ptrOf c.a) : Int) + o)) r.2.1 r.2.2 }) it
    | .cpgath .. =>
      let r := s.rowEntries ((rowTab c.b : Int) + o) (rowRows c.b)
      reads r.1 (r.1.xlateAll .read (rowLen c.b) (r.2.map fun x => rowAddr c.a o x.2 (rowLen c.b)))
        { it with rows := r.2.map (·.1) } .ok
    | .cpout .. => writes s (s.copyXlate .write (addOff c.d o) len) it
    | .cpscat .. =>
      let r := s.rowEntries ((rowTab c.b : Int) + o) (rowRows c.b)
      match writes r.1 (r.1.xlateAll .write (rowLen c.b) (r.2.map fun x => rowAddr c.d o x.2 (rowLen c.b)))
          { it with rows := r.2.map (·.1) } with
      | .ok t it => .ok (t.unsent it ((rowRows c.b - r.2.length) * rowLen c.b)) it
      | x => x
    | .cpmem .. =>
      -- the destination is translated first, so that no READ leaves for an iteration that faults
      match s.copyXlate .write (addOff c.d o) len with
      | .fault x a =>
        match s.copyXlate .read (addOff c.a o) len with
        | .fault y b => .fault y (some (w64 b))
        | _ => .fault x (some (w64 a))
      | w => reads s (s.copyXlate .read (addOff c.a o) len) it fun t it => writes t w it
    | .cpmc .. =>
      match s.copyXlate .write (addOff c.d o) (mcLen c.b) with
      | .ok ps =>
        match ps.find? fun p => 1 < p.order || p.conf with
        | some p => .fault 0x03 (some (w64 p.va))
        | none => .ok s { it with dst := ps }
      | .fault x a => .fault (if x = 0x13 then 0x03 else x) (some (w64 a))
      | .held => .held
    | .cppeer .. => if s.srcReady 3 it then .ok (s.sendPeer it) it else .held
    | _ => .ok s it

/-! ### Failures of writes (R80, R427, R433) -/

/-- The event of a failed request, to the partition of its ASID: RETRY_EXHAUSTED by exhaustion, else REMOTE_ERROR (R80, R87). -/
def State.failEvent (s : State) (part asid va peer code : Nat) (exhausted : Bool) (seqtag : Nat := 0) : State :=
  s.raisePart part { kind := if exhausted then 2 else 1, code := code, peer := peer, asid := asid, seqtag := seqtag, addr := va }
/-- The record of a logged NACK, in the ring of a port, or in the hub die's for a request of the node to itself (R81, R306). -/
def State.nackRecord (s : State) (port src asid va code : Nat) : State :=
  s.logErr (if port = 0xFF then 16 else 17 + port) { kind := 6, node := src, asid := asid, addr := va, code := code, port := port }
/-- The VIOLATION event of a logged NACK (R87). -/
def violation (port src asid va code seqtag : Nat) : EvRec :=
  { kind := 6, code := code, port := port, peer := src, asid := asid, seqtag := seqtag, addr := va }
/-- A logged NACK of the node that DEST names: its record, and VIOLATION to the owner of the target ASID (R81, R306, R87, R135). -/
def State.logNack (s : State) (port src asid va code : Nat) (seqtag : Nat := 0) : State :=
  (s.nackRecord port src asid va code).raisePart (s.asidOwner asid) (violation port src asid va code seqtag)
/-- An event for a partition of another node: it travels as an EVENT packet on the strongly ordered flow, with the target tenant in ASID
(R86, R62). Its request belongs to no partition of this node. -/
def State.sendEvent (s : State) (dest tenant : Nat) (e : EvRec) : State :=
  { s.post { id := s.nextId, kind := 0xB, asker := .nobody, part := 16, node := dest, va := 0, asid := tenant, len := 0, order := 0, conf := false,
             sync := false, data := s.evBytes e, aop := 0, opa := 0, opb := 0, bar := none, box := none, off := 0, retries := 0, due := s.now }
    with nextId := s.nextId + 1 }
/-- A NACK logged by a router other than DEST: its record here, and VIOLATION to the owner of the target ASID, which is a partition of DEST. The
spec names no tenant for it, so the tenant is a free value (R81, R86; log 67). -/
def State.logNackAway (s : State) (dest port src asid va code : Nat) (seqtag : Nat) : State :=
  { (s.nackRecord port src asid va code).sendEvent dest (Config.freeTenant s.fresh).toNat (violation port src asid va code seqtag) with
    fresh := s.fresh + 1 }

/-- Where the state of a strand stands that holds an outstanding access: on a core, or in a saved team. -/
inductive Where where
  | core (c : Nat)
  | saved (team rank : Nat)
  deriving DecidableEq, Repr
/-- The strand whose core state meets a condition. -/
def State.findStrand (s : State) (f : Core → Bool) : Option (Where × Core) :=
  match s.cores.find? fun e => f e.2 with
  | some e => some (.core e.1, e.2)
  | none =>
    s.teams.findSome? fun t =>
      ((List.range t.saved.length).find? fun r => f (t.saved.getD r Core.zero)).map fun r => (.saved t.id r, t.saved.getD r Core.zero)
/-- The state with a strand's core state replaced. -/
def State.setStrand (s : State) (w : Where) (c : Core) : State :=
  match w with
  | .core n => s.setCore n c
  | .saved t r => s.modTeam t fun x => { x with saved := x.saved.set r c }
/-- The end of an outstanding write: acknowledged, or failed with the address given. Its bytes leave OUTBOUND of its object, which joins its
command to a wait on the object; a failure sets ERR there, or is kept for a later bundle to report. For an absent team both are logged; nothing comes
back where the log has no room (R230, R433, R365, R181, R281). -/
def State.endWrite (s : State) (id : Nat) (fail : Option W64) : Option State :=
  match s.findStrand fun c => c.outw.any fun w => w.acc.id == id with
  | none => some s
  | some (w, c) =>
    match c.outw.find? fun w => w.acc.id == id with
    | none => some s
    | some o =>
      let c' := { c with outw := c.outw.filter fun w => w.acc.id != id,
                         failed := match fail, o.obj with
                           | some va, none => c.failed ++ [⟨o.acc.cmd, o.acc.home, va, id⟩]
                           | _, _ => c.failed }
      let t := s.setStrand w (match o.obj with | some b => c'.apply b none o.acc.cmd | none => c')
      match o.obj with
      | none => some t
      | some b =>
        let team := c.act.csr.teamId.toNat
        match w, s.place team c.act.csr.rank.toNat with
        | .core n, .here _ => some (t.sentAt n b o.acc.len fail)
        | _, .away => t.logFor team c.act.csr.rank.toNat (.sent b o.acc.len fail.isSome (fail.getD 0))
        | _, _ => some t

/-! ### An iteration as it completes (R211, R429 to R432) -/

/-- The bytes of an iteration's translated sources, in order, with the offsets of the poison ones. Remote parts come from what the READs
returned, with its poison (R300). -/
def State.takePieces (s : State) (it : Iter) : State × List Byte × List Nat :=
  it.src.foldl (fun r p =>
    let n := r.2.1.length
    if p.node = s.mg.node.toNat then
      let t := r.1.carry p.key p.len s.myAsid p.va
      (t.1.countPiece p, r.2.1 ++ t.1.readB p.key p.len, r.2.2 ++ t.2.map (· + n))
    else (r.1, r.2.1 ++ Tab.getRun 0 it.got p.va p.len, r.2.2 ++ (badIn it.gotBad p.va p.len).map (· + n))) (s, [], [])
/-- Writes of an L command into its own scratchpad, each counted at B when DCNT says so; an overrun discards the bytes and fails the write
(R429, R427, R228, R433). -/
def State.putOwn (s : State) (it : Iter) (off : Nat) (bs : List Byte) (bad : List Nat) : State :=
  let c := it.cmd
  if !barD c.c then s.copyB (spadKey s.core off) bs bad
  else
    (runs64 off bs.length).foldl (fun s r =>
      let v := s.putCounted s.core (off + r.1) ((bs.drop r.1).take r.2) (badIn bad r.1 r.2) (barOff c.c) (barGen c.c)
      if v.2 = .ok then v.1.modCur fun x => x.apply (barOff c.c) (some (barGen c.c)) it.name
      else
        let n := v.1.newId
        (n.1.modCur fun x => { x with failed := x.failed ++ [⟨it.name, .spad s.core, w64 (off + r.1), n.2⟩] }).failEvent
          s.csr.part.toNat s.myAsid (off + r.1) s.mg.node.toNat 6 false) s
/-- The count that a write to memory carries: DGEN and the handle (R427). -/
def Iter.carry (it : Iter) : Option (Nat × W64) := if barD it.cmd.c then it.hand.map fun h => (barGen it.cmd.c, h) else none
/-- The writes of a part of an iteration's destination: in-package in 64-byte runs, or WRITE packets (R431, R84). -/
def State.writePiece (s : State) (it : Iter) (p : Piece) (bs : List Byte) (bad : List Nat) : State :=
  let here := p.node == s.mg.node.toNat
  if here then
    (runs64 p.key p.len).foldl (fun s r =>
      let n := s.newId
      let q := { p with va := p.va + r.1, len := r.2, key := p.key + r.1 }
      (n.1.countPiece q).launch it (n.1.accOf n.2 3 it.name q) none ((bs.drop r.1).take r.2) (badIn bad r.1 r.2) it.carry) s
  else
    p.packets.foldl (fun s k =>
      let n := s.newId
      let q := { p with va := k.1, len := k.2 }
      (n.1.addOut { acc := n.1.accOf n.2 3 it.name q, obj := if barO it.cmd.c then some (barOff it.cmd.c) else none }).post
        { n.1.reqTo n.2 1 (.store s.core n.2) s.csr.part.toNat s.myAsid q with
          data := (bs.drop (k.1 - p.va)).take k.2, bad := badIn bad (k.1 - p.va) k.2, bar := it.carry }) s
/-- The writes of an iteration to its translated destinations, in order (R431). -/
def State.writePieces (s : State) (it : Iter) : List Piece → List Byte → List Nat → State
  | [], _, _ => s
  | p :: ps, bs, bad =>
    (s.writePiece it p (bs.take p.len) (badIn bad 0 p.len)).writePieces it ps (bs.drop p.len)
      ((bad.filter fun x => decide (p.len ≤ x)).map (· - p.len))
/-- The multicast WRITEs of an iteration: each packet is one request, outstanding once for every node of the box (R432, R72). -/
def State.writeBox (s : State) (it : Iter) (va : W64) (bs : List Byte) (bad : List Nat) : State :=
  let w := it.cmd.b
  let nodes := s.boxNodes (fld w 63 48) (mcExt w)
  (splitBy 448 (bs.length / 384 + bs.length / 65536 + 3) va.toNat bs.length).foldl (fun s k =>
    let first := s.nextId
    let order := ((it.dst.find? fun p => decide (p.va ≤ k.1) && decide (k.1 < p.va + p.len)).map (·.order)).getD 0
    let t := nodes.foldl (fun s n =>
      let i := s.newId
      i.1.addOut { acc := { id := i.2, stream := 3, cmd := it.name, home := .node n, so := false, keep := false,
                            uno := order == 0, lo := remoteKey n k.1, len := k.2, va := k.1 },
                   obj := if barO it.cmd.c then some (barOff it.cmd.c) else none }) s
    t.post { id := first, kind := 1, asker := .store s.core first, part := s.csr.part.toNat, node := fld w 63 48, va := k.1,
             asid := s.myAsid, len := k.2, order := order, conf := false, sync := false,
             data := (bs.drop (k.1 - va.toNat)).take k.2, aop := 0, opa := 0, opb := 0, bar := none,
             box := some (fld w 63 48, mcExt w), off := 0, retries := 0, due := s.now, bad := badIn bad (k.1 - va.toNat) k.2 }) s
/-- Whether every row's place in the own scratchpad is in range: rows of n bytes from a stepped pointer (R430, R247). -/
def rowsIn (off : Int) (n : Nat) (rows : List Nat) : Bool := rows.all fun r => inSpad (off + (r * n : Nat)) n

/-- An iteration of a copy command completes (R211): L has written every destination byte or appended every value, S has read every source byte
and its writes are under way, those of a CPPEER since it began. Some rest remains while a CPIN.SCL still holds scales that find no room (R224). -/
def State.endCopy (s : State) (it : Iter) : State × Option Iter :=
  let c := it.cmd
  let o := stepBytes c.op it.idx
  let len := c.b.toNat
  let dOff : Int := (ptrOff (ptrOf c.d) : Int) + o
  let aOff : Int := (ptrOff (ptrOf c.a) : Int) + o
  let own (s : State) (bs : List Byte) (bad : List Nat) : State :=
    if bs.isEmpty then s else if inSpad dOff bs.length then s.putOwn it dOff.toNat bs bad else s.oob (ptrAt (ptrOf c.d) dOff)
  if c.nullified then (s, none)
  else
    match c.op with
    | .cpin .. => let r := s.takePieces it; (own r.1 r.2.1 r.2.2, none)
    | .cpinScl .. =>
      let r := if it.moved then (s, it.rest) else let t := s.takePieces it; (t.1, words32 (addOff c.a o).toNat t.2.1 t.2.2)
      let room := 512 - s.cur.fifo.length
      let t := r.1.modCur fun x => { x with fifo := x.fifo ++ r.2.take room }
      (t, if r.2.length ≤ room then none else some { it with moved := true, rest := r.2.drop room })
    | .cpgath .. =>
      let n := rowLen c.b
      let r := s.takePieces it
      (if rowsIn dOff n it.rows then
        ((List.range it.rows.length).foldl (fun s i =>
          s.putOwn it (dOff + (it.rows.getD i 0 * n : Nat)).toNat ((r.2.1.drop (i * n)).take n) (badIn r.2.2 (i * n) n)) r.1)
       else r.1.oob (ptrAt (ptrOf c.d) dOff), none)
    | .cpfill .. =>
      (own s ((List.range len).map fun i => BitVec.ofNat 8 (c.a.toNat / 2 ^ (8 * wrap 3 (dOff + (i : Nat))))) [], none)
    | .cploc .. =>
      let r := if s.ctx.rankOk (ptrOf c.a) then s.copySpad (s.ptrCore (ptrOf c.a)) (ptrOf c.a) aOff len
        else ((if len = 0 then s else s.oob (ptrAt (ptrOf c.a) aOff)), zeros len, [])
      (own r.1 r.2.1 r.2.2, none)
    | .cpout .. => let r := s.copySpad s.core (ptrOf c.a) aOff len; (r.1.writePieces it it.dst r.2.1 r.2.2, none)
    | .cpmc .. => let r := s.copySpad s.core (ptrOf c.a) aOff (mcLen c.b); (r.1.writeBox it (addOff c.d o) r.2.1 r.2.2, none)
    | .cpscat .. =>
      let n := rowLen c.b
      let ok := rowsIn aOff n it.rows
      let r := it.rows.foldl (fun (x : State × List Byte × List Nat) i =>
        if ok then
          let y := x.1.copySpad s.core (ptrOf c.a) (aOff + (i * n : Nat)) n
          (y.1, x.2.1 ++ y.2.1, x.2.2 ++ y.2.2.map (· + x.2.1.length))
        else (x.1.oob (ptrAt (ptrOf c.a) aOff), x.2.1 ++ zeros n, x.2.2)) (s, [], [])
      (r.1.writePieces it it.dst r.2.1 r.2.2, none)
    | .cpmem .. => let r := s.takePieces it; (r.1.writePieces it it.dst r.2.1 r.2.2, none)
    | _ => (s, none)

end Sys2Proof.Machine
end

