-- ==== Sys2Proof/Machine/Packet.lean ====
section
/-!
DEFINITION. Packets (R59 to R63, R88, R90), the ports, channels and credits of the node router (R57, R64, R65, R101), and what leaves
through an exit.
-/
namespace Sys2Proof.Machine

/-! ### The routing header (R59) -/

/-- Bits hi to lo of a head flit. -/
def Packet.f (p : Packet) (hi lo : Nat) : Nat := nfld p.head.toNat hi lo
/-- The packet with bits hi to lo of its head flit replaced. -/
def Packet.setF (p : Packet) (hi lo v : Nat) : Packet := { p with head := BitVec.ofNat 512 (setFld p.head.toNat hi lo v) }
/-- The n bytes at byte b of a head flit. -/
def Packet.b (p : Packet) (b n : Nat) : Nat := p.f (8 * b + 8 * n - 1) (8 * b)
/-- The packet with n bytes at byte b of its head flit replaced. -/
def Packet.setB (p : Packet) (b n v : Nat) : Packet := p.setF (8 * b + 8 * n - 1) (8 * b) v
/-- Further flit j. -/
def Packet.flit (p : Packet) (j : Nat) : Nat := (p.flits.getD j 0).toNat
/-- The bytes of the further flits. -/
def Packet.data (p : Packet) : List Byte := p.flits.flatMap fun x => toLE 64 x.toNat
/-- Flits of 64 bytes that hold a list of bytes, zero-filled (R62, R88). -/
def flitsOf (bs : List Byte) : List (BitVec 512) :=
  (List.range ((bs.length + 63) / 64)).map fun i => BitVec.ofNat 512 (ofLE ((bs.drop (64 * i)).take 64))

/-- DEST. -/
def Packet.dest (p : Packet) : Nat := p.f 127 112
/-- SRC. -/
def Packet.src (p : Packet) : Nat := p.f 111 96
/-- TURNS. -/
def Packet.turns (p : Packet) : Nat := p.f 95 64
/-- KIND. -/
def Packet.kind (p : Packet) : Nat := p.f 63 60
/-- CLASS. -/
def Packet.cls (p : Packet) : Nat := p.f 59 58
/-- VCB. -/
def Packet.vcb (p : Packet) : Nat := p.f 57 57
/-- STREAM. -/
def Packet.stream (p : Packet) : Nat := p.f 54 53
/-- CIPHER. -/
def Packet.cipher (p : Packet) : Bool := p.f 52 52 == 1
/-- FLITS. -/
def Packet.nflits (p : Packet) : Nat := p.f 51 49
/-- SYN. -/
def Packet.syn (p : Packet) : Bool := p.f 48 48 == 1
/-- SEQ. -/
def Packet.seq (p : Packet) : Nat := p.f 47 32
/-- MCEXT. -/
def Packet.mcext (p : Packet) : Nat := p.f 31 16
/-- ORD. -/
def Packet.ord (p : Packet) : Nat := p.f 15 14
/-- HOPS. -/
def Packet.hops (p : Packet) : Nat := p.f 7 0
/-- VA. -/
def Packet.va (p : Packet) : Nat := p.b 16 8
/-- ASID. -/
def Packet.asid (p : Packet) : Nat := p.b 24 2
/-- LEN. -/
def Packet.len (p : Packet) : Nat := p.b 26 2
/-- TAG. -/
def Packet.tag (p : Packet) : Nat := p.b 28 2
/-- AOP of a request, CODE of a response. -/
def Packet.code (p : Packet) : Nat := p.b 30 1
/-- BGEN of a request, RCLASS of a response. -/
def Packet.b31 (p : Packet) : Nat := p.b 31 1
/-- The flits of a packet, its head included. -/
def Packet.size (p : Packet) : Nat := 1 + p.flits.length
/-- Whether a packet is a response. -/
def Packet.isResp (p : Packet) : Bool := p.kind == 3 || p.kind == 5 || p.kind == 6 || p.kind == 7 || p.kind == 9
/-- Whether a packet is a pebble. -/
def Packet.isPebble (p : Packet) : Bool := p.kind == 0xA
/-- Whether a packet is a combined-atomic request of LEVEL 0 or 1 (R127). -/
def Packet.combines (p : Packet) : Bool := p.kind == 4 && p.cls == 3 && decide (p.b 33 1 % 4 < 2)

/-- The TURNS of an ended list (R89). -/
def endTurns : Nat := 0b111000000 * 2 ^ 18 + 0b111000000 * 2 ^ 9 + 0b111000000
/-- Segment S0. -/
def seg0 (t : Nat) : Nat := nfld t 26 18
/-- The direction of a segment. -/
def segDir (g : Nat) : Nat := nfld g 8 6
/-- The hops minus one of a segment. -/
def segHops (g : Nat) : Nat := nfld g 5 0
/-- TURNS after an exit through S0 (R66). -/
def shiftTurns (t : Nat) : Nat :=
  if segHops (seg0 t) = 0 then nfld t 31 27 * 2 ^ 27 + nfld t 17 9 * 2 ^ 18 + nfld t 8 0 * 2 ^ 9 + 0b111000000
  else setFld t 26 18 (segDir (seg0 t) * 64 + (segHops (seg0 t) - 1))
/-- Whether TURNS breaks R59: a reserved bit set or a reserved direction. -/
def turnsBad (t : Nat) : Bool :=
  nfld t 31 27 != 0 || segDir (seg0 t) == 6 || segDir (nfld t 17 9) == 6 || segDir (nfld t 8 0) == 6
/-- Whether the routing header breaks R59 or R61: of the responses, only an ACK or a NACK answers a multicast WRITE. -/
def Packet.headBad (p : Packet) : Bool :=
  turnsBad p.turns || p.f 13 8 != 0 || p.nflits != p.flits.length || p.stream == 3 || p.ord == 3 ||
  (p.ord == 2 && p.stream != 1) || (p.mcext != 0 && p.stream != 2) || (p.stream == 2 && !(p.kind == 1 || p.kind == 6 || p.kind == 7)) ||
  !(match p.kind with
    | 1 => p.cls == 0
    | 2 | 8 => p.cls == 0 && p.stream != 2
    | 4 => (p.cls == 0 || p.cls == 3) && p.stream != 2
    | 0xB => p.cls == 0 && p.stream == 1
    | 3 | 5 | 6 | 7 | 9 => p.cls == 1
    | 0xA => p.cls == 2 && p.stream == 0
    | _ => false)

/-! ### Ports, channels and credits -/

/-- Whether the port of a direction is trained (R54, R58). -/
def State.portUp (s : State) (d : Nat) : Bool := decide (d < 6) && s.mg.modstatus.getLsbD (25 - d)
/-- The coordinate of this node in a dimension, and its size. -/
def State.coordOf (s : State) (dim : Nat) : Nat × Nat :=
  let c := coords s.mg.node.toNat
  let n := s.torus3
  if dim = 0 then (c.1, n.1) else if dim = 1 then (c.2.1, n.2.1) else (c.2.2, n.2.2)
/-- Whether a direction crosses the wrap link of its dimension here (R57). -/
def State.wraps (s : State) (d : Nat) : Bool :=
  let c := s.coordOf (d / 2)
  if d % 2 = 0 then c.1 + 1 == c.2 else c.1 == 0
/-- The virtual channel of a packet: class and VCB (R64). -/
def Packet.vc (p : Packet) : Nat := 2 * p.cls + p.vcb
/-- The router's exit channel: direction and virtual channel. -/
def chanKey (d vc : Nat) : Nat := 8 * d + vc
/-- Whether an exit channel has credits for a whole packet (R64). -/
def State.hasCredits (s : State) (d : Nat) (p : Packet) : Bool :=
  decide (Tab.get 0 s.router.used (chanKey d p.vc) + p.size ≤ 32)
/-- Whether a packet stands in its channel's buffer: a pebble resumed from a park does not (R64, R106). -/
def Arrival.buffers (a : Arrival) : Bool := !(a.pkt.isPebble && a.mask.isSome)
/-- The flits of an input channel that are in its buffer: packets that have arrived and not gone on, and requests that hold combining slots (R64,
R127). -/
def State.buffered (s : State) (port vc : Nat) : Nat :=
  ((s.router.arrivals.filter fun a => a.buffers && a.port == port && a.pkt.vc == vc).map fun a => a.pkt.size).sum +
  ((s.router.slots.filterMap fun x => x.kids.head?).filter fun k => k.2 == port && k.1.vc == vc).foldl (fun n k => n + k.1.size) 0
/-- A packet that arrived at a port leaves its channel's buffer, and its credits return to the neighbour, flit by flit (R64). -/
def State.returnCredits (s : State) (port : Nat) (p : Packet) : State :=
  if port < 6 then
    let k := chanKey port p.vc
    { s with router := { s.router with freed := Tab.put 0 s.router.freed k (Tab.get 0 s.router.freed k + p.size) } }
  else s
/-- The packet at a place of the input buffers leaves it (R64). -/
def State.takeArrival (s : State) (i : Nat) : State :=
  match s.router.arrivals[i]? with
  | some a =>
    let t : State := { s with router := { s.router with arrivals := dropAt s.router.arrivals i } }
    if a.buffers then t.returnCredits a.port a.pkt else t
  | none => s
/-- Whether the module failed in READY: its router, scheduler and cores have stopped (R54). The five flags of READY stay set then, and are never
all set in a failure before READY. -/
def State.lost (s : State) : Bool := nfld s.mg.modstatus.toNat 18 16 == 5 && nfld s.mg.modstatus.toNat 30 26 == 31
/-- A packet leaves through a direction: its credits are used, and the cycle counts for the load of the direction (R64, R101). -/
def State.sendNow (s : State) (d : Nat) (p : Packet) : State :=
  let k := chanKey d p.vc
  let r := s.router
  { s with router := { r with used := Tab.put 0 r.used k (Tab.get 0 r.used k + p.size), wire := r.wire ++ [(d, p)],
                              sent := ((s.cycle, d) :: r.sent.filter fun e => decide (s.cycle < e.1 + 1024) && e != (s.cycle, d)) } }
/-- The load of a direction (R101). -/
def State.load (s : State) (d : Nat) : Nat :=
  if s.portUp d then min 255 ((s.router.sent.filter fun e => e.2 == d && decide (s.cycle < e.1 + 1024)).length / 4) else 255
/-- The send of a PSEND completes, where there is one; none while the log of its absent team has no room for the completion (R450, R181). -/
def State.endSend (s : State) (sent : Option Nat) : Option State :=
  match sent with
  | none => some s
  | some id => s.endWrite id none
/-- A waiting packet leaves, when its channel has credits and the send that it completes can be told (R64, R450). -/
def State.tryOut (s : State) (o : OutPkt) : Option State :=
  if !s.portUp o.dir || !s.hasCredits o.dir o.pkt then none else (s.endSend o.sent).map fun t => t.sendNow o.dir o.pkt
/-- Waiting packets of one channel leave in order, as far as credits reach. -/
def State.flushOut (s : State) (k : Nat) : List OutPkt → State × List OutPkt
  | [] => (s, [])
  | o :: os =>
    if chanKey o.dir o.pkt.vc = k then
      match s.tryOut o with
      | some t => t.flushOut k os
      | none => (s, o :: os)
    else
      let r := s.flushOut k os
      (r.1, o :: r.2)
/-- The waiting packets of a channel leave as far as credits reach. -/
def State.drainOut (s : State) (k : Nat) : State :=
  let r := s.flushOut k s.router.outq
  { r.1 with router := { r.1.router with outq := r.2 } }
/-- A packet joins its exit, and leaves at once when it can (R64, R69). The spec gives the output buffers no size: here they hold any number of
packets, and a packet that joins one has left its input buffer (log 68). -/
def State.putOut (s : State) (o : OutPkt) : State :=
  ({ s with router := { s.router with outq := s.router.outq ++ [o] } }).drainOut (chanKey o.dir o.pkt.vc)
/-- CREDIT_RETURN: the channel args[1] (2 × class + VCB) of port args[0] returns args[2] credits, and packets that waited for them leave
(R64, R69, R71, R120). -/
def execCreditReturn (s : State) : Out :=
  .next (
    let k := chanKey (s.args.getD 0 0) (s.args.getD 1 0)
    if 6 ≤ s.args.getD 0 0 ∨ 8 ≤ s.args.getD 1 0 then s
    else
      ({ s with router := { s.router with
          used := Tab.put 0 s.router.used k (Tab.get 0 s.router.used k - s.args.getD 2 0),
          lastCredit := Tab.put 0 s.router.lastCredit k (s.now + 1) } }).drainOut k)

/-- The valid turn lists to a node, by number (R67). -/
def State.listsTo (s : State) (node : Nat) : List Nat :=
  (List.range 4).filter fun i => (Tab.get 0 s.gate.lists (node * 4 + i)).getLsbD 31
/-- A turn list of a node; bit 31 of the stored word marks it valid. -/
def State.listTo (s : State) (node i : Nat) : Nat := (Tab.get 0 s.gate.lists (node * 4 + i)).toNat % 2 ^ 27

end Sys2Proof.Machine
end

