-- ==== Sys2Proof/Machine/Pebble.lean ====
section
/-!
DEFINITION. Pebbles (chapter 4): the packet, tenants at a router, parking, exits, visits, and the 28 operations.
-/
namespace Sys2Proof.Machine

/-! ### The pebble packet (R88 to R91) -/

/-- Bits of the pebble header body, numbered from byte 16 (R90). -/
def Packet.pb (p : Packet) (hi lo : Nat) : Nat := p.f (128 + hi) (128 + lo)
/-- The packet with bits of its pebble header body replaced. -/
def Packet.setPb (p : Packet) (hi lo v : Nat) : Packet := p.setF (128 + hi) (128 + lo) v
/-- DEPTH. -/
def Packet.depth (p : Packet) : Nat := p.pb 11 8
/-- BUDGET. -/
def Packet.budget (p : Packet) : Nat := p.pb 39 32
/-- TENANT. -/
def Packet.tenant (p : Packet) : Nat := p.pb 31 16
/-- PC: the entry point. -/
def Packet.entryPc (p : Packet) : Nat := p.pb 15 12
/-- PLEN. -/
def Packet.plen (p : Packet) : Nat := p.pb 45 40
/-- DSLOTS. -/
def Packet.dslots (p : Packet) : Nat := p.pb 7 5
/-- Code entry i. -/
def Packet.codeAt (p : Packet) (i : Nat) : Nat := p.b (32 + 2 * i) 2
/-- Eight bytes at byte o of further flit j. -/
def Packet.word (p : Packet) (j o : Nat) : W64 := w64 (nfld (p.flit j) (8 * o + 63) (8 * o))
/-- The packet with eight bytes of a further flit replaced. -/
def Packet.setWord (p : Packet) (j o : Nat) (v : W64) : Packet :=
  { p with flits := p.flits.set j (BitVec.ofNat 512 (setFld (p.flit j) (8 * o + 63) (8 * o) v.toNat)) }
/-- Slot kn. -/
def Packet.slot (p : Packet) (n : Nat) : W64 := p.word 0 (8 * n)
/-- The packet with slot kn replaced. -/
def Packet.setSlot (p : Packet) (n : Nat) (v : W64) : Packet := p.setWord 0 (8 * n) v
/-- Stack entry i. -/
def Packet.stk (p : Packet) (i : Nat) : W64 := if i < 4 then p.word 0 (32 + 8 * i) else p.word 1 (8 * (i - 4))
/-- The packet with stack entry i replaced. -/
def Packet.setStk (p : Packet) (i : Nat) (v : W64) : Packet :=
  if i < 4 then p.setWord 0 (32 + 8 * i) v else p.setWord 1 (8 * (i - 4)) v
/-- A push. -/
def Packet.push (p : Packet) (v : W64) : Packet := (p.setStk p.depth v).setPb 11 8 (p.depth + 1)
/-- The top of the stack. -/
def Packet.top (p : Packet) : W64 := p.stk (p.depth - 1)
/-- The stack without its top; the entry freed reads zero (R88). -/
def Packet.pop (p : Packet) : Packet := (p.setStk (p.depth - 1) 0).setPb 11 8 (p.depth - 1)
/-- Whether a pebble is malformed (R91). -/
def Packet.pebbleBad (p : Packet) : Bool :=
  p.headBad || p.cipher || p.syn || p.seq != 0 || p.ord != 0 || decide (8 < p.depth) || decide (4 < p.dslots) || decide (32 < p.plen) ||
  p.nflits != 2 + (p.plen + 7) / 8 || p.pb 4 3 != 0 || nfld (p.flit 1) 511 256 != 0 ||
  (List.range 8).any fun i => decide (p.depth ≤ i) && p.stk i != 0

/-! ### Tenants (R92, R93, R469) -/

/-- The management address of tenant entry i. -/
def tenAt (i : Nat) : Nat := 0x20200000 + 0x1000 * i
/-- The identity word of tenant entry i. -/
def State.tenWord (s : State) (i : Nat) : W64 := w64 (s.mg4 (tenAt i) 8)
/-- BOUND. -/
def tenBound (w : W64) : Bool := w.getLsbD 21
/-- The permission mask. -/
def tenMask (w : W64) : Nat := fld w 47 32
/-- PART. -/
def tenPart (w : W64) : Nat := fld w 19 16
/-- The entry of a tenant (R92). -/
def State.tenantEntry (s : State) (t : Nat) : Option Nat :=
  (List.range 64).find? fun i => tenBound (s.tenWord i) && fld (s.tenWord i) 15 0 == t
/-- The hop budget cap of a mask (R93). -/
def hopCap (mask : Nat) : Nat := 16 * nfld mask 15 12 + 15
/-- FANOUT: the most directions in one CLONE (R93). -/
def fanout (mask : Nat) : Nat := min 6 (nfld mask 11 9)
/-- A permission bit of a mask: 8 ATOM, 7 CINC, 6 FOREIGN, 5 LOADRD, 4 OFFLIST (R93). -/
def permits (mask bit : Nat) : Bool := nfld mask bit bit == 1

/-! ### Parking (R102 to R105) -/

/-- The first free place of a park area of a size. -/
def State.freePark (s : State) (entry size : Nat) : Option Nat :=
  let used := (s.router.parks.filter fun k => k.entry == entry).map (·.idx)
  if size ≤ used.length then none else (List.range (used.length + 1)).find? fun i => !used.contains i
/-- The park event of a pebble (R102). -/
def parkEvent (p : Packet) (code index port : Nat) (addr : W64) (place : Option Nat) : EvRec :=
  { kind := 7, code := code, port := port, peer := p.src, tenant := p.tenant, addr := addr.toNat,
    arg0 := place.getD 0xFFFFFFFFFFFFFFFF,
    arg1 := index % 16 + p.depth * 2 ^ 4 + p.budget * 2 ^ 8 + p.hops * 2 ^ 16 }
/-- Parks a pebble in the area of tenant entry e; a full area discards it and counts it (R102, R104). -/
def State.park (s : State) (e : Nat) (p : Packet) (code index port : Nat) (addr : W64) : State :=
  let part := tenPart (s.tenWord e)
  match s.freePark e 1024 with
  | some i =>
    ({ s with router := { s.router with parks := s.router.parks ++ [Park.mk e i p code index port s.now] } }).raisePart part
      (parkEvent p code index port addr (some i))
  | none =>
    (s.setMg (tenAt e + 8) 4 ((s.mg4 (tenAt e + 8) 4 + 1) % 2 ^ 32)).raisePart part (parkEvent p code index port addr none)
/-- The error-log ring of an arrival port; the hub die's for none (R81, R305). -/
def portRing (port : Nat) : Nat := if port < 6 then 17 + port else 16
/-- Parks a pebble of an unknown tenant in the management area (R105). -/
def State.parkUnknown (s : State) (p : Packet) (port : Nat) : State :=
  let t := s.logErr (portRing port) { kind := 7, node := p.src, code := 0x0B, port := port, tenant := p.tenant }
  match t.freePark 64 64 with
  | some i =>
    ({ t with router := { t.router with parks := t.router.parks ++ [Park.mk 64 i p 0x0B p.entryPc port t.now] } }).raiseRing 0
      (parkEvent p 0x0B p.entryPc port 0 (some i))
  | none => t.raiseRing 0 (parkEvent p 0x0B p.entryPc port 0 none)

/-! ### Exits (R97) -/

/-- VCB after an exit through a direction, before the wrap link is counted (R97). -/
def Packet.vcbBase (p : Packet) (d : Nat) : Nat := if d / 2 = p.pb 2 1 then p.vcb else 0
/-- The park code of an exit that fails its checks (R97). -/
def State.exitCode (s : State) (p : Packet) (d : Nat) : Option Nat :=
  if !s.portUp d then some 0x06
  else if p.budget = 0 then some 0x01
  else if s.wraps d ∧ p.vcbBase d = 1 then some 0x0A
  else none
/-- A pebble as an exit that passes its checks leaves it (R97). -/
def State.exited (s : State) (p : Packet) (d : Nat) : Packet :=
  ((((p.setF 57 57 (if s.wraps d then 1 else p.vcbBase d)).setPb 2 1 (d / 2)).setPb 39 32 (p.budget - 1)).setF 7 0 (min 255 (p.hops + 1)))
/-- A pebble parks at its origin or at an exit, and the send of a PSEND completes with it (R450). A send that parks as it is issued belongs to a strand on
a core, whose completion no log has to take (R181). -/
def State.parkSent (s : State) (e : Nat) (p : Packet) (code index port : Nat) (sent : Option Nat) : State :=
  let t := s.park e p code index port 0
  (t.endSend sent).getD t
/-- A pebble p takes an exit, through which it leaves as q, the turn list shifted where it took the list; or it parks, as it stood before, with the
first failing code (R96, R97, R119). index and port are what a park records; sent is the send that completes. -/
def State.takeExit (s : State) (e : Nat) (p q : Packet) (d index port : Nat) (sent : Option Nat) : State :=
  match s.exitCode p d with
  | some c => s.parkSent e p c index port sent
  | none => s.putOut { pkt := s.exited q d, dir := d, port := port, time := s.now, idx := index, sent := sent }
/-- The turn list of a pebble: the exit and the pebble with the list shifted; none where the list has ended (R119). -/
def Packet.listExit (p : Packet) : Option (Nat × Packet) :=
  if segDir (seg0 p.turns) = 7 then none else some (segDir (seg0 p.turns), p.setF 95 64 (shiftTurns p.turns))
/-- A pebble leaves its origin, or a park, through a named exit: a direction, or 7 for the turn list (R94, R106). Whether TURNS is shifted in one
that then parks on injection or REDIRECT the spec leaves open: it is not, as R96 has it for FWD (log 68). -/
def State.leaveBy (s : State) (e : Nat) (p : Packet) (dir index port : Nat) (sent : Option Nat) : State :=
  if dir = 7 then
    match p.listExit with
    | some x => s.takeExit e p x.2 x.1 index port sent
    | none => s.parkSent e p 0x06 index port sent
  else s.takeExit e p p dir index port sent
/-- The origin router takes an injected pebble (R94): its budget is capped, an explicit direction needs OFFLIST, then its exit. -/
def State.inject (s : State) (e : Nat) (p : Packet) (dir : Nat) (sent : Option Nat) : State :=
  let mask := tenMask (s.tenWord e)
  let q := p.setPb 39 32 (min p.budget (hopCap mask))
  if dir ≠ 7 ∧ !permits mask 4 then s.parkSent e q 0x03 q.entryPc 0xFF sent
  else s.leaveBy e q dir q.entryPc 0xFF sent

/-! ### Visits (R95, R96) -/

/-- The visit in the engine whose operation runs. -/
def State.visit (s : State) : Option Visit := Tab.get none s.router.visits s.eng
/-- The engine's visit replaced. -/
def State.setVisit (s : State) (v : Option Visit) : State :=
  { s with router := { s.router with visits := Tab.put none s.router.visits s.eng v } }
/-- The visit parks its pebble as it stands at an instruction (R96). -/
def State.parkVisit (s : State) (v : Visit) (p : Packet) (code index : Nat) (addr : W64) : State :=
  (s.setVisit none).park v.entry p code index v.port addr
/-- The visit goes on at an instruction; past entry 15 it parks with the effects of entry 15 (R95, R96). -/
def State.goVisit (s : State) (v : Visit) (p : Packet) (next : Nat) : State :=
  if 16 ≤ next then s.parkVisit v p 0x09 15 0
  else s.setVisit (some { v with pkt := p, pc := next, steps := v.steps + 1 })
/-- A pebble operation: its permission, then its stack depth, then what it does with the visit and the tenant's mask (R96, R112). -/
def State.pebble (s : State) (perm : Nat → Bool) (lo hi : Nat) (f : Visit → State) : Out :=
  .next (
    match s.visit with
    | none => s
    | some v =>
      if !perm (tenMask (s.tenWord v.entry)) then s.parkVisit v v.pkt 0x03 v.pc 0
      else if v.pkt.depth < lo ∨ hi < v.pkt.depth then s.parkVisit v v.pkt 0x04 v.pc 0
      else f v)
/-- A pebble operation that changes the pebble alone. -/
def State.pebbleMap (s : State) (lo hi : Nat) (f : Packet → Packet) : Out :=
  s.pebble (fun _ => true) lo hi fun v => s.goVisit v (f v.pkt) (v.pc + 1)
/-- PEBBLE_VISIT: engine args[0] takes the pebble at place args[1] of the input buffers, the first of its channel; a malformed one is discarded and
logged, one of an unknown tenant parks, and any other is run from its entry point (R91, R95, R105). A pebble resumed from a
park starts where the command said (R106). The record of a malformed pebble has CODE 0, since the spec numbers no cause of it (log 67). -/
def execPebbleVisit (s : State) : Out :=
  .next (
    let e := s.args.getD 0 0
    let i := s.args.getD 1 0
    match s.router.arrivals[i]? with
    | none => s
    | some a =>
      let ahead := (s.router.arrivals.take i).any fun b => b.pkt.isPebble && b.port == a.port && b.pkt.vcb == a.pkt.vcb
      if s.lost ∨ !a.pkt.isPebble ∨ 8 ≤ e ∨ (Tab.get none s.router.visits e).isSome ∨ ahead then s
      else
        let t := s.takeArrival i
        if a.pkt.pebbleBad then
          t.logErr (portRing a.port) { kind := 7, node := a.pkt.src, code := 0, port := a.port, tenant := a.pkt.tenant }
        else
          match s.tenantEntry a.pkt.tenant with
          | none => t.parkUnknown a.pkt a.port
          | some k =>
            let v : Visit := ⟨a.pkt, a.port, k, a.mask.getD a.pkt.entryPc, 0⟩
            { t with router := { t.router with visits := Tab.put none t.router.visits e (some v) } })
/-- STEP_BUDGET: a visit that has run 32 instructions parks before the next (R95). -/
def execStepBudget (s : State) : Out :=
  .next (match s.visit with
    | some v => if v.steps = 32 then s.parkVisit v v.pkt 0x02 v.pc 0 else s
    | none => s)
/-- An illegal operation at the visit's instruction parks the pebble (R112). -/
def State.pebbleIllegal (s : State) : State :=
  match s.visit with
  | some v => s.parkVisit v v.pkt 0x09 v.pc 0
  | none => s
/-- PEBBLE_EXIT_TIMEOUT: the pebble or copy at place args[0] of the waiting exits, whose exit is down or has given no credit for 20 µs, parks with
NO_LINK (R69, R97, R120). One whose send cannot be told, since the log of an absent team is full, stays where it is (R181). -/
def execPebbleExitTimeout (s : State) : Out :=
  .next (
    let i := s.args.getD 0 0
    match s.router.outq[i]? with
    | none => s
    | some o =>
      let since := max o.time (Tab.get 0 s.router.lastCredit (chanKey o.dir o.pkt.vc) - 1)
      if !o.pkt.isPebble ∨ (s.portUp o.dir ∧ s.now < since + 20000) then s
      else
        let u := { s with router := { s.router with outq := dropAt s.router.outq i } }
        let t := match s.tenantEntry o.pkt.tenant with
          | none => u.parkUnknown o.pkt o.port
          | some e => u.park e o.pkt 0x06 o.idx o.port 0
        (t.endSend o.sent).getD s)

/-! ### Stack and slot operations (R113, R114) -/

/-- PUSHI (R113). -/
def execPushi (i : BitVec 11) (s : State) : Out := s.pebbleMap 0 7 fun p => p.push (i.signExtend 64)
/-- PUSHK (R113). -/
def execPushk (n : Nat) (s : State) : Out := s.pebbleMap 0 7 fun p => p.push (p.slot n)
/-- POPK (R113). -/
def execPopk (n : Nat) (s : State) : Out := s.pebbleMap 1 8 fun p => p.pop.setSlot n p.top
/-- ADDK (R113). -/
def execAddk (n : Nat) (s : State) : Out := s.pebbleMap 1 8 fun p => p.pop.setSlot n (p.slot n + p.top)
/-- DUP (R113). -/
def execDup (s : State) : Out := s.pebbleMap 1 7 fun p => p.push p.top
/-- SWAP (R113). -/
def execSwap (s : State) : Out := s.pebbleMap 2 8 fun p => (p.pop.pop.push p.top).push p.pop.top
/-- DROP (R113). -/
def execPebbleDrop (s : State) : Out := s.pebbleMap 1 8 fun p => p.pop
/-- An operation on the two topmost entries, a under b (R114). -/
def State.pebbleAlu (s : State) (f : W64 → W64 → W64) : Out := s.pebbleMap 2 8 fun p => p.pop.pop.push (f p.pop.top p.top)
/-- ADD (R114). -/
def execPebbleAdd (s : State) : Out := s.pebbleAlu fun a b => a + b
/-- SUB (R114). -/
def execPebbleSub (s : State) : Out := s.pebbleAlu fun a b => a - b
/-- AND (R114). -/
def execPebbleAnd (s : State) : Out := s.pebbleAlu fun a b => a &&& b
/-- OR (R114). -/
def execPebbleOr (s : State) : Out := s.pebbleAlu fun a b => a ||| b
/-- XOR (R114). -/
def execPebbleXor (s : State) : Out := s.pebbleAlu fun a b => a ^^^ b
/-- A shift by a signed count: left from 0 to 63, logically right from -1 to -63, else zero (R114). -/
def pebbleShift (a b : W64) : W64 :=
  if 0 ≤ b.toInt ∧ b.toInt ≤ 63 then a <<< b.toInt.toNat
  else if -63 ≤ b.toInt ∧ b.toInt ≤ -1 then a >>> (-b.toInt).toNat
  else 0
/-- SHL (R114). -/
def execPebbleShl (s : State) : Out := s.pebbleAlu pebbleShift
/-- CMPEQ (R114). -/
def execPebbleCmpeq (s : State) : Out := s.pebbleAlu fun a b => if a = b then 1 else 0
/-- CMPLT: signed (R114). -/
def execPebbleCmplt (s : State) : Out := s.pebbleAlu fun a b => if a.toInt < b.toInt then 1 else 0

/-! ### Branches (R115) -/

/-- A branch on the popped value: a target outside 0 to 15 is an encoding check, made first (R115, R96). -/
def State.pebbleBranch (s : State) (d : BitVec 11) (taken : W64 → Bool) : Out :=
  .next (
    match s.visit with
    | none => s
    | some v =>
      let t : Int := (v.pc : Int) + sgn 11 d.toNat
      if t < 0 ∨ 15 < t then s.parkVisit v v.pkt 0x09 v.pc 0
      else if v.pkt.depth < 1 then s.parkVisit v v.pkt 0x04 v.pc 0
      else s.goVisit v v.pkt.pop (if taken v.pkt.top then t.toNat else v.pc + 1))
/-- BZ (R115). -/
def execPebbleBz (d : BitVec 11) (s : State) : Out := s.pebbleBranch d fun v => v == 0
/-- BNZ (R115). -/
def execPebbleBnz (d : BitVec 11) (s : State) : Out := s.pebbleBranch d fun v => v != 0

/-! ### Windows, counters, position (R116 to R118) -/

/-- Whether a window offset is valid (R99). -/
def winOk (o : W64) : Bool := o.toNat % 8 == 0 && decide (o.toNat < 65536)
/-- The key of a window word of tenant entry i. -/
def winKey (i o : Nat) : Nat := mgKey (0x30000000 + 0x10000 * i + o)
/-- The key of a counter of tenant entry i. -/
def ctrKey (i c : Nat) : Nat := mgKey (tenAt i + 0x400 + 4 * c)
/-- A router word of n bytes is read, a correctable error corrected and logged; poison discards the pebble without a park and is logged in the hub
die's ring (R298, R301). -/
def State.routerRead (s : State) (v : Visit) (k n : Nat) (f : State → W64 → State) : State :=
  let r := s.scan k n
  match r.2 with
  | none => f r.1 (w64 (r.1.readN k n))
  | some _ => (r.1.logErr 16 { kind := 7, node := v.pkt.src, code := 0x0F, port := v.port, tenant := v.pkt.tenant }).setVisit none
/-- LDR (R116). -/
def execLdr (s : State) : Out :=
  s.pebble (fun _ => true) 1 8 fun v =>
    let o := v.pkt.top
    if !winOk o then s.parkVisit v v.pkt 0x05 v.pc o
    else s.routerRead v (winKey v.entry o.toNat) 8 fun s x => s.goVisit v (v.pkt.pop.push x) (v.pc + 1)
/-- ADDR, which requires ATOM (R116). -/
def execAddr (s : State) : Out :=
  s.pebble (fun m => permits m 8) 2 8 fun v =>
    let o := v.pkt.pop.top
    if !winOk o then s.parkVisit v v.pkt 0x05 v.pc o
    else
      s.routerRead v (winKey v.entry o.toNat) 8 fun s x =>
        (s.writeN (winKey v.entry o.toNat) 8 (x + v.pkt.top).toNat).goVisit v (v.pkt.pop.pop.push x) (v.pc + 1)
/-- CTR (R117). -/
def execCtr (n : Nat) (s : State) : Out :=
  s.pebble (fun _ => true) 0 7 fun v =>
    s.routerRead v (ctrKey v.entry n) 4 fun s x => s.goVisit v (v.pkt.push x) (v.pc + 1)
/-- CTRINC, which requires CINC (R117). -/
def execCtrinc (n : Nat) (s : State) : Out :=
  s.pebble (fun m => permits m 7) 0 7 fun v =>
    s.routerRead v (ctrKey v.entry n) 4 fun s x =>
      (s.writeN (ctrKey v.entry n) 4 ((x.toNat + 1) % 2 ^ 32)).goVisit v (v.pkt.push x) (v.pc + 1)
/-- COORD: a coordinate of the executing node (R118). -/
def execCoord (sel : Nat) (s : State) : Out :=
  let c := coords s.mg.node.toNat
  s.pebbleMap 0 7 fun p => p.push (w64 (if sel = 0 then c.1 else if sel = 1 then c.2.1 else c.2.2))
/-- HOP (R118). -/
def execHop (s : State) : Out := s.pebbleMap 0 7 fun p => p.push (w64 p.hops)
/-- LOAD, which requires LOADRD (R118, R101). -/
def execLoadCount (d : Nat) (s : State) : Out :=
  s.pebble (fun m => permits m 5) 0 7 fun v => s.goVisit v (v.pkt.push (w64 (s.load d))) (v.pc + 1)

/-! ### The ends of a visit (R119 to R121, R107 to R111) -/

/-- FWD: one exit, a direction (with OFFLIST) or the turn list (R119). -/
def execFwd (d : Nat) (s : State) : Out :=
  s.pebble (fun m => d == 7 || permits m 4) 0 8 fun v => (s.setVisit none).leaveBy v.entry v.pkt d v.pc v.port none
/-- The directions of a mask. -/
def dirsOf (m : BitVec 6) : List Nat := (List.range 6).filter fun i => m.getLsbD i
/-- CLONE: one copy through each direction, all checks before any copy (R120). -/
def execClone (m : BitVec 6) (s : State) : Out :=
  s.pebble (fun k => fanout k != 0) 0 8 fun v =>
    let ds := dirsOf m
    if fanout (tenMask (s.tenWord v.entry)) < ds.length then s.parkVisit v v.pkt 0x07 v.pc 0
    else
      match (ds.filterMap fun d => s.exitCode v.pkt d).head? with
      | some c => s.parkVisit v v.pkt c v.pc 0
      | none => ds.foldl (fun t d => t.takeExit v.entry v.pkt v.pkt d v.pc v.port none) (s.setVisit none)
/-- KILL (R121). -/
def execKill (s : State) : Out := s.pebble (fun _ => true) 0 8 fun _ => s.setVisit none
/-- PARK (R121). -/
def execPark (s : State) : Out := s.pebble (fun _ => true) 0 8 fun v => s.parkVisit v v.pkt 0x0C v.pc 0
/-- The bytes that a DELIVER writes: slots, then payload (R107). -/
def Packet.delivery (p : Packet) : List Byte :=
  (List.range p.dslots).flatMap (fun n => toLE 8 (p.slot n).toNat) ++ ((p.data.drop 128).take (8 * p.plen))
/-- DELIVER (R107 to R111, R181). R111 lists the stamp alone: a count that the object as it stands refuses for another reason of R227 parks the pebble
too. Where the bytes cover the object and so make the count overrun, the delivery has been performed and the pebble is consumed (log 72). -/
def execDeliver (s : State) : Out :=
  s.pebble (fun _ => true) 0 8 fun v =>
    let p := v.pkt
    let bs := p.delivery
    let team := p.pb 127 96
    let rank := p.pb 95 88
    let off := 8 * p.pb 87 69
    let bar := 16 * p.pb 68 51
    let cnt := if p.pb 46 46 = 1 then some (bar, p.pb 50 47) else none
    let foreign := match s.team team with
      | some t => t.part != tenPart (s.tenWord v.entry) && !permits (tenMask (s.tenWord v.entry)) 6
      | none => false
    let there := match s.team team with | some t => decide (rank < t.n) | none => false
    if foreign then s.parkVisit v p 0x03 v.pc 0
    else if !there then s.parkVisit v p 0x08 v.pc 0
    else if bs.isEmpty then s.setVisit none
    else if 4194304 < off + bs.length ∨ (cnt.isSome ∧ 4194304 < bar + 16) then s.parkVisit v p 0x08 v.pc 0
    else
      match s.deliver team rank off bs [] cnt with
      | some (t, .ok) => t.setVisit none
      | some (t, .overrun) =>
        if cnt.any fun c => s.countOk team rank c.1 c.2 bs.length then t.setVisit none else t.parkVisit v p 0x08 v.pc 0
      | _ => s.parkVisit v p 0x08 v.pc 0

end Sys2Proof.Machine
end

