-- ==== Sys2Proof/Machine/Inject.lean ====
section
/-!
DEFINITION. Class 0x9: building and injecting pebbles (R449, R450) and a strand's accesses to the window words of its node's router (R451).
-/
namespace Sys2Proof.Machine

/-! ### PBUILD and PSEND (R449, R450) -/

/-- The bytes of a pebble image of a payload length (R449). -/
def imageBytes (plen : Nat) : Nat := 64 * (3 + (plen + 7) / 8)
/-- An own scratchpad region of n bytes at a pointer, with an alignment: its checks (R449). -/
def Ctx.chkRegion (x : Ctx) (w : W64) (n : Nat) : Chk :=
  if x.ptrOwn (ptrOf w) ∧ ptrOff (ptrOf w) + n ≤ 4194304 then none else some (0x03, some (w64 (ptrOf w)))
/-- Bytes 0 to 191 of a built image, from bytes 16 to 63 of its template: header body with PLEN and an empty stack, code, slots, stack (R449, R88). -/
def imageHead (template : List Byte) (ks : List W64) (plen : Nat) : List Byte :=
  zeros 16 ++ toLE 16 (setFld (setFld (ofLE (template.take 16)) 45 40 plen) 11 8 0) ++ template.drop 16 ++
  ks.flatMap (fun k => toLE 8 k.toNat) ++ zeros 96
/-- The bytes of a built image from 192 on: the payload, zero-filled to the end of the last flit (R449). -/
def imageTail (payload : List Byte) (plen : Nat) : List Byte := payload ++ zeros (imageBytes plen - 192 - payload.length)
/-- PBUILD builds a pebble image in the own scratchpad from a template, four slots and a payload, by reads and writes in program order: bytes 0 to 191
are written before the payload is read, which is read whole before it is written (R449, R283; log 8). Poison in a byte that is read stops the bundle
there (R301). -/
def execPbuild (g : Guard) (sd sa sb sc : Nat) (imm : BitVec 12) (s : State) : Out :=
  s.guarded g fun s =>
    let plen := imm.toNat % 64
    let x := s.ctx
    let i := s.rs sd
    let t := s.rs sa
    let b := s.rs sb
    match firstChk [chkIllegal (decide (60 < sc) || decide (32 < plen) || decide (64 ≤ imm.toNat)),
        x.chkRegion i (imageBytes plen), x.chkRegion t 64, x.chkRegion b (8 * plen),
        chkAlign (ptrOf i % 64 != 0 || ptrOf t % 64 != 0 || ptrOf b % 8 != 0)] with
    | some f => s.raiseChk f
    | none =>
      let key (w : W64) : Nat := spadKey s.core (ptrOff (ptrOf w))
      let r := s.scan (key t + 16) 48 s.myAsid
      match r.2 with
      | some a => r.1.raise 0x0F (w64 (a - spadKey s.core 0))
      | none =>
        let h := r.1.writeB (key i) (imageHead (r.1.readB (key t + 16) 48) ((List.range 4).map fun j => s.rs (sc + j)) plen)
        let q := h.scan (key b) (8 * plen) s.myAsid
        match q.2 with
        | some a => q.1.raise 0x0F (w64 (a - spadKey s.core 0))
        | none => (q.1.writeB (key i + 192) (imageTail (q.1.readB (key b) (8 * plen)) plen)).retire
/-- The packet that an image makes, with the routing header of R89 for its origin and destination, and the fields that the origin
sets (R90). -/
def State.pebbleOf (s : State) (image : List Byte) (dest : Nat) : Packet :=
  let src := s.mg.node.toNat
  let list := if dest = src then none else (s.listsTo dest).head?
  let p : Packet := { head := BitVec.ofNat 512 (ofLE (image.take 64)), flits := flitsOf (image.drop 64) }
  let hdr := dest * 2 ^ 112 + src * 2 ^ 96 + (match list with | some i => s.listTo dest i | none => endTurns) * 2 ^ 64 + 0xA * 2 ^ 60 +
    2 * 2 ^ 58 + list.getD 0 * 2 ^ 55 + p.flits.length % 8 * 2 ^ 49
  (((p.setF 127 0 hdr).setPb 2 1 3).setPb 0 0 0)
/-- The image at a pointer is read and injected toward a node: its faults, OUTBOUND of the object that counts it, the routing header, and the
named exit (R450, R94). -/
def State.sendImage (s : State) (w : W64) (dest dir : Nat) (obj : Option (Nat × Obj)) : State :=
  let off := ptrOff (ptrOf w)
  let h := (s.carry (spadKey s.core (off + 16)) 16 s.myAsid).1
  let plen := nfld (h.readN (spadKey s.core (off + 16)) 16) 45 40
  let n := imageBytes plen
  let bad (s : State) : State := s.raise 0x01 w
  let out (s : State) : State := s.raise 0x03 (w64 (ptrOf w))
  if 4194304 < off + 192 then out s
  else if 32 < plen then bad h
  else if 4194304 < off + n then out h
  else
    let r := s.scan (spadKey s.core off) n s.myAsid
    match r.2 with
    | some a => r.1.raise 0x0F (w64 (a - spadKey s.core 0))
    | none =>
      let s := r.1
      let p := s.pebbleOf (s.readB (spadKey s.core off) n) dest
      if p.pebbleBad then bad s
      else
        match s.tenantEntry p.tenant with
        | none => out s
        | some e =>
          if tenPart (s.tenWord e) ≠ s.csr.part.toNat then out s
          else if (match obj with | some (_, o) => !fits32 (o.outb + n) | none => false) then s.raiseFree 0x0E
          else
            let i := s.newId
            let t := match obj with | some (b, o) => i.1.setObj s.core b { o with outb := o.outb + n } | none => i.1
            let acc : Acc := { id := i.2, stream := 0, cmd := 0, home := .hub, so := false, keep := false, uno := true, lo := 0, len := n,
                               va := off }
            ((t.addOut { acc := acc, obj := obj.map (·.1) }).inject e p dir (some i.2)).retire
/-- PSEND injects an image toward a node: the checks of its operands in the order of R450, its object's among them, and then the image. -/
def execPsend (g : Guard) (sa sb sc dir : Nat) (s : State) : Out :=
  s.guarded g fun s =>
    let w := s.rs sa
    let dest := fld (s.rs sb) 15 0
    let b := barOff (s.rs sc)
    match firstChk [s.ctx.chkOwn w, chkAlign (ptrOf w % 64 != 0), chkIllegal (fld (s.rs sb) 63 16 != 0), s.chkBar (s.rs sc) false true] with
    | some f => s.raiseChk f
    | none =>
      if barO (s.rs sc) then s.sendObj b fun s o => s.sendImage w dest dir (some (b, o)) else s.sendImage w dest dir none

/-! ### Window words (R451) -/

/-- The checks of RWLD and RWST, and what they do with the tenant entry and the offset (R451). -/
def State.window (s : State) (w : W64) (imm : BitVec 12) (ok : Nat → Nat → State) : State :=
  let o : Int := (fld w 15 0 : Int) + sx12 imm
  match s.tenantEntry (fld w 31 16) with
  | none => s.raise 0x03 w
  | some e =>
    if tenPart (s.tenWord e) ≠ s.csr.part.toNat ∨ o < 0 ∨ 65535 < o then s.raise 0x03 w
    else if o % 8 ≠ 0 then s.raise 0x05 w
    else ok e o.toNat
/-- The access of a strand to a window word; all of a strand's keep program order (R296). -/
def winAcc (id e o : Nat) : Acc :=
  { id := id, stream := 0, cmd := 0, home := .hub, so := false, keep := true, uno := true, lo := mgKey 0x30000000, len := 1,
    va := 65536 * e + o }
/-- RWLD reads a window word, when it returns (R451). -/
def execRwld (g : Guard) (sd sa : Nat) (imm : BitVec 12) (s : State) : Out :=
  s.guarded g fun s =>
    s.window (s.rs sa) imm fun e o =>
      let i := s.newId
      (i.1.addPend { acc := winAcc i.2 e o, ret := .rwld sd e o, sent := false, fail := none }).retire
/-- RWST writes a whole window word, after the strand's earlier reads of window words (R451, R296). -/
def execRwst (g : Guard) (sa sb : Nat) (imm : BitVec 12) (s : State) : Out :=
  s.guarded g fun s =>
    s.window (s.rs sa) imm fun e o =>
      if s.cur.mayPerform (winAcc s.nextId e o) then (s.writeN (winKey e o) 8 (s.rs sb).toNat).retire else s

end Sys2Proof.Machine
end

