-- ==== Sys2Proof/Machine/Router.lean ====
section
/-!
DEFINITION. The node router for packets other than pebbles (R64 to R71): turn lists in rotation (R68), responses and NACKs (R63, R81,
R471), forwarding, ejection and multicast.
-/
namespace Sys2Proof.Machine

/-! ### Sealing (R82, R83, R154, R155) -/

/-- A key slot. -/
def State.keySlot (s : State) (i : Nat) : KeySlot := Tab.get KeySlot.zero s.mg.keys i
/-- The state with a key slot replaced. -/
def State.setKey (s : State) (i : Nat) (k : KeySlot) : State := { s with mg := { s.mg with keys := Tab.put KeySlot.zero s.mg.keys i k } }
/-- The bytes of a 256-bit head part: bytes lo to lo + n - 1 of a head flit. -/
def Packet.headBytes (p : Packet) (lo n : Nat) : List Byte := toLE n (p.b lo n)
/-- The additional data of a sealed packet: head bytes 0 to 31 with TURNS, VCB, LIST and HOPS zero (R82). -/
def Packet.aad (p : Packet) : List Byte := ((((p.setF 95 64 0).setF 57 57 0).setF 56 55 0).setF 7 0 0).headBytes 0 32
/-- The data bytes of a sealed packet: LEN of a WRITE or a READRESP, none of another kind (R62, R63). -/
def Packet.dataLen (p : Packet) : Nat := if p.kind = 1 ∨ p.kind = 3 then p.len else 0
/-- A packet with its plaintext head bytes 32 to 63 and data. -/
def Packet.withPlain (p : Packet) (pt : List Byte) (tail : List (BitVec 512)) : Packet :=
  { p.setB 32 32 (ofLE (pt.take 32)) with flits := flitsOf ((pt.drop 32).take p.dataLen) ++ tail }
/-- The first n bytes of a list, zero-filled. -/
def fit (n : Nat) (bs : List Byte) : List Byte := (bs ++ zeros n).take n
/-- A packet sealed under a key slot, whose SEALCNT it takes: CIPHER, FLITS, ciphertext, and the cipher flit last (R82, R83). -/
def State.sealWith (s : State) (slot : Nat) (p : Packet) : State × Packet :=
  let k := s.keySlot slot
  let q := (p.setF 52 52 1).setF 51 49 (p.flits.length + 1)
  let nonce := toLE 8 k.cnt ++ toLE 2 q.dest ++ toLE 2 q.src
  let r := gcmSeal k.key nonce q.aad (q.headBytes 32 32 ++ q.data.take q.dataLen)
  let cipher := nonce ++ toLE 2 (slot % 4096) ++ zeros 2 ++ fit 16 r.2 ++ zeros 32
  (s.setKey slot { k with cnt := k.cnt + 1 }, q.withPlain (fit (32 + q.dataLen) r.1) (flitsOf cipher))
/-- The slot that a sealed packet names. -/
def Packet.slotOf (p : Packet) : Nat := nfld (p.flit (p.flits.length - 1)) 107 96
/-- A sealed packet opened under the slot it names; its cipher flit stays as the last flit. none where the slot is EMPTY or the tag fails
(R82, R83). -/
def State.openWith (s : State) (p : Packet) : Option Packet :=
  let c := toLE 64 (p.flit (p.flits.length - 1))
  let k := s.keySlot p.slotOf
  if k.st = 0 then none
  else (gcmOpen k.key (c.take 12) p.aad (p.headBytes 32 32 ++ p.data.take p.dataLen) ((c.drop 16).take 16)).map fun pt =>
    p.withPlain (fit (32 + p.dataLen) pt) (p.flits.drop (p.flits.length - 1))
/-- Whether a slot may open a packet from a node for an address space (R155). -/
def State.slotAdmits (s : State) (slot asid peer : Nat) : Bool :=
  let k := s.keySlot slot
  k.st != 0 && pteV (s.asidEntry asid) && k.part == asidPart (s.asidEntry asid) && (k.pany || k.peer == peer)

/-! ### Forwarding (R65, R66) -/

/-- VCB of a packet that leaves through a direction, after arriving at a port (R65). -/
def State.nextVcb (s : State) (p : Packet) (port d : Nat) : Nat :=
  if s.wraps d then 1 else if port < 6 ∧ port / 2 ≠ d / 2 then 0 else p.vcb
/-- A packet as it leaves through a direction (R65, R66). -/
def State.leaving (s : State) (p : Packet) (port d : Nat) : Packet := (p.setF 7 0 (min 255 (p.hops + 1))).setF 57 57 (s.nextVcb p port d)
/-- The exit of the front segment and the packet as it leaves by it (R66). -/
def State.stepOut (s : State) (p : Packet) (port : Nat) : Nat × Packet :=
  let d := segDir (seg0 p.turns)
  (d, (s.leaving p port d).setF 95 64 (shiftTurns p.turns))

/-! ### Turn lists in rotation (R68) -/

/-- A packet with turn list i of its destination. -/
def State.withList (s : State) (p : Packet) (i : Nat) : Packet := (p.setF 95 64 (s.listTo p.dest i)).setF 56 55 i
/-- Whether the first exit of a list has credits for the whole packet. A list whose first exit is down has none: it is passed over, and stays
valid until a LINK_DOWN NACK or boot firmware marks it (R68, R76; log 68). -/
def State.listFree (s : State) (p : Packet) (i : Nat) : Bool :=
  let x := s.stepOut (s.withList p i) 0xFF
  decide (x.1 < 6) && s.portUp x.1 && s.hasCredits x.1 x.2
/-- The valid lists to a node from number r on, in rotation. -/
def State.listsFrom (s : State) (dest r : Nat) : List Nat :=
  ((s.listsTo dest).filter fun i => decide (r ≤ i)) ++ (s.listsTo dest).filter fun i => decide (i < r)
/-- A packet on the next list of the rotation to its destination: the first whose exit has credits for it, else the next one; none where no
list is valid. A packet of the node to itself takes no list (R68, R85). -/
def State.rotated (s : State) (p : Packet) : Option (State × Packet) :=
  if p.dest = s.mg.node.toNat then some (s, p.setF 95 64 endTurns)
  else
    let ls := s.listsFrom p.dest (Tab.get 0 s.gate.rot p.dest)
    ((ls.find? fun i => s.listFree p i).or ls.head?).map fun i =>
      ({ s with gate := { s.gate with rot := Tab.put 0 s.gate.rot p.dest ((i + 1) % 4) } }, s.withList p i)
/-- A packet enters the router of its own node. -/
def State.enter (s : State) (p : Packet) : State :=
  { s with router := { s.router with arrivals := s.router.arrivals ++ [Arrival.mk p 0xFF none s.now s.cycle] } }
/-- A response leaves for its destination; with no valid list it is lost, and the source sends its request again (R68, R76). -/
def State.sendResp (s : State) (p : Packet) : State :=
  match s.rotated p with
  | some r => r.1.enter r.2
  | none => s

/-! ### Responses (R63, R471, R124) -/

/-- The fields of a response that its kind sets. -/
structure Answer where
  kind : Nat
  code : Nat := 0
  len : Nat := 0
  ackmap : Nat := 0
  old : Nat := 0
  data : List Byte := []

/-- NLEAF of a packet of the combined-atomic class. -/
def Packet.nleaf (p : Packet) : Nat := if p.cls = 3 then p.b 32 1 else 0
/-- The response to a request: DEST and SRC of R471, the request's SEQ, TAG, CLASS and STREAM, and for a request of the combined-atomic class
its combining fields and leaf list (R63, R124). -/
def Packet.answer (q : Packet) (src : Nat) (a : Answer) : Packet :=
  let fl := if q.cls = 3 then q.flits else flitsOf a.data
  let h := q.src * 2 ^ 112 + src * 2 ^ 96 + endTurns * 2 ^ 64 + a.kind * 2 ^ 60 + 1 * 2 ^ 58 + q.stream * 2 ^ 53 +
    fl.length % 8 * 2 ^ 49 + q.seq * 2 ^ 32
  let p : Packet := { head := BitVec.ofNat 512 h, flits := fl }
  let p := if a.kind = 7 then (p.setB 16 8 q.va).setB 24 2 q.asid else p
  let p := (((p.setB 26 2 a.len).setB 28 2 q.tag).setB 30 1 a.code).setB 31 1 q.cls
  if q.cls = 3 then (p.setB 32 8 (q.b 32 8)).setB 40 8 a.old
  else if a.kind = 5 then p.setB 40 8 a.old
  else p.setB 32 4 a.ackmap
/-- A NACK to a request, built at this node (R471). -/
def State.nack (s : State) (q : Packet) (code : Nat) : State := s.sendResp (q.answer q.dest { kind := 7, code := code })
/-- Whether a NACK code is logged (R81). -/
def codeLogged (c : Nat) : Bool := c != 2 && c != 0xB && c != 0xC
/-- Leaf i of a combined packet: SRC, SEQ and ADDEND (R126). -/
def Packet.leaf (p : Packet) (i : Nat) : Nat × Nat × Nat :=
  let bs := p.data.drop 64
  (leField bs (6 * i) 2, leField bs (6 * i + 2) 2, leField bs (6 * i + 4) 2)
/-- SEQ and TAG as an event gives them (R86). -/
def seqTag (seq tag : Nat) : Nat := seq * 2 ^ 16 + tag
/-- The log records and VIOLATION events of a logged code: one, or one for each leaf that is not skipped (R81, R132). -/
def State.logFor81 (s : State) (q : Packet) (port code skip : Nat) : State :=
  if !codeLogged code then s
  else if q.nleaf < 2 then s.logNack port q.src q.asid q.va code (seqTag q.seq q.tag)
  else (List.range q.nleaf).foldl (fun t i =>
    if skip.testBit i then t
    else let l := q.leaf i; t.logNack port l.1 q.asid q.va code (seqTag l.2.1 0)) s
/-- A request is refused with a code at the node that DEST names: logged where the code is, and answered (R81). -/
def State.refuse (s : State) (q : Packet) (port code : Nat) : State := (s.logFor81 q port code 0).nack q code
/-- A packet is refused with a code by a router, the home's or another's (R66, R81, R471). -/
def State.refuseHere (s : State) (q : Packet) (port code : Nat) : State :=
  if q.dest = s.mg.node.toNat then s.refuse q port code
  else
    (if !codeLogged code then s
     else if q.nleaf < 2 then s.logNackAway q.dest port q.src q.asid q.va code (seqTag q.seq q.tag)
     else (List.range q.nleaf).foldl (fun t i =>
       let l := q.leaf i; t.logNackAway q.dest port l.1 q.asid q.va code (seqTag l.2.1 0)) s).nack q code

/-! ### Routing (R66, R70) -/

/-- The offset of this node from the origin of a multicast box (R70). -/
def State.boxOffset (s : State) (p : Packet) : Nat × Nat × Nat :=
  let n := s.torus3
  let c := coords s.mg.node.toNat
  let o := coords p.dest
  ((c.1 + n.1 - o.1 % n.1) % n.1, (c.2.1 + n.2.1 - o.2.1 % n.2.1) % n.2.1, (c.2.2 + n.2.2 - o.2.2 % n.2.2) % n.2.2)
/-- Whether an extent of a multicast reaches its dimension's size (R70). -/
def State.boxBad (s : State) (p : Packet) : Bool :=
  let n := s.torus3
  let e := coords p.mcext
  decide (n.1 ≤ e.1) || decide (n.2.1 ≤ e.2.1) || decide (n.2.2 ≤ e.2.2)
/-- The branch mask of a multicast at this node: bits 0, 2 and 4 are +X, +Y and +Z, bit 6 ejects (R70). -/
def State.branchMask (s : State) (p : Packet) : Nat :=
  let e := coords p.mcext
  let d := s.boxOffset p
  64 + (if d.2.1 = 0 ∧ d.2.2 = 0 ∧ d.1 < e.1 then 1 else 0) + (if d.2.2 = 0 ∧ d.2.1 < e.2.1 then 4 else 0) +
  (if d.2.2 < e.2.2 then 16 else 0)
/-- A packet stands at the gateway of its destination. -/
def State.eject (s : State) (p : Packet) (port : Nat) : State := { s with gate := { s.gate with inbox := s.gate.inbox ++ [(p, port)] } }
/-- Whether a packet is a multicast WRITE whose turn list has ended (R66, R70). -/
def Packet.branches (p : Packet) : Bool := segDir (seg0 p.turns) == 7 && p.stream == 2 && p.kind == 1
/-- A router handles a packet, neither a pebble nor a multicast that branches here, that arrived at a port (R66). -/
def State.routeOn (s : State) (p : Packet) (port : Nat) : State :=
  let d := segDir (seg0 p.turns)
  if d = 7 then (if p.dest = s.mg.node.toNat then s.eject p port else s.refuseHere p port 0xA)
  else if d = 6 then s.refuseHere p port 9
  else if !s.portUp d then s.refuseHere p port 0xB
  else
    let x := s.stepOut p port
    s.putOut { pkt := x.2, dir := d, port := port, time := s.now, idx := 0, sent := none }
/-- ROUTE_PACKET: the packet at place args[0] of the input buffers, neither a pebble nor one that may combine, is handled by its front segment; a
multicast whose list has ended stays in its place with the mask of its branches (R66, R70, R71, R127). -/
def execRoutePacket (s : State) : Out :=
  .next (
    let i := s.args.getD 0 0
    match s.router.arrivals[i]? with
    | none => s
    | some a =>
      if s.lost ∨ a.pkt.isPebble ∨ a.pkt.combines ∨ a.mask.isSome then s
      else if a.pkt.branches ∧ !s.boxBad a.pkt then
        { s with router := { s.router with arrivals := s.router.arrivals.set i { a with mask := some (s.branchMask a.pkt) } } }
      else if a.pkt.branches then (s.takeArrival i).refuseHere a.pkt a.port 9
      else (s.takeArrival i).routeOn a.pkt a.port)
/-- MULTICAST_BRANCH: a copy of the multicast packet at place args[0] goes out on branch args[1] (0, 2 or 4, or 6 to eject), once the exit
has credits for the whole packet; the place is freed when no branch is left (R70, R71). A branch whose exit is down has no credits: the packet
keeps its place and the branch until the port is up again (log 68). -/
def execMulticastBranch (s : State) : Out :=
  .next (
    let i := s.args.getD 0 0
    let b := s.args.getD 1 0
    match s.router.arrivals[i]? with
    | none => s
    | some a =>
      match a.mask with
      | none => s
      | some m =>
        let q := s.leaving a.pkt a.port b
        if s.lost ∨ a.pkt.isPebble ∨ !m.testBit b ∨ (b < 6 ∧ (!s.portUp b ∨ !s.hasCredits b q)) then s
        else
          let left := m - 2 ^ b
          let t := if left = 0 then s.takeArrival i
            else { s with router := { s.router with arrivals := s.router.arrivals.set i { a with mask := some left } } }
          if b < 6 then t.sendNow b q else t.eject a.pkt a.port)

end Sys2Proof.Machine
end

