-- ==== Sys2Proof/Machine/Combine.lean ====
section
/-!
DEFINITION. Combining at a router (R123 to R129) and decombining (R133).
-/
namespace Sys2Proof.Machine

/-! ### Combined packets (R124 to R126) -/

/-- LEVEL. -/
def Packet.level (p : Packet) : Nat := p.b 33 1 % 4
/-- NINNER. -/
def Packet.ninner (p : Packet) : Nat := p.b 33 1 / 4 % 16
/-- Inner group g: GNODE, GREC with its EPOCH, FIRST and COUNT (R125). -/
def Packet.group (p : Packet) (g : Nat) : Nat × Nat × Nat × Nat :=
  (leField p.data (6 * g) 2, leField p.data (6 * g + 2) 2, leField p.data (6 * g + 4) 1, leField p.data (6 * g + 5) 1)
/-- The signed value of a 16-bit addend. -/
def addend (a : Nat) : Int := sgn 16 a
/-- The addends of the leaves that a skip mask leaves, summed over the first n leaves (R131). -/
def leafSum (adds : List Nat) (skip n : Nat) : Int :=
  ((List.range n).map fun j => if skip.testBit j then 0 else addend (adds.getD j 0)).sum
/-- The leaf list of a combined packet (R126). -/
def Packet.leaves (p : Packet) : List (Nat × Nat × Nat) := (List.range p.nleaf).map p.leaf
/-- Whether inner groups occupy disjoint ascending ranges of 2 to 8 leaves from leaf n on (R125). -/
def groupsOk (total : Nat) : Nat → List (Nat × Nat × Nat × Nat) → Bool
  | _, [] => true
  | n, g :: gs =>
    decide (n ≤ g.2.2.1) && decide (2 ≤ g.2.2.2) && decide (g.2.2.2 ≤ 8) && decide (g.2.2.1 + g.2.2.2 ≤ total) &&
    groupsOk total (g.2.2.1 + g.2.2.2) gs
/-- Whether a request of the combined-atomic class breaks R123 to R126. -/
def Packet.combBad (p : Packet) : Bool :=
  let n := p.b 32 1
  let k := p.ninner
  p.code != 1 || (p.len != 4 && p.len != 8) || p.b31 != 0 || p.stream != 0 || p.cipher || decide (64 ≤ p.b 33 1) ||
  p.b 38 2 != 0 || p.b 48 16 != 0 ||
  (if n = 0 then
    p.b 33 1 != 0 || !p.flits.isEmpty || decide ((w64 (p.b 40 8)).toInt < -32768) || decide (32767 < (w64 (p.b 40 8)).toInt)
   else
    decide (n < 2) || decide (64 < n) || (p.level != 1 && p.level != 2) || decide (8 < k) || (p.level == 1 && k != 0) ||
    p.flits.length != 1 + (6 * n + 63) / 64 || p.seq != 0 || p.src != p.b 34 2 ||
    p.b 40 8 != wrap 64 (leafSum (p.leaves.map fun l => l.2.2) 0 n) || leField p.data 48 16 != 0 ||
    !groupsOk n 0 ((List.range k).map p.group) || (List.range 8).any (fun g => decide (k ≤ g) && leField p.data (6 * g) 6 != 0) ||
    ((p.data.drop (64 + 6 * n)).any fun b => b != 0))
/-- The group flit and the leaf flits of a combined packet (R125, R126). -/
def combFlits (groups : List (Nat × Nat × Nat × Nat)) (skip : Nat) (ls : List (Nat × Nat × Nat)) : List (BitVec 512) :=
  let g := groups.flatMap fun x => toLE 2 x.1 ++ toLE 2 x.2.1 ++ toLE 1 x.2.2.1 ++ toLE 1 x.2.2.2
  flitsOf (fit 48 g ++ toLE 8 skip ++ zeros 8 ++ ls.flatMap fun l => toLE 2 l.1 ++ toLE 2 l.2.1 ++ toLE 2 l.2.2)
/-- The combining fields of head bytes 32 to 39 as a number (R124). -/
def combHead (nleaf level ninner cnode crec : Nat) : Nat :=
  nleaf + (level + 4 * ninner) * 2 ^ 8 + cnode * 2 ^ 16 + crec * 2 ^ 32

/-! ### Combining at a router (R127, R128) -/

/-- The combining key of a request (R127). -/
def Packet.key (p : Packet) : Key := ⟨p.dest, p.asid, p.va, p.len⟩
/-- The leaves that a child brings to a slot (R128). -/
def Packet.childLeaves (p : Packet) : List (Nat × Nat × Nat) :=
  if p.nleaf < 2 then [(p.src, p.seq, p.b 40 8 % 65536)] else p.leaves
/-- The inner groups of a list of children whose leaves begin at a leaf (R128). -/
def childGroups : Nat → List Packet → List (Nat × Nat × Nat × Nat)
  | _, [] => []
  | n, p :: ps =>
    (if p.nleaf < 2 then [] else [(p.b 34 2, p.b 36 2, n, p.nleaf)]) ++ childGroups (n + p.childLeaves.length) ps
/-- A decombining record of the table of 4,096 (R129). -/
def State.record (s : State) (i : Nat) : Record := Tab.get Record.zero s.router.records i
/-- The state with a decombining record replaced. -/
def State.setRecord (s : State) (i : Nat) (r : Record) : State :=
  { s with router := { s.router with records := Tab.put Record.zero s.router.records i r } }
/-- The free record that a slot takes: the spec names none, and the model takes the lowest-numbered (R127, R129; log 48). -/
def State.freeRecord (s : State) : Option Nat := (List.range 4096).find? fun i => !(s.record i).used
/-- Whether a slot is open and takes one more child (R128). -/
def State.slotOpen (s : State) (x : Slot) : Bool := decide (x.kids.length < 8) && decide (s.now < x.opened + 256)
/-- The recent-address table with a request's arrival time written: in its key's entry, or in a new entry that replaces the oldest (R127). -/
def noteKey (t : List (Key × Nat)) (k : Key) (now : Nat) : List (Key × Nat) :=
  if t.any fun e => e.1 == k then t.map fun e => if e.1 = k then (k, now) else e
  else
    let oldest := t.foldl (fun m e => min m e.2) ((t.map (·.2)).headD 0)
    let u := if t.length < 64 then t
      else match t.findIdx? fun e => e.2 == oldest with | some i => dropAt t i | none => t
    u ++ [(k, now)]
/-- Whether a request entered before another: in an earlier cycle, within one cycle through an earlier port, and of one port at an earlier place
(R128). -/
def Arrival.entersBefore (b a : Arrival) (place : Bool) : Bool :=
  decide (b.cycle < a.cycle) || (b.cycle == a.cycle && (decide (b.port < a.port) || (b.port == a.port && place)))
/-- COMBINING_ARRIVAL: the combined-atomic request at place args[0] of the input buffers joins an open slot, opens one as holder, or is forwarded
and its key noted (R127, R128). Requests for one key are taken in order of entry, by port within one cycle. A malformed one is forwarded to be
refused at its home (R123). -/
def execCombiningArrival (s : State) : Out :=
  .next (
    let i := s.args.getD 0 0
    match s.router.arrivals[i]? with
    | none => s
    | some a =>
      let k := a.pkt.key
      let ahead := (s.router.arrivals.zip (List.range s.router.arrivals.length)).any fun b =>
        b.1.pkt.combines && b.1.pkt.key == k && b.1.entersBefore a (decide (b.2 < i))
      if s.lost ∨ !a.pkt.combines ∨ ahead then s
      else
        let t := s.takeArrival i
        let recent := s.router.recents.any fun e => e.1 == k && decide (s.now ≤ e.2 + 256)
        if a.pkt.headBad ∨ a.pkt.combBad then t.routeOn a.pkt a.port
        else
          match t.router.slots.findIdx? fun x => x.key == k && t.slotOpen x with
          | some n =>
            { t with router := { t.router with slots :=
                (t.router.slots.zip (List.range t.router.slots.length)).map fun x =>
                  if x.2 = n then { x.1 with kids := x.1.kids ++ [(a.pkt, a.port)] } else x.1 } }
          | none =>
            match recent, t.freeRecord with
            | true, some r =>
              let h : State := { s with router := { s.router with arrivals := dropAt s.router.arrivals i } }
              let u := h.setRecord r { Record.zero with used := true, key := k, epoch := ((h.record r).epoch + 1) % 16 }
              { u with router := { u.router with slots := u.router.slots ++ [⟨k, r, [(a.pkt, a.port)], t.now⟩] } }
            | _, _ =>
              ({ t with router := { t.router with recents := noteKey t.router.recents k a.time } } : State).routeOn a.pkt a.port)
/-- The combined request of two or more children, the holder first (R128). ORD and LIST are the holder's too, SYN is 0, and TAG holds LEN, which
the reply then carries to the echoed-list path of R133 (log 48). -/
def State.combined (s : State) (recd epoch : Nat) (h : Packet) (kids : List Packet) : Packet :=
  let ls := kids.flatMap Packet.childLeaves
  let gs := childGroups 0 kids
  let level := if kids.all fun p => p.level == 0 then 1 else 2
  let fl := combFlits gs 0 ls
  let p : Packet := { h with flits := fl }
  let p := ((((p.setF 111 96 s.mg.node.toNat).setF 47 32 0).setF 48 48 0).setF 51 49 fl.length).setB 28 2 h.len
  ((p.setB 32 8 (combHead ls.length level gs.length s.mg.node.toNat (recd + epoch * 4096))).setB 40 8
    (wrap 64 (leafSum (ls.map fun l => l.2.2) 0 ls.length))).setB 48 16 0
/-- COMBINING_SLOT_CLOSE: slot args[0], 256 ns old or of 8 children, closes: one child goes on unchanged and the record is freed; more go on as one
combined request (R128). -/
def execCombiningSlotClose (s : State) : Out :=
  .next (
    let n := s.args.getD 0 0
    match s.router.slots[n]? with
    | none => s
    | some x =>
      if s.lost ∨ s.slotOpen x then s
      else
        let u : State := { s with router := { s.router with slots := dropAt s.router.slots n } }
        let t := match x.kids with | h :: _ => u.returnCredits h.2 h.1 | [] => u
        let r := t.record x.recd
        match x.kids with
        | [] => t
        | [h] => (t.setRecord x.recd { r with used := false, closed := none }).routeOn h.1 h.2
        | h :: _ =>
          let ks := x.kids.map (·.1)
          let ls := ks.flatMap Packet.childLeaves
          let first := ls.headD (0, 0, 0)
          (t.setRecord x.recd { r with closed := some t.now, nleaf := ls.length, fsrc := first.1, fseq := first.2.1,
                                       adds := ls.map fun l => l.2.2, groups := childGroups 0 ks }).routeOn
            (t.combined x.recd r.epoch h.1 ks) h.2)
/-- DECOMBINING_RECORD_EXPIRY: record args[0], not consumed within 64 µs of its slot's closing, is freed (R129). -/
def execDecombiningRecordExpiry (s : State) : Out :=
  .next (
    let i := s.args.getD 0 0
    let r := s.record i
    match r.closed with
    | some t => if r.used ∧ t + 64000 ≤ s.now ∧ i < 4096 then s.setRecord i { r with used := false, closed := none } else s
    | none => s)

/-! ### Decombining (R133) -/

/-- Whether a combined reply matches the record that its CREC names: EPOCH, the key as far as the reply carries it, NLEAF, and the first leaf's
SRC and SEQ (R133). -/
def State.recordFits (s : State) (p : Packet) : Bool :=
  let r := s.record (p.b 36 2 % 4096)
  let l := p.leaf 0
  r.used && r.closed.isSome && r.epoch == p.b 36 2 / 4096 && r.key.dest == p.src && r.nleaf == p.nleaf && r.fsrc == l.1 &&
  r.fseq == l.2.1 && (p.kind != 7 || (r.key.asid == p.asid && r.key.va == p.va))
/-- A reply of the combined-atomic class that decombining builds: from the home, to a node, with a SEQ, value, combining fields and flits
(R133, R471). -/
def Packet.part (p : Packet) (dest seq old comb : Nat) (fl : List (BitVec 512)) : Packet :=
  let q : Packet := { p with flits := fl }
  let q := (((q.setF 127 112 dest).setF 95 64 endTurns).setF 47 32 seq).setF 51 49 fl.length
  ((((q.setF 57 57 0).setF 7 0 0).setB 28 2 (if comb = 0 then 0 else p.tag)).setB 32 8 comb).setB 40 8 (if p.kind = 5 then old else 0)
/-- The replies that a combined reply is taken apart into, from leaf addends and inner groups, values modulo 2^bits (R133, R131). -/
def Packet.parts (p : Packet) (adds : List Nat) (groups : List (Nat × Nat × Nat × Nat)) (bits : Nat) : List Packet :=
  let skip := leField p.data 48 8
  let v (i : Nat) : Nat := wrap bits ((p.b 40 8 : Int) + leafSum adds skip i)
  let inner (i : Nat) : Bool := groups.any fun g => decide (g.2.2.1 ≤ i) && decide (i < g.2.2.1 + g.2.2.2)
  (List.range p.nleaf).filterMap (fun i =>
    if skip.testBit i || inner i then none else let l := p.leaf i; some (p.part l.1 l.2.1 (v i) 0 [])) ++
  groups.map fun g =>
    p.part g.1 0 (v g.2.2.1) (combHead g.2.2.2 1 0 g.1 g.2.1)
      (combFlits [] (skip / 2 ^ g.2.2.1 % 2 ^ g.2.2.2) ((p.leaves.drop g.2.2.1).take g.2.2.2))
/-- The inner groups that a combined packet lists (R125). -/
def Packet.groups (p : Packet) : List (Nat × Nat × Nat × Nat) := (List.range p.ninner).map p.group
/-- DECOMBINE: the combined reply at place args[0] of the gateway is taken apart, from the record that it matches, which is freed, or from the
list that it echoes (R133). Values are taken modulo 2^(8 LEN) on both paths: LEN is the record's, or stands in TAG (log 48). -/
def execDecombine (s : State) : Out :=
  .next (
    let i := s.args.getD 0 0
    match s.gate.inbox[i]? with
    | none => s
    | some (p, _) =>
      if (p.kind ≠ 5 ∧ p.kind ≠ 7) ∨ p.b31 % 4 ≠ 3 ∨ p.b 32 1 < 2 then s
      else
        let q : Packet := p.setF 59 58 3   -- read as a packet of the combined-atomic class
        let t : State := { s with gate := { s.gate with inbox := dropAt s.gate.inbox i } }
        let r := t.record (q.b 36 2 % 4096)
        let fits := t.recordFits q
        let u := if fits then t.setRecord (q.b 36 2 % 4096) { r with used := false, closed := none } else t
        let ps := if fits then q.parts r.adds r.groups (8 * r.key.len) else q.parts (q.leaves.map fun l => l.2.2) q.groups (if q.tag = 4 then 32 else 64)
        ps.foldl (fun u x => u.sendResp (x.setF 59 58 1)) u)

end Sys2Proof.Machine
end

