-- ==== Sys2Proof/Machine/Engine.lean ====
section
/-!
DEFINITION. The engines at work: an iteration begins (R211 to R217), completes (R211, R215), replay (R302), and the arrival of an
in-package write at its home (R431).
-/
namespace Sys2Proof.Machine

/-! ### Paths and waits (R221, R240, R243) -/

/-- Whether engine e of a core may begin commands at all: its strand runs, its team is present, no signal is held, and no replay is under
way (R213, R180, R215, R302). -/
def State.mayBegin (s : State) (e : Nat) : Bool :=
  s.cur.run == .running && (match s.myTeam with | some t => !t.absent | none => false) && (s.cur.engine e).sigs.isEmpty &&
  (e != 2 || s.cur.replay == 0)
/-- Whether a command uses the plane-load path (R221). -/
def isLdw (i : Instr) : Bool :=
  match i with
  | .ldw .. => true
  | _ => false
/-- Whether the next command of M finds its path free: LDW beside the array but behind WSWAP and MGROUP; WSWAP and MGROUP behind LDW
(R221, R411, R412). -/
def Core.pathFree (c : Core) (i : Instr) : Bool :=
  let onArray (f : Instr → Bool) : Bool := match c.em.run with | some it => f it.cmd.op | none => false
  let swaps (i : Instr) : Bool := match i with | .wswap .. | .mgroup .. => true | _ => false
  if isLdw i then c.em.ldw.isNone && !onArray swaps
  else c.em.run.isNone && (!swaps i || c.em.ldw.isNone)
/-- Whether a command finds its path free, its tokens given, and its words and scales in their queues (R211, R215, R221, R223, R224). -/
def Core.ready (c : Core) (e : Nat) (k : Cmd) : Bool :=
  (if e = 2 then c.pathFree k.op else (c.engine e).run.isNone) && c.tokensReady (k.kept.needs (waitChannels e (ectlOf k.op))) &&
  decide (wordsOf k ≤ k.kept.words.length + c.fmt.length) && decide (scalesOf k ≤ k.kept.scales.length + c.fifo.length)
/-- The next iteration of a command as it begins, before it takes anything. -/
def Core.iterOf (c : Core) (k : Cmd) : Iter :=
  { cmd := k, idx := k.begun, words := (k.kept.words ++ c.fmt).take (wordsOf k), scales := (k.kept.scales ++ c.fifo).take (scalesOf k),
    joined := [], took := [], src := [], dst := [],
    rows := [], hand := none, reads := [], got := [], gotBad := [], moved := false, rest := [], desc := [], drew := none }
/-- Whether an access holds the iteration that engine e would begin, or the one under way on it. -/
def State.accessHolds (s : State) (e : Nat) : Bool :=
  let running (x : Option Iter) : Bool := match x with
    | some it => if e = 2 then (match s.runM it with | .held => true | _ => false) else it.src.any (s.refreshing (s.core / 16))
    | none => false
  running (s.cur.engine e).run || running (s.cur.engine e).ldw ||
  match (s.cur.engine e).next with
  | some k => s.cur.ready e k &&
    (if e = 2 then (match s.runM (s.cur.iterOf k) with | .held => true | _ => false)
     else (match s.beginCopy e (s.cur.iterOf k) with | .held => true | _ => false))
  | none => false
/-- Whether a bedrock refresh window holds an engine of a core, whose access would not wait without the window, or an outstanding load (R240, R243,
R411). -/
def State.refreshClash (s : State) (c : Nat) : Bool :=
  let now : State := { s with core := c }
  let open_ := now.modDie (c / 16) fun d => { d with refOn := false }
  ([1, 2, 3].any fun e => now.accessHolds e && !open_.accessHolds e) ||
  now.cur.pend.any fun p => p.fail.isNone && !p.sent && s.bankBusy (c / 16) p.acc.lo p.acc.len
/-- The members of a team that still run their programs. -/
def State.members (s : State) (t : Team) : List Nat := t.cores.filter fun c => (s.getCore c).run != .exited
/-- Whether a timed team's stall wire is raised: a member was found not to issue, waits, has faulted, replays, or meets a refresh window
(R240, R302). -/
def State.stalled (s : State) (t : Team) : Bool :=
  t.timed && (t.wire || (s.members t).any fun c =>
    (s.getCore c).wait != .none || (s.getCore c).run == .faulted || (s.getCore c).replay != 0 || s.refreshClash c)
/-- Whether the stall wire leaves a command be: only commands with no token wait begin while it is raised (R240). -/
def State.wireAllows (s : State) (e : Nat) (k : ECtl) : Bool :=
  (waitChannels e k).isEmpty || (match s.myTeam with | some t => !s.stalled t | none => true)

/-! ### An iteration begins -/

/-- The replay window after an iteration begins: a TS command opens a new one (R302). At most 65 iterations are kept. -/
def Core.openWindow (c : Core) (it : Iter) : Option Window :=
  if tsOf it.cmd.op ∧ it.idx = 0 then some ⟨c.mat, [it]⟩
  else c.win.map fun w => { w with iters := (w.iters ++ [it]).take 65 }
/-- The iteration is on its path, its command has begun it, and the commands joined to it are noted (R217, R281). -/
def Core.place (c : Core) (e : Nat) (it : Iter) : Core :=
  let x := c.engine e
  let y := { x with q := modCmd x.q it.cmd.id fun k => { k with begun := it.idx + 1, kept := .none } }
  let z := { c with behind := if it.joined.isEmpty then c.behind else c.behind ++ [(it.name, it.joined)] }
  if e = 2 then
    { (z.setEngine 2 (if isLdw it.cmd.op then { y with ldw := some it } else { y with run := some it })) with
      win := c.openWindow it }
  else z.setEngine e { y with run := some it }
/-- The iteration takes its tokens, words and scales, but for what its command has kept, and goes onto its path. -/
def Core.beginIter (c : Core) (e : Nat) (it : Iter) : Core :=
  let k := it.cmd.kept
  let r := c.takeTokens (k.needs (waitChannels e (ectlOf it.cmd.op)))
  let took := k.toks ++ r.2
  let it := { it with took := took, joined := took.foldl (fun (l : List Nat) (t : Nat × List Nat) => joinIds l t.2) [] }
  let words := it.words.length - k.words.length
  { r.1 with fmt := r.1.fmt.drop words, fmtBound := r.1.fmtBound - words,
             fifo := r.1.fifo.drop (it.scales.length - k.scales.length) }.place e it
/-- The KINDS bit of a page that a command finds absent: read, or write (R263). -/
def State.faultKind (s : State) (c : Cmd) : Nat :=
  match c.op with
  | .cpout .. | .cpscat .. | .cpmc .. => 2
  | .cpmem .. =>
    match s.copyXlate .read (addOff c.a (stepBytes c.op c.begun)) c.b.toNat with
    | .fault .. => 1
    | _ => 2
  | _ => 1
/-- ENGINE_COMMAND_BEGIN: engine args[0] of the running core (1 L, 2 M, 3 S) takes the first command in its queue that has an iteration left and
begins it, once its token waits are met, its path is free and its scales stand in the FIFO; an operand fault stops it there, with no
effect (R211, R213, R215, R217, R221, R223, R224, R405, R416, R428). -/
def execEngineCommandBegin (s : State) : Out :=
  .next (
    let e := s.args.headD 0
    if e = 0 ∨ 3 < e then s
    else
      match (s.cur.engine e).next with
      | none => s
      | some c =>
        if !s.mayBegin e || !s.cur.ready e c || !s.wireAllows e (ectlOf c.op) then s
        else
          let it := s.cur.iterOf c
          let bad (x : Nat) (a : Option W64) : State :=
            (if x = 0x04 then s.postFault s.myAsid ((a.getD 0).toNat) (s.faultKind c) 0 else s).engineFault e c x a
          if e = 2 then
            match s.runM it with
            | .fault x a => bad x a
            | .held => s
            | _ => let d := s.readDesc it; d.1.modCur fun k => k.beginIter 2 { it with desc := d.2 }
          else
            match s.beginCopy e it with
            | .fault x a => bad x a
            | .held => s
            | .ok t it => t.modCur fun k => k.beginIter e it)

/-! ### Replay (R302) -/

/-- Whether two iterations are the same one. -/
def Iter.same (a b : Iter) : Bool := a.cmd.id == b.cmd.id && a.idx == b.idx
/-- Whether a window's accumulations all rest on tiles that it has written, or stand at its TS command; written collects the tiles. -/
def accsCovered : List Nat → List Iter → Bool
  | _, [] => true
  | written, it :: its =>
    (!accumulates it || tsOf it.cmd.op || (tilesWritten it).all fun t => written.contains t) &&
    accsCovered (written ++ tilesWritten it) its
/-- Whether a window can be replayed (R302). -/
def Window.replayable (w : Window) : Bool := decide (w.iters.length ≤ 64) && accsCovered [] w.iters
/-- Where the planes of a window's TS command stand after some of its iterations: what a half of the active and of the shadow plane holds, 1 that half
of the plane then active, 2 of the one then shadow, 0 a half loaded since. -/
def planeOrigins (half : Nat) : List Iter → Nat × Nat → Nat × Nat
  | [], p => p
  | it :: its, p =>
    planeOrigins half its (if it.cmd.nullified then p
      else match it.cmd.op with
        | .ldw .. => if it.idx % 2 = half then (p.1, 0) else p
        | .wswap .. => (p.2, p.1)
        | .mgroup .. => it.words.foldl (fun p f => (if half < wtBytes f then 0 else p.2, p.1)) p
        | _ => p)
/-- The matrix data from which a window runs again: as at its TS command, with the errors that have struck since what it has not written
itself; the multiply array is sound again (R302). -/
def Window.again (w : Window) (now : Mat) (done : List Iter) : Mat :=
  let struck (n half : Nat) : Bool :=
    let p := planeOrigins half done (1, 2)
    (now.badA.contains half && p.1 == n) || (now.badS.contains half && p.2 == n)
  { w.start with
    badTiles := w.start.badTiles ++ now.badTiles.filter fun t => !w.start.badTiles.contains t && !(w.iters.any fun it => (tilesWritten it).contains t),
    badA := [0, 1].filter fun h => w.start.badA.contains h || struck 1 h,
    badS := [0, 1].filter fun h => w.start.badS.contains h || struck 2 h, badM := false }
/-- An iteration fails for good: its command stands in the queue of M unexecuted, the tiles that the window wrote hold zero where it was run
again, and the strand faults (R302, R213). -/
def State.failIter (s : State) (it : Iter) (cause : Nat) (addr : Option W64) (zero : List Nat) : State :=
  let t := s.modCur fun c =>
    { (c.giveBack 2 it).modEngine 2 (fun x => { x with
        run := if x.run.any (·.same it) then none else x.run, ldw := if x.ldw.any (·.same it) then none else x.ldw }) with
      replay := 0, mat := zero.foldl (fun m k => m.setTile k fun _ => 0) c.mat,
      win := c.win.map fun w => { w with iters := w.iters.filter fun x => !x.same it } }
  t.engineFault 2 it.cmd cause addr
/-- An iteration of M has met a spoilt operand: a replay starts, or POISON at once where its window cannot be replayed (R302). path
is 2 for the array and 4 for the plane-load path. -/
def State.spoilt (s : State) (it : Iter) (path : Nat) (addr : Option W64) : State :=
  match s.cur.win with
  | some w => if w.replayable && w.iters.any (·.same it) then s.modCur fun c => { c with replay := path } else s.failIter it 0x0F addr []
  | none => s.failIter it 0x0F addr []
/-- The iteration of M that a path number names. -/
def Engine.onPath (e : Engine) (path : Nat) : Option Iter := if path = 4 then e.ldw else e.run
/-- The window after an iteration is done. One that began before the window leaves its effect in what the window starts from (R317); one of the window
keeps the generator states that it drew from (R312). -/
def Window.done (w : Window) (it : Iter) (path : Nat) (m : Mat) (drew : Tab W32) : Window :=
  if w.iters.any (·.same it) then
    { w with iters := w.iters.map fun x => if x.same it ∧ x.drew.isNone then { x with drew := some drew } else x }
  else if path = 4 then { w with start := { w.start with planeS := m.planeS, badS := m.badS } }
  else { w with start := { m with planeS := w.start.planeS, badS := w.start.badS } }
/-- The end of an iteration of M, which drew from the generator states given: its path is free, its command leaves the queue with its last
iteration, and the signals are given (R215, R217, R302). -/
def State.doneM (s : State) (it : Iter) (path : Nat) (drew : Tab W32) : State :=
  s.modCur fun c =>
    let x := c.modEngine 2 fun e =>
      let e := { e with q := leaveQueue e.q it, prior := joinIds e.prior it.joined }
      if path = 4 then { e with ldw := none } else { e with run := none }
    { x with win := x.win.map fun (w : Window) => w.done it path x.mat drew, replay := 0 }.signal 2 (ectlOf it.cmd.op) it.joined
/-- The second run of a window, iteration by iteration: the state it leaves, and the iteration that failed with its address; none while an access is
held on a STALE extent. Its operands are read again, an ACCWR's descriptor among them (R302, R260). -/
def State.rerun (s : State) : List Iter → Option (State × Option (Iter × Option W64))
  | [] => some (s, none)
  | it :: its =>
    match s.runM { it with desc := [] } with
    | .ok t => t.rerun its
    | .spoilt t a => some (t, some (it, a))
    | .fault _ a => some (s, some (it, a))
    | .held => none
/-- REPLAY: the window runs again from its TS command, its operands re-read and its words and scales used again, token waits and signals not
made again. A failure in the second run raises POISON and leaves the window's tiles zero (R302, R418). -/
def execReplay (s : State) : Out :=
  .next (
    match s.cur.em.onPath s.cur.replay, s.cur.win with
    | some it, some w =>
      if s.cur.replay = 0 then s
      else
        let other := s.cur.em.onPath (6 - s.cur.replay)
        let its := w.iters.filter fun x => !(other.any (·.same x))
        let done := its.filter fun x => !x.same it
        let t := (s.modCur fun c => { c with mat := w.again c.mat done }).logErr (s.core / 16)
          { kind := 4, unit := s.core % 16, asid := s.myAsid }
        match t.rerun its with
        | none => s
        | some (u, none) => u.doneM it s.cur.replay s.ctx.rng
        | some (u, some (f, addr)) =>
          let u := u.failIter it 0x0F addr (its.flatMap tilesWritten)
          -- FAULTPC names the command that failed in the second run
          if f.same it then u else u.modCtx fun x => { x with csr := { x.csr with faultPc := f.cmd.pc } }
    | _, _ => s)

/-! ### An iteration completes -/

/-- Whether a CPPEER waits for room: one of its writes is for a scratchpad of an absent team whose log has none (R181). -/
def State.logStalls (s : State) (it : Iter) : Bool :=
  s.msys.flights.any fun f => f.acc.cmd == it.name &&
    match f.dest with
    | some (team, rank, off) =>
      (match s.place team rank with
       | .away => (s.logFor team rank (.data off f.bytes f.bad (f.count.map fun c => (handOff c.2, c.1)))).isNone
       | _ => false)
    | none => false
/-- The end of an iteration of L or S: its engine is free, its command leaves the queue with its last iteration, and the signals are given (R211, R215,
R217, R281). -/
def Core.endIter (c : Core) (e : Nat) (it : Iter) : Core :=
  let js := joinIds it.joined [it.name]
  (c.modEngine e fun x => { x with run := none, q := leaveQueue x.q it, prior := joinIds x.prior js }).signal e (ectlOf it.cmd.op) js
/-- Whether an iteration of a copy command has read its source as it began. -/
def sendsAtBegin (i : Instr) : Bool :=
  match i with
  | .cppeer .. => true
  | _ => false
/-- An iteration of L or S of a core stops: a read of its source at an address has failed (R428, R213). -/
def State.stopCopy (s : State) (core e : Nat) (it : Iter) (va : Nat) : State :=
  let t := s.modCore core fun c => (c.giveBack e it).modEngine e fun x => { x with run := none }
  { ({ t with core := core }.engineFault e it.cmd 0x12 (some (w64 va))) with core := s.core }
/-- Lines of an iteration's sources on SYNC pages homed here: die, line, and whether it cannot be read (R233, R234). -/
def State.syncLines (s : State) (it : Iter) : List (Nat × Nat × Bool) :=
  (if it.moved then [] else it.src.filter fun p => p.sync && p.node == s.mg.node.toNat).flatMap fun p =>
    (runs64 p.key p.len).map fun r => (homeDie (homeOf p.key), (p.key + r.1) / 64, s.lineHeld s.myAsid (p.va + r.1) (p.key + r.1))
/-- The parts of an access of the running strand where its pages of this node's memory now stand, by their entries; the address of the first page that
has no leaf (R234, R271). -/
def State.piecesNow (s : State) (ps : List Piece) : Except Nat (List Piece) :=
  let now := ps.flatMap fun p =>
    if p.node = s.mg.node.toNat ∧ !p.bed then
      (splitBy 65536 (p.len / 65536 + 2) p.va p.len).map fun r => (r.1, s.pieceNow s.myAsid r.1 r.2)
    else [(p.va, some p)]
  match now.find? (·.2.isNone) with
  | some x => .error x.1
  | none => .ok (now.filterMap (·.2))
/-- The requests that an iteration of the running core makes of the synchronisation engine to read its source: it goes on once all of them have their
turn, those that cannot be read being parked. One that was parked reads and writes where its pages then stand, by requests where that is another node;
where no leaf is found it stops (R233, R234, R271). -/
def State.srcTurn (s : State) (e : Nat) (it : Iter) : State × Option Iter :=
  let ls := s.syncLines it
  let turn (u : State) (l : Nat × Nat × Bool) : State × Bool := u.syncTurn l.1 it.cmd.id l.2.1 l.2.2
  if !ls.all fun l => (turn s l).2 then
    (ls.foldl (fun u l => if (turn u l).2 then u else (turn u l).1) s, none)
  else
    let t := ls.foldl (fun u l => (turn u l).1) s
    if !ls.any fun l => (s.die l.1).parked.contains (it.cmd.id, l.2.1) then (t, some it)
    else
      match t.piecesNow it.src, t.piecesNow it.dst with
      | .ok src, .ok dst =>
        let r := t.sendReads e (src.filter fun p => !it.src.contains p)
        let now := { it with src := src, dst := dst, reads := r.2 }
        if r.2.isEmpty then (r.1, some now) else (r.1.modCur fun c => c.modEngine e fun x => { x with run := some now }, none)
      | .error a, _ | _, .error a => (t.stopCopy t.core e it a, none)
/-- ENGINE_COMMAND_COMPLETE: the iteration under way on engine args[0] of the running core (1 L, 2 the multiply array, 3 S, 4 the plane-load
path) makes its last effect on the core's state and gives its signals (R211, R215, R221, R283). -/
def execEngineCommandComplete (s : State) : Out :=
  .next (
    let p := s.args.headD 0
    if p = 2 ∨ p = 4 then
      match s.cur.em.onPath p with
      | none => s
      | some it =>
        if s.cur.replay ≠ 0 ∨ s.cur.em.pathWaits p then s
        else
          match s.runM it with
          | .ok t => t.doneM it p s.ctx.rng
          | .spoilt t a => t.spoilt it p a
          | .fault x a => s.failIter it x a []
          | .held => s
    else if p = 1 ∨ p = 3 then
      match (s.cur.engine p).run with
      | none => s
      | some it =>
        if !it.reads.isEmpty || (!sendsAtBegin it.cmd.op && !s.srcReady p it) || s.logStalls it then s
        else
          match s.srcTurn p it with
          | (t, none) => t
          | (t, some it) =>
            let r := t.endCopy it
            match r.2 with
            | some rest => r.1.modCur fun c => c.modEngine p fun x => { x with run := some rest }
            | none => r.1.modCur fun c => c.endIter p it
    else s)

/-- A remote read of an iteration has returned data, with its poison (R428, R300). -/
def State.engineData (s : State) (core id va : Nat) (bs : List Byte) (bad : List Nat) : State :=
  let upd (e : Engine) : Engine :=
    { e with run := e.run.map fun it =>
        if it.reads.contains id then
          { it with reads := it.reads.filter (· != id), got := Tab.putRun 0 it.got va bs, gotBad := it.gotBad ++ bad.map (va + ·) }
        else it }
  s.modCore core fun c => { c with el := upd c.el, es := upd c.es }
/-- A remote read of an iteration has failed (R428). -/
def State.engineReadFailed (s : State) (core id va : Nat) : State :=
  let hit (e : Engine) : Option Iter := match e.run with | some it => if it.reads.contains id then some it else none | none => none
  match hit (s.getCore core).el with
  | some it => s.stopCopy core 1 it va
  | none => match hit (s.getCore core).es with
    | some it => s.stopCopy core 3 it va
    | none => s

/-! ### In-package writes arrive (R431, R427, R181) -/

/-- The state without a flight. -/
def State.dropFlight (s : State) (id : Nat) : State :=
  { s with msys := { s.msys with flights := s.msys.flights.filter fun f => f.acc.id != id } }
/-- The end of an in-package write that fails with a code: the error response, its event, and for a request of the node to itself the log and
VIOLATION (R228, R427, R433). A team killed since it sent the write counts as it stood then (R178). -/
def State.flightFailed (s : State) (f : Flight) (code : Nat) (self : Bool) : State :=
  match s.endWrite f.acc.id (some (w64 f.acc.va)) with
  | none => s
  | some t =>
    let u := (t.dropFlight f.acc.id).failEvent f.part f.asid f.acc.va s.mg.node.toNat code false
    if self then u.logNack 0xFF s.mg.node.toNat f.asid f.acc.va code else u
/-- Whether an outstanding write may be performed now, in the order of its stream (R283, R286). -/
def State.orderOk (s : State) (a : Acc) : Bool :=
  match s.findStrand fun c => c.outw.any fun w => w.acc.id == a.id with
  | some (_, c) => c.mayPerform a
  | none => true
/-- A write has been counted at the object at an offset of a rank: where that is its own strand's, its command has applied the count (R281). -/
def State.noteCount (s : State) (f : Flight) (team rank off stamp : Nat) : State :=
  match s.findStrand fun c => c.outw.any fun w => w.acc.id == f.acc.id with
  | some (w, c) =>
    if c.act.csr.teamId.toNat = team ∧ c.act.csr.rank.toNat = rank then s.setStrand w (c.apply off (some stamp) f.acc.cmd) else s
  | none => s
/-- The end of an in-package write that has been performed, counted at an object of a rank where it carries a count; it waits, as in the state
before, where its completion finds no room in a log (R181). -/
def State.flightDone (before s : State) (f : Flight) (cnt : Option (Nat × Nat × Nat)) : State :=
  let t := match cnt, f.count with | some (team, rank, off), some (st, _) => s.noteCount f team rank off st | _, _ => s
  ((t.endWrite f.acc.id none).map fun u => u.dropFlight f.acc.id).getD before
/-- An in-package write whose page has moved to another node while it was parked goes there as a WRITE (R234, R271). -/
def State.flightOn (s : State) (f : Flight) (p : Piece) : State :=
  let t := match s.findStrand fun c => c.outw.any fun w => w.acc.id == f.acc.id with
    | some (w, c) => s.setStrand w { c with outw := c.outw.map fun (o : OutW) =>
        if o.acc.id = f.acc.id then { o with acc := s.accOf o.acc.id o.acc.stream o.acc.cmd p } else o }
    | none => s
  (t.dropFlight f.acc.id).post
    { t.reqTo f.acc.id 1 (.store f.core f.acc.id) f.part f.asid p with data := f.bytes, bad := f.bad, bar := f.count }
/-- IN_PACKAGE_WRITE: the write named args[0] arrives at its home: it is performed, or logged for an absent team, counted at its destination object
and subtracted from OUTBOUND (R431, R427, R181, R227, R283, R286); one to a SYNC page is the synchronisation engine's (R233, R234). A write that a log
has no room for waits. -/
def execInPackageWrite (s : State) : Out :=
  .next (
    match s.msys.flights.find? fun f => f.acc.id == s.args.headD 0 with
    | none => s
    | some f =>
      if f.arrive.isSome ∨ !s.orderOk f.acc then s
      else
        match f.dest with
        | some (team, rank, off) =>
          match s.deliver team rank off f.bytes f.bad (f.count.map fun c => (handOff c.2, c.1)) with
          | none => s.flightFailed f 1 false
          | some (t, .ok) => s.flightDone t f (f.count.map fun c => (team, rank, handOff c.2))
          | some (t, .overrun) => t.flightFailed f 6 false
          | some (_, .full) => s
        | none =>
          match s.atSync f.asid f.acc with
          | (t, .waits) => t
          | (t, .lost) => t.flightFailed f 1 false
          | (t, .away p) => t.flightOn f p
          | (t, .here k) =>
            let w := t.copyB k f.bytes f.bad
            match f.count with
            | none => s.flightDone w f none
            | some (st, h) =>
              if !s.handOk f.part h then t.flightFailed f 1 true
              else
                match w.countFor (handTeam h) (handRank h) (handOff h) st f.bytes.length with
                | none => t.flightFailed f 1 true
                | some (u, .ok) => s.flightDone u f (some (handTeam h, handRank h, handOff h))
                | some (_, .overrun) =>
                  ((t.countFor (handTeam h) (handRank h) (handOff h) st f.bytes.length).map (·.1)).getD t |>.flightFailed f 6 true
                | some (_, .full) => s)

end Sys2Proof.Machine
end

