-- ==== Sys2Proof/Machine/Sync.lean ====
section
/-!
DEFINITION. Synchronisation instructions (chapter 18, class 0x8): waits on engines and fences (R434, R290, R291, R216), atomics (R435 to R437),
barrier instructions (R438 to R444), queues, semaphores, capacity and counts (R445 to R448), and the steps that end their waits.
-/
namespace Sys2Proof.Machine

/-! ### Fences and drains (R434) -/

/-- FENCE.acq (R291). -/
def execFenceAcq (g : Guard) (scope : Nat) (s : State) : Out := s.guarded g fun s => s.startWait (.fenceAcq scope)
/-- FENCE.rel (R291). -/
def execFenceRel (g : Guard) (scope : Nat) (s : State) : Out := s.guarded g fun s => s.startWait (.fenceRel scope)
/-- FENCE.full (R291). -/
def execFenceFull (g : Guard) (scope : Nat) (s : State) : Out := s.guarded g fun s => s.startWait (.fenceFull scope)
/-- FLUSH (R290). -/
def execFlush (g : Guard) (scope : Nat) (s : State) : Out := s.guarded g fun s => s.startWait (.flush scope)
/-- QFENCE (R216). -/
def execQfence (g : Guard) (qs : BitVec 3) (s : State) : Out := s.guarded g fun s => s.startWait (.qfence qs)
/-- QDRAIN (R216). -/
def execQdrain (g : Guard) (s : State) : Out := s.guarded g fun s => s.startWait .qdrain
/-- The end of a wait of the running core's strand, when the wait is one of those that a step ends and its conditions hold. A member of a timed team
issues with the others (R240). -/
def State.wakeIf (s : State) (which : Wait → Bool) : Out :=
  .next (if which s.cur.wait ∧ s.cur.run = .running then s.settleWait else s)
/-- Whether a step may end a wait of the running core's strand: it runs, and not in a timed team, whose members issue together (R240). -/
def State.wakes (s : State) : Bool := s.cur.run == .running && !s.csr.timed
/-- FENCE_DONE: a fence's accesses have been performed and issue resumes (R291). -/
def execFenceDone (s : State) : Out :=
  s.wakeIf fun w => match w with | .fenceAcq _ | .fenceRel _ | .fenceFull _ | .amoAcq _ _ => true | _ => false
/-- FLUSH_DONE (R290). -/
def execFlushDone (s : State) : Out := s.wakeIf fun w => match w with | .flush _ => true | _ => false
/-- QFENCE_DONE (R216). -/
def execQfenceDone (s : State) : Out := s.wakeIf fun w => match w with | .qfence _ => true | _ => false
/-- QDRAIN_DONE (R216). -/
def execQdrainDone (s : State) : Out := s.wakeIf fun w => match w with | .qdrain => true | _ => false

/-! ### Tokens (R434, R215) -/

/-- TKPUSH increments channel 0, or channel 7; a full channel stalls the sequencer (R434, R215). -/
def execTkpush (g : Guard) (s7 : Bool) (s : State) : Out :=
  s.guarded g fun s =>
    let ch := if s7 then 7 else 0
    if 15 ≤ (s.ctx.channel ch).length then s
    else (s.modCur fun c => { c with act := c.act.setChannel ch (c.act.channel ch ++ [c.joined]) }).retire
/-- The end of a TKPOP: a token stands in its channel and is taken, and the commands behind it are joined (R215, R281). -/
def State.finishTkpop (s : State) : State :=
  match s.cur.wait with
  | .tkpop ch =>
    if (s.ctx.channel ch).isEmpty then s
    else (s.modCur fun c => let t := c.takeToken ch; { t.1 with joined := joinIds t.1.joined t.2 }).endWait
  | _ => s
/-- TKPOP waits for a token of channel 4, or channel 3 (R434, R215). -/
def execTkpop (g : Guard) (s7 : Bool) (s : State) : Out :=
  s.guarded g fun s => (s.modCur fun c => { c with wait := .tkpop (if s7 then 3 else 4) }).finishTkpop
/-- TKPOP_DONE: the awaited token is taken and issue resumes (R215). -/
def execTkpopDone (s : State) : Out := .next (if s.wakes then s.finishTkpop else s)

/-! ### Atomics (R435 to R437, R233, R234) -/

/-- Bytes of an atomic. -/
def awSize : AWid → Nat
  | .i64 => 8
  | _ => 4
/-- AOP of an operation (R62, R435). -/
def amoCode : AmoOp → Nat
  | .swap => 0 | .add => 1 | .and => 2 | .or => 3 | .xor => 4 | .min => 5 | .max => 6 | .minu => 7 | .maxu => 8 | .fadd => 9
/-- The new value of n bytes at the home: AOP 0xA is compare and swap, with a compared and b the new value (R435, R437). -/
def amoNew (aop n old a b : Nat) : Nat :=
  let w := 8 * n
  let x := old % 2 ^ w
  let y := a % 2 ^ w
  match aop with
  | 0 => y
  | 1 => (x + y) % 2 ^ w
  | 2 => x &&& y
  | 3 => x ||| y
  | 4 => x ^^^ y
  | 5 => if sgn w y < sgn w x then y else x
  | 6 => if sgn w x < sgn w y then y else x
  | 7 => min x y
  | 8 => max x y
  | 9 => rne32 ((f32 x).add (f32 y))
  | 10 => if x = y then b % 2 ^ w else x
  | _ => x
/-- What an atomic writes to its destination: the old value, sign-extended for .i32 (R436). -/
def amoOld (n : Nat) (ext : Bool) (old : Nat) : W64 := w64 (if n = 4 ∧ ext then wrap 64 (sgn 32 old) else old)
/-- An atomic in one step at its home: the state, the old value, or the key of a poison word of its line, which is left as it is. It is made for an
address of an address space (R233, R234, R289, R301). -/
def State.atomicAt (s : State) (k aop n a b : Nat) (asid va : Nat := 0) : State × Nat × Option Nat :=
  let r := s.scan (k / 64 * 64) 64 asid (va - k % 64)
  let old := r.1.readN k n
  match r.2 with
  | some p => (r.1, old, some p)
  | none => (r.1.writeN k n (amoNew aop n old a b), old, none)
/-- An atomic as it issues: the checks of R436, its release, and its request. -/
def State.issueAtomic (s : State) (ord : Ord) (scope : Nat) (va : W64) (n aop : Nat) (ext : Bool) (a b : W64) (sd : Nat) : State :=
  s.memAccess .atomic va n fun s p =>
    if p.tier then s.raise 0x03 va
    else if ord = .rel ∧ !s.relDone scope true then s
    else
      let i := s.newId
      let acc := s.accOf i.2 0 0 p
      if !s.cur.mayIssue acc then s
      else
        let here := p.node == s.mg.node.toNat
        let t := (i.1.countPiece p).addPend { acc := acc, ret := .atomic aop n ext a b sd, sent := !here, fail := none }
        let u := (if here then t
          else t.post { t.reqTo i.2 4 (.load s.core i.2) s.csr.part.toNat s.myAsid p with aop := aop, opa := a, opb := b }).retire
        if ord = .acq then u.startWait (.amoAcq scope i.2) else u
/-- AMO (R435, R436). -/
def execAmo (g : Guard) (op : AmoOp) (ord : Ord) (w : AWid) (scope sd sa sb : Nat) (imm : BitVec 12) (s : State) : Out :=
  s.guarded g fun s =>
    s.issueAtomic ord scope (addOff (s.rs sa) (sx12 imm)) (awSize w) (amoCode op) (w == .i32)
      (w64 ((s.rs sb).toNat % 2 ^ (8 * awSize w))) 0 sd
/-- AMOCAS (R437). -/
def execAmocas (g : Guard) (ord : Ord) (w : AWid) (scope sd sa sb sc : Nat) (imm : BitVec 12) (s : State) : Out :=
  s.guarded g fun s =>
    s.issueAtomic ord scope (addOff (s.rs sa) (sx12 imm)) (awSize w) 0x0A (w == .i32)
      (w64 ((s.rs sb).toNat % 2 ^ (8 * awSize w))) (w64 ((s.rs sc).toNat % 2 ^ (8 * awSize w))) sd

/-- The old value of a performed atomic is written to its destination; FAULTADDR of one that meets poison holds va (R436). -/
def State.fillAtomic (s : State) (p : Pend) (k aop n : Nat) (ext : Bool) (a b : W64) (sd : Nat) : State :=
  let x := s.atomicAt k aop n a.toNat b.toNat s.myAsid p.acc.va
  (match x.2.2 with
   | some _ => x.1.failAt p.acc.id 0x0F (w64 p.acc.va)
   | none => (x.1.dropPend p.acc.id).setS sd (amoOld n ext x.2.1)).settleWait
/-- AMO_RETURN: the outstanding local atomic named args[0] of the running core is performed at its home, in the order of its stream, and its old
value written; poison in its line fails it. An atomic whose line cannot be read is parked, and replayed where the page then stands (R233, R234, R271,
R436); where no leaf is found the atomic fails. An atomic sent to another node returns with its AMORESP. -/
def execAmoReturn (s : State) : Out :=
  .next (
    match s.cur.pend.find? fun p => p.acc.id == s.args.headD 0 with
    | none => s
    | some p =>
      if p.fail.isSome ∨ p.sent ∨ !s.cur.mayPerform p.acc then s
      else
        match p.ret with
        | .atomic aop n ext a b sd =>
          match s.syncAt s.myAsid p.acc with
          | (t, .waits) => t
          | (t, .here k) => t.fillAtomic p k aop n ext a b sd
          | (t, .away q) => t.sendOn p q { t.loadReq p 4 q with aop := aop, opa := a, opb := b }
          | (t, .lost) => (t.failAt p.acc.id 0x12 (w64 p.acc.va)).settleWait
        | _ => s)

/-! ### Barrier instructions (R438 to R444) -/

/-- The checks of the object pointer of a barrier instruction (R438). -/
def State.chkObj (s : State) (w : W64) (peer : Bool) : Chk :=
  let p := ptrOf w
  if ptrBad p || (!peer && !s.ctx.ptrOwn p) || !s.ctx.rankOk p || decide (4194304 < ptrOff p + 16) then some (0x03, some (w64 p))
  else chkAlign (ptrOff p % 16 != 0)
/-- A barrier instruction on the object at a pointer: its operand check, its pointer, poison, then what it does (R438, R301). -/
def State.withObj (s : State) (w : W64) (peer bad : Bool) (ok : State → State) : State :=
  match firstChk [chkIllegal bad, s.chkObj w peer] with
  | some f => s.raiseChk f
  | none =>
    let k := spadKey (s.ptrCore (ptrOf w)) (ptrOff (ptrOf w))
    let r := s.scan k 16 s.myAsid
    match r.2 with
    | some a => r.1.raise 0x0F (w64 (ptrAt (ptrOf w) (a - (k - ptrOff (ptrOf w)) : Nat)))
    | none => ok r.1
/-- BINIT waits until OUTBOUND of an armed object is zero, writes the object and discards the arrivals held for it (R439, R226). No wait on the new
object returns on a count of the old one (R281). -/
def execBinit (g : Guard) (sa sb sc : Nat) (s : State) : Out :=
  s.guarded g fun s =>
    s.withObj (s.rs sa) false (decide (4095 < (s.rs sb).toNat) || decide (15 < (s.rs sc).toNat)) fun t =>
      let off := ptrOff (ptrOf (s.rs sa))
      let o := t.obj t.core off
      if o.ok ∧ o.outb ≠ 0 then s
      else ((t.setObj t.core off (Obj.fresh (s.rs sb).toNat (s.rs sc).toNat)).modCur fun c =>
        { c with act := c.act.setHeld off 0, applied := c.applied.filter fun a => a.1 != off }).retire
/-- BEXPECT adds s[SB] to INBOUND and may flip the object (R440). -/
def execBexpect (g : Guard) (sa sb : Nat) (s : State) : Out :=
  s.guarded g fun s =>
    let n := (s.rs sb).toInt
    s.withObj (s.rs sa) false (!fits32 n) fun t =>
      let off := ptrOff (ptrOf (s.rs sa))
      if !(t.obj t.core off).ok then t.raiseFree 0x0D
      else
        let r := t.countAt t.core off (.expect n)
        if r.2 = .ok then r.1.retire else r.1.raiseFree 0x0E
/-- BARRIVE holds the issue of later bundles while its release completes and its arrival travels (R441). -/
def execBarrive (g : Guard) (scope sa sb : Nat) (s : State) : Out :=
  s.guarded g fun s =>
    s.withObj (s.rs sa) true (decide (15 < (s.rs sb).toNat)) fun t =>
      let p := ptrOf (s.rs sa)
      t.modCur fun c => { c with wait := .barrive (if t.ctx.ptrOwn p then t.csr.rank.toNat else ptrRank p) (ptrOff p) (s.rs sb).toNat scope }
/-- A waiting BARRIVE once its release is done: the arrival is applied, held or logged and issue resumes; an overrun raises BARRIER_OVERRUN, and
a full buffer or log makes it wait (R441, R227, R228, R181). -/
def State.tryBarrive (s : State) : State :=
  match s.cur.wait with
  | .barrive rank off stamp scope =>
    if s.cur.run ≠ .running ∨ !s.relDone scope true then s
    else
      match s.place s.csr.teamId.toNat rank with
      | .here c =>
        let r := s.countAt c off (.arrive stamp)
        match r.2 with
        | .ok => r.1.endWait
        | .overrun => (r.1.modCur fun c => { c with wait := .none }).raiseFree 0x0E
        | .full => s
      | .away => ((s.logFor s.csr.teamId.toNat rank (.arrival off 1 stamp)).map State.endWait).getD s
      | .gone => s
  | _ => s
/-- BARRIVE_APPLIED: the waiting BARRIVE's arrival is applied, held or logged, or it goes on waiting (R441). -/
def execBarriveApplied (s : State) : Out := .next (if s.wakes then s.tryBarrive else s)
/-- The commands whose counts at an object a wait has returned on, and those that completed before them, are joined to the sequencer. sel tells those
counts by their stamp, none for OUTBOUND (R281). -/
def Core.joinApplied (c : Core) (off : Nat) (sel : Option Nat → Bool) : Core :=
  let on (a : Nat × Option Nat × Nat) : Bool := a.1 == off && sel a.2.1
  let tags := (c.applied.filter on).map (·.2.2)
  { c with joined := joinIds c.joined (tags.flatMap fun t => t :: ((c.behind.find? fun b => b.1 == t).map (·.2)).getD []),
           applied := c.applied.filter fun a => !on a }
/-- Whether a count of a stamp was counted in one of the d phases that ended before a generation (R231, R281). -/
def inPhases (gen d : Nat) (stamp : Option Nat) : Bool :=
  stamp.any fun st => decide (1 ≤ wrap 4 ((gen : Int) - st)) && decide (wrap 4 ((gen : Int) - st) ≤ d)
/-- A BWAIT from its first step: a fault, its return, or the wait for GEN to change (R231, R442). -/
def State.startBwait (s : State) : State :=
  match s.cur.wait with
  | .bwait ps pe off g =>
    let k := spadKey s.core off
    let r := s.scan k 16 s.myAsid
    let t := r.1.modCur fun c => { c with wait := .none }
    match r.2 with
    | some a => t.raise 0x0F (w64 (a - spadKey s.core 0))
    | none =>
      let o := r.1.obj s.core off
      let d := wrap 4 ((o.gen : Int) - g)
      if !o.ok then t.raiseFree 0x0D
      else if o.ovr then t.raiseFree 0x0E
      else if 8 ≤ d then t.raiseFree 0x0D
      else if d = 0 then r.1
      else ((((t.setP ps (decide (2 ≤ d))).setP pe o.err)).modCur fun c => c.joinApplied off (inPhases o.gen d)).retire
  | _ => s
/-- A waiting BWAIT looks at its object: it goes on waiting while GEN has not changed, and then starts again at its first step (R231). Poison
stops it (R301). -/
def State.tryBwait (s : State) : State :=
  match s.cur.wait with
  | .bwait _ _ off g =>
    if (s.badB (spadKey s.core off) 16).isEmpty ∧ (s.obj s.core off).gen = g then s else s.startBwait
  | _ => s
/-- BWAIT (R442, R231). The wait shadow starts empty (R285). -/
def execBwait (g : Guard) (ps pe sa sb : Nat) (s : State) : Out :=
  s.guarded g fun s =>
    s.withObj (s.rs sa) false false fun t =>
      (t.modCur fun c => { c with wait := .bwait ps pe (ptrOff (ptrOf (s.rs sa))) (fld (s.rs sb) 3 0), shadow := [],
                                  pend := c.pend.filter fun p => !p.isEarly }).startBwait
/-- BWAIT_WAKE: the waiting BWAIT looks at its object again and returns, faults or goes on waiting (R231). -/
def execBwaitWake (s : State) : Out := .next (if s.wakes then s.tryBwait else s)
/-- One evaluation of a BWAITOUT that waits: it returns when OUTBOUND is zero or ERR is set. Poison stops it, and an object with a reserved bit set,
which is malformed, gives BARRIER_TOKEN as at the other instructions that read one (R443, R230, R301, R4; log 70). -/
def State.tryBwaitout (s : State) : State :=
  match s.cur.wait with
  | .bwaitout off =>
    let r := s.scan (spadKey s.core off) 16 s.myAsid
    let t := r.1.modCur fun c => { c with wait := .none }
    match r.2 with
    | some a => t.raise 0x0F (w64 (a - spadKey s.core 0))
    | none =>
      let o := r.1.obj s.core off
      if o.rsv ≠ 0 then t.raiseFree 0x0D
      else if o.outb = 0 ∨ o.err then (r.1.modCur fun c => c.joinApplied off Option.isNone).endWait
      else r.1
  | _ => s
/-- BWAITOUT (R443). -/
def execBwaitout (g : Guard) (sa : Nat) (s : State) : Out :=
  s.guarded g fun s =>
    s.withObj (s.rs sa) false false fun t =>
      (t.modCur fun c => { c with wait := .bwaitout (ptrOff (ptrOf (s.rs sa))) }).tryBwaitout
/-- BWAITOUT_DONE (R443). -/
def execBwaitoutDone (s : State) : Out := .next (if s.wakes then s.tryBwaitout else s)
/-- BHANDLE: s[SD] is the handle of the object (R444). -/
def execBhandle (g : Guard) (sd sa : Nat) (s : State) : Out :=
  s.guarded g fun s =>
    match s.chkObj (s.rs sa) true with
    | some f => s.raiseChk f
    | none =>
      let p := ptrOf (s.rs sa)
      let rank := if s.ctx.ptrOwn p then s.csr.rank.toNat else ptrRank p
      (s.setS sd (w64 (s.csr.teamId.toNat * 2 ^ 32 + rank * 2 ^ 22 + ptrOff p))).retire

/-! ### Queues and semaphores (R445, R446, R168) -/

/-- The pipeline and stage of the running strand. -/
def State.myStage (s : State) : Nat × Nat := (s.myTeam.map fun t => (t.pipe, t.stage)).getD (0, 0)
/-- QPUT: its checks, and the wait for a slot (R445, R168, R169). -/
def execQput (g : Guard) (sa q : Nat) (s : State) : Out :=
  s.guarded g fun s =>
    let p := s.csr.part.toNat
    let st := s.myStage
    let w := s.rs sa
    let k := s.stOutq p st.1 st.2 q
    let off := ptrOff (ptrOf w)
    let own := if s.ctx.ptrOwn (ptrOf w) ∧ off + 64 ≤ 4194304 then none else some (0x03, some (w64 (ptrOf w)))
    match firstChk [own, chkAlign ((ptrOf w) % 64 != 0),
        if k = 0xFF ∨ s.quLog p st.1 k = 0 then some (0x16, none) else none] with
    | some f => s.raiseChk f
    | none => s.modCur fun c => { c with wait := .qput k none off }
/-- A waiting QPUT that finds room takes slot TAIL, increments TAIL and writes its record there (R168, R445). A slot whose page is absent
holds it with a fault record, and one that cannot be written raises ACCESS_VIOLATION (log 26). -/
def State.tryReserve (s : State) : State :=
  match s.cur.wait with
  | .qput k none off =>
    let p := s.csr.part.toNat
    let q := s.myStage.1
    let a := queueAt p q k
    let tail := s.quTail p q k
    if s.cur.run ≠ .running ∨ 2 ^ s.quLog p q k ≤ diff32 tail (s.quHead p q k) then s
    else
      let va := s.quSlot p q k tail
      let w := s.walked s.myAsid va
      match s.walk s.myAsid va with
      | .absent =>
        if w.moving s.myAsid va ∨ (w.getPart p).waitPages.contains (0x10000 + s.core, va) then w
        else (w.postFault s.myAsid va 2 0).modPart p fun x => { x with waitPages := (0x10000 + s.core, va) :: x.waitPages }
      | .malformed => (w.modCur fun c => { c with wait := .none }).raise 0x03 (w64 va)
      | .leaf e _ _ pa =>
        if pteNode e ≠ s.mg.node.toNat ∨ !pteW e ∨ pteBed e then (w.modCur fun c => { c with wait := .none }).raise 0x03 (w64 va)
        else if s.isCow s.myAsid va ∨ s.moving s.myAsid va then w
        else
          let r := w.carry (spadKey s.core off) 64 s.myAsid
          (((r.1.copyB (pa % 2 ^ 48) (r.1.readB (spadKey s.core off) 64) r.2).setMg (a + 16) 4 ((tail + 1) % 2 ^ 32)).modCur
            fun c => { c with wait := .qput k (some tail) off }).modPart p fun x =>
              { x with waitPages := x.waitPages.filter (·.1 != 0x10000 + s.core) }
  | _ => s
/-- QPUT_RESERVE: the waiting QPUT takes its slot, or goes on waiting (R168). -/
def execQputReserve (s : State) : Out := .next (if s.wakes then s.tryReserve else s)
/-- A QPUT that has its slot, once FENCE.rel.node is done and every lower slot is published: PUB advances over the slot, DISPATCH is raised for the
stage that consumes the queue, and issue resumes (R168, R170). -/
def State.tryPublish (s : State) : State :=
  match s.cur.wait with
  | .qput k (some n) _ =>
    let p := s.csr.part.toNat
    let q := s.myStage.1
    if s.quPub p q k ≠ n ∨ !s.relDone 3 false then s
    else
      let t := s.setMg (queueAt p q k + 20) 4 ((n + 1) % 2 ^ 32)
      let t := if s.quCount p q k = 0 then t.newHead p q k else t
      let t := ((s.stages p q).filter fun x => s.stInq p q x == k).foldl (fun u x => u.slateEvent p 1 1 (64 * q + x) 0) t
      (t.noteReady p).endWait
  | _ => s
/-- A QPUT as it issues with the other members of a timed team: it takes its slot and publishes it (R168, R240). -/
def State.tryQput (s : State) : State := s.tryReserve.tryPublish
/-- QPUT_PUBLISH: the QPUT publishes its slot and issue resumes, or it goes on waiting. A stopped strand publishes the slot that it has reserved; a
running member of a timed team issues with the others (R168, R240). -/
def execQputPublish (s : State) : Out := .next (if s.cur.run = .running ∧ s.csr.timed then s else s.tryPublish)
/-- SEMSIG holds the issue of later bundles until its addition is performed (R446). -/
def execSemsig (g : Guard) (scope sa sb : Nat) (s : State) : Out :=
  s.guarded g fun s =>
    if 255 < (s.rs sa).toNat then s.illegal
    else s.modCur fun c => { c with wait := .semsig (s.rs sa).toNat (fld (s.rs sb) 31 0) scope }
/-- A waiting SEMSIG once its release is done: the addition is performed at the scheduler and issue resumes (R446, R166). -/
def State.trySemsig (s : State) : State :=
  match s.cur.wait with
  | .semsig i n scope =>
    if s.cur.run ≠ .running ∨ !s.relDone scope true then s
    else (s.semAdd s.csr.part.toNat s.myStage.1 i n).endWait
  | _ => s
/-- SEMSIG_DONE: the waiting SEMSIG's addition is performed, or it goes on waiting (R446). -/
def execSemsigDone (s : State) : Out := .next (if s.wakes then s.trySemsig else s)

/-! ### The capacity table (R447, R186, R187) -/

/-- NEXP of the strand's pipeline. -/
def State.nexp (s : State) : Nat := s.mg4 (pipeAt s.csr.part.toNat s.myStage.1 + 4) 2
/-- Whether a CAPGET of the strand is still on its way: the scheduler performs them in program order (R447). -/
def Core.capBusy (c : Core) : Bool := c.pend.any fun p => match p.ret with | .cap _ _ => true | _ => false
/-- CAPADD: LOAD of the entry, saturating (R186). -/
def execCapadd (g : Guard) (sa sb : Nat) (s : State) : Out :=
  s.guarded g fun s =>
    if s.nexp ≤ (s.rs sa).toNat then s.illegal
    else if s.cur.capBusy then s
    else
      let a := capAt s.csr.part.toNat s.myStage.1 (s.rs sa).toNat
      (s.setMg a 4 (min (s.mg4 a 4 + fld (s.rs sb) 31 0) 0xFFFFFFFF)).retire
/-- CAPGET asks for LIMIT of an entry (R186, R447). -/
def execCapget (g : Guard) (sd sa : Nat) (s : State) : Out :=
  s.guarded g fun s =>
    if s.nexp ≤ (s.rs sa).toNat then s.illegal
    else
      let i := s.newId
      (i.1.addPend { acc := { id := i.2, stream := 0, cmd := 0, home := .hub, so := false, keep := false, uno := true, lo := 0, len := 0,
                              va := 0 },
                     ret := .cap sd (s.rs sa).toNat, sent := false, fail := none }).retire
/-- CAPGET_RETURN: the CAPGET named args[0] of the running core is performed at the scheduler, in program order (R187, R447). -/
def execCapgetReturn (s : State) : Out :=
  .next (
    match s.cur.pend.find? fun p => match p.ret with | .cap _ _ => true | _ => false with
    | none => s
    | some p =>
      if p.acc.id ≠ s.args.headD 0 then s
      else
        match p.ret with
        | .cap sd e => ((s.dropPend p.acc.id).setS sd (w64 (s.mg4 (capAt s.csr.part.toNat s.myStage.1 e + 8) 4))).settleWait
        | _ => s)
/-- The update of one entry of a capacity table (R186). -/
def capStep (alpha factor lo hi load ewma : Nat) : Nat × Nat :=
  let e := ((ewma : Int) + ((load : Int) - ewma) / (2 ^ alpha : Nat)).toNat
  (e, min (max ((e * factor + 255) / 256) lo) hi)
/-- CAPUPD: every entry is updated in one step (R186, R187). -/
def execCapupd (g : Guard) (s : State) : Out :=
  s.guarded g fun s =>
    if s.cur.capBusy then s
    else
      let p := s.csr.part.toNat
      let q := s.myStage.1
      let a := pipeAt p q
      ((List.range (min s.nexp 1024)).foldl (fun t e =>
        let c := capAt p q e
        let r := capStep (s.mg4 (a + 1) 1 % 16) (s.mg4 (a + 6) 2) (s.mg4 (a + 8) 4) (s.mg4 (a + 12) 4) (s.mg4 c 4) (s.mg4 (c + 4) 4)
        ((t.setMg c 4 0).setMg (c + 4) 4 r.1).setMg (c + 8) 4 r.2) s).retire

/-! ### The count queue (R448, R235) -/

/-- CQPUSH appends s[SA][31:0]; a full queue raises COUNT_UNDERFLOW (R448). -/
def execCqpush (g : Guard) (sa : Nat) (s : State) : Out :=
  s.guarded g fun s =>
    if 64 ≤ s.cur.counts.length then s.raiseFree 0x0C
    else (s.modCur fun c => { c with counts := c.counts ++ [((s.rs sa).truncate 32, none)] }).retire
/-- CQPUSH.TEAM: the first member at a schedule-counter value settles for all whether every queue has room, and rank 0's value, once no load or atomic
of rank 0's is to write the register; each member then appends it, or raises COUNT_UNDERFLOW (R448, R235, R353). -/
def execCqpushTeam (g : Guard) (sa : Nat) (s : State) : Out :=
  s.guarded g fun s =>
    if !s.csr.timed then s.illegal
    else
      let now := s.csr.schedCtr.toNat
      let cs := (s.myTeam.map (·.cores)).getD [s.core]
      let zero := s.getCore (cs.headD s.core)
      let fresh : Nat × Nat × W32 :=
        (now, (cs.all fun c => decide ((s.getCore c).counts.length < 64)).toNat,
          if sa = 0 then 0 else (Tab.get 0 zero.act.s sa).truncate 32)
      let v : Nat × Nat × W32 := match s.cur.settled with | some x => if x.1 = now then x else fresh | none => fresh
      if zero.awaits [sa] then s
      else
        let t := cs.foldl (fun u c => u.modCore c fun k => { k with settled := some v }) s
        if v.2.1 = 0 then t.raiseFree 0x0C
        else (t.modCur fun c => { c with counts := c.counts ++ [(v.2.2, none)] }).retire

end Sys2Proof.Machine
end

