-- ==== Sys2Proof/Machine/Gateway.lean ====
section
/-!
DEFINITION. The package gateway as a source of requests (R68, R72 to R84, R122, R134, R143, R155): egress, the retransmission store, responses
and failures.
-/
namespace Sys2Proof.Machine

/-! ### Flows of this node (R73, R78) -/

/-- What belongs to a core, done for a core that is not the running one. -/
def State.onCore (s : State) (c : Nat) (f : State → State) : State := { f { s with core := c } with core := s.core }
/-- A flow of this node; a new one numbers from one and owes a SYN (R73, R78). -/
def State.flowOut (s : State) (dest cls stream : Nat) : FlowOut :=
  (s.gate.flowsOut.find? fun f => f.dest == dest && f.cls == cls && f.stream == stream).getD ⟨dest, cls, stream, 1, true, none⟩
/-- The state with a flow of this node replaced. -/
def State.setFlowOut (s : State) (f : FlowOut) : State :=
  { s with gate := { s.gate with flowsOut :=
      f :: s.gate.flowsOut.filter fun g => !(g.dest == f.dest && g.cls == f.cls && g.stream == f.stream) } }
/-- The signed addend of an AMO (R122). -/
def reqAddend (r : Req) : Int := sgn (8 * r.len) r.opa.toNat
/-- Whether an AMO travels in the combined-atomic class (R122). -/
def Req.combines (r : Req) : Bool :=
  r.kind == 4 && r.aop == 1 && (r.len == 4 || r.len == 8) && decide (-32768 ≤ reqAddend r) && decide (reqAddend r ≤ 32767) &&
  r.sync && !r.conf && r.order != 2
/-- CLASS of a request. -/
def Req.cls (r : Req) : Nat := if r.combines then 3 else 0
/-- STREAM of a request; the WRITEs of a page move are strongly ordered whatever the page, and so are EVENTs (R61, R84, R86, R271). -/
def Req.stream (r : Req) : Nat :=
  if r.box.isSome then 2 else if r.order = 2 ∨ r.kind = 0xB then 1 else match r.asker with | .move _ => 1 | _ => 0
/-- The nodes that a request is for: one, or those of its box (R70, R73). -/
def State.targets (s : State) (r : Req) : List Nat :=
  match r.box with
  | some b => s.boxNodes b.1 b.2
  | none => [r.node]
/-- The flows of a request (R73). -/
def State.flowsOf (s : State) (r : Req) : List FlowOut := (s.targets r).map fun n => s.flowOut n r.cls r.stream
/-- The requests of a flow that await an answer (R73). -/
def State.unacked (s : State) (f : FlowOut) : List Stored :=
  s.gate.store.filter fun x => x.cls == f.cls && x.stream == f.stream && (s.targets x.req).contains f.dest
/-- The sender whose requests to a node keep their order at the package gateway (R84). -/
def Asker.source : Asker → Nat
  | .load c _ => c
  | .store c _ => c
  | .engine c _ _ => c
  | .host => 1000
  | .proxy _ => 1001
  | .move _ => 1002
  | .nobody => 1003
/-- Whether the order of a stream's strongly ordered accesses lets a request leave: none of the stream that is outstanding has another home
(R286). -/
def State.soReady (s : State) (r : Req) : Bool :=
  let others := s.gate.egress ++ s.gate.resend ++ s.gate.store.map (·.req)
  match r.asker with
  | .engine c e id =>
    r.order != 2 ||
    (!(others.any fun x => match x.asker with
      | .engine c' e' id' => c' == c && e' == e && decide (id' < id) && x.order == 2 && x.node != r.node
      | _ => false) &&
     !((s.getCore c).accs.any fun a => a.stream == e && a.so && decide (a.id < id) && a.home != .node r.node))
  | .load _ id | .store _ id =>
    (match s.findStrand fun c => c.accs.any fun a => a.id == id with
     | some (_, c) => (match c.accs.find? fun a => a.id == id with | some a => c.mayIssue a | none => true)
     | none => true)
  | _ => true
/-- Whether two requests belong to one strongly ordered flow of this node. -/
def Req.sameOrdered (x r : Req) : Bool := x.stream == 1 && r.stream == 1 && x.node == r.node && x.cls == r.cls && x.id != r.id
/-- The number of a request before another of its strongly ordered flow. -/
def seqBefore (a b : Nat) : Bool := let d := (b + 65536 - a) % 65536; decide (0 < d) && decide (d < 32768)
/-- Whether a request was first sent before another of its flow; one that has not been sent comes behind all that have (R142). -/
def Req.before (x r : Req) : Bool :=
  match x.first, r.first with
  | some a, some b => seqBefore a b
  | some _, none => true
  | none, _ => false
/-- Whether a request waits for others of its strongly ordered flow (R142). One that was answered RETRY waits for every earlier one that is not answered
for good. A new one waits for all that were answered RETRY, and for those whose answer may still be RETRY since an earlier one got it: RETRYs
arrive in any order (R79). -/
def State.behindRetry (s : State) (r : Req) : Bool :=
  ((s.gate.egress ++ s.gate.resend ++ s.gate.store.map (·.req)).any fun x => x.sameOrdered r && decide (0 < x.retries) && x.before r) ||
  (s.gate.store.any fun x => x.req.sameOrdered r && x.req.before r && (x.doubt || decide (0 < r.retries)))
/-- The bytes of the retransmission store in use (R84). -/
def State.storeUsed (s : State) : Nat := (s.gate.store.map fun x => 64 * x.pkt.size).sum
/-- Whether the flows of a request take it now: no SYN unanswered, at most 4,096 unanswered requests and 64 AMOs (R73, R78). -/
def State.flowReady (s : State) (r : Req) : Bool :=
  (s.flowsOf r).all fun f =>
    f.held.isNone && decide ((s.unacked f).length < 4096) &&
    (r.kind != 4 || decide (((s.unacked f).filter fun x => x.req.kind == 4).length < 64))

/-! ### Packets of requests (R62, R84, R124) -/

/-- TAG of a request: its name for a READ or an AMO, else zero (R62). -/
def Req.tag (r : Req) : Nat := if r.kind = 2 ∨ r.kind = 4 then r.id % 65536 else 0
/-- The packet of a request, before its turn list is chosen and before it is sealed: header with SEQ and SYN, body, data. -/
def State.packetOf (s : State) (r : Req) (seq : Nat) (syn : Bool) : Packet :=
  let fl := if r.kind = 1 ∨ r.kind = 0xB then flitsOf r.data else []
  let h := r.node * 2 ^ 112 + s.mg.node.toNat * 2 ^ 96 + endTurns * 2 ^ 64 + r.kind * 2 ^ 60 + r.cls * 2 ^ 58 + r.stream * 2 ^ 53 +
    fl.length % 8 * 2 ^ 49 + syn.toNat * 2 ^ 48 + seq * 2 ^ 32 + (match r.box with | some b => b.2 | none => 0) * 2 ^ 16 + r.order * 2 ^ 14
  let p : Packet := { head := BitVec.ofNat 512 h, flits := fl, bad := r.bad }
  let p := (((p.setB 16 8 r.va).setB 24 2 r.asid).setB 26 2 r.len).setB 28 2 r.tag
  let p := match r.bar with
    | some b => (p.setB 31 1 (128 + b.1)).setB 32 8 b.2.toNat
    | none => p
  if r.kind = 4 then
    ((p.setB 30 1 r.aop).setB 40 8 (if r.combines then wrap 64 (reqAddend r) else r.opa.toNat)).setB 48 8
      (if r.aop = 0xA then r.opb.toNat else 0)
  else p
/-- The slot that seals a packet to a node for a partition: the ACTIVE one of that peer, else the ACTIVE one for any; none where neither exists
or SEALCNT is exhausted (R155). -/
def State.sealSlot (s : State) (part dest : Nat) : Option Nat :=
  let live (k : KeySlot) : Bool := k.st == 2 && k.part == part
  let pick := (s.mg.keys.find? fun e => live e.2 && !e.2.pany && e.2.peer == dest).or (s.mg.keys.find? fun e => live e.2 && e.2.pany)
  match pick with
  | some e => if 2 ^ 40 ≤ e.2.cnt then none else some e.1
  | none => none

/-! ### Failures (R80) -/

/-- A host request that waited for another node completes (R145). -/
def State.hostDone (s : State) (code : Nat) (data : List Byte) : State :=
  { s with mg := { s.mg with hostOut := s.mg.hostOut ++ [.done code data], hostWait := none } }
/-- The completion of a host request that failed at another node with a code (R145): completion codes are 0 OK, 1 NOT_READY, 2 ACCESS,
3 PAGE_ABSENT, 4 CONF, 5 POISON, 6 MALFORMED, 7 REFUSED. -/
def hostCode (code : Nat) (exhausted : Bool) : Nat := if exhausted then 2 else if code = 8 then 5 else if code = 0xC then 1 else 2
/-- The writes of a request that are still outstanding end with its failure: one, or one for each node of a box (R72, R80). -/
def State.endAll (s : State) (va : W64) : List Nat → Option State
  | [] => some s
  | id :: ids => (s.endWrite id (some va)).bind fun t => t.endAll va ids
/-- The names of the outstanding writes of a request, its box's from the first on. -/
def State.writeIds (s : State) (r : Req) (first : Nat) : List Nat := (List.range (s.targets r).length).map (first + ·)
/-- A job of the ingress. -/
def State.job (s : State) (id : Nat) : Option Job := s.gate.jobs.find? fun j => j.id == id
/-- A job of the ingress replaced. -/
def State.setJob (s : State) (j : Job) : State :=
  { s with gate := { s.gate with jobs := s.gate.jobs.map fun x => if x.id = j.id then j else x } }
/-- A load or an atomic of a strand has failed at its home; a read that a wait shadow has sent is dropped, and its bundle makes its own (R213,
R285). -/
def State.loadFailed (s : State) (id : Nat) (va : W64) : State :=
  match s.cur.pend.find? fun p => p.acc.id == id with
  | none => s
  | some p => if p.isEarly then s.dropPend id else (s.failAt id 0x12 va).settleWait
/-- The data of a strand's load have returned from another node. What a wait shadow has sent early is kept for its bundle (R213, R285). -/
def State.loadDone (s : State) (id : Nat) (bs : List Byte) : State :=
  match s.cur.pend.find? fun p => p.acc.id == id with
  | none => s
  | some p =>
    match p.ret with
    | .early pc => (s.dropPend id).modCur fun c => { c with shadow := c.shadow ++ [(pc, p.acc.va, bs)] }
    | _ => ((s.dropPend id).fillLoad p.ret bs).settleWait
/-- What a failed request means to its asker: REMOTE_ERROR in a strand, ERR or a later report for a write, a stopped iteration, the host's
completion, or the NACK of the request that it was a proxy of (R80, R272). none while a log has no room. For a proxied
request the code, ACCESS for exhaustion, is left with its job (stage 16 + code), which then answers. A page move that fails is
given up (R271). -/
def State.tellAsker (s : State) (r : Req) (code : Nat) (exhausted : Bool) : Option State :=
  match r.asker with
  | .load c id =>
    some (s.onCore c fun t => t.loadFailed id (w64 r.va))
  | .store _ id => s.endAll (w64 r.va) (s.writeIds r id)
  | .engine c _ id => some (s.engineReadFailed c id r.va)
  | .host => some (s.hostDone (hostCode code exhausted) [])
  | .proxy j => some (match s.job j with | some x => s.setJob { x with stage := 16 + (if exhausted then 1 else code) } | none => s)
  | .move m => some { s with msys := { s.msys with moves := s.msys.moves.map fun x =>
      if x.asid * 2 ^ 39 + x.va / 2 ^ 16 = m then { x with toNode := none } else x } }
  | .nobody => some s
/-- A failed request: its event to the partition that owns the source's ASID, and what it means to its asker (R80, R86, R87). Exhaustion by RETRYs has
CODE 2, by retransmissions 0. -/
def State.failReq (s : State) (r : Req) (seq code : Nat) (exhausted : Bool) : Option State :=
  (s.tellAsker r code exhausted).map fun t => t.failEvent r.part r.asid r.va r.node code exhausted (seqTag seq r.tag)

/-! ### Egress (R84) -/

/-- The request at a place of the egress queue has left it. -/
def State.dropEgress (s : State) (i : Nat) : State := { s with gate := { s.gate with egress := dropAt s.gate.egress i } }
/-- The packet that is injected: on a chosen list, of a strongly ordered stream the lowest valid one; none where no list is valid (R68). -/
def State.listed (s : State) (p : Packet) : Option (State × Packet) :=
  if p.dest = s.mg.node.toNat then some (s, p.setF 95 64 endTurns)
  else if p.stream = 1 then (s.listsTo p.dest).head?.map fun i => (s, s.withList p i)
  else s.rotated p
/-- A packet's copy stands in the retransmission store, its flows advance, and it enters the router (R73, R78, R84). -/
def State.sendStored (s : State) (r : Req) (p : Packet) (seq : Nat) (syn : Bool) : State :=
  let x : Stored := { pkt := p, req := { r with first := some (r.first.getD seq) }, dest := r.node, cls := r.cls, stream := r.stream, seq := seq, sentAt := s.now, again := 0, acks := [] }
  let t := (s.flowsOf r).foldl (fun t f =>
    t.setFlowOut { f with next := (seq + 1) % 65536, syn := false, held := if syn then some seq else f.held }) s
  ({ t with gate := { t.gate with store := t.gate.store ++ [x] } }).enter p
/-- A packet as it takes its turn list, and as it will be when it is sealed: with the cipher flit, so that a list is passed over that lacks credits
for the whole packet (R68, R82). -/
def Packet.padded (p : Packet) (sealed : Bool) : Packet := { p with flits := p.flits ++ if sealed then [0] else [] }
/-- PACKAGE_GATEWAY_EGRESS: the request at place args[0] of the egress queue, the first of its source to its node, is made into a packet: ORD,
CIPHER, STREAM and class, SEQ, turn list, sealing; a copy is kept (R84, R68, R73, R78, R82, R122, R155). With no valid list it
fails LINK_DOWN, with no key AUTH. A copy takes 64 bytes of the store for each flit, and an injection waits until one flit more than it has
is free (log 68). -/
def execPackageGatewayEgress (s : State) : Out :=
  .next (
    let i := s.args.getD 0 0
    match s.gate.egress[i]? with
    | none => s
    | some r =>
      let ahead := (s.gate.egress.take i).any fun x => x.asker.source == r.asker.source && x.node == r.node
      let fs := s.flowsOf r
      let seq := fs.foldl (fun m f => max m f.next) 0
      let syn := fs.any (·.syn)
      let p := s.packetOf r seq syn
      if ahead ∨ !s.soReady r ∨ s.behindRetry r ∨ !s.flowReady r ∨ 16777216 < s.storeUsed + 64 * (p.size + 1) then s
      else
        let t := s.dropEgress i
        match t.listed (p.padded r.conf) with
        | none => (t.failReq r 0 0xB false).getD s
        | some (u, v) =>
          let q : Packet := { v with flits := p.flits }
          if r.conf then
            match u.sealSlot r.part r.node with
            | none => (t.failReq r 0 5 false).getD s
            | some k => let x := u.sealWith k q; x.1.sendStored r x.2 seq syn
          else u.sendStored r q seq syn)

/-! ### Retransmission (R76, R143) -/

/-- The state with the stored request at a place replaced, or removed. -/
def State.setStored (s : State) (i : Nat) (x : Option Stored) : State :=
  { s with gate := { s.gate with store := match x with | some y => s.gate.store.set i y | none => dropAt s.gate.store i } }
/-- A stored request is answered or has failed: it leaves the store, and a flow whose SYN it was sends again (R78, R84). -/
def State.dropStored (s : State) (i : Nat) : State :=
  match s.gate.store[i]? with
  | none => s
  | some x =>
    (s.flowsOf x.req).foldl (fun t f => if f.held = some x.seq then t.setFlowOut { f with held := none } else t) (s.setStored i none)
/-- The valid list after list n in rotation (R76). -/
def State.nextList (s : State) (dest n : Nat) : Option Nat := (s.listsFrom dest (n + 1)).head?
/-- Whether a flow of a stored request awaits the answer to the SYN of another, so that the request is not sent now (R78). -/
def State.synHeld (s : State) (x : Stored) : Bool := (s.flowsOf x.req).any fun f => f.held.isSome && f.held != some x.seq
/-- A stored request is sent again with its SEQ on the next valid list, once its flow awaits no other's SYN, or fails: RETRY_EXHAUSTED after 7
retransmissions, LINK_DOWN for want of a list (R76, R68, R78). -/
def State.sendAgain (s : State) (i : Nat) : State :=
  match s.gate.store[i]? with
  | none => s
  | some x =>
    if 7 ≤ x.again then ((s.dropStored i).failReq x.req x.seq 0 true).getD s
    else
      let again (t : State) (p : Packet) : State :=
        if s.synHeld x then s else (t.setStored i (some { x with pkt := p, sentAt := s.now, again := x.again + 1 })).enter p
      if x.pkt.dest = s.mg.node.toNat then again s x.pkt
      else
        match s.nextList x.pkt.dest (x.pkt.f 56 55) with
        | some l => again s (s.withList x.pkt l)
        | none => ((s.dropStored i).failReq x.req x.seq 0xB false).getD s
/-- RETRANSMIT: the stored request at place args[0] has had no response for 32 µs (R76). -/
def execRetransmit (s : State) : Out :=
  .next (
    let i := s.args.getD 0 0
    match s.gate.store[i]? with
    | none => s
    | some x => if s.now < x.sentAt + 32000 then s else s.sendAgain i)
/-- RETRY_BACKOFF: the request at place args[0] of those answered RETRY is handed to egress again, as a new request, when its back-off ends (R77,
R143); requests of a strongly ordered flow go in their original order (R142). -/
def execRetryBackoff (s : State) : Out :=
  .next (
    let i := s.args.getD 0 0
    match s.gate.resend[i]? with
    | none => s
    | some r =>
      if s.now < r.due then s
      else
        let q := s.gate.egress
        let before (x : Req) : Bool := decide (0 < x.retries) && x.before r
        { s with gate := { s.gate with resend := dropAt s.gate.resend i,
                                       egress := q.filter before ++ [r] ++ q.filter fun x => !before x } })

/-! ### Responses at the source (R63, R72, R80, R134, R471) -/

/-- The place of the stored request that a response of a flow and SEQ answers: by node, or by the node of a box (R134, R471, R72). -/
def State.matching (s : State) (p : Packet) (seq : Nat) : Option Nat :=
  s.gate.store.findIdx? fun x =>
    x.seq == seq && x.cls == p.b31 % 4 && x.stream == p.stream &&
    (if x.req.box.isSome then (x.pkt.dest == p.src && p.kind == 7) || (s.targets x.req).contains p.src else x.dest == p.src)
/-- A write of a request is acknowledged by a node: its bytes leave OUTBOUND; a request is complete when every node has answered (R72,
R230). none while a log has no room. -/
def State.ackStored (s : State) (i node : Nat) : Option State :=
  match s.gate.store[i]? with
  | none => some s
  | some x =>
    let ts := s.targets x.req
    if x.acks.contains node then some s
    else
      let k := (ts.findIdx? (· == node)).getD 0
      let told := match x.req.asker with
        | .store _ id => s.endWrite (id + k) none
        | .host => some (s.hostDone 0 [])
        | .proxy j => some (match s.job j with | some y => s.setJob { y with stage := 4 } | none => s)
        | _ => some s
      told.map fun t =>
        if x.acks.length + 1 < ts.length then t.setStored i (some { x with acks := node :: x.acks }) else t.dropStored i
/-- The numbers that an ACK or FLUSHACK acknowledges (R63). -/
def Packet.acked (p : Packet) : List Nat :=
  ((List.range 32).filter fun i => i == 0 || (p.b 32 4).testBit i).map fun i => (p.seq + i) % 65536
/-- Every request that an ACK or FLUSHACK covers is acknowledged; none while a log has no room for one of them. -/
def State.ackAll (s : State) (p : Packet) : List Nat → Option State
  | [] => some s
  | n :: ns =>
    match s.matching p n with
    | none => s.ackAll p ns
    | some i => (s.ackStored i p.src).bind fun t => t.ackAll p ns
/-- The packet at a place of the gateway, if it is a response of a kind whose sealing, where it is sealed, opens (R82, R83, R155); a sealed one
that does not open is discarded. So is a malformed response, for which the spec names no answer, with neither log nor NACK (log 49). -/
def State.takeResp (s : State) (i kind : Nat) (f : State → Packet → Option State) : State :=
  match s.gate.inbox[i]? with
  | none => s
  | some (p, _) =>
    if p.kind ≠ kind ∨ ((kind = 5 ∨ kind = 7) ∧ p.b31 % 4 = 3 ∧ 2 ≤ p.b 32 1) then s
    else
      let t : State := { s with gate := { s.gate with inbox := dropAt s.gate.inbox i } }
      if p.headBad then t
      else if p.cipher then (match t.openWith p with | some q => (f t q).getD s | none => t)
      else (f t p).getD s
/-- ACK: the requests that its ACKMAP covers are acknowledged (R79, R72). -/
def execAckPacket (s : State) : Out := .next (s.takeResp (s.args.getD 0 0) 6 fun t p => t.ackAll p p.acked)
/-- FLUSHACK: the flush and every earlier request that its ACKMAP covers are acknowledged (R79). -/
def execFlushAck (s : State) : Out := .next (s.takeResp (s.args.getD 0 0) 9 fun t p => t.ackAll p p.acked)
/-- The data of a READ reach its asker (R428, R364, R145, R272). A proxied request keeps them with its job. -/
def State.readDone (s : State) (r : Req) (bs : List Byte) : State :=
  match r.asker with
  | .load c id => s.onCore c fun t => t.loadDone id bs
  | .engine c _ id => s.engineData c id r.va bs []
  | .host => s.hostDone 0 bs
  | .proxy j => match s.job j with
    | some y => s.setJob { y with stage := 4, pkt := { y.pkt with
        flits := flitsOf bs ++ (if y.pkt.cipher then y.pkt.flits.drop (y.pkt.flits.length - 1) else []) } }
    | none => s
  | _ => s
/-- READRESP: the READ that it matches by flow and SEQ is complete (R471). -/
def execReadResp (s : State) : Out :=
  .next (s.takeResp (s.args.getD 0 0) 3 fun t p =>
    match t.matching p p.seq with
    | none => some t
    | some i =>
      match t.gate.store[i]? with
      | some x => if x.req.kind = 2 then some ((t.dropStored i).readDone x.req (fit x.req.len (p.data.take p.dataLen))) else some t
      | none => some t)
/-- The old value of an AMO, of LEN bytes, reaches its asker (R436, R272). -/
def State.amoDone (s : State) (r : Req) (old : Nat) : State :=
  match r.asker with
  | .load c id =>
    s.onCore c fun t => match t.cur.pend.find? fun p => p.acc.id == id with
      | some p =>
        (match p.ret with
         | .atomic _ n ext _ _ sd => ((t.dropPend id).setS sd (amoOld n ext old)).settleWait
         | _ => t)
      | none => t
  | .proxy j => match s.job j with
    | some y => s.setJob { y with stage := 4, pa := old }
    | none => s
  | _ => s
/-- AMORESP: the AMO that it matches by flow and SEQ is complete with its first reply (R134). -/
def execAmoResp (s : State) : Out :=
  .next (s.takeResp (s.args.getD 0 0) 5 fun t p =>
    match t.matching p p.seq with
    | none => some t
    | some i =>
      match t.gate.store[i]? with
      | some x => if x.req.kind = 4 then some ((t.dropStored i).amoDone x.req (p.b 40 8 % 2 ^ (8 * x.req.len))) else some t
      | none => some t)
/-- A request has been answered RETRY: those that its strongly ordered flow sent after it may be answered RETRY too (R142). -/
def State.doubtAfter (s : State) (r : Req) : State :=
  let mark (y : Stored) : Stored := if y.req.sameOrdered r && r.before y.req then { y with doubt := true } else y
  { s with gate := { s.gate with store := s.gate.store.map mark } }
/-- A NACK to the stored request at a place: RETRY and LINK_DOWN are the gateway's; NOT_READY makes the next request of every flow to the node
carry SYN; every code but RETRY and LINK_DOWN fails the request, a code never sent as MALFORMED (R76 to R81, R143). -/
def State.nacked (s : State) (i code : Nat) : Option State :=
  match s.gate.store[i]? with
  | none => some s
  | some x =>
    let code := if code = 0 ∨ 0xC < code then 9 else code
    if code = 2 then
      let n := x.req.retries + 1
      let t := s.dropStored i
      let u := t.doubtAfter x.req
      if 32 ≤ n then u.failReq x.req x.seq 2 true
      else some { u with gate := { u.gate with
        resend := u.gate.resend ++ [{ x.req with retries := n, due := s.now + 1000 * min (2 ^ (n - 1)) 64 }] } }
    else if code = 0xB then
      let l := x.pkt.dest * 4 + x.pkt.f 56 55
      some (({ s with gate := { s.gate with lists := Tab.put 0 s.gate.lists l (Tab.get 0 s.gate.lists l % 2 ^ 31) } } : State).sendAgain i)
    else
      let t := s.dropStored i
      let u := if code = 0xC then
          { t with gate := { t.gate with flowsOut := t.gate.flowsOut.map fun f => if f.dest = x.dest then { f with syn := true } else f } }
        else t
      u.failReq x.req x.seq code false
/-- NACK: the request that it matches is handled by its code (R80). -/
def execNackPacket (s : State) : Out :=
  .next (s.takeResp (s.args.getD 0 0) 7 fun t p =>
    match t.matching p p.seq with
    | none => some t
    | some i => t.nacked i p.code)

end Sys2Proof.Machine
end

