-- ==== Sys2Proof/Machine/Pages.lean ====
section
/-!
DEFINITION. Pages: their entries in the tables (R250, R255), pools of frames and move counts (R270, R273), and what a shoot-down marks and waits
for (R265 to R267).
-/
namespace Sys2Proof.Machine

/-! ### Entries and leaves -/

/-- The level and key of the entry that maps a page, or would map it: its level-3 entry, or the block that covers it; none where a table is
missing (R250, R255). -/
def State.pageEntry (s : State) (asid va : Nat) : Option (Nat × Nat) :=
  match s.pteAt asid va 3 with
  | some k => some (3, k)
  | none =>
    match s.pteAt asid va 2 with
    | some k =>
      let e := w64 (s.readN k 8)
      if pteV e ∧ (pteR e ∨ pteW e ∨ pteX e) then some (2, k) else none
    | none => none
/-- The entry at a key. -/
def State.pte (s : State) (k : Nat) : W64 := w64 (s.readN k 8)
/-- An entry written whole. -/
def State.setPte (s : State) (k : Nat) (e : W64) : State := s.writeN k 8 e.toNat
/-- A PTE with bits hi to lo replaced. -/
def pteWith (e : W64) (hi lo v : Nat) : W64 := w64 (setFld e.toNat hi lo v)
/-- Whether an entry is a valid leaf. -/
def isLeaf (e : W64) : Bool := pteV e && (pteR e || pteW e || pteX e)
/-- Whether a leaf of a level breaks R250, R252 or R253 in an address space of partition p. -/
def State.leafBad (s : State) (p level : Nat) (e : W64) : Bool :=
  !isLeaf e || fld e 15 12 != 0 || (level == 2 && (nfld (fld e 63 16) 12 0 != 0 || pteMig e || pteContig e)) || !s.leafOk p e
/-- The indices of the entries of a table frame that are not all zero, ascending. -/
def State.usedEntries (s : State) (frame : Nat) : List Nat :=
  let base := frame * 65536
  ((s.mem.filter fun e => decide (base ≤ e.1) && decide (e.1 < base + 65536)).map fun e => (e.1 - base) / 8).eraseDups
/-- The valid leaves below the table in a local frame, as address, level and entry; fuel bounds the levels. -/
def State.leavesFrom (s : State) : Nat → Nat → Nat → Nat → List (Nat × Nat × W64)
  | 0, _, _, _ => []
  | f + 1, level, va, frame =>
    (s.usedEntries frame).flatMap fun i =>
      let e := s.pte (frame * 65536 + 8 * i)
      let a := va + i * (if level = 1 then 2 ^ 42 else if level = 2 then 2 ^ 29 else 2 ^ 16)
      if !pteV e then []
      else if isLeaf e then [(a, level, e)]
      else if level = 3 then [] else s.leavesFrom f (level + 1) a (fld e 47 16)
/-- The valid leaves of an address space. -/
def State.leaves (s : State) (asid : Nat) : List (Nat × Nat × W64) :=
  let e := s.asidEntry asid
  if pteV e then s.leavesFrom 3 1 0 (fld e 47 16) else []
/-- The address spaces of a partition. -/
def State.asidsOf (s : State) (p : Nat) : List Nat :=
  let base := mgKey 0x20000000
  (((s.mem.filter fun e => decide (base ≤ e.1) && decide (e.1 < base + 8 * 65536)).map fun e => (e.1 - base) / 8).eraseDups).filter
    fun a => pteV (s.asidEntry a) && asidPart (s.asidEntry a) == p
/-- Whether a leaf of a partition maps one of n local frames from a frame on; with n = 1, whether one maps the frame. -/
def State.framesMapped (s : State) (p frame n : Nat) : Bool :=
  (s.asidsOf p).any fun a => (s.leaves a).any fun l =>
    let m := if l.2.1 = 2 then 8192 else 1
    pteNode l.2.2 == s.mg.node.toNat && decide (pteFrame l.2.2 < frame + n) && decide (frame < pteFrame l.2.2 + m)

/-! ### Pools and move counts (R255, R270, R273) -/

/-- The tier of a frame: 0 HBM, 1 LP tier. -/
def frameTier (frame : Nat) : Nat := if frame * 65536 < 2 ^ 41 then 0 else 1
/-- A frame is taken from the migration pool of a partition and tier. -/
def State.takeFrame (s : State) (p tier : Nat) : Option (State × Nat) :=
  match s.msys.pools.find? fun f => f.1 == p && f.2.1 == tier with
  | some f => some ({ s with msys := { s.msys with pools := s.msys.pools.filter (· != f) } }, f.2.2)
  | none => none
/-- A frame joins the migration pool of a partition. -/
def State.putFrame (s : State) (p frame : Nat) : State :=
  let f := (p, frameTier frame, frame)
  if s.msys.pools.contains f then s else { s with msys := { s.msys with pools := s.msys.pools ++ [f] } }
/-- Frames join the migration pool of a partition. -/
def State.putFrames (s : State) (p : Nat) (fs : List Nat) : State := fs.foldl (fun t f => t.putFrame p f) s
/-- MIGTHRESH (R270). -/
def State.migThresh (s : State) : Nat := (s.mg.cfg.map (·.migthresh)).getD 64
/-- MIGMAX (R51). -/
def State.migMax (s : State) : Nat := (s.mg.cfg.map (·.migmax)).getD 3
/-- The frames of a block of 512 MiB are taken from the migration pool of a partition and tier (R250, R304). -/
def State.takeBlock (s : State) (p tier : Nat) : Option (State × Nat) :=
  let have_ (f : Nat) : Bool := s.msys.pools.contains (p, tier, f)
  match s.msys.pools.find? fun f => f.1 == p && f.2.1 == tier && f.2.2 % 8192 == 0 && (List.range 8192).all fun i => have_ (f.2.2 + i) with
  | some f =>
    let mine (g : Nat × Nat × Nat) : Bool := g.1 == p && g.2.1 == tier && g.2.2 / 8192 == f.2.2 / 8192
    some ({ s with msys := { s.msys with pools := s.msys.pools.filter fun g => !mine g } }, f.2.2)
  | none => none
/-- The count and window start of a page with one more move: a move 10 ms or more after the window start begins a new window (R273). -/
def State.moveCount (s : State) (asid va : Nat) : Nat × Nat :=
  match s.msys.moveCnt.find? fun e => e.1 == asid && e.2.1 == va with
  | some (_, _, c, w) => if w + 10000000 ≤ s.now then (1, s.now) else (c + 1, w)
  | none => (1, s.now)
/-- The move count and window start of a page are set: they come with the page from home to home (R273). -/
def State.setMove (s : State) (asid va cnt start : Nat) : State :=
  { s with msys := { s.msys with
      moveCnt := (asid, va, cnt, start) :: s.msys.moveCnt.filter fun e => !(e.1 == asid && e.2.1 == va) } }
/-- The move count of a page is reset (R273). -/
def State.resetMove (s : State) (asid va : Nat) : State :=
  { s with msys := { s.msys with moveCnt := s.msys.moveCnt.filter fun e => !(e.1 == asid && e.2.1 == va) } }
/-- The move table entry of a page (R271). -/
def State.moveOf (s : State) (asid va : Nat) : Option Move :=
  s.msys.moves.find? fun m => m.asid == asid && m.va == va / 65536 * 65536
/-- The state without a page's move table entry. -/
def State.dropMove (s : State) (asid va : Nat) : State :=
  { s with msys := { s.msys with moves := s.msys.moves.filter fun m => !(m.asid == asid && m.va == va / 65536 * 65536) } }

/-! ### Shoot-down (R265 to R267) -/

/-- Whether two ranges share an address. -/
def meets (a n b m : Nat) : Bool := decide (a < b + m) && decide (b < a + n)
/-- The bytes that an extent covers. -/
def Extent.bytes (e : Extent) : Nat := 4096 * e.units
/-- The extents of a team with those of some pages STALE; a bedrock extent of a running task stays (R265, R267). -/
def Team.shot (t : Team) (va n : Nat) : Team :=
  let hit (e : Extent) : Bool := meets e.vbase e.bytes va n
  { t with exts := t.exts.map fun e => if hit e && !(e.bedrock && t.phase != Phase.saved) then { e with stale := true } else e,
           pset := t.pset.map fun e => if hit e && !(e.bedrock && t.phase != Phase.saved) then { e with stale := true } else e }
/-- Every translation of n pages is marked STALE (R265 step 1). -/
def State.markStale (s : State) (asid va pages : Nat) : State :=
  { s with teams := s.teams.map fun t => if t.asid = asid then t.shot va (65536 * pages) else t }
/-- The running tasks that hold a bedrock extent of some pages: they defer a shoot-down (R267). -/
def State.deferrers (s : State) (asid va pages : Nat) : List Nat :=
  (s.teams.filter fun t => t.asid == asid && t.phase != .saved &&
    (t.exts ++ t.pset).any fun e => e.bedrock && meets e.vbase e.bytes va (65536 * pages)).map (·.id)
/-- Images of shot-down pages lose their residency, at once where no running task holds them (R267, R269). -/
def State.dropImages (s : State) (p asid va pages : Nat) : State :=
  let mark (m : Image) : Image :=
    if m.asid = asid ∧ meets m.va (65536 * m.size) va (65536 * pages) then { m with drop := [none] } else m
  let t := s.modPart p fun x => { x with images := x.images.map mark }
  t.modPart p fun x => { x with images := x.images.filter fun m => m.drop.isEmpty || t.imageHeld p m }
/-- A shoot-down of n pages begins (R265, R267). -/
def State.shoot (s : State) (p asid va pages : Nat) (sem : Option (Nat × Nat)) : State :=
  let x : Shoot := { part := p, asid := asid, va := va, pages := pages, sem := sem, acked := false, waits := s.deferrers asid va pages }
  let t := (s.markStale asid va pages).dropImages p asid va pages
  { t with msys := { t.msys with shoots := t.msys.shoots ++ [x] } }
/-- Whether an access translated through an old entry of some pages is not yet performed: on its way from a core, in an engine's
iteration, on the die network, or passed by the ingress. What is parked is walked again, and what was handed to the fabric
counts as performed (R265, R234). -/
def State.inFlight (s : State) (asid va pages : Nat) : Bool :=
  let hit (a n : Nat) : Bool := meets a n va (65536 * pages)
  let parked (id : Nat) : Bool := s.dies.any fun d => d.2.parked.any fun e => e.1 == id
  let held (it : Iter) : Bool := !it.moved && (it.src ++ it.dst).any fun p =>
    p.node == s.mg.node.toNat && hit p.va p.len && (p.bed || !parked it.cmd.id)
  (s.teams.any fun t => t.asid == asid && t.phase != .saved && t.cores.any fun c =>
    let x := s.getCore c
    (x.pend.any fun p => p.fail.isNone && !p.sent && decide (p.acc.lo < 2 ^ 48) && hit p.acc.va p.acc.len && !parked p.acc.id) ||
    [x.el, x.em, x.es].any fun e => e.run.any held || e.ldw.any held) ||
  (s.msys.flights.any fun f => f.dest.isNone && f.asid == asid && hit f.acc.va f.acc.len && !parked f.acc.id) ||
  (s.gate.jobs.any fun j => j.stage == 1 && j.pkt.asid == asid && hit j.pkt.va j.pkt.len && !parked j.id)

end Sys2Proof.Machine
end

