-- ==== Sys2Proof/Machine/Ingress.lean ====
section
/-!
DEFINITION. The ingress (R74, R78, R79, R85, R130 to R142, R272): flow windows, the checks of an accepted request, registration windows, the hold
buffer, proxies, and requests as they are performed and answered.
-/
namespace Sys2Proof.Machine

/-! ### Flows that reach this node (R74, R78) -/

/-- A flow that reaches this node. -/
def State.flowIn (s : State) (src cls stream : Nat) : Option FlowIn :=
  s.gate.flowsIn.find? fun f => f.src == src && f.cls == cls && f.stream == stream
/-- The state with a flow that reaches this node replaced. -/
def State.setFlowIn (s : State) (f : FlowIn) : State :=
  let others := s.gate.flowsIn.filter fun g => !(g.src == f.src && g.cls == f.cls && g.stream == f.stream)
  { s with gate := { s.gate with flowsIn := f :: others } }
/-- The flow's state as an arriving request finds it: a SYN other than a retransmission of the opening one within 10 ms empties it, and a flow
without state opens (R78). -/
def State.flowFor (s : State) (src cls stream seq : Nat) (syn : Bool) : FlowIn :=
  let fresh : FlowIn := ⟨src, cls, stream, seq, [], [], [], some seq, s.now⟩
  match s.flowIn src cls stream with
  | none => fresh
  | some f => if syn ∧ !(f.openSeq == some seq && decide (s.now ≤ f.openAt + 10000000)) then fresh else f
/-- What an arriving request is to its flow (R74). -/
inductive Arrived where
  | new | pending | performed | nacked (code : Nat) | ancient
  deriving DecidableEq, Repr
/-- The outcome recorded for a number. -/
def FlowIn.outcome (f : FlowIn) (seq : Nat) : Option Nat := (f.outcomes.find? fun e => e.1 == seq).map (·.2)
/-- A duplicate by the outcome of its original; ancient where none is recorded (R74). -/
def FlowIn.dup (f : FlowIn) (seq : Nat) : Arrived :=
  match f.outcome seq with
  | none => .ancient
  | some 0 => .pending
  | some 1 => .performed
  | some (n + 2) => .nacked n
/-- The classification of a number (R74). -/
def FlowIn.classify (f : FlowIn) (seq : Nat) : Arrived :=
  let d := (seq + 65536 - f.next) % 65536
  if d < 4096 then (if f.accepted.contains seq then f.dup seq else .new)
  else if 61440 ≤ d then f.dup seq
  else .ancient
/-- NEXT past every accepted number; fuel bounds them. -/
def advanceNext : Nat → Nat → List Nat → Nat × List Nat
  | 0, n, as => (n, as)
  | f + 1, n, as => if as.contains n then advanceNext f ((n + 1) % 65536) (as.filter (· != n)) else (n, as)
/-- The flow with a number accepted and its outcome pending; outcomes more than 4,096 below NEXT are forgotten (R74). -/
def FlowIn.accept (f : FlowIn) (seq : Nat) : FlowIn :=
  let r := advanceNext 4097 f.next (seq :: f.accepted)
  { f with next := r.1, accepted := r.2,
           outcomes := ((seq, 0) :: f.outcomes.filter fun e => e.1 != seq).filter fun e =>
             decide ((r.1 + 65536 - e.1) % 65536 ≤ 4096) || decide ((e.1 + 65536 - r.1) % 65536 < 4096) }
/-- The outcome of a number is recorded (R74). -/
def State.setOutcome (s : State) (src cls stream seq outc : Nat) : State :=
  match s.flowIn src cls stream with
  | none => s
  | some f => s.setFlowIn { f with outcomes := f.outcomes.map fun e => if e.1 = seq then (seq, outc) else e }
/-- The reply to an AMO is kept: the last 64 of a flow (R74). -/
def State.setReply (s : State) (src cls stream seq : Nat) (old : W64) : State :=
  match s.flowIn src cls stream with
  | none => s
  | some f => s.setFlowIn { f with replies := ((seq, old) :: f.replies).take 64 }
/-- An ancient duplicate is dropped, counted against its port and logged with ANCIENT_DUP (R74, R87). -/
def State.ancientDup (s : State) (src seq tag asid va port : Nat) : State :=
  let n := Tab.get 0 s.gate.ancient port + 1
  (({ s with gate := { s.gate with ancient := Tab.put 0 s.gate.ancient port n } } : State).logErr (portRing port)
    { kind := 0x0A, node := src, asid := asid, addr := va, port := port, arg0 := n }).raiseRing 1
    { kind := 5, port := port, peer := src, asid := asid, seqtag := seqTag seq tag, addr := va, arg0 := n }

/-! ### Registration windows (R137 to R140) -/

/-- The management address of a registration window. -/
def winAt (w : Nat) : Nat := 0x20100000 + 0x20 * w
/-- A registration window as a number. -/
def State.win (s : State) (w : Nat) : Nat := s.mg4 (winAt w) 32
/-- STATE of a window: 0 free, 1 open, 2 closing, 3 closed. -/
def winState (n : Nat) : Nat := nfld n 207 206
/-- INFLIGHT of a window. -/
def winFlight (n : Nat) : Nat := nfld n 95 64
/-- Whether a window covers a request (R138). -/
def winCovers (n : Nat) (q : Packet) : Bool :=
  let mask := nfld n 223 208
  let base := nfld n 166 128 * 65536
  winState n != 0 && nfld n 255 240 == q.asid && (q.src &&& mask) == (nfld n 239 224 &&& mask) && decide (base ≤ q.va) &&
  decide (q.va + q.len ≤ base + nfld n 127 96 * 65536)
/-- Whether a window permits a request's kind. -/
def winPermits (n : Nat) (q : Packet) : Bool :=
  nfld n 205 205 == 1 && q.kind == 2 || nfld n 204 204 == 1 && q.kind == 1 || nfld n 203 203 == 1 && q.kind == 4
/-- The windows that are not free, ascending. -/
def State.windows (s : State) : List Nat :=
  let base := mgKey (winAt 0)
  (((s.mem.filter fun e => decide (base ≤ e.1) && decide (e.1 < base + 0x20 * 4096)).map fun e => (e.1 - base) / 0x20).eraseDups).filter
    fun w => winState (s.win w) != 0
/-- The window check: the lowest open window that covers and permits, or the code it fails with (R138). -/
def State.windowFor (s : State) (q : Packet) : Except Nat Nat :=
  match s.windows.find? fun w => winState (s.win w) == 1 && winCovers (s.win w) q && winPermits (s.win w) q with
  | some w => .ok w
  | none => .error (if s.windows.any fun w => decide (2 ≤ winState (s.win w)) && winCovers (s.win w) q then 7 else 1)
/-- A closing window without a request in flight is closed, and signals its semaphore (R140). -/
def State.winSettle (s : State) (w : Nat) : State :=
  let n := s.win w
  if winState n = 2 ∧ winFlight n = 0 then
    let t := s.setMg (winAt w) 32 (setFld n 207 206 3)
    if nfld n 202 202 = 1 ∧ s.owner (10000 + w) ≠ 0 then t.semAdd (s.owner (10000 + w) - 1) (nfld n 201 198) (nfld n 197 190) 1 else t
  else s
/-- Requests or leaves enter a window. -/
def State.winEnter (s : State) (w n : Nat) : State := s.setMg (winAt w) 32 (setFld (s.win w) 95 64 (winFlight (s.win w) + n))
/-- Requests or leaves leave a window (R139). -/
def State.winLeave (s : State) (w n : Nat) : State :=
  (s.setMg (winAt w) 32 (setFld (s.win w) 95 64 (winFlight (s.win w) - n))).winSettle w

/-! ### The ends of a request (R79, R81, R132) -/

/-- The numbers of a job's flows: its own, or those of the leaves that a combined request applies (R130). -/
def Job.numbers (j : Job) : List (Nat × Nat) :=
  if j.pkt.nleaf < 2 then [(j.pkt.src, j.pkt.seq)] else j.apply.map fun i => ((j.pkt.leaf i).1, (j.pkt.leaf i).2.1)
/-- A job is finished with an outcome: it leaves its window and its flow knows the outcome (R139, R74). -/
def State.finishJob (s : State) (j : Job) (outc : Nat) : State :=
  let t := { s with gate := { s.gate with jobs := s.gate.jobs.filter fun x => x.id != j.id } }
  let u := j.numbers.foldl (fun u n => u.setOutcome n.1 j.pkt.cls j.pkt.stream n.2 outc) t
  match j.win with
  | some w => u.winLeave w j.numbers.length
  | none => u
/-- A combined request with its SKIP bits, as a reply echoes it (R125). -/
def Job.echo (j : Job) : Packet :=
  if j.pkt.nleaf < 2 then j.pkt
  else { j.pkt with flits := j.pkt.flits.set 0 (BitVec.ofNat 512 (setFld (j.pkt.flit 0) 447 384 j.skip)) }

/-- Whether two jobs belong to one flow. -/
def Job.sameFlow (a b : Job) : Bool := a.pkt.src == b.pkt.src && a.pkt.cls == b.pkt.cls && a.pkt.stream == b.pkt.stream
/-- A job is answered with a NACK; a RETRY in a strongly ordered flow answers every later request of it that is received and not performed
(R81, R132, R142). -/
def State.failJob (s : State) (j : Job) (code : Nat) : State :=
  let one (t : State) (j : Job) : State := ((t.finishJob j (2 + code)).logFor81 j.pkt j.port code j.skip).nack j.echo code
  let t := one s j
  if code = 2 ∧ j.pkt.stream = 1 then
    (t.gate.jobs.filter fun x => x.sameFlow j && seqBefore j.pkt.seq x.pkt.seq).foldl one t
  else t
/-- An acknowledgement of a request is held for merging (R79). The ACK of a multicast carries this node in SRC (R471). -/
def State.holdAck (s : State) (q : Packet) : State :=
  let as := if q.stream = 2 then s.mg.node.toNat else q.dest
  let here (a : AckHeld) : Bool := a.dest == q.src && a.as == as && a.cls == q.cls && a.stream == q.stream
  let acks := if s.gate.acks.any here then s.gate.acks.map fun a => if here a then { a with seqs := a.seqs ++ [q.seq] } else a
    else s.gate.acks ++ [⟨q.src, as, q.cls, q.stream, [q.seq], s.now⟩]
  { s with gate := { s.gate with acks := acks } }
/-- A response whose request was sealed is sealed in turn under the slot that the request named; with that slot empty there is none
(R82, R155). -/
def State.respond (s : State) (q : Packet) (a : Answer) : State :=
  let p := q.answer q.dest a
  if q.cipher then
    (if (s.keySlot q.slotOf).st = 0 then s else let r := s.sealWith q.slotOf p; r.1.sendResp r.2)
  else s.sendResp p
/-- ACKMAP of some numbers from a base. -/
def ackBits (base : Nat) (seqs : List Nat) : Nat :=
  ((List.range 32).map fun i => if seqs.contains ((base + i) % 65536) then 2 ^ i else 0).sum
/-- An ACK or FLUSHACK for the numbers of a held acknowledgement within 32 of a base. -/
def AckHeld.packet (a : AckHeld) (kind base : Nat) : Packet :=
  let h := a.dest * 2 ^ 112 + a.as * 2 ^ 96 + endTurns * 2 ^ 64 + kind * 2 ^ 60 + 1 * 2 ^ 58 + a.stream * 2 ^ 53 + base * 2 ^ 32
  (({ head := BitVec.ofNat 512 h, flits := [] } : Packet).setB 31 1 a.cls).setB 32 4 (ackBits base a.seqs)
/-- The lowest number of a cluster: one that no other precedes within 32. -/
def ackBase (seqs : List Nat) : Nat :=
  (seqs.find? fun b => seqs.all fun x => let d := (b + 65536 - x) % 65536; d == 0 || decide (32 ≤ d)).getD (seqs.headD 0)
/-- The numbers that a base leaves for another packet. -/
def ackRest (base : Nat) (seqs : List Nat) : List Nat := seqs.filter fun x => decide (32 ≤ (x + 65536 - base) % 65536)
/-- ACK_HOLD_EXPIRY: the acknowledgements held at place args[0] leave, as many as one ACKMAP covers (R79). They may be held for up to 2 µs, so
the step may come at any time within it. -/
def execAckHoldExpiry (s : State) : Out :=
  .next (
    let i := s.args.getD 0 0
    match s.gate.acks[i]? with
    | none => s
    | some a =>
      let base := ackBase a.seqs
      let rest := ackRest base a.seqs
      ({ s with gate := { s.gate with acks := if rest.isEmpty then dropAt s.gate.acks i else s.gate.acks.set i { a with seqs := rest } } } : State
        ).sendResp (a.packet 6 base))

/-! ### The checks (R136, R141, R272) -/

/-- The KINDS of a request's fault: read, write or atomic, from the fabric (R263). -/
def kindBits (k : Nat) : Nat := (if k = 2 then 1 else if k = 1 then 2 else 4) + 16
/-- A request whose page is absent is answered RETRY and its fault is posted (R142). The requester of a combined request is the router that combined
it, as its SRC says, where R263 might name a leaf's (log 48). -/
def State.retryJob (s : State) (j : Job) : State := (s.postFault j.pkt.asid j.pkt.va (kindBits j.pkt.kind) j.pkt.src).failJob j 2
/-- A request enters the hold buffer of 512 entries; a full one gives RETRY (R141, R142). -/
def State.holdJob (s : State) (j : Job) : State :=
  if 512 ≤ (s.gate.jobs.filter fun x => x.stage == 2 && x.id != j.id).length then s.retryJob j
  else s.setJob { j with stage := 2, since := if j.stage = 2 then j.since else s.now }
/-- The sum of the addends that a combined request applies (R131). -/
def Job.total (j : Job) : Int := leafSum (j.pkt.leaves.map fun l => l.2.2) j.skip j.pkt.nleaf
/-- The request that a proxy issues for a job to the node that the leaf names, with the leaf's attributes (R272, R253). -/
def State.proxyReq (s : State) (j : Job) (e : W64) : Req :=
  let q := j.pkt
  { id := s.nextId, kind := q.kind, asker := .proxy j.id, part := asidPart (s.asidEntry q.asid), node := pteNode e, va := q.va, asid := q.asid,
    len := q.len, order := pteOrder e, conf := pteConf e, sync := pteSync e, data := if q.kind = 1 then q.data.take q.len else [], bad := q.bad,
    aop := q.code, opa := if q.nleaf < 2 then w64 (q.b 40 8) else w64 (wrap (8 * q.len) j.total), opb := if q.cls = 3 then 0 else w64 (q.b 48 8),
    bar := if q.kind = 1 ∧ 128 ≤ q.b31 then some (q.b31 % 16, w64 (q.b 32 8)) else none, box := none, off := 0, retries := 0, due := s.now }
/-- Whether a request is a WRITE of a page move: on the strongly ordered flow without ORD 10 (R271; log 51). -/
def Packet.moves (q : Packet) : Bool := q.kind == 1 && q.stream == 1 && q.ord != 2
/-- Whether a WRITE of a page move is the one that opens it, with its counts and attributes (R273; log 51). -/
def Packet.opensMove (q : Packet) : Bool := q.len == 24 && q.va % 65536 == 0
/-- The leaf that a page that lands will have, as far as the opening WRITE tells: its attributes, and still its old home (R271; log 51). -/
def Packet.movedPte (q : Packet) : W64 := w64 (q.src * 2 ^ 48 + leField q.data 16 8 % 4096)
/-- A page that lands enters the move table with a frame of its tier's pool, and its move count and window come with it; none where it may not land:
no frame, a full move table, or a page that has its home here (R270, R271, R273). -/
def State.landOpen (s : State) (q : Packet) (k : Nat) : Option State :=
  let page := q.va / 65536 * 65536
  let e := q.movedPte
  let p := asidPart (s.asidEntry q.asid)
  let old := s.pte k
  if (isLeaf old ∧ pteNode old = s.mg.node.toNat) ∨ s.moving q.asid q.va ∨ 64 ≤ s.msys.moves.length then none
  else
    (s.takeFrame p (pteTier e).toNat).map fun r =>
      let m : Move := { asid := q.asid, va := page, pte := e, toNode := some s.mg.node.toNat, frame := r.2, tier := pteTier e, copied := false,
                        part := p, cow := false }
      ({ r.1 with msys := { r.1.msys with moves := r.1.msys.moves ++ [m] } } : State).setMove q.asid page (leField q.data 0 8)
        (s.now - leField q.data 8 8)
/-- The move table entry of a page that lands here: its old leaf names another node (R271). -/
def State.landingOf (s : State) (q : Packet) : Option Move := (s.moveOf q.asid q.va).filter fun m => pteNode m.pte != s.mg.node.toNat
/-- A WRITE of a page move: it passes no window check, and waits to be performed in the frame of the page that lands. Where the page may not land, or the
level-3 table is missing, ACCESS makes the sender abandon the move (R271). -/
def State.landJob (s : State) (j : Job) : State :=
  let q := j.pkt
  match s.pteAt q.asid q.va 3, s.landingOf q with
  | none, _ => s.failJob j 1
  | some _, some m => s.setJob { j with stage := 1, pa := m.frame * 65536 + q.va % 65536 }
  | some k, none =>
    if q.opensMove then
      match s.landOpen q k with
      | some t => t.setJob { j with stage := 1 }
      | none => s.failJob j 1
    else s.failJob j 1
/-- Steps 3 to 6 of R136 for a job: the walk, an absent page held or answered RETRY, permission, ORDER, CONF; a remote leaf makes it a proxied
request (R272), a page that is copy-on-write or moves holds it (R304, R141), and otherwise it waits to be performed. -/
def State.walkJob (s : State) (j : Job) : State :=
  let q := j.pkt
  let found := s.walk q.asid q.va
  let s := s.walked q.asid q.va
  match found with
  | .absent => if s.moving q.asid q.va then s.holdJob j else s.retryJob j
  | .malformed => s.failJob j 1
  | .leaf e _ _ pa =>
    let ok := if q.kind = 2 then pteR e else if q.kind = 1 then pteW e && !pteBed e
      else pteR e && pteW e && !pteBed e && !pteTier e && (q.cls != 3 || pteSync e)
    if !ok then s.failJob j 1
    else if pteOrder e = 3 ∨ pteOrder e ≠ q.ord then s.failJob j 3
    else if pteConf e ≠ q.cipher then s.failJob j 4
    else if pteNode e ≠ s.mg.node.toNat then
      let t := s.setJob { j with stage := 3 }
      { t.post (s.proxyReq j e) with nextId := s.nextId + 1 }
    else if q.kind ≠ 2 ∧ s.isCow q.asid q.va then s.holdJob j
    else s.setJob { j with stage := 1, pa := pa % 2 ^ 48 }
/-- Every check of R136 for a job. The WRITEs of a page that lands pass no window check (R271). -/
def State.checkJob (s : State) (j : Job) : State :=
  let q := j.pkt
  let e := s.asidEntry q.asid
  if !pteV e ∨ !pteR e then s.failJob j 1
  else
    if q.moves then s.landJob j
    else if pteW e then
      (match s.windowFor q with
       | .error c => s.failJob j c
       | .ok w =>
         let k : Job := { j with win := some w }
         ((s.winEnter w k.numbers.length).setJob k).walkJob k)
    else s.walkJob j
/-- Whether a strongly ordered flow lets a job be checked, proxied, performed and answered: no gap before it, and every earlier one finished, so that
the later ones of one that is answered RETRY are never proxied or performed (R79, R85, R141, R142, R272). -/
def State.mayCheck (s : State) (j : Job) : Bool :=
  j.pkt.stream != 1 ||
  ((match s.flowIn j.pkt.src j.pkt.cls j.pkt.stream with | some f => !f.accepted.contains j.pkt.seq | none => true) &&
   !s.gate.jobs.any fun x => x.sameFlow j && seqBefore x.pkt.seq j.pkt.seq)
/-- A job is checked, where it is unchecked and its flow lets it. -/
def State.tryCheck (s : State) (id : Nat) : State :=
  match s.job id with
  | some j => if j.stage = 0 ∧ s.mayCheck j then s.checkJob j else s
  | none => s
/-- The held requests of a page, in the order held. -/
def State.heldJobs (s : State) (asid va n : Nat) : List Job :=
  (s.gate.jobs.filter fun j => j.stage == 2 && j.pkt.asid == asid && meets j.pkt.va j.pkt.len va n).foldr
    (fun j l => (l.filter fun x => decide (x.since < j.since)) ++ [j] ++ l.filter fun x => decide (j.since ≤ x.since)) []
/-- Held requests of n bytes of an address space are walked again in the order held (R141, R271). -/
def State.replayHeld (s : State) (asid va n : Nat) : State :=
  (s.heldJobs asid va n).foldl (fun t j => match t.job j.id with | some k => if k.stage = 2 then t.walkJob k else t | none => t) s
/-- HOLD_TIMEOUT: the job args[0], held for 4 µs, is answered RETRY with its fault record (R142). -/
def execHoldTimeout (s : State) : Out :=
  .next (match s.job (s.args.getD 0 0) with
    | some j => if j.stage = 2 ∧ j.since + 4000 ≤ s.now then s.retryJob j else s
    | none => s)

/-! ### Arriving requests (R74, R81, R130) -/

/-- Whether the body of an opened request breaks R62 or R123 to R126. -/
def Packet.bodyBad (q : Packet) : Bool :=
  let c := q.cipher.toNat
  let most := if q.cipher then 384 else 448
  let noBar := q.b31 == 0 && q.b 32 8 == 0
  let noOps := q.b 40 8 == 0 && q.b 48 8 == 0
  decide (2 ^ 55 ≤ q.va) || (q.kind != 0xB && decide (0 < q.len) && decide (65536 < q.va % 65536 + q.len)) ||
  (match q.kind with
   | 1 => decide (q.len < 1) || decide (most < q.len) || q.flits.length != (q.len + 63) / 64 + c || q.tag != 0 || q.code != 0 ||
          q.b31 / 16 % 8 != 0 || (decide (q.b31 < 128) && !noBar) || nfld (q.b 32 8) 31 30 != 0 || !noOps || q.b 56 8 != 0
   | 2 => decide (q.len < 1) || decide (most < q.len) || q.flits.length != c || q.code != 0 || !noBar || !noOps || q.b 56 8 != 0
   | 4 => if q.cls = 3 then q.combBad
          else (q.len != 4 && q.len != 8) || decide (0xA < q.code) || (q.code == 9 && q.len != 4) || q.flits.length != c || !noBar ||
            (q.code != 0xA && q.b 48 8 != 0) || q.b 56 8 != 0
   | 8 => q.len != 0 || q.flits.length != c || q.tag != 0 || q.code != 0 || !noBar || !noOps || q.b 56 8 != 0
   | _ => q.len != 0 || q.flits.length != 1 || q.cipher || q.va != 0 || q.tag != 0 || q.code != 0 || !noBar || !noOps || q.b 56 8 != 0)
/-- A new job. -/
def State.addJob (s : State) (q : Packet) (port stage : Nat) (apply : List Nat) (skip : Nat) : State × Job :=
  let j : Job := { id := s.nextId, pkt := q, port := port, stage := stage, win := none, pa := 0, since := s.now, apply := apply, skip := skip }
  ({ s with nextId := s.nextId + 1, gate := { s.gate with jobs := s.gate.jobs ++ [j] } }, j)
/-- An accepted request: malformed, or not to be opened, it is refused; a FLUSH or EVENT waits for its turn, and any other is checked when its
flow lets it (R74, R81, R82, R136). -/
def State.takeNew (s : State) (q : Packet) (port : Nat) : State :=
  if q.headBad then let r := s.addJob q port 0 [] 0; r.1.failJob r.2 9
  else
    let opened := if q.cipher then (if s.slotAdmits q.slotOf q.asid q.src then s.openWith q else none) else some q
    match opened with
    | none => let r := s.addJob q port 0 [] 0; r.1.failJob r.2 5
    | some p =>
      if p.bodyBad then let r := s.addJob p port 0 [] 0; r.1.failJob r.2 9
      else if p.kind = 8 ∨ p.kind = 0xB then (s.addJob p port 1 [] 0).1
      else let r := s.addJob p port 0 [] 0; r.1.tryCheck r.2.id
/-- A duplicate of a performed request: a WRITE, FLUSH or EVENT is acknowledged again, an AMO gets its cached reply, and a READ is read
again (R74). -/
def State.answerAgain (s : State) (f : FlowIn) (q : Packet) (port : Nat) : State :=
  if q.kind = 2 then s.takeNew q port
  else if q.kind = 4 then
    match f.replies.find? fun e => e.1 == q.seq with
    | some e => s.respond q { kind := 5, len := 8, old := e.2.toNat }
    | none => s
  else if q.kind = 8 then
    let a : AckHeld := ⟨q.src, q.dest, q.cls, q.stream, [q.seq], s.now⟩
    s.sendResp (a.packet 9 q.seq)
  else s.holdAck q
/-- A leaf of a combined request classified against its own flow: applied, or skipped, with the cached reply of a performed one sent straight
to its source (R130). A leaf whose original was answered with a NACK, which R130 does not list, is skipped and gets that NACK, as R74 answers
such a duplicate (log 48). A leaf carries no TAG: the event of an ancient one has TAG 0 (log 48). -/
def State.takeLeaf (s : State) (q : Packet) (port i : Nat) : State × Bool :=
  let l := q.leaf i
  let f := s.flowFor l.1 3 0 l.2.1 false
  match f.classify l.2.1 with
  | .new => (s.setFlowIn (f.accept l.2.1), true)
  | .performed =>
    (match f.replies.find? fun e => e.1 == l.2.1 with
     | some e => s.sendResp ((q.answer q.dest { kind := 5, len := 8 }).setF 59 58 1 |>.part l.1 l.2.1 e.2.toNat 0 [])
     | none => s, false)
  | .ancient => (s.ancientDup l.1 l.2.1 0 q.asid q.va port, false)
  | .nacked c => (s.sendResp ((q.answer q.dest { kind := 7, code := c }).part l.1 l.2.1 0 0 []), false)
  | .pending => (s, false)
/-- A combined request at its home: every leaf is classified in list order, then its key is checked once (R130). -/
def State.takeCombined (s : State) (q : Packet) (port : Nat) : State :=
  let r := (List.range q.nleaf).foldl (fun (r : State × List Nat × Nat) i =>
    let x := r.1.takeLeaf q port i
    (x.1, if x.2 then r.2.1 ++ [i] else r.2.1, if x.2 then r.2.2 else r.2.2 + 2 ^ i)) (s, [], 0)
  let a := r.1.addJob q port 0 r.2.1 r.2.2
  a.1.tryCheck a.2.id
/-- A request that stands at the gateway (R74, R78, R81, R130). -/
def State.takeRequest (s : State) (q : Packet) (port : Nat) : State :=
  if !s.mg.modstatus.getLsbD 31 then s.nack q 0xC
  else if q.cls ≠ 0 ∧ q.cls ≠ 3 then s.refuse q port 9
  else if q.cls = 3 ∧ q.kind = 4 ∧ q.b 32 1 ≠ 0 then
    (if q.headBad ∨ q.combBad ∨ q.bodyBad then s.refuse q port 9 else s.takeCombined q port)
  else
    let f := s.flowFor q.src q.cls q.stream q.seq q.syn
    match f.classify q.seq with
    | .new => (s.setFlowIn (f.accept q.seq)).takeNew q port
    | .pending => s.setFlowIn f
    | .performed => (s.setFlowIn f).answerAgain f q port
    | .nacked c => (s.setFlowIn f).nack q c
    | .ancient => (s.setFlowIn f).ancientDup q.src q.seq q.tag q.asid q.va port
/-- INGRESS_REQUEST: with args[0] = 0 the gateway takes the request at place args[1] of its packets and classifies, opens and checks it; with
args[0] = 1 it checks the job args[1], whose flow lets it by now (R74, R82, R136). -/
def execIngressRequest (s : State) : Out :=
  .next (
    let i := s.args.getD 1 0
    if s.args.getD 0 0 = 0 then
      match s.gate.inbox[i]? with
      | none => s
      | some (q, port) =>
        if q.isResp ∨ q.isPebble then s
        else ({ s with gate := { s.gate with inbox := dropAt s.gate.inbox i } } : State).takeRequest q port
    else s.tryCheck i)

/-! ### Requests as they are performed (R79, R131) -/

/-- An access from another node to a page that may migrate is counted (R270). -/
def State.countJob (s : State) (j : Job) : State :=
  match s.walk j.pkt.asid j.pkt.va with
  | .leaf e _ _ pa =>
    if pteMig e ∧ pteNode e = s.mg.node.toNat then
      s.countAccess j.pkt.asid (asidPart (s.asidEntry j.pkt.asid)) j.pkt.va (pa % 2 ^ 48 / 65536) j.pkt.src (pteTier e)
    else s
  | _ => s
/-- The offsets of poison bytes that lie in the first n bytes. -/
def badBelow (n : Nat) (bad : List Nat) : List Nat := bad.filter fun o => decide (o < n)
/-- The move count that has come with a page (R273). -/
def State.carried (s : State) (asid va : Nat) : Nat := ((s.msys.moveCnt.find? fun e => e.1 == asid && e.2.1 == va).map (·.2.2.1)).getD 0
/-- The last bytes of a page that lands: this node writes a local leaf, with MIG clear where its move count has reached MIGMAX, and the page leaves the
move table (R271, R273). -/
def State.landed (s : State) (q : Packet) : State :=
  match s.landingOf q, s.pteAt q.asid q.va 3 with
  | some m, some k =>
    if q.va % 65536 + q.len = 65536 then
      let e := pteWith (pteWith (pteWith m.pte 63 16 (s.mg.node.toNat * 2 ^ 32 + m.frame)) 10 10
        (if s.migMax ≤ s.carried q.asid m.va then 0 else 1)) 0 0 1
      ((((s.setPte k e).dropMove q.asid m.va).markStale q.asid m.va 1).replayHeld q.asid m.va 65536).noteReady m.part
    else s
  | _, _ => s
/-- A WRITE of a page move is performed: its bytes go to the frame of the page that lands, but for those of the opening one. -/
def State.land (s : State) (j : Job) : State :=
  let q := j.pkt
  if q.opensMove then s else (s.copyB j.pa (fit q.len q.data) (badBelow q.len q.bad)).landed q
/-- A proxied job is answered as its proxied request was (R272); otherwise what the kind does. -/
def State.answerJob (s : State) (j : Job) (proxied local_ : State → State) : State :=
  if !s.mayCheck j then s
  else if j.stage = 4 then proxied s
  else if 16 ≤ j.stage then s.failJob j (j.stage - 16)
  else if j.stage = 1 then local_ s
  else s
/-- A job of a kind, by its name. -/
def State.withJob (s : State) (kind : Nat) (f : Job → State) : Out :=
  .next (match s.job (s.args.getD 0 0) with
    | some j => if j.pkt.kind = kind then f j else s
    | none => s)
/-- Whether a job is the synchronisation engine's: an AMO, or an access to a SYNC page (R233). -/
def State.jobSync (s : State) (j : Job) : Bool :=
  j.pkt.kind == 4 ||
  match s.moveOf j.pkt.asid j.pkt.va with
  | some m => pteSync m.pte
  | none => match s.walk j.pkt.asid j.pkt.va with | .leaf e _ _ _ => pteSync e | _ => false
/-- A job that the synchronisation engine performs takes its turn there: where its line cannot be read it is parked, and walked again when its turn
comes (R233, R234). -/
def State.jobTurn (s : State) (j : Job) (ok : State → Job → State) : State :=
  if !s.jobSync j then ok s j
  else
    let d := homeDie (homeOf j.pa)
    let r := s.syncTurn d j.id (j.pa / 64) (s.lineHeld j.pkt.asid j.pkt.va j.pa)
    if !r.2 then r.1
    else if !(s.die d).parked.any (·.1 == j.id) then ok r.1 j
    else
      let t := r.1.walkJob j
      match t.job j.id with
      | some k => if k.stage = 1 then ok t k else t
      | none => t
/-- WRITE: the job args[0] is performed at the home of its bytes, counted on the barrier object that it names, and acknowledged; a handle that
fails gives ACCESS, an overrun discards the data with BARRIER_OVERRUN, and a full log gives RETRY (R79, R81, R227, R228, R427, R181; log 13). -/
def execWritePacket (s : State) : Out :=
  s.withJob 1 fun j =>
    let q := j.pkt
    let ack (t : State) : State := (t.finishJob j 1).holdAck q
    s.answerJob j ack fun s =>
      if q.moves then ack (s.land j)
      else s.jobTurn j fun s j =>
        let w := (s.countJob j).copyB j.pa (fit q.len q.data) (badBelow q.len q.bad)
        if q.b31 < 128 then ack w
        else
          let h := w64 (q.b 32 8)
          if !s.handOk (s.asidOwner q.asid) h then s.failJob j 1
          else
            match w.countFor (handTeam h) (handRank h) (handOff h) (q.b31 % 16) q.len with
            | none => s.failJob j 1
            | some (t, .ok) => ack t
            | some (_, .overrun) =>
              (((s.countFor (handTeam h) (handRank h) (handOff h) (q.b31 % 16) q.len).map (·.1)).getD s).failJob j 6
            | some (_, .full) => s.failJob j 2
/-- READ: the job args[0] is performed at its home and answered with its data, or NACK POISON (R79, R81, R301). -/
def execReadPacket (s : State) : Out :=
  s.withJob 2 fun j =>
    let q := j.pkt
    s.answerJob j (fun t => (t.finishJob j 1).respond q { kind := 3, len := q.len, data := fit q.len q.data }) fun s =>
      s.jobTurn j fun s j =>
        let r := (s.countJob j).scan j.pa q.len q.asid q.va
        match r.2 with
        | some _ => r.1.failJob j 8
        | none => (r.1.finishJob j 1).respond q { kind := 3, len := q.len, data := r.1.readB j.pa q.len }
/-- The value that leaf i of a combined request is given over the value before it (R131). -/
def Job.leafValue (j : Job) (b i : Nat) : Nat :=
  wrap (8 * j.pkt.len) ((b : Int) + leafSum (j.pkt.leaves.map fun l => l.2.2) j.skip i)
/-- An AMO is answered with the old value: it, or every leaf's value, is cached, and AMORESP leaves (R74, R131). -/
def State.amoAnswer (s : State) (j : Job) (old : Nat) : State :=
  let q := j.pkt
  let t := s.finishJob j 1
  let u := if q.nleaf < 2 then t.setReply q.src q.cls q.stream q.seq (w64 old)
    else j.apply.foldl (fun u i => u.setReply (q.leaf i).1 3 0 (q.leaf i).2.1 (w64 (j.leafValue old i))) t
  u.respond j.echo { kind := 5, len := 8, old := old }
/-- An AMO is performed at the home in one step; poison is answered with NACK POISON and the line stays (R131, R233, R301). -/
def State.amoPerform (s : State) (j : Job) : State :=
  let q := j.pkt
  let x := if q.nleaf < 2 then (s.countJob j).atomicAt j.pa q.code q.len (q.b 40 8) (if q.cls = 3 then 0 else q.b 48 8) q.asid q.va
    else (s.countJob j).atomicAt j.pa 1 q.len (wrap (8 * q.len) j.total) 0 q.asid q.va
  match x.2.2 with
  | some _ => x.1.failJob j 8
  | none => x.1.amoAnswer j x.2.1
/-- AMO_PACKET: the job args[0] is performed in one step by its home's synchronisation engine and answered with the value before; a line that cannot be
read parks it (R131, R233, R234). -/
def execAmoPacket (s : State) : Out :=
  s.withJob 4 fun j =>
    s.answerJob j (fun t => t.amoAnswer j j.pa) fun s => s.jobTurn j State.amoPerform
/-- FLUSH: the job args[0] is answered once every request of its flow with a lower number is performed or answered; its ACKMAP covers those not
yet acknowledged, as far as 32 numbers reach, and ACKs the others (R79). -/
def execFlushPacket (s : State) : Out :=
  s.withJob 8 fun j =>
    let q := j.pkt
    let before := s.gate.jobs.any fun x => x.sameFlow j && seqBefore x.pkt.seq q.seq
    let gap := match s.flowIn q.src q.cls q.stream with | some f => f.accepted.contains q.seq | none => false
    if before || gap then s
    else
      let here (a : AckHeld) : Bool := a.dest == q.src && a.cls == q.cls && a.stream == q.stream
      let held := (s.gate.acks.filter here).flatMap (·.seqs)
      let near := (held ++ [q.seq]).filter fun x => decide ((q.seq + 65536 - x) % 65536 < 32)
      let base := near.foldl (fun b x => if seqBefore x b then x else b) q.seq
      let far := held.filter fun x => !near.contains x
      let t := s.finishJob j 1
      let t := { t with gate := { t.gate with acks := t.gate.acks.filter fun a => !here a } }
      let a : AckHeld := ⟨q.src, q.dest, q.cls, q.stream, near, t.now⟩
      let u := far.foldl (fun u x => u.sendResp (({ a with seqs := [x] } : AckHeld).packet 6 x)) t
      u.sendResp (a.packet 9 base)
/-- EVENT: the job args[0], in its flow's order, places its record in the ring of the partition that its tenant belongs to, or, for an unknown
tenant, in the management ring with a log record, and is acknowledged (R86, R79). -/
def execEventPacket (s : State) : Out :=
  s.withJob 0xB fun j =>
    let q := j.pkt
    if !s.mayCheck j then s
    else
      let rec_ := fit 64 q.data
      let t := match s.tenantEntry q.asid with
        | some i =>
          let p := tenPart (s.tenWord i)
          s.ringPut (evRing (if (s.getPart p).pstate = 2 then 2 + p else 0)) rec_
        | none => (s.ringPut (evRing 0) rec_).logErr (portRing j.port) { kind := 6, node := q.src, port := j.port, tenant := q.asid }
      (t.finishJob j 1).holdAck q

end Sys2Proof.Machine
end

