-- ==== Sys2Proof/Machine/Control.lean ====
section
/-!
DEFINITION. Control instructions (chapter 15): branches, calls and returns (R366, R367, R236), hardware loops (R368 to R370), the end
of a strand (R372), control and status registers (R373 to R377), traps (R378) and ICINV (R379).
-/
namespace Sys2Proof.Machine

/-! ### Code words -/

/-- The word cached at an address (R274). -/
def Core.cached (c : Core) (a : Nat) : Option W64 := (c.icache.find? fun e => e.1 == a).map (·.2)
/-- The code word at an address, from the instruction cache or through a code extent, without a fetch (R274, R259). -/
def State.peekCode (s : State) (a : W64) : Option W64 :=
  (s.cur.cached a.toNat).or (match s.xlate .fetch a.toNat 8 with
    | .ok ps => ps.head?.map fun p => w64 (s.readN p.key 8)
    | _ => none)
/-- AFTER(E): the bundle that follows the one at E in memory (R368). Where no word can be read at E it counts as one of 8 bytes
(log 23). -/
def State.after (s : State) (e : W64) : W64 :=
  match s.peekCode e with
  | some w => e + BitVec.ofNat 64 (coreLength w)
  | none => e + 8

/-! ### Branches (R366) -/

/-- BR (R366). -/
def execBr (g : Guard) (disp : BitVec 32) (s : State) : Out := s.guarded g fun s => s.jump (dispTarget s.ctx.pc disp)
/-- BZ: taken when s[SA] = 0 (R366). -/
def execBz (g : Guard) (sa : Nat) (disp : BitVec 32) (s : State) : Out :=
  s.guarded g fun s => if s.rs sa = 0 then s.jump (dispTarget s.ctx.pc disp) else s.retire
/-- BNZ: taken when s[SA] ≠ 0 (R366). -/
def execBnz (g : Guard) (sa : Nat) (disp : BitVec 32) (s : State) : Out :=
  s.guarded g fun s => if s.rs sa ≠ 0 then s.jump (dispTarget s.ctx.pc disp) else s.retire
/-- BRMZ: taken when the top of the mask stack is all zeros; never with an empty stack (R366, R220). -/
def execBrmz (g : Guard) (disp : BitVec 32) (s : State) : Out :=
  s.guarded g fun s => if s.top = 0 then s.jump (dispTarget s.ctx.pc disp) else s.retire
/-- JR: the target is s[SA]; one that is no multiple of 8 raises ALIGNMENT (R366, R328). -/
def execJr (g : Guard) (sa : Nat) (s : State) : Out :=
  s.guarded g fun s => if (s.rs sa).toNat % 8 ≠ 0 then s.raiseFree 0x05 else s.jump (s.rs sa)

/-! ### Calls and returns (R367, R236) -/

/-- A scalar store of 8 bytes at a stack offset, out of range as R247 gives (R236). -/
def State.stackStore (s : State) (a : W64) (v : W64) : State :=
  if a.toNat + 8 ≤ 4194304 then s.writeB (spadKey s.core a.toNat) (toLE 8 v.toNat) else s.oob (fld a 31 0)
/-- The call of a target: PC + 8 is pushed, the oldest entry being spilled from a full store (R367, R236). The stack pointer wraps modulo 2^64
(R5). -/
def State.call (s : State) (t : W64) : State :=
  let x := s.ctx
  let push (s : State) : State :=
    s.modCtx fun x => { x with ras := (x.pc + 8) :: x.ras.take 15, callDepth := x.callDepth + 1 }
  let go (s : State) : State := s.modCtx fun x => x.goto t
  if x.ras.length < 16 then go (push s)
  else
    let sp := s.rs 63
    if x.csr.stkBase = x.csr.stkLim ∨ (sp - 8).toNat < x.csr.stkLim.toNat then s.raiseFree 0x06
    else if sp.toNat % 8 ≠ 0 then s.raiseFree 0x05
    else go (push ((s.stackStore (sp - 8) (x.ras.getD 15 0)).setS 63 (sp - 8)))
/-- CALL (R367). -/
def execCall (g : Guard) (disp : BitVec 32) (s : State) : Out := s.guarded g fun s => s.call (dispTarget s.ctx.pc disp)
/-- CALLR: the target is s[SA] (R367, R328). -/
def execCallr (g : Guard) (sa : Nat) (s : State) : Out :=
  s.guarded g fun s => if (s.rs sa).toNat % 8 ≠ 0 then s.raiseFree 0x05 else s.call (s.rs sa)
/-- After a RET every level whose LPCD exceeds CALLDEPTH is closed (R370). -/
def closeAfterRet : Nat → Ctx → Ctx
  | 0, x => x
  | f + 1, x =>
    if x.lpDepth = 0 then x
    else if x.callDepth.toNat < (x.level (x.lpDepth - 1)).cd.toNat then closeAfterRet f { x with lpDepth := x.lpDepth - 1 }
    else x
/-- The transfer of a RET to its target (R367, R370). -/
def State.retTo (s : State) (t : W64) : State :=
  s.modCtx fun x => (closeAfterRet 4 { x with callDepth := x.callDepth - 1 }).goto t
/-- RET: the target comes from the return-address store, or from the stack when it is empty (R367, R236). -/
def execRet (g : Guard) (s : State) : Out :=
  s.guarded g fun s =>
    match s.ctx.ras with
    | t :: rest => (s.modCtx fun x => { x with ras := rest }).retTo t
    | [] =>
      let sp := s.rs 63
      if s.csr.stkBase.toNat ≤ sp.toNat then s.raiseFree 0x07
      else if sp.toNat % 8 ≠ 0 then s.raiseFree 0x05
      else
        let r := s.scan (spadKey s.core sp.toNat) 8 s.myAsid
        match r.2 with
        | some a => r.1.raise 0x0F (w64 (a - spadKey s.core 0))
        | none =>
          let t := w64 (r.1.readN (spadKey s.core sp.toNat) 8)
          if t.toNat % 8 ≠ 0 then s.raiseFree 0x05 else (r.1.setS 63 (sp + 8)).retTo t

/-! ### Hardware loops (R368) -/

/-- The checks of LOOP and LOOPQ before the count is taken (R368). -/
def State.loopOk (s : State) (disp : BitVec 32) : Bool :=
  let x := s.ctx
  let e := dispTarget x.pc disp
  decide (0 < disp.toInt) && x.lpDepth != 4 &&
  (x.lpDepth == 0 || decide (e.toNat ≤ (x.level (x.lpDepth - 1)).last.toNat))
/-- Opens a loop of n passes, or skips its body (R368). -/
def State.openLoop (s : State) (disp : BitVec 32) (n : W64) : State :=
  let e := dispTarget s.ctx.pc disp
  if n = 0 then
    let t := s.after e
    s.modCtx fun x => { x with pc := t, via := none, csr := { x.csr with schedCtr := x.csr.tick } }
  else
    s.modCtx fun x =>
      { x.setLevel x.lpDepth { start := x.pc + 8, last := e, cnt := n, cd := x.callDepth } with
        lpDepth := x.lpDepth + 1, pc := x.pc + 8, via := none, csr := { x.csr with schedCtr := x.csr.tick } }
/-- LOOP: the trip count is s[SA] (R368). -/
def execLoop (g : Guard) (sa : Nat) (disp : BitVec 32) (s : State) : Out :=
  s.guarded g fun s => if s.loopOk disp then s.openLoop disp (s.rs sa) else s.illegal
/-- Whether a CQFILL issued earlier has not completed (R235, R217). -/
def Engine.hasCqfill (e : Engine) : Bool :=
  let isq (c : Cmd) : Bool := match c.op with | .cqfill .. => true | _ => false
  e.q.any isq
/-- LOOPQ: the trip count is popped from the count queue. An empty queue waits for a CQFILL issued earlier, else raises
COUNT_UNDERFLOW (R368, R235). A count that CQFILL read from a poison word raises POISON, as the read of a poison register does (R300, R301; log 9). -/
def execLoopq (g : Guard) (disp : BitVec 32) (s : State) : Out :=
  s.guarded g fun s =>
    if !s.loopOk disp then s.illegal
    else
      match s.cur.counts with
      | (_, some a) :: _ => (s.logPoison a).raise 0x0F a
      | (n, none) :: rest => (s.modCur fun c => { c with counts := rest }).openLoop disp (n.zeroExtend 64)
      | [] => if s.cur.el.hasCqfill then s else s.raiseFree 0x0C

/-! ### Ending the strand (R372) -/

/-- EXIT performs a QDRAIN and then ends the strand (R372, R216). -/
def execExit (g : Guard) (s : State) : Out := s.guarded g fun s => s.startWait .exit
/-- STRAND_END: EXIT's drain completes without failure and the strand ends; a failed write raises REMOTE_ERROR there (R372). -/
def execStrandEnd (s : State) : Out := .next (if s.cur.wait = .exit ∧ s.cur.run = .running then s.settleWait else s)

/-! ### Control and status registers (R373 to R377, R312) -/

/-- STATUS (R375). -/
def State.statusCsr (s : State) : W64 :=
  let x := s.ctx
  w64 (x.csr.part.toNat * 2 ^ 28 + x.lpDepth * 2 ^ 24 + x.ras.length * 2 ^ 19 + x.masks.length * 2 ^ 15 +
    s.cur.fmt.length * 2 ^ 8 + x.csr.grouped.toNat * 2 + x.csr.timed.toNat)
/-- BRWIN: the bank group of the die's next refresh window and the low 32 bits of the schedule-counter value at which it begins
(R243). -/
def State.brwin (s : State) : W64 :=
  let d := Tab.get Die.zero s.dies (s.core / 16)
  w64 ((d.refGroup + 1) % 8 * 2 ^ 32 +
    wrap 32 ((s.csr.schedCtr.toNat : Int) + (d.refAt + 512 : Nat) - (s.cycle : Int)))
/-- The value of a CSR (R374); reserved bits read zero. -/
def State.csrRead (s : State) (n : Nat) : W64 :=
  let c := s.csr
  let x := s.ctx
  match n with
  | 0x000 => s.statusCsr
  | 0x001 => c.physid.zeroExtend 64
  | 0x002 => c.rank.zeroExtend 64
  | 0x003 => c.teamSize.zeroExtend 64
  | 0x004 => c.teamId.zeroExtend 64
  | 0x005 => c.preempts.zeroExtend 64
  | 0x006 => c.stkBase
  | 0x007 => c.stkLim
  | 0x008 => w64 c.oobFlag.toNat
  | 0x009 => c.oobAddr.zeroExtend 64
  | 0x00A => c.faultPc
  | 0x00B => c.faultAddr
  | 0x00C => c.branchPc
  | 0x00D => w64 (c.srcq.toNat * 256 + c.code.toNat)
  | 0x00E => c.errAddr
  | 0x010 => c.schedCtr
  | 0x011 => s.brwin
  | 0x012 => c.seed.zeroExtend 64
  | 0x020 => s.mg.torus
  | 0x021 => s.mg.node.zeroExtend 64
  | 0x022 => s.mg.scopetab
  | 0x030 => x.callDepth.zeroExtend 64
  | 0x031 => w64 x.lpDepth
  | 0x032 | 0x033 | 0x034 | 0x035 => (x.level (n - 0x032)).start
  | 0x036 | 0x037 | 0x038 | 0x039 => (x.level (n - 0x036)).last
  | 0x03A | 0x03B | 0x03C | 0x03D => (x.level (n - 0x03A)).cnt
  | 0x03E | 0x03F | 0x040 | 0x041 => (x.level (n - 0x03E)).cd.zeroExtend 64
  | _ => 0
/-- The generator states of a seed: SEED ⊕ ((i + 1) × 0x9E37_79B9), and 1 where that is zero (R312). -/
def seedStates (seed : W32) : Tab W32 :=
  (List.range 128).map fun i =>
    let l := seed ^^^ BitVec.ofNat 32 ((i + 1) * 0x9E3779B9)
    (i, if l = 0 then 1 else l)
/-- The context after a write of a CSR; reserved bits are ignored, and RNGSEED seeds every generator (R374, R312). -/
def Ctx.csrWrite (x : Ctx) (n : Nat) (v : W64) : Ctx :=
  match n with
  | 0x006 => { x with csr := { x.csr with stkBase := v &&& 0x3FFFF8 } }
  | 0x007 => { x with csr := { x.csr with stkLim := v &&& 0x3FFFF8 } }
  | 0x008 => { x with csr := { x.csr with oobFlag := v.getLsbD 0 } }
  | 0x009 => { x with csr := { x.csr with oobAddr := v.truncate 32 } }
  | 0x00E => { x with csr := { x.csr with errAddr := v } }
  | 0x012 => { x with csr := { x.csr with seed := v.truncate 32 }, rng := seedStates (v.truncate 32) }
  | _ => x
/-- CSRR: s[SD] ← CSR (R373). -/
def execCsrr (g : Guard) (sd csr : Nat) (s : State) : Out := s.guarded g fun s => (s.setS sd (s.csrRead csr)).retire
/-- CSRW: CSR ← s[SA] (R373). -/
def execCsrw (g : Guard) (sa csr : Nat) (s : State) : Out :=
  s.guarded g fun s => (s.modCtx fun x => x.csrWrite csr (s.rs sa)).retire
/-- CSRS: CSR ← CSR OR s[SA] (R373). -/
def execCsrs (g : Guard) (sa csr : Nat) (s : State) : Out :=
  s.guarded g fun s => (s.modCtx fun x => x.csrWrite csr (s.csrRead csr ||| s.rs sa)).retire
/-- CSRC: CSR ← CSR AND NOT s[SA] (R373). -/
def execCsrc (g : Guard) (sa csr : Nat) (s : State) : Out :=
  s.guarded g fun s => (s.modCtx fun x => x.csrWrite csr (s.csrRead csr &&& ~~~(s.rs sa))).retire

/-! ### Traps and the instruction cache (R378, R379) -/

/-- TRAP raises SOFTWARE_TRAP with FAULTADDR the immediate; the bundle counts as executed (R378). -/
def execTrap (g : Guard) (imm : BitVec 16) (s : State) : Out :=
  s.guarded g fun s => s.retire.raiseAt 0x14 (imm.zeroExtend 64) s.ctx.pc 0
/-- BRK raises BREAKPOINT in the same way (R378). -/
def execBrk (g : Guard) (imm : BitVec 16) (s : State) : Out :=
  s.guarded g fun s => s.retire.raiseAt 0x15 (imm.zeroExtend 64) s.ctx.pc 0
/-- ICINV waits for the node-homed writes of its prior set and then empties the instruction cache (R379). -/
def execIcinv (g : Guard) (s : State) : Out := s.guarded g fun s => s.startWait .icinv
/-- ICINV_DONE: the writes have been performed, the cache is emptied and issue resumes (R379). -/
def execIcinvDone (s : State) : Out := .next (if s.cur.wait = .icinv ∧ s.cur.run = .running then s.settleWait else s)

end Sys2Proof.Machine
end

