-- ==== Sys2Proof/Machine/Sched.lean ====
section
/-!
DEFINITION. The scheduler at work (R157, R158, R170 to R185): placement, dispatch and resumption, the end of a team, pre-emption, fault slots and
their actions, and the decisions of a slate as they are applied (R194).
-/
namespace Sys2Proof.Machine

/-! ### Cores and placement (R175) -/

/-- Whether a team holds its cores: every team but a saved one (R180, R194). -/
def Team.holds (t : Team) : Bool := t.phase != .saved
/-- Whether a core is the partition's and holds no strand. -/
def State.coreFree (s : State) (p c : Nat) : Bool := s.holdsUnit p (c / 4) && !(s.teams.any fun t => t.holds && t.cores.contains c)
/-- Whether a die holds a timed team. -/
def State.timedDie (s : State) (d : Nat) : Bool := s.teams.any fun t => t.holds && t.timed && t.cores.any fun c => c / 16 == d
/-- The cores for n strands on the dies of a mask, by rank; all n or none (R175). A stage that is timed and grouped is placed as R175's rule for timed ones
says, whatever R40 says of its groups (log 73). -/
def State.placeCores (s : State) (p n mask : Nat) (grouped timed : Bool) : Option (List Nat) :=
  let free := (List.range 256).filter fun c => mask.testBit (c / 16) && s.coreFree p c
  if timed then
    (List.range 16).findSome? fun d =>
      let f := free.filter fun c => c / 16 == d
      if n ≤ f.length ∧ !s.timedDie d then some (f.take n) else none
  else if grouped then
    let cl := (List.range 64).filter fun k => (List.range 4).all fun i => free.contains (4 * k + i)
    if n / 4 ≤ cl.length then some ((cl.take (n / 4)).flatMap fun k => (List.range 4).map (4 * k + ·)) else none
  else if n ≤ free.length then some (free.take n) else none
/-- A mask without the dies that fail a test. -/
def maskOf (mask : Nat) (ok : Nat → Bool) : Nat :=
  ((List.range 16).map fun d => if mask.testBit d && ok d then 2 ^ d else 0).sum
/-- The dies of some cores, ascending. -/
def diesOf (cores : List Nat) : List Nat := (List.range 16).filter fun d => cores.any fun c => c / 16 == d
/-- The saved teams of a stage, the oldest first: a save puts its team last. -/
def State.savedOf (s : State) (p q t : Nat) : List Team :=
  s.teams.filter fun m => m.phase == .saved && m.part == p && m.pipe == q && m.stage == t
/-- The cores that a stage's teams hold, reserved ones included (R192). -/
def State.stCores (s : State) (p q t : Nat) : Nat :=
  ((s.teams.filter fun m => m.holds && m.part == p && m.pipe == q && m.stage == t).map (·.cores.length)).sum
/-- Whether n more cores keep a stage within its share (R194, R200). -/
def State.shareOk (s : State) (p i n : Nat) : Bool :=
  let h := Tab.get 0 (s.getPart p).shares i
  h == 0 || decide (s.stCores p (i / 64) (i % 64) + n ≤ h)

/-! ### Fault slots (R177, R189) -/

/-- A pending fault takes the lowest free slot: the stage's fault count rises and FAULT is raised for it (R177, R172, R184). -/
def State.addFault (s : State) (p : Nat) (f : FaultSlot) (rank : Nat) : State :=
  let x := s.getPart p
  let n := (List.range 2048).find? fun k => (Tab.get none x.slots k).isNone
  let t := s.modPart p fun x =>
    { x with faults := Tab.put 0 x.faults f.stage (Tab.get 0 x.faults f.stage + 1),
             slots := match n with | some k => Tab.put none x.slots k (some f) | none => x.slots }
  t.slateEvent p 3 f.cause (n.getD 0xFFFFFFFF) (f.stage + rank * 2 ^ 16)
/-- A dispatch or restore fails in step 2 of R172 or R184: a fault slot, and a fault record for each page of the image that is absent. -/
def State.dispatchFail (s : State) (p i : Nat) (team : Option Nat) (f : TFail) : State :=
  let asid := s.pipeAsid p (i / 64)
  (f.2.foldl (fun u va => u.postFault asid va 1 0) s).addFault p
    { team := team, restore := team.isSome, stage := i, cause := f.1, pages := f.2, waiting := false } 0xFF
/-- Whether a failure of a stage's dispatch or restore is pending: dispatches of the stage do nothing (R189). -/
def State.stageBlocked (s : State) (p i : Nat) : Bool :=
  (s.getPart p).slots.any fun e => match e.2 with
    | some f => f.stage == i && (f.restore || f.team.isNone)
    | none => false

/-! ### Strands set up (R173, R158, R274) -/

/-- The starting context of a strand (R173, R312). -/
def startCtx (part n rank core id : Nat) (entry : W64) (grouped timed : Bool) : Ctx :=
  { Ctx.zero with
    s := [(1, 0x3FFFC0)] ++ (if rank = 0 then [] else [(2, w64 rank)]) ++ [(3, w64 n)], pc := entry, rng := seedStates 0,
    csr := { Csr.zero with physid := BitVec.ofNat 8 core, rank := BitVec.ofNat 8 rank, teamSize := BitVec.ofNat 9 n,
                           teamId := BitVec.ofNat 32 id, part := BitVec.ofNat 4 part, grouped := grouped, timed := timed } }
/-- A core that no strand holds any more: nothing is under way on it. Its registers and its other data stand as the strand left them, until the next
strand starts or the partition is destroyed (R173, R151). -/
def Core.freed (c : Core) : Core :=
  { c with run := .none, told := false, wait := .none, win := none, replay := 0, el := Engine.idle, em := Engine.idle, es := Engine.idle,
           settled := none, pend := [], outw := [], failed := [], joined := [], applied := [], behind := [], shadow := [] }
/-- CODEGEN of a pipeline (R274). -/
def State.codeGen (s : State) (p q : Nat) : W32 := Tab.get 0 (s.getPart p).codegen q
/-- The instruction cache of a core as a strand of a partition and pipeline starts or is restored under a value of CODEGEN: it is emptied where any of
them differs from those of the core's last strand (R274). -/
def Core.warm (c : Core) (now : Nat × Nat × W32) : Core :=
  { c with icache := if c.last = some now then c.icache else [], last := some now }
/-- The active and standby contexts are exchanged (R158). -/
def Core.exchange (c : Core) : Core := { c with act := c.sby, sby := c.act }
/-- A strand starts by exchanging the contexts of its core: every accumulator and plane is zero, every queue of the core empty, and the checker holds
the sequencer's state. Arrivals that were held for the strand while it was set up stay held (R158, R173, R274, R303). -/
def Core.start (c : Core) (now : Nat × Nat × W32) : Core :=
  let x := c.exchange
  { Core.zero with act := { x.act with early := c.act.early }, sby := x.sby, run := .running, halted := c.halted, gated := c.gated,
                   brk := c.brk, icache := c.icache, last := c.last }.warm now
/-- What tells whether a core's cache may be used by a team's strands (R274). -/
def State.cacheTag (s : State) (t : Team) : Nat × Nat × W32 := (t.part, t.pipe, s.codeGen t.part t.pipe)

/-! ### The slot table of a timed stage (R242) -/

/-- n bytes at a virtual address, read by the hub for partition p: local readable pages of its HBM groups or LP channels, without poison. -/
def State.readVa (s : State) (p asid va n : Nat) : Except TFail (List Byte) :=
  if asidPart (s.asidEntry asid) ≠ p then .error (0x16, [])
  else
    (List.range (if n = 0 then 0 else (va + n - 1) / 65536 - va / 65536 + 1)).foldl (fun acc i =>
      match acc with
      | .error f => .error f
      | .ok bs =>
        let a := max va ((va / 65536 + i) * 65536)
        let m := min (va + n) ((va / 65536 + i + 1) * 65536) - a
        match s.walk asid a with
        | .absent => .error (0x04, [a])
        | .malformed => .error (0x16, [])
        | .leaf e _ _ pa =>
          if pteNode e = s.mg.node.toNat ∧ pteR e ∧ (s.badB (pa % 2 ^ 48) m).isEmpty then .ok (bs ++ s.readB (pa % 2 ^ 48) m)
          else .error (0x16, [])) (.ok [])
/-- Whether a page of n bytes at a virtual address moves, so that a read of them is held (R250, R271). -/
def State.heldVa (s : State) (asid va n : Nat) : Bool :=
  (List.range (if n = 0 then 0 else (va + n - 1) / 65536 - va / 65536 + 1)).any fun i => s.moving asid (va + 65536 * i)
/-- What a read of n bytes at a virtual address does to the words that it reads, those of its walks among them (R298, R299). -/
def State.touchVa (s : State) (asid va n : Nat) : State :=
  (List.range (if n = 0 then 0 else (va + n - 1) / 65536 - va / 65536 + 1)).foldl (fun u i =>
    let a := max va ((va / 65536 + i) * 65536)
    let m := min (va + n) ((va / 65536 + i + 1) * 65536) - a
    match s.walk asid a with
    | .leaf e _ _ pa => if pteNode e = s.mg.node.toNat then ((u.walked asid a).carry (pa % 2 ^ 48) m asid a).1 else u.walked asid a
    | _ => u.walked asid a) s
/-- The position of a stop that a slot-table code names (R241, R242). -/
def stopPos (cores : List Nat) (code : Nat) : Nat :=
  let core (c : Nat) : Nat := [0, 5, 12, 17].getD (c % 16 / 4) 0 + c % 4
  if code < 16 then core (cores.getD code 0) else [4, 9, 16, 21, 10, 11, 22].getD (code - 16) 0
/-- An entry of a slot table: V, CHAIN, and the positions of SRC and DST as its chain counts them. -/
def slotEntry (cores : List Nat) (e : W32) : Bool × Bool × Nat × Nat :=
  let n := e.toNat
  let west := nfld n 30 30 == 1
  let a := stopPos cores (nfld n 29 25)
  let b := stopPos cores (nfld n 24 20)
  (nfld n 31 31 == 1, west, if west then 23 - a else a, if west then 23 - b else b)
/-- Whether a slot table breaks R242 for a team placed on some cores. -/
def slotsBad (cores : List Nat) (es : List W32) : Bool :=
  let n := cores.length
  let code (e : W32) : List Nat := [nfld e.toNat 29 25, nfld e.toNat 24 20]
  let xs := (es.map (slotEntry cores)).zip (List.range es.length)
  (es.any fun e => nfld e.toNat 19 0 != 0 || (code e).any fun k => decide (22 < k)) ||
  (es.any fun e => nfld e.toNat 31 31 == 1 && (code e).any fun k => decide (k < 16) && decide (n ≤ k)) ||
  (xs.any fun x => x.1.1 && decide (x.1.2.2.2 ≤ x.1.2.2.1)) ||
  (xs.any fun x => xs.any fun y =>
    decide (x.2 < y.2) && x.1.1 && y.1.1 && x.1.2.1 == y.1.2.1 &&
    ((x.2 : Int) - x.1.2.2.1) % es.length == ((y.2 : Int) - y.1.2.2.1) % es.length &&
    decide (x.1.2.2.1 < y.1.2.2.2) && decide (y.1.2.2.1 < x.1.2.2.2))
/-- The slot table at a virtual address, checked for a placement (R242). -/
def State.slotTable (s : State) (p asid va : Nat) (cores : List Nat) : Except TFail (List W32) :=
  match s.readVa p asid va 8 with
  | .error f => .error f
  | .ok h =>
    let n := ofLE h
    if n = 0 ∨ 256 < n then .error (0x16, [])
    else
      match s.readVa p asid (va + 8) (4 * n) with
      | .error f => .error f
      | .ok bs =>
        let es := (List.range n).map fun i => BitVec.ofNat 32 (leField bs (4 * i) 4)
        if slotsBad cores es then .error (0x16, []) else .ok es
/-- SLOTTAB of a stage (R160). -/
def State.slotTab (s : State) (p q t : Nat) : Nat := s.mg4 (stageAt p q t + 40) 8
/-- Whether the read of a slot table is held, because a page of it moves (R250). -/
def State.slotHeld (s : State) (p asid va : Nat) : Bool :=
  s.heldVa asid va 8 ||
  match s.readVa p asid va 8 with
  | .ok h => s.heldVa asid va (8 + 4 * min (ofLE h) 256)
  | .error _ => false

/-! ### Dispatch (R172) -/

/-- The identifier of a partition's next team: the count advances past every value that a running or saved team holds (R174). -/
def State.newTeamId (s : State) (p : Nat) : Nat :=
  let x := s.getPart p
  let ids := (List.range (s.teams.length + 1)).map fun i => p % 16 * 2 ^ 28 + (x.teamCount + 1 + i) % 2 ^ 28
  (ids.find? fun i => (s.team i).isNone).getD 0
/-- The image that range 0 of a record names: its address and backing frames (R269). -/
def State.imageOf (s : State) (asid : Nat) (r : List Byte) : Nat × List Nat :=
  let va := rangeBase (recWord r 0)
  (va, s.imageFrames asid va (rangePages (recWord r 0) / 16))
/-- The dies of a mask on which an image is or can be made resident (R269). -/
def State.imageMask (s : State) (p asid : Nat) (im : Nat × List Nat) (mask : Nat) : Nat :=
  maskOf mask fun d => (s.bedRoom p d asid im.1 im.2).isSome
/-- A team with its cores is set up: its images are loaded, its extents and map stand in the tables of its dies, and for a timed team the slot
table in its die (R172 steps 3 and 5). -/
def State.loadTeam (s : State) (t : Team) (im : Nat × List Nat) (tab : List W32) : State × List Extent :=
  let dies := diesOf t.cores
  let u := if t.image then dies.foldl (fun u d => u.bedLoad t.part d t.asid im.1 im.2) s else s
  let v := if t.timed then dies.foldl (fun u d => u.modDie d fun x => { x with slotTab := tab })
      (u.touchVa t.asid (u.slotTab t.part t.pipe t.stage) (8 + 4 * tab.length)) else u
  (v, if t.image then u.setBed t.part t.asid im.1 im.2 dies t.exts else t.exts)
/-- Steps 3 to 6 of R172: the image is loaded, the record popped, the identifier assigned, and every strand set up in the standby slot of its
core with its record copy in its scratchpad (R173, R158). -/
def State.setUpTeam (s : State) (p q st : Nat) (rec_ : List Byte) (cores : List Nat) (es : List Extent) (tab : List W32) : State :=
  let asid := s.pipeAsid p q
  let id := s.newTeamId p
  let entry := w64 (s.mg4 (stageAt p q st) 8)
  let timed := s.stTimed p q st
  let grouped := s.stGrouped p q st
  let n := cores.length
  let team : Team :=
    { id := id, part := p, pipe := q, stage := st, asid := asid, n := n, record := rec_, cores := cores, timed := timed,
      grouped := grouped, image := recImage rec_, phase := .starting, exts := es, pset := [], saved := [], exitedRanks := [],
      logs := List.replicate n [], area := 0, notDies := [], sched := 0, preempts := 0, started := s.now, since := s.now,
      quantumTold := false, entry := entry, waiting := [], areaAt := 0, stop := none, wire := false, beat := 0 }
  let r := s.loadTeam team (s.imageOf asid rec_) tab
  let t := (r.1.popHead p q (s.stInq p q st)).modPart p fun x => { x with teamCount := id % 2 ^ 28 }
  let u := (List.range n).foldl (fun u k =>
    let c := cores.getD k 0
    let x := (u.getCore c).freed
    (u.setCore c { x with gated := false, act := { x.act with early := [] }, sby := startCtx p n k c id entry grouped timed, run := .setUp }).writeB
      (spadKey c 0x3FFFC0) rec_) t
  ({ u with teams := u.teams ++ [{ team with exts := r.2 }] }).noteReady p
/-- The head record of a stage is dispatched on the dies of a mask, or fails, or nothing happens (R172, R194). -/
def State.launchTask (s : State) (p i mask : Nat) : State :=
  let q := i / 64
  let st := i % 64
  let asid := s.pipeAsid p q
  let place (n m : Nat) : Option (List Nat) := s.placeCores p n m (s.stGrouped p q st) (s.stTimed p q st)
  if !s.headReady p q st then s
  else
    match s.headOf p q st with
    | some .bad =>
      let m := ((s.headBytes p q st).map recTeam).getD 0
      let n := if m = 0 then s.stTeam p q st else m
      if s.shareOk p i n ∧ (place n mask).isSome then (s.readHead p q st).dispatchFail p i none (0x16, []) else s
    | some (.ok r) =>
      let n := if recTeam r = 0 then s.stTeam p q st else recTeam r
      if (recRows r = 0 ∧ recSkip r) ∨ !s.shareOk p i n then s
      else
        match place n mask with
        | none => s
        | some cores =>
          let s := (s.readHead p q st).taskWalks asid (s.mg4 (stageAt p q st) 8) r
          match s.taskExtents p asid (s.mg4 (stageAt p q st) 8) r with
          | .error f => s.dispatchFail p i none f
          | .ok es =>
            match if recImage r then place n (s.imageMask p asid (s.imageOf asid r) mask) else some cores with
            | none => s
            | some cores =>
              if s.stTimed p q st ∧ s.slotHeld p asid (s.slotTab p q st) then s
              else
                match if s.stTimed p q st then s.slotTable p asid (s.slotTab p q st) cores else .ok [] with
                | .error f => s.dispatchFail p i none f
                | .ok tab => s.setUpTeam p q st r cores es tab
    | _ => s

/-! ### Resumption (R184, R185) -/

/-- The dies on which an image is resident for a partition (R185). -/
def State.residentDies (s : State) (p asid : Nat) (im : Nat × List Nat) : List Nat :=
  (List.range 16).filter fun d =>
    (s.getPart p).images.any fun m => m.die == d && m.asid == asid && m.va == im.1 && m.frames == im.2 && m.drop.isEmpty
/-- A saved team is resumed on the dies of a mask: cores are chosen, its extents are rebuilt from the record that its save area holds and its map is
loaded, or the restore fails, or nothing happens (R184 steps 1 to 3, R183, R185, R177). R184 names no QUEUE_INVALID: the saved record is not checked
for reserved fields (log 13), and a slot table that cannot be read, or that R242 rejects under the new placement, leaves a timed team's table empty
(log 43). -/
def State.resumeTeam (s : State) (m : Team) (mask : Nat) : State :=
  let rec_ := s.readB (m.areaAt + 0x40) 64
  let m := { m with record := rec_, image := recImage rec_ }
  let i := 64 * m.pipe + m.stage
  let given := maskOf mask fun d => !m.notDies.contains d
  let es := s.taskExtents m.part m.asid m.entry.toNat m.record
  let im := s.imageOf m.asid m.record
  let aff := maskOf given fun d => (s.residentDies m.part m.asid im).contains d
  -- off its resident dies, a failure of step 2 is met whether or not the image could be made resident
  let mask := if !m.image then given else if aff ≠ 0 then aff else match es with
    | .ok _ => s.imageMask m.part m.asid im given
    | .error _ => given
  if !s.shareOk m.part i m.n ∨ (m.timed ∧ s.slotHeld m.part m.asid (s.slotTab m.part m.pipe m.stage)) then s
  else
    match s.placeCores m.part m.n mask m.grouped m.timed with
    | none => s
    | some cores =>
      let s := ((s.carry (m.areaAt + 0x40) 64 m.asid).1).taskWalks m.asid m.entry.toNat m.record
      match es with
      | .error f => s.dispatchFail m.part i (some m.id) f
      | .ok es =>
        let tab := if m.timed then
            match s.slotTable m.part m.asid (s.slotTab m.part m.pipe m.stage) cores with
            | .ok tab => tab
            | .error _ => []
          else []
        let r := s.loadTeam { m with cores := cores, exts := es } im tab
        let t := cores.foldl (fun u c => u.modCore c fun x => { x.freed with gated := false }) r.1
        t.modTeam m.id fun x =>
          { x with record := m.record, image := m.image, cores := cores, exts := r.2, pset := [], phase := .restoring, notDies := [], waiting := [] }
/-- A dispatch decision for a stage and a die mask: the oldest saved team is resumed, or the head record is dispatched (R172). Outside READY
nothing is (R55). -/
def State.dispatch (s : State) (p i mask : Nat) : State :=
  let q := i / 64
  let st := i % 64
  if !s.ready ∨ 1024 ≤ i ∨ !s.pipeOn p q ∨ s.stTeam p q st = 0 ∨ s.stageBlocked p i then s
  else
    match s.savedOf p q st with
    | m :: _ => s.resumeTeam m mask
    | [] => s.launchTask p i mask

/-! ### The end of a team (R176, R177, R178, R267) -/

/-- A team reaches its kernel boundary: deferred shoot-downs that wait for no other signal their semaphores, and images that are to be dropped
and that no running task holds lose their residency (R267). -/
def State.boundary (s : State) (p id : Nat) : State :=
  let left := s.msys.shoots.map fun h => if h.part = p then { h with waits := h.waits.filter (· != id) } else h
  let isDone (h : Shoot) : Bool := h.acked && h.waits.isEmpty
  let t := { s with msys := { s.msys with shoots := left.filter fun h => !isDone h } }
  let u := (left.filter isDone).foldl (fun u h => match h.sem with | some (q, i) => u.semAdd h.part q i 1 | none => u) t
  u.modPart p fun x => { x with images := x.images.filter fun m => m.drop.isEmpty || u.imageHeld p m }
/-- Cores are freed: DISPATCH with reason 3 follows for each die; reads and atomics parked for their strands go, and a QPUT that waited waits no more
(R170, R178). -/
def State.freeCores (s : State) (p : Nat) (cores : List Nat) : State :=
  let ids := cores.flatMap fun c =>
    let x := s.getCore c
    x.pend.map (·.acc.id) ++ [x.el, x.es].filterMap fun e => e.run.map (·.cmd.id)
  let t := cores.foldl (fun u c => u.modCore c Core.freed) s
  let u := (List.range 16).foldl (fun u d => u.modDie d fun x => { x with parked := x.parked.filter fun e => !ids.contains e.1 }) t
  let v := u.modPart p fun x => { x with waitPages := x.waitPages.filter fun e => !cores.contains (e.1 - 0x10000) || decide (e.1 < 0x10000) }
  (diesOf cores).foldl (fun u d => u.slateEvent p 1 3 0xFFFFFFFF d) v
/-- A team ends: it leaves the machine, its cores are freed, and its kernel boundary is reached (R176, R177). -/
def State.endTeam (s : State) (t : Team) : State :=
  let u := { s with teams := s.teams.filter fun x => x.id != t.id }
  (if t.holds then u.freeCores t.part t.cores else u).boundary t.part t.id
/-- TASK_COMPLETION: the team args[0], every strand of which has passed EXIT, completes: SIGADD is added to its semaphore and its cores are freed
(R176). -/
def execTaskCompletion (s : State) : Out :=
  .next (
    match s.team (s.args.headD 0) with
    | none => s
    | some t =>
      if (t.phase != .running && t.phase != .starting) ||
         !(t.cores.all fun c => (s.getCore c).run == .exited && (s.getCore c).outw.isEmpty) then s
      else ((s.semAdd t.part t.pipe (recSigSem t.record) (recSigAdd t.record)).endTeam t).noteReady t.part)
/-- RECORD_RETIRE: the head record of stage args[1] of partition args[0], ready, with no rows and SKIP_IF_ZERO, is retired (R171, R162). -/
def execRecordRetire (s : State) : Out :=
  .next (
    let p := s.args.getD 0 0
    let i := s.args.getD 1 0
    let q := i / 64
    if !s.ready ∨ 16 ≤ p ∨ 1024 ≤ i ∨ !s.pipeOn p q ∨ s.stTeam p q (i % 64) = 0 then s
    else
      match s.headOf p q (i % 64) with
      | some (.ok r) =>
        if recRows r = 0 ∧ recSkip r ∧ s.semOk p q r then
          (((s.popHead p q (s.stInq p q (i % 64))).semAdd p q (recSigSem r) (recSigAdd r))).noteReady p
        else s
      | _ => s)

/-! ### Starting (R158, R172, R180) -/

/-- STRAND_START: strand args[1] of team args[0] starts by exchanging its core's contexts; all strands of a timed team start at once (R158,
R175). -/
def execStrandStart (s : State) : Out :=
  .next (
    match s.team (s.args.getD 0 0) with
    | none => s
    | some t =>
      let cs := if t.timed then t.cores else (t.cores[s.args.getD 1 0]?).toList
      if t.phase ≠ .starting then s
      else
        let u := cs.foldl (fun u c => u.modCore c fun x => if x.run = .setUp then x.start (s.cacheTag t) else x) s
        if t.cores.any fun c => (u.getCore c).run == .setUp then u
        else u.modTeam t.id fun x => { x with phase := .running, beat := s.cycle })
/-- QUANTUM_EXPIRY: the team args[0] has run for its stage's QUANTUM: PREEMPT with reason 1 (R179, R160). -/
def execQuantumExpiry (s : State) : Out :=
  .next (
    match s.team (s.args.headD 0) with
    | none => s
    | some t =>
      let quantum := s.mg4 (stageAt t.part t.pipe t.stage + 20) 4
      if quantum = 0 ∨ t.quantumTold ∨ t.absent ∨ s.now < t.started + 1000 * quantum then s
      else (s.modTeam t.id fun x => { x with quantumTold := true }).slateEvent t.part 2 1 t.id (64 * t.pipe + t.stage))

/-! ### Pre-emption (R180, R183) -/

/-- The lowest-numbered free save area of a team's stage (R183). -/
def State.freeArea (s : State) (t : Team) : Option Nat :=
  let used := (s.teams.filter fun x => x.part == t.part && x.pipe == t.pipe && x.stage == t.stage).flatMap fun x =>
    (if x.absent then [x.area] else []) ++ (x.stop.map (·.1)).toList
  (List.range (min (s.mg4 (stageAt t.part t.pipe t.stage + 32) 4) (used.length + 1))).find? fun i => !used.contains i
/-- A strand at a stop: it stops at a bundle boundary, before its first where it has not started, and a wait that has taken no effect is saved
unexecuted (R180, R169, R434). Reads of a wait shadow are discarded (R285). -/
def Core.stopStrand (c : Core) (now : Nat × Nat × W32) : Core :=
  let keep := match c.wait with | .qput _ (some _) _ => true | _ => false
  let x := if c.run = .setUp then c.start now else c
  if c.run = .exited then c
  else { x with run := .stopped, told := false, wait := if keep then c.wait else .none, shadow := [],
                pend := x.pend.filter fun p => !p.isEarly }
/-- The stop of a team is issued: it is absent from now on, and its logs are empty (R180 steps 1 and 2, R181). -/
def State.issueStop (s : State) (t : Team) (area at_ : Nat) (not : List Nat) : State :=
  ((t.cores.foldl (fun u c => u.modCore c fun x => x.stopStrand (s.cacheTag t)) s).writeB (at_ + 0x400) (zeros (16 * t.n))).modTeam t.id fun x =>
    { x with phase := .stopping, area := area, areaAt := at_, notDies := not, waiting := [], stop := none, wire := false,
             logs := List.replicate t.n [] }
/-- A team is pre-empted, or the pre-emption is refused for want of a save area; a team whose strands have all passed EXIT is left to complete. not
are the dies on which it is not to be resumed (R180, R183, R177). A stop of a team that is being restored takes effect when its
set-up completes. The spec gives no outcome for a SAVEBASE outside the partition's own HBM groups (R149): the area is used as it is named (log 41). -/
def State.preempt (s : State) (t : Team) (not : List Nat) : State :=
  let running := t.phase == .running || t.phase == .starting
  let gone := running && t.cores.all fun c => (s.getCore c).run == .exited
  if (!running && t.phase != .restoring) || gone || t.stop.isSome then s
  else
    match s.freeArea t with
    | none => s.slateEvent t.part 2 3 t.id (64 * t.pipe + t.stage)
    | some i =>
      let at_ := s.mg4 (stageAt t.part t.pipe t.stage + 24) 8 % 2 ^ 48 + i * (0x10000 + s.stTeam t.part t.pipe t.stage * 0x590000)
      if running then s.issueStop t i at_ not else s.modTeam t.id fun x => { x with stop := some (i, at_), notDies := not }

/-! ### Fault actions (R177) -/

/-- STRAND_FAULT: the fault of core args[0]'s strand is told to the scheduler: the stage's count rises and FAULT is raised. A faulted team has one
slot, and a timed team is counted once (R177, R189, R213). -/
def execStrandFault (s : State) : Out :=
  .next (
    let c := s.args.headD 0
    let x := s.getCore c
    if x.run ≠ .faulted ∨ x.told then s
    else
      match s.team x.act.csr.teamId.toNat with
      | none => s
      | some t =>
        let u := s.modCore c fun x => { x with told := true }
        let i := 64 * t.pipe + t.stage
        let old := (u.getPart t.part).slots.find? fun e => match e.2 with | some f => f.team == some t.id && !f.restore | none => false
        let rank := x.act.csr.rank.toNat
        if t.timed ∧ (old.isSome ∨ t.cores.any fun k => k != c && (s.getCore k).run == .faulted && (s.getCore k).told) then u
        else
          match old with
          | some (n, _) =>
            (u.modPart t.part fun y => { y with faults := Tab.put 0 y.faults i (Tab.get 0 y.faults i + 1) }).slateEvent t.part 3
              x.act.csr.code.toNat n (i + rank * 2 ^ 16)
          | none =>
            u.addFault t.part { team := some t.id, restore := false, stage := i, cause := x.act.csr.code.toNat, pages := [],
                                waiting := false } rank)
/-- An access that PAGE_ABSENT stopped replays: its ABSENT entries are translated anew on use (R177, R260). -/
def State.replayAt (s : State) (id core va : Nat) : State :=
  (s.unfault core).modTeam id fun x =>
    { x with exts := x.exts.map fun e => if e.absent && e.covers va then { e with absent := false, stale := true } else e,
             pset := x.pset.filter fun e => !(e.absent && e.covers va) }
/-- Strands that a WAIT holds run on where their page is mapped, and dispatch and restore failures that wait end when every page concerned is
(R177). -/
def State.endWaits (s : State) (p : Nat) : State :=
  let t := (s.teams.filter fun t => t.part == p && (t.phase == .running || t.phase == .starting)).foldl (fun s t =>
    t.waiting.foldl (fun s r =>
      let c := t.cores.getD r 0
      let va := (s.getCore c).act.csr.faultAddr.toNat
      match s.walk t.asid va with
      | .leaf .. =>
        (if (s.getCore c).run = .faulted then s.replayAt t.id c va else s).modTeam t.id fun x =>
          { x with waiting := x.waiting.filter (· != r) }
      | _ => s) s) s
  t.modPart p fun x => { x with slots := x.slots.filter fun e =>
    match e.2 with
    | some f => !f.waiting || f.pages.any fun va => t.walk (t.pipeAsid p (f.stage / 64)) va == .absent
    | none => false }
/-- Fault action act (0 WAIT, 1 MIGRATE, 2 KILL, 3 PREEMPT) on a pending slot of partition p (R177, R208). -/
def State.faultAct (s : State) (p act slot : Nat) : State :=
  match Tab.get none (s.getPart p).slots slot with
  | none => s
  | some f =>
    let ended := s.modPart p fun x => { x with slots := Tab.put none x.slots slot none }
    let q := f.stage / 64
    match f.team, f.restore with
    | some id, false =>
      match s.team id with
      | none => ended
      | some t =>
        if act = 0 then
          let rs := (List.range t.n).filter fun r =>
            let c := s.getCore (t.cores.getD r 0)
            c.run == .faulted && c.act.csr.code == 0x04
          (ended.modTeam id fun x => { x with waiting := x.waiting ++ rs.filter fun r => !x.waiting.contains r }).endWaits p
        else if act = 2 then (ended.endTeam t).noteReady p
        else if t.absent then ended
        else ended.preempt t (if act = 1 then diesOf t.cores else [])
    | team, _ =>
      if act = 2 then
        match team with
        | some id => match s.team id with | some t => (ended.endTeam t).noteReady p | none => ended
        | none => if s.quCount p q (s.stInq p q (f.stage % 64)) = 0 then ended
                  else (ended.popHead p q (s.stInq p q (f.stage % 64))).noteReady p
      else if act = 0 ∧ f.cause = 0x04 then
        (s.modPart p fun x => { x with slots := Tab.put none x.slots slot (some { f with waiting := true }) }).endWaits p
      else ended

/-! ### Decisions (R194, R208) -/

/-- Applies a decision of the partition's list: 0 dispatch, 1 pre-empt, 2 share, 4 + ACT a fault action (R194, R200). -/
def State.applyDec (s : State) (p : Nat) (d : Nat × W32 × W32) : State :=
  match d.1 with
  | 0 => s.dispatch p d.2.1.toNat d.2.2.toNat
  | 1 =>
    match s.team d.2.1.toNat with
    | some t => if t.part = p then s.preempt t [] else s
    | none => s
  | 2 => s.modPart p fun x => { x with shares := Tab.put 0 x.shares d.2.1.toNat d.2.2.toNat }
  | n + 4 => s.faultAct p n d.2.1.toNat
  | _ => s

end Sys2Proof.Machine
end

