-- ==== Sys2Proof/Machine/Memory.lean ====
section
/-!
DEFINITION. The commands that change page tables (R255, R256), shoot-down (R265), page moves (R270 to R273) and snapshots (R304).
-/
namespace Sys2Proof.Machine

/-! ### Host requests (R144, R146, R55) -/

/-- A host request that is accepted only in READY: one at a time, and NOT_READY before (R146, R55). -/
def State.hostReq (s : State) (f : State → State) : Out :=
  .next (if s.mg.hostWait.isSome then s else if s.ready then f s else s.hostDone 1 [])
/-- The completion OK. -/
def State.hostOk (s : State) : State := s.hostDone 0 []
/-- The completion REFUSED. -/
def State.refused (s : State) : State := s.hostDone 7 []
/-- A command that is refused, with no effect, unless its conditions hold (R150, R255, R470). -/
def State.command (s : State) (ok : Bool) (f : State → State) : Out :=
  s.hostReq fun s => if ok then (f s).hostOk else s.refused
/-- Operand k of a command. -/
def State.arg (s : State) (k : Nat) : Nat := s.args.getD k 0
/-- Whether a partition is ACTIVE. -/
def State.active (s : State) (p : Nat) : Bool := decide (p < 16) && (s.getPart p).pstate == 2
/-- Whether an address space is a partition's (R255). -/
def State.asidOf (s : State) (p asid : Nat) : Bool := decide (asid < 65536) && pteV (s.asidEntry asid) && asidPart (s.asidEntry asid) == p
/-- A semaphore that a command names: operands k, k + 1 and k + 2 are 1 for one, its pipeline and its number (R255). -/
def State.semArg (s : State) (k : Nat) : Option (Nat × Nat) := if s.arg k = 1 then some (s.arg (k + 1) % 16, s.arg (k + 2) % 256) else none

/-! ### Page-table commands (R255, R256) -/

/-- TABLE (R255): operands p, asid, va, level, ppn. The frame is zeroed and then a pointer entry made valid. -/
def execTableCmd (s : State) : Out :=
  let p := s.arg 0
  let va := s.arg 2
  let ppn := s.arg 4
  let k := s.pteAt (s.arg 1) va (s.arg 3)
  let ok := s.active p && s.asidOf p (s.arg 1) && decide (va < 2 ^ 55) && (s.arg 3 == 1 || s.arg 3 == 2) &&
    (match k with | some k => !pteV (s.pte k) | none => false) && ppn / 2 ^ 32 == s.mg.node.toNat && s.frameOf p (ppn % 2 ^ 32)
  s.command ok fun s => (s.zeroMem (ppn % 2 ^ 32 * 65536) 65536).setPte (k.getD 0) (w64 (ppn * 65536 + 1))
/-- The effect of a change of code pages: CODEGEN of every pipeline of the address space rises by n (R274). -/
def State.bumpCode (s : State) (p asid n : Nat) : State :=
  ((List.range 16).filter fun q => s.pipeAsid p q == asid).foldl (fun t q =>
    t.modPart p fun x => { x with codegen := Tab.put 0 x.codegen q (Tab.get 0 x.codegen q + BitVec.ofNat 32 n) }) s
/-- MAP (R255, R256): operands p, asid, va, level, leaf, keep. A local leaf's frame is zeroed first unless keep is 1, for which every frame of the leaf
must be mapped by another valid leaf of the partition, or it is a bedrock leaf;
then the leaf is written, and held requests, waiting strands and waiting dispatches replay (R141, R177, R274). -/
def execMapCmd (s : State) : Out :=
  let p := s.arg 0
  let asid := s.arg 1
  let level := s.arg 3
  let size := if level = 2 then 2 ^ 29 else 65536
  let va := s.arg 2 / size * size
  let e := w64 (s.arg 4)
  let k := s.pteAt asid va level
  let here := pteNode e == s.mg.node.toNat
  let frames := size / 65536
  let ok := s.active p && s.asidOf p asid && decide (s.arg 2 < 2 ^ 55) && (level == 2 || level == 3) && decide (s.arg 4 < 2 ^ 64) &&
    (match k with | some k => !pteV (s.pte k) | none => false) && !s.leafBad p level e && !s.moving asid va &&
    decide (s.arg 5 ≤ 1) && (s.arg 5 != 1 || (here && (List.range frames).all fun i => s.framesMapped p (pteFrame e + i) 1))
  s.command ok fun s =>
    let t := if here ∧ s.arg 5 = 0 ∧ !pteBed e then s.zeroMem (pteFrame e * 65536) size else s
    let u := (t.setPte (k.getD 0) e).bumpCode p asid (pteX e).toNat
    ((u.replayHeld asid va size).endWaits p).noteReady p
/-- The entries of n pages, each with its level: none where a table is missing, a page stands in the move table, or a block is covered in part
(R255). -/
def State.rangeEntries (s : State) (asid va pages : Nat) : Option (List (Nat × Nat)) :=
  (List.range pages).foldl (fun acc i =>
    match acc with
    | none => none
    | some es =>
      let a := va + 65536 * i
      if s.moving asid a then none
      else
        match s.pageEntry asid a with
        | none => none
        | some (level, k) =>
          let b := a / 2 ^ 29 * 2 ^ 29
          if level = 2 ∧ (b < va ∨ va + 65536 * pages < b + 2 ^ 29) then none
          else if es.contains (level, k) then some es else some (es ++ [(level, k)])) (some [])
/-- A command that changes entries of pages and then shoots them down; the host's completion follows the shoot-down (R265, R146). -/
def State.changePages (s : State) (p asid va pages : Nat) (sem : Option (Nat × Nat)) (new : W64 → W64) (legal : Nat → W64 → Bool) : Out :=
  s.hostReq fun s =>
    match s.rangeEntries asid va pages with
    | none => s.refused
    | some es =>
      let live := es.filter fun x => isLeaf (s.pte x.2)
      if !(s.active p && s.asidOf p asid && decide (va + 65536 * pages ≤ 2 ^ 55)) || !(live.all fun x => legal x.1 (new (s.pte x.2))) then
        s.refused
      else
        let codes := (live.filter fun x => pteX (s.pte x.2)).length
        let t := live.foldl (fun t x => t.setPte x.2 (new (s.pte x.2))) s
        let u := (((t.bumpCode p asid codes).shoot p asid va pages sem)).noteReady p
        { u with mg := { u.mg with hostWait := some (true, 0) } }
/-- UNMAP (R255): operands p, asid, va, pages, semaphore. -/
def execUnmap (s : State) : Out :=
  s.changePages (s.arg 0) (s.arg 1) (s.arg 2 / 65536 * 65536) (s.arg 3) (s.semArg 4) (fun e => pteWith e 0 0 0) fun _ _ => true
/-- PROTECT (R255): operands p, asid, va, pages, bits 11 to 1, semaphore. -/
def execProtect (s : State) : Out :=
  s.changePages (s.arg 0) (s.arg 1) (s.arg 2 / 65536 * 65536) (s.arg 3) (s.semArg 5) (fun e => pteWith e 11 1 (s.arg 4))
    fun level e => !s.leafBad (s.arg 0) level e
/-- MPOOL (R255): operands p, tier, ppn, count. -/
def execMpool (s : State) : Out :=
  let p := s.arg 0
  let fs := (List.range (s.arg 3)).map (s.arg 2 % 2 ^ 32 + ·)
  let ok := s.active p && decide (s.arg 1 ≤ 1) && s.arg 2 / 2 ^ 32 == s.mg.node.toNat &&
    (fs.all fun f => s.frameOf p f && frameTier f == s.arg 1) && !s.framesMapped p (s.arg 2 % 2 ^ 32) (s.arg 3)
  s.command ok fun s => s.putFrames p fs
/-- MIGCLR (R255, R273): operands p, asid, va. The page's entry gets MIG = 1 and its move count is reset. -/
def execMigclr (s : State) : Out :=
  let asid := s.arg 1
  let va := s.arg 2 / 65536 * 65536
  let k := s.pteAt asid va 3
  let e := pteWith (s.pte (k.getD 0)) 10 10 1
  let ok := s.active (s.arg 0) && s.asidOf (s.arg 0) asid && decide (s.arg 2 < 2 ^ 55) && k.isSome && !s.moving asid va && !s.leafBad (s.arg 0) 3 e &&
    pteNode e == s.mg.node.toNat
  s.command ok fun s => (s.setPte (k.getD 0) e).resetMove asid va
/-- CODEBUMP (R255, R274): operands p, pipeline. -/
def execCodebump (s : State) : Out :=
  s.command (s.active (s.arg 0) && decide (s.arg 1 < 16)) fun s =>
    s.modPart (s.arg 0) fun x => { x with codegen := Tab.put 0 x.codegen (s.arg 1) (Tab.get 0 x.codegen (s.arg 1) + 1) }

/-! ### Shoot-down (R265 to R267) -/

/-- SHOOTDOWN_COMPLETE: the shoot-down at place args[0], for which no access translated through an old entry is left, completes: SDSTAT is 0 and
its semaphore is signalled, or, where running tasks keep a bedrock extent of its pages, SDSTAT is 1 and the semaphore waits
for them (R265, R267). The host's command completes. -/
def execShootdownComplete (s : State) : Out :=
  .next (
    let i := s.arg 0
    match s.msys.shoots[i]? with
    | none => s
    | some x =>
      if x.acked ∨ s.inFlight x.asid x.va x.pages then s
      else
        let waits := x.waits.filter fun id => (s.team id).any fun t => t.phase != .saved
        let t : State := { s with msys := { s.msys with
          shoots := if waits.isEmpty then dropAt s.msys.shoots i else s.msys.shoots.set i { x with acked := true, waits := waits } } }
        let u : State := { t with mg := { t.mg with sdstat := if waits.isEmpty then 0 else 1 } }
        let v := match waits, x.sem with
          | [], some (q, n) => u.semAdd x.part q n 1
          | _, _ => u
        if v.mg.hostWait = some (true, 0) then v.hostOk else v)

/-! ### Page moves (R270 to R273) -/

/-- The name of a page in the requests of its move. -/
def moveName (asid va : Nat) : Nat := asid * 2 ^ 39 + va / 65536
/-- A page enters the move table: its entry is written with V = 0 and shot down; its counts are reset (R270, R271 step 1). -/
def State.startMove (s : State) (k : Nat) (e : W64) (m : Move) : State :=
  let t := (s.setPte k (pteWith e 0 0 0)).markStale m.asid m.va 1
  let migs := t.msys.migs.filter fun x => !(x.asid == m.asid && x.va == m.va)
  { t with msys := { t.msys with moves := t.msys.moves ++ [m], migs := migs } }
/-- The entry of a page that the engine may move: a local level-3 leaf with MIG = 1, not settled, not moving, of no armed snapshot, with
room in the move table (R270, R271, R273, R304). -/
def State.movable (s : State) (asid va : Nat) : Option (Nat × W64) :=
  match s.pteAt asid va 3 with
  | none => none
  | some k =>
    let e := s.pte k
    let settled := s.msys.moveCnt.any fun x => x.1 == asid && x.2.1 == va && decide (s.migMax ≤ x.2.2.1)
    if !isLeaf e || !pteMig e || pteNode e != s.mg.node.toNat || s.moving asid va || settled || decide (64 ≤ s.msys.moves.length) ||
       s.msys.snaps.any (fun x => x.asid == asid) then none
    else some (k, e)
/-- A tier move of a page begins with a frame of the pool of the tier it goes to; without one, or where the page stands in that tier, no move is made
(R270). -/
def State.startTier (s : State) (part asid va tier : Nat) : State :=
  match s.movable asid va with
  | none => s
  | some (k, e) =>
    match if (pteTier e).toNat = tier then none else s.takeFrame part tier with
    | none => s
    | some (t, f) =>
      t.startMove k e { asid := asid, va := va, pte := e, toNode := some s.mg.node.toNat, frame := f, tier := tier == 1, copied := false,
                        part := part, cow := false }
/-- The accesses of a page, local and remote (R270). -/
def MigPage.accesses (m : MigPage) : Nat := m.loc + m.rem
/-- Whether a page's leaf puts it in HBM, and lets the engine move it. -/
def State.inHbm (s : State) (asid va : Nat) : Bool := (s.movable asid va).any fun x => !pteTier x.2
/-- The tracked HBM page of a partition with the lowest count of accesses below MIGTHRESH / 4 (R270). -/
def State.coldest (s : State) (part : Nat) : Option MigPage :=
  (s.msys.migs.filter fun m => m.part == part && s.inHbm m.asid m.va && decide (4 * m.accesses < s.migThresh)).foldl (fun b m =>
    match b with
    | none => some m
    | some x => if m.accesses < x.accesses then some m else b) none
/-- A WRITE of a page move to its new home: on the strongly ordered flow, as every WRITE of ORD 10 is, but with ORD 00, by which the new home tells it
from a strand's WRITE (R271; log 51). -/
def State.postMove (s : State) (m : Move) (node va : Nat) (bs : List Byte) (bad : List Nat) : State :=
  let n := s.newId
  n.1.post { id := n.2, kind := 1, asker := .move (moveName m.asid m.va), part := m.part, node := node, va := va, asid := m.asid, len := bs.length,
             order := 0, conf := pteConf m.pte, sync := false, data := bs, aop := 0, opa := 0, opb := 0, bar := none, box := none, off := 0,
             retries := 0, due := s.now, bad := bad }
/-- The WRITEs that carry a page to its new home (R271 step 3): one of 24 bytes with the page's new move count, the age of its window and the attributes
of its leaf (R273; log 51), and those of its 64 KiB, poison word for word (R299). -/
def State.sendPage (s : State) (m : Move) (node : Nat) : State :=
  let c := s.moveCount m.asid m.va
  let head := toLE 8 c.1 ++ toLE 8 (s.now - c.2) ++ toLE 8 (fld m.pte 11 0)
  (splitBy (if pteConf m.pte then 384 else 448) 200 m.va 65536).foldl (fun t x =>
    let k := pteFrame m.pte * 65536 + (x.1 - m.va)
    let r := t.carry k x.2 m.asid x.1
    r.1.postMove m node x.1 (r.1.readB k x.2) r.2) (s.postMove m node m.va head [])
/-- MIGRATION_MOVE of the page args[1] of address space args[0]: args[2] = 0 moves it to its candidate node and 1 from the LP tier to HBM, where
its counts reach MIGTHRESH, an empty HBM pool beginning a demotion instead; 2 copies a page that has entered the move table and
has no access left on its old frame (R270, R271). -/
def execMigrationMove (s : State) : Out :=
  .next (
    let asid := s.arg 0
    let va := s.arg 1 / 65536 * 65536
    if !s.ready then s
    else if s.arg 2 = 2 then
      match s.moveOf asid va with
      | none => s
      | some m =>
        if m.copied ∨ pteNode m.pte ≠ s.mg.node.toNat ∨ s.inFlight asid va 1 then s
        else
          let t : State := { s with msys := { s.msys with moves := s.msys.moves.map fun x => if x = m then { x with copied := true } else x } }
          match m.toNode with
          | some n => if n = s.mg.node.toNat then t.copyMem (pteFrame m.pte * 65536) (m.frame * 65536) 65536 asid va else t.sendPage m n
          | none => t
    else
      match s.msys.migs.find? fun m => m.asid == asid && m.va == va with
      | none => s
      | some c =>
        if s.arg 2 = 0 then
          (if c.cnt = 0 ∨ c.cnt < c.loc + s.migThresh then s
           else
            match s.movable asid va with
            | some (k, e) => s.startMove k e { asid := asid, va := va, pte := e, toNode := some c.cand, frame := 0, tier := pteTier e,
                                               copied := false, part := c.part, cow := false }
            | none => s)
        else if s.inHbm asid va ∨ c.accesses < s.migThresh then s
        else if s.msys.pools.any fun f => f.1 == c.part && f.2.1 == 0 then s.startTier c.part asid va 0
        else
          match s.coldest c.part with
          | some x => s.startTier c.part x.asid x.va 1
          | none => s)
/-- MOVE_COMPLETE: the copy of page args[1] of address space args[0] is done: the new entry is written (a local leaf in the new frame, a remote
leaf naming the new home, which the page's move count has gone to, or the old entry for a move given up), MIG clear when the count reaches MIGMAX,
the page leaves the move table, held accesses are walked again in the order held, heads whose page it was are looked at again, and the old frame
returns to its pool (R271, R273, R473). -/
def execMoveComplete (s : State) : Out :=
  .next (
    let asid := s.arg 0
    let va := s.arg 1 / 65536 * 65536
    match s.moveOf asid va, s.pteAt asid va 3 with
    | some m, some k =>
      let mine (r : Req) : Bool := r.asker == .move (moveName asid va)
      let busy := (s.gate.egress ++ s.gate.resend ++ s.gate.store.map (·.req)).any mine
      if !s.ready ∨ !m.copied ∨ pteNode m.pte ≠ s.mg.node.toNat ∨ busy then s
      else
        let c := s.moveCount asid va
        let done (t : State) : State := ((t.dropMove asid va).replayHeld asid va 65536).noteReady m.part
        match m.toNode with
        | none => done (s.setPte k m.pte)
        | some n =>
          if n = s.mg.node.toNat then
            let e := pteWith (pteWith (pteWith m.pte 63 16 (n * 2 ^ 32 + m.frame)) 9 9 m.tier.toNat) 10 10 (if s.migMax ≤ c.1 then 0 else 1)
            done (((s.setMove asid va c.1 c.2).setPte k e).putFrame m.part (pteFrame m.pte))
          else
            let e := pteWith (pteWith (pteWith (pteWith m.pte 63 16 (n * 2 ^ 32)) 11 11 0) 9 8 0) 3 3 0
            done (((s.resetMove asid va).setPte k e).putFrame m.part (pteFrame m.pte))
    | _, _ => s)

/-! ### Snapshots (R304) -/

/-- The snapshot header of a partition, in its HBM groups; none where SNAPHDR names no such place. -/
def State.snapHdr (s : State) (p : Nat) : Option Nat :=
  let a := s.mg4 (partBlock p + 0x420) 8
  if a / 2 ^ 48 = s.mg.node.toNat ∧ a % 8 = 0 ∧ a % 2 ^ 48 < 2 ^ 41 ∧ s.frameOf p (a % 2 ^ 48 / 65536) then some (a % 2 ^ 48) else none
/-- A table is copied with every table below it into frames of the pool: the new frame, and all frames taken; none where the pool is too
small. -/
def State.copyTables (s : State) (p : Nat) : Nat → Nat → Nat → Option (State × Nat × List Nat)
  | 0, _, _ => none
  | f + 1, level, frame =>
    match (s.takeFrame p 0).or (s.takeFrame p 1) with
    | none => none
    | some (t, new) =>
      let u := t.copyMem (frame * 65536) (new * 65536) 65536
      if level = 3 then some (u, new, [new])
      else
        (s.usedEntries frame).foldl (fun acc i =>
          match acc with
          | none => none
          | some (v, n, fs) =>
            let e := s.pte (frame * 65536 + 8 * i)
            if !pteV e ∨ isLeaf e then some (v, n, fs)
            else
              match v.copyTables p f (level + 1) (fld e 47 16) with
              | none => none
              | some (w, m, gs) => some (w.setPte (new * 65536 + 8 * i) (pteWith e 47 16 m), n, fs ++ gs)) (some (u, new, [new]))
/-- The writable local leaves of an address space, pages by their address and blocks by theirs plus one. -/
def State.cowOf (s : State) (asid : Nat) : List Nat :=
  ((s.leaves asid).filter fun l => pteW l.2.2 && pteNode l.2.2 == s.mg.node.toNat).map fun l => if l.2.1 = 2 then l.1 + 1 else l.1
/-- The armed snapshot of a partition. -/
def State.snapOf (s : State) (p : Nat) : Option Snap := s.msys.snaps.find? fun x => x.part == p
/-- SNAPARM (R304): operands p, asid. It waits for accesses under way, so that every access falls before or after the arm instant, and for pages of the
address space that are moving, whose entries hold V = 0 till then (R271). -/
def execSnaparm (s : State) : Out :=
  let p := s.arg 0
  let asid := s.arg 1
  if s.active p ∧ s.asidOf p asid ∧ (s.inFlight asid 0 (2 ^ 39) ∨ s.msys.moves.any fun m => m.asid == asid) then .next s
  else
    s.hostReq fun s =>
      match s.active p && s.asidOf p asid && (s.snapOf p).isNone, s.snapHdr p, s.copyTables p 3 1 (fld (s.asidEntry asid) 47 16) with
      | true, some h, some (t, root, fs) =>
        let sel := s.readN h 8 % 2
        let x : Snap := { part := p, asid := asid, root := root, tables := fs, cow := s.cowOf asid, copies := [] }
        let u : State := { t with msys := { t.msys with snaps := t.msys.snaps ++ [x] } }
        (u.writeN (h + 8 + 8 * (1 - sel)) 8 (s.mg.node.toNat * 2 ^ 32 + root)).hostOk
      | _, _, _ => s.refused
/-- The state without the armed snapshot of a partition; writes that were held for it are walked again. -/
def State.disarm (s : State) (x : Snap) : State :=
  let t : State := { s with msys := { s.msys with snaps := s.msys.snaps.filter fun y => y.part != x.part } }
  t.replayHeld x.asid 0 (2 ^ 55)
/-- The armed snapshot of a partition is dropped: copy-on-write ends, and the frozen tree and its copied frames are freed (R304). -/
def State.snapDrop (s : State) (x : Snap) : State := (s.putFrames x.part (x.tables ++ x.copies)).disarm x
/-- SNAPCOMMIT (R304): operands p, semaphore. -/
def execSnapcommit (s : State) : Out :=
  let p := s.arg 0
  s.hostReq fun s =>
    match s.active p, s.snapOf p, s.snapHdr p with
    | true, some x, some h =>
      let w := s.readN h 8
      let sel := 1 - w % 2
      let t := s.writeN h 8 (((w / 2 + 1) * 2 + sel) % 2 ^ 64)
      let old := (t.msys.oldTrees.filter fun o => o.1 == p && o.2.1 == w % 2).flatMap (·.2.2)
      let kept := t.msys.oldTrees.filter fun o => !(o.1 == p)
      let u : State := { t with msys := { t.msys with oldTrees := kept ++ [(p, sel, x.tables ++ x.copies)] } }
      let v := (u.putFrames p old).disarm x
      (match s.semArg 1 with
       | some (q, n) => v.semAdd p q n 1
       | none => v).hostOk
    | _, _, _ => s.refused
/-- SNAPDROP (R304): operand p. -/
def execSnapdrop (s : State) : Out :=
  let p := s.arg 0
  s.hostReq fun s =>
    match s.active p, s.snapOf p with
    | true, some x => (s.snapDrop x).hostOk
    | _, _ => s.refused
/-- COPY_ON_WRITE: page args[1] of address space args[0], copy-on-write, or the block of 512 MiB that holds it, is copied to frames of its tier's pool,
which its live leaf takes; the old frames stay in the frozen tree. With no frames the snapshot is dropped with a log record (R304). -/
def execCopyOnWrite (s : State) : Out :=
  .next (
    let asid := s.arg 0
    match s.msys.snaps.find? fun x => x.asid == asid, s.pageEntry asid (s.arg 1 / 65536 * 65536) with
    | some x, some (level, k) =>
      let pages := if level = 2 then 8192 else 1
      let va := s.arg 1 / (65536 * pages) * (65536 * pages)
      let e := s.pte k
      let tier := (pteTier e).toNat
      if !s.ready ∨ !s.isCow asid va ∨ s.moving asid va ∨ s.inFlight asid va pages ∨ !isLeaf e then s
      else
        match if level = 2 then s.takeBlock x.part tier else s.takeFrame x.part tier with
        | none => (s.snapDrop x).logErr 16 { kind := 0x0B, unit := 0x80, asid := asid, addr := va }
        | some (t, f) =>
          let u := (t.copyMem (pteFrame e * 65536) (f * 65536) (65536 * pages) asid va).setPte k (pteWith e 47 16 f)
          let y : Snap := { x with cow := x.cow.filter (· != (if level = 2 then va + 1 else va)),
                                   copies := x.copies ++ (List.range pages).map (pteFrame e + ·) }
          let v : State := { u with msys := { u.msys with snaps := u.msys.snaps.map fun z => if z.part = x.part then y else z } }
          (v.markStale asid va pages).replayHeld asid va (65536 * pages)
    | _, _ => s)

end Sys2Proof.Machine
end

