-- ==== Sys2Proof/Machine/Save.lean ====
section
/-!
DEFINITION. Saving and restoring a team (R180 to R184): the bytes of a save area, written and read, the end of a save, the held-access log as it is
applied, and the end of a restore. Where R182 gives a region without the places of its fields, the places here are the model's (log 13).
-/
namespace Sys2Proof.Machine

/-- Numbers of n bytes each, written one after another from a key. -/
def State.putNums (s : State) (k n : Nat) (ws : List Nat) : State := s.writeB k (ws.flatMap fun w => toLE n w)
/-- m numbers of n bytes each that stand one after another from a key. -/
def State.getNums (s : State) (k n m : Nat) : List Nat := (List.range m).map fun i => s.readN (k + n * i) n

/-! ### The queues of the engines (R182, R210) -/

/-- The engine whose queue takes a command: 1 L, 2 M, 3 S; 0 for what is no engine command (R210, R346). -/
def queueOf (i : Instr) : Nat :=
  match i with
  | .cpin .. | .cpinScl .. | .cqfill .. | .cpgath .. | .cpfill .. | .cploc .. => 1
  | .ldw .. | .wswap .. | .mm .. | .mgroup .. | .accz .. | .accld .. | .accwr .. | .plnset .. | .plnld .. | .margset .. | .balance .. | .plnrd ..
  | .plnscl .. => 2
  | .cpout .. | .cppeer .. | .cpmc .. | .cpscat .. | .cpmem .. => 3
  | _ => 0
/-- The queue of an engine in a save area: for each entry the command word, the register values enqueued with it and the count of its iterations
(R182, R217). -/
def State.saveQueue (s : State) (k : Nat) (q : List Cmd) : State :=
  (List.range q.length).foldl (fun u i =>
    match q[i]? with
    | none => u
    | some c =>
      let word := ((encode c.op).map fun w => w.2 % 2 ^ 64).getD 0
      (u.putNums (k + 64 * i) 8 [word, c.a.toNat, c.b.toNat, c.c.toNat, c.d.toNat]).putNums (k + 64 * i + 40) 2 [c.begun]) s
/-- An entry of the queue of engine e as a save area holds it; none where it holds no command of that engine. What R182 gives no place is as it was
saved: the address of its bundle, whether its guard failed, and what it keeps of an iteration given back. name is the name of a command that was not saved. -/
def State.savedCmd (s : State) (k e : Nat) (old : Option Cmd) (name : Nat) : Option Cmd :=
  match decodeCore (w64 (s.readN k 8)) 0 with
  | none => none
  | some i =>
    if queueOf i ≠ e then none
    else
      let r (m : Nat) : W64 := w64 (s.readN (k + 8 * m) 8)
      let was := old.filter fun c => c.op == i
      some { id := (was.map (·.id)).getD name, pc := (was.map (·.pc)).getD 0, op := i, a := r 1, b := r 2, c := r 3, d := r 4,
             begun := s.readN (k + 40) 2, nullified := (was.map (·.nullified)).getD false, kept := (was.map (·.kept)).getD .none }
/-- The queue of engine e as a save area holds it, up to the first entry without a command; fuel bounds the entries left (R182). -/
def State.savedQueue (s : State) (k e name : Nat) (old : List Cmd) : Nat → Nat → List Cmd
  | 0, _ => []
  | f + 1, i =>
    match s.savedCmd (k + 64 * i) e old[i]? (name + i) with
    | none => []
    | some c => c :: s.savedQueue k e name old f (i + 1)

/-! ### The save area as it is written (R182, log 13) -/

/-- The poison words of the register file from a number on, as offsets of their first bytes (R300). -/
def poisonAt (ws : List Nat) : List Nat := ws.map (8 * ·)
/-- The control state block of a core, whose saved registers stand in the standby slot (R182, R158). -/
def State.saveControl (s : State) (core k : Nat) : State :=
  let c := s.getCore core
  let x := c.sby
  let view : State := { s.setCore core { c with act := x } with core := core }
  let csrs := (List.range 0x42).map fun n => (view.csrRead n).toNat
  let s1 := (s.putNums k 8 ((List.range 64).map fun r => (Tab.get 0 x.s r).toNat)).spoilB k (poisonAt x.poisS)
  let s2 := s1.putNums (k + 0x200) 8 [x.p.toNat / 2 * 2 + 1, x.pc.toNat]
  let s3 := (s2.putNums (k + 0x210) 8 (x.ras.map (·.toNat))).putNums (k + 0x290) 8 [x.ras.length]
  let s4 := s3.putNums (k + 0x400) 4 ((List.range 128).map fun i => (Tab.get 0 x.rng i).toNat)
  let s5 := s4.putNums (k + 0x1C00) 8 [((List.range 8).map fun ch => (x.channel ch).length * 16 ^ ch).sum]
  let s6 := (s5.putNums (k + 0x1C08) 4 (c.counts.map (·.1.toNat))).spoilB (k + 0x1C08)
    (((List.range c.counts.length).filter fun i => (c.counts.getD i (0, none)).2.isSome).map (4 * ·))
  let s7 := s6.putNums (k + 0x1D40) 8 (x.early.length :: x.early.map fun e => e.1 + e.2 * 2 ^ 32)
  let s8 := (s7.putNums (k + 0x1E00) 16 (x.masks.map (·.toNat))).putNums (k + 0x1E80) 8 [x.masks.length]
  let s9 := (s8.putNums (k + 0x2000) 4 (c.fmt.map (·.toNat))).putNums (k + 0x2100) 4 (c.fifo.map (·.1.toNat))
  let bad := (List.range c.fifo.length).map fun i => if (c.fifo.getD i (0, none)).2.isSome then 2 ^ i else 0
  let s10 := (s9.putNums (k + 0x2900) 64 [bad.sum]).putNums (k + 0x2C00) 4
    [c.fmt.length, c.fmtBound, c.fifo.length, c.unbound, c.counts.length]
  let s11 := match c.mat.plan with
    | none => s10
    | some p =>
      let v (t : Tab W32) : List Nat := (List.range 128).map fun i => (Tab.get 0 t i).toNat
      (s10.putNums (k + 0x3000) 8 [1 + 2 * p.group, p.sweeps.toNat + p.residual.toNat * 2 ^ 32]).putNums (k + 0x3200) 4
        (v p.u ++ v p.v ++ v p.r ++ v p.c)
  let s12 := ((s11.saveQueue (k + 0x4000) c.el.q).saveQueue (k + 0x5000) c.em.q).saveQueue (k + 0x6000) c.es.q
  s12.putNums (k + 0x8000) 8 csrs
/-- The block of a rank: scratchpad, vectors, tiles, planes and control state, unused bytes zero. The log stands as it is (R182). -/
def State.saveRank (s : State) (core k : Nat) : State :=
  let c := s.getCore core
  let asid := ((s.team c.sby.csr.teamId.toNat).map (·.asid)).getD 0
  let s1 := (s.copyMem (spadKey core 0) k 0x400000 asid).zeroMem (k + 0x400000) 0x90000
  let s2 := c.sby.v.foldl (fun u e => u.writeB (k + 0x400000 + 512 * e.1) (vecBytes e.2)) s1
  let s3 := s2.spoilB (k + 0x400000) (poisonAt c.sby.poisV)
  let s4 := c.mat.tiles.foldl (fun u e => u.writeB (k + 0x450000 + 512 * e.1) (vecBytes e.2)) s3
  let s5 := c.mat.badTiles.foldl (fun u t => u.spoilB (k + 0x450000 + 16384 * t) (poisonAt (List.range 2048))) s4
  let spoilHalves (u : State) (a : Nat) (hs : List Nat) : State :=
    hs.foldl (fun u h => u.spoilB (a + 16384 * h) (poisonAt (List.range 2048))) u
  let s6 := c.mat.planeA.foldl (fun u e => u.writeB (k + 0x470000 + 512 * e.1) (vecBytes e.2)) s5
  let s7 := c.mat.planeS.foldl (fun u e => u.writeB (k + 0x478000 + 512 * e.1) (vecBytes e.2)) s6
  let s8 := spoilHalves (spoilHalves s7 (k + 0x470000) c.mat.badA) (k + 0x478000) c.mat.badS
  s8.saveControl core (k + 0x480000)
/-- The team header: identifier, stage, team size, schedule counter, record, team map and the state of each rank; the log pointers stand as they are
(R182). -/
def State.saveHeader (s : State) (t : Team) : State :=
  let k := t.areaAt
  let x (r : Nat) : Core := s.getCore (t.cores.getD r 0)
  let u := (s.zeroMem k 0x400).zeroMem (k + 0x1400) 0xEC00
  let v := u.putNums k 4 [t.id, 64 * t.pipe + t.stage, t.n]
  let w := v.putNums (k + 0x10) 8 [(x 0).sby.csr.schedCtr.toNat]
  ((w.writeB (k + 0x40) t.record).putNums (k + 0x100) 1 t.cores).putNums (k + 0x200) 1
    ((List.range t.n).map fun r => ((x r).run == .exited).toNat)

/-! ### The save (R180 steps 3 and 4) -/

/-- Whether a core of a stopping team has finished: its engines have completed the commands they had begun, but for a CPPEER that waits for room in a
log, its loads and atomics have returned, and no reserved queue slot awaits its record (R180, R181, R168). -/
def State.quiet (s : State) (c : Nat) : Bool :=
  let x := s.getCore c
  [x.el, x.em, x.es].all (fun e => e.ldw.isNone && (match e.run with | none => true | some it => s.logStalls it)) &&
  x.pend.all (fun p => p.fail.isSome) && x.wait == .none
/-- The registers of core c are read to be saved: every error in them takes effect (R298), and the contexts are exchanged (R158). -/
def State.yieldCore (s : State) (c : Nat) : State :=
  let t := ({ s with core := c } : State).fixRegs fun _ => true
  { t.modCur Core.exchange with core := s.core }
/-- TEAM_SAVE: the cores of the stopping team args[0], which have finished, exchange their contexts; the team is written to its save area and its
cores are freed; DISPATCH with reasons 4 and 3 follows (R158, R180, R182, R170). -/
def execTeamSave (s : State) : Out :=
  .next (
    match s.team (s.args.headD 0) with
    | none => s
    | some t =>
      if t.phase ≠ .stopping ∨ !(t.cores.all s.quiet) then s
      else
        let y := t.cores.foldl State.yieldCore s
        let u := (List.range t.n).foldl (fun u r => u.saveRank (t.cores.getD r 0) (t.block r)) (y.saveHeader t)
        let exited := (List.range t.n).filter fun r => (s.getCore (t.cores.getD r 0)).run == .exited
        let saved : Team :=
          { t with phase := .saved, saved := t.cores.map fun c => { (y.getCore c).exchange with win := none }, exitedRanks := exited,
                   since := s.now, exts := [], pset := [] }
        let v : State := { u with teams := (u.teams.filter fun (x : Team) => x.id != t.id) ++ [saved] }
        let w := v.slateEvent t.part 1 4 (64 * t.pipe + t.stage) 0
        (w.freeCores t.part t.cores).boundary t.part t.id)

/-! ### The save area as it is read (R184 step 4, R183, log 13) -/

/-- A table of n vector registers read from a save area. -/
def State.savedVecs (s : State) (k n : Nat) : Tab Vec :=
  (List.range n).foldl (fun t i => Tab.put 0 t i (bytesVec (s.readB (k + 512 * i) 512))) []
/-- The 8-byte words from a key on that are poison, of n. -/
def State.savedBad (s : State) (k n : Nat) : List Nat := ((s.badB k (8 * n)).map (· / 8)).eraseDups
/-- The CSRs of a strand as its save area holds them (R182, R183). PART and the flags of STATUS, which are its team's, are as they were. -/
def State.savedCsr (s : State) (k : Nat) (c : Csr) : Csr :=
  let r (n : Nat) : W64 := w64 (s.readN (k + 8 * n) 8)
  { c with rank := (r 0x002).truncate 8, teamSize := (r 0x003).truncate 9, teamId := (r 0x004).truncate 32, preempts := (r 0x005).truncate 32,
           stkBase := r 0x006 &&& 0x3FFFF8, stkLim := r 0x007 &&& 0x3FFFF8, oobFlag := (r 0x008).getLsbD 0,
           oobAddr := (r 0x009).truncate 32, faultPc := r 0x00A, faultAddr := r 0x00B, branchPc := r 0x00C,
           code := (r 0x00D).truncate 8, srcq := BitVec.ofNat 2 (fld (r 0x00D) 9 8), errAddr := r 0x00E, schedCtr := r 0x010,
           seed := (r 0x012).truncate 32 }
/-- The context of a rank as its block holds it. The commands behind its tokens, which R182 gives no place, are as they were saved. -/
def State.savedCtx (s : State) (k core : Nat) (old : Ctx) : Ctx :=
  let b := k + 0x480000
  let w (m : Nat) : W64 := w64 (s.readN (b + 8 * m) 8)
  let csr := s.savedCsr (b + 0x8000) old.csr
  let lev (i : Nat) : Level :=
    { start := w (0x1000 + 0x032 + i), last := w (0x1000 + 0x036 + i), cnt := w (0x1000 + 0x03A + i),
      cd := (w (0x1000 + 0x03E + i)).truncate 32 }
  { s := (List.range 63).foldl (fun t i => Tab.put 0 t (i + 1) (w (i + 1))) [], p := BitVec.ofNat 8 (s.readN (b + 0x200) 1 / 2 * 2),
    v := s.savedVecs (k + 0x400000) 640, pc := w 0x41, via := none,
    csr := { csr with physid := BitVec.ofNat 8 core, preempts := csr.preempts + 1 },
    callDepth := (w (0x1000 + 0x030)).truncate 32, lpDepth := min (w (0x1000 + 0x031)).toNat 4, levels := (List.range 4).map lev,
    ras := (s.getNums (b + 0x210) 8 (min (s.readN (b + 0x290) 8) 16)).map w64,
    masks := (s.getNums (b + 0x1E00) 16 (min (s.readN (b + 0x1E80) 8) 8)).map fun n => BitVec.ofNat 128 n,
    toks := (List.range 8).foldl (fun t ch =>
      let m := s.readN (b + 0x1C00) 8 / 16 ^ ch % 16
      let l := (old.channel ch).take m
      Tab.put [] t ch (l ++ List.replicate (m - l.length) [])) [],
    early := (s.getNums (b + 0x1D48) 8 (min (s.readN (b + 0x1D40) 8) 16)).map fun n => (nfld n 21 0, nfld n 43 32),
    rng := (List.range 128).foldl (fun t i => Tab.put 0 t i (BitVec.ofNat 32 (s.readN (b + 0x400 + 4 * i) 4))) [],
    poisS := (s.savedBad b 64).filter (· != 0), poisV := s.savedBad (k + 0x400000) 40960, err := [] }
/-- The plan configuration that a control state block holds (R225). -/
def State.savedPlan (s : State) (b : Nat) : Option Plan :=
  let h := s.readN (b + 0x3000) 8
  let v (i : Nat) : Tab W32 :=
    (List.range 128).foldl (fun t j => Tab.put 0 t j (BitVec.ofNat 32 (s.readN (b + 0x3200 + 512 * i + 4 * j) 4))) []
  if h % 2 = 0 then none
  else some { group := h / 2 % 2, u := v 0, v := v 1, r := v 2, c := v 3, sweeps := BitVec.ofNat 32 (s.readN (b + 0x3008) 4),
              residual := BitVec.ofNat 32 (s.readN (b + 0x300C) 4) }
/-- The halves of a plane in a save area that hold poison (R300, R302). -/
def State.badHalves (s : State) (k : Nat) : List Nat := [0, 1].filter fun h => !(s.badB (k + 16384 * h) 16384).isEmpty
/-- The matrix data of a rank as its block holds it (R182). -/
def State.savedMat (s : State) (k : Nat) : Mat :=
  { tiles := s.savedVecs (k + 0x450000) 256, planeA := s.savedVecs (k + 0x470000) 64, planeS := s.savedVecs (k + 0x478000) 64,
    plan := s.savedPlan (k + 0x480000), badTiles := (List.range 8).filter fun t => !(s.badB (k + 0x450000 + 16384 * t) 16384).isEmpty,
    badA := s.badHalves (k + 0x470000), badS := s.badHalves (k + 0x478000), badM := false }
/-- n values of 32 bits that a control state block holds from key a on, scales or counts, of which marked tells those that are poison apart from the
words that are. A poison one keeps the address that was saved with it, which R182 gives no place, or else is known by its place in the block. -/
def State.savedVals (s : State) (a n : Nat) (marked : Nat → Bool) (old : List (W32 × Option W64)) : List (W32 × Option W64) :=
  (List.range n).map fun i =>
    let k := a + 4 * i
    (BitVec.ofNat 32 (s.readN k 4),
      if marked i || !(s.badB k 4).isEmpty then (old.getD i (0, none)).2.or (some (w64 (k / 8 * 8))) else none)
/-- The core that holds the rank of core c after a team has moved from some cores to others (R174, R184). -/
def movedCore (old new : List Nat) (c : Nat) : Nat :=
  match (List.range old.length).find? fun r => old.getD r 256 == c with
  | some r => new.getD r c
  | none => c
/-- A home after a team has moved: a rank's scratchpad moves with it (R174, R185, R280). -/
def Home.moved (h : Home) (old new : List Nat) : Home :=
  match h with
  | .spad c => .spad (movedCore old new c)
  | _ => h
/-- An access after its team has moved (R280). -/
def Acc.moved (a : Acc) (old new : List Nat) : Acc :=
  match a.home with
  | .spad c => { a with home := a.home.moved old new, lo := spadKey (movedCore old new c) (a.lo - spadKey c 0) }
  | _ => a
/-- What a strand's core holds as its block has it: registers into the standby slot of core c, which becomes active, and the engines' state; what is
under way between agents is as it was saved, with its places moved (R184, R158, R303, R274). -/
def State.restored (s : State) (t : Team) (r c : Nat) : Core :=
  let k := t.block r
  let b := k + 0x480000
  let old := t.saved.getD r Core.zero
  let now := s.getCore c
  let was := t.saved.map fun x => x.act.csr.physid.toNat
  let len (i : Nat) : Nat := s.readN (b + 0x2C00 + 4 * i) 4
  let name := s.nextId + 192 * r
  let q (e : Nat) (x : Engine) : Engine := { x with q := s.savedQueue (b + 0x3000 + 0x1000 * e) e (name + 64 * (e - 1)) x.q 64 0 }
  let move (a : Acc) : Acc := a.moved was t.cores
  let ctx := s.savedCtx k c old.act
  let sched := if t.timed then w64 (s.readN (t.areaAt + 0x10) 8) else ctx.csr.schedCtr
  let x : Core :=
    { old with
      act := { ctx with csr := { ctx.csr with schedCtr := sched } }, sby := now.act,
      run := if s.readN (t.areaAt + 0x200 + r) 1 = 1 then .exited else .running, told := false, wait := .none, halted := now.halted,
      gated := now.gated, upset := false, mat := s.savedMat k, win := none, replay := 0, el := q 1 old.el, em := q 2 old.em, es := q 3 old.es,
      counts := s.savedVals (b + 0x1C08) (min (len 4) 64) (fun _ => false) old.counts,
      fmt := (s.getNums (b + 0x2000) 4 (min (len 0) 64)).map fun n => BitVec.ofNat 32 n, fmtBound := len 1,
      fifo := s.savedVals (b + 0x2100) (min (len 2) 512) (fun i => s.readN (b + 0x2900 + i / 8) 1 / 2 ^ (i % 8) % 2 == 1) old.fifo, unbound := len 3, icache := now.icache, last := now.last, settled := none,
      pend := old.pend.map fun p => { p with acc := move p.acc }, outw := old.outw.map fun o => { o with acc := move o.acc },
      failed := old.failed.map fun f => { f with home := f.home.moved was t.cores }, shadow := [], brk := now.brk }
  x.warm (s.cacheTag t)

/-! ### The held-access log (R181, R184 step 5) -/

/-- The entry of a log whose first 16 bytes hold a number, with the bytes and poison that follow for data. -/
def LogEntry.ofCode (n : Nat) (bs : List Byte) (bad : List Nat) : LogEntry :=
  let o := 16 * nfld n 20 3
  match n % 8 with
  | 1 => .count o (nfld n 56 25) (nfld n 24 21)
  | 2 => .arrival o (nfld n 56 25) (nfld n 24 21)
  | 3 => .sent o (nfld n 56 25) false 0
  | 4 => .sent o (nfld n 56 25) true (w64 (nfld n 111 57))
  | _ => .data (nfld n 47 26) bs bad (if nfld n 3 3 = 1 then some (16 * nfld n 21 4, nfld n 25 22) else none)
/-- The entries of the data part of a log from a key on, each with its place in the order of arrival; left counts the bytes in use, and fuel bounds
the entries. -/
def State.logData (s : State) : Nat → Nat → Nat → List (Nat × LogEntry)
  | 0, _, _ => []
  | f + 1, k, left =>
    if left < 16 then []
    else
      let n := s.readN k 16
      let len := if n % 8 = 5 then min (nfld n 70 48) (left - 16) else 0
      let size := 16 + (len + 15) / 16 * 16
      (nfld n 127 112, .ofCode n (s.readB (k + 16) len) (s.badB (k + 16) len)) :: s.logData f (k + size) (left - size)
/-- Two lists of entries, each in order of arrival, as one; fuel bounds their entries. -/
def mergeLogs : Nat → List (Nat × LogEntry) → List (Nat × LogEntry) → List LogEntry
  | 0, _, _ => []
  | _, [], b => b.map (·.2)
  | _, a, [] => a.map (·.2)
  | f + 1, x :: a, y :: b => if y.1 < x.1 then y.2 :: mergeLogs f (x :: a) b else x.2 :: mergeLogs f a (y :: b)
/-- The log of a rank as the save area holds it, in order of arrival (R181). -/
def State.savedLog (s : State) (t : Team) (r : Nat) : List LogEntry :=
  let k := t.block r + 0x490000
  let counts := (s.getNums k 16 (min (s.readN (t.logPtr r) 8) 4096)).map fun n => (nfld n 127 112, LogEntry.ofCode n [] [])
  let used := min (s.readN (t.logPtr r + 8) 8) 983040
  let data := s.logData (used / 16) (k + 0x10000) used
  mergeLogs (counts.length + data.length) counts data
/-- An entry of the held-access log is applied at its receiver; an arrival that finds no room is discarded, and its object shows the overrun
(R184 step 5, R228). -/
def State.applyLog (s : State) (core : Nat) (e : LogEntry) : State :=
  match e with
  | .data off bs bad none => if inSpad off bs.length then s.copyB (spadKey core off) bs bad else s
  | .data off bs bad (some (o, st)) =>
    let r := (if inSpad off bs.length then s.copyB (spadKey core off) bs bad else s).countAt core o (.bytes st bs.length)
    if r.2 = .ok then r.1 else (s.countAt core o (.bytes st bs.length)).1
  | .count o n st => (s.countAt core o (.bytes st n)).1
  | .arrival o n st =>
    (List.range n).foldl (fun s _ =>
      let r := s.countAt core o (.arrive st)
      if r.2 = .full then s.setObjBits core o 0x30 else r.1) s
  | .sent o n err a => s.sentAt core o n (if err then some a else none)

/-! ### The restore (R184 steps 4 to 7) -/

/-- A request of a team's strands for a write that is under way, as it names its sender after the team has moved: the order that its stream keeps at the
package gateway goes on (R84, R286). -/
def State.movedReq (s : State) (t : Team) (r : Req) : Req :=
  let was := t.saved.map fun x => x.act.csr.physid.toNat
  let names := (List.range (match r.box with | some b => (s.boxNodes b.1 b.2).length | none => 1))
  match r.asker with
  | .store c id =>
    if names.any fun k => t.saved.any fun x => x.outw.any fun w => w.acc.id == id + k then { r with asker := .store (movedCore was t.cores c) id }
    else r
  | _ => r
/-- The writes that a team's strands have under way, in the package and at its gateway, as their places stand after the team has moved (R280, R286). -/
def State.moveFlights (s : State) (t : Team) : State :=
  let was := t.saved.map fun x => x.act.csr.physid.toNat
  let flights := s.msys.flights.map fun f =>
    if f.team = t.id then { f with acc := f.acc.moved was t.cores, core := movedCore was t.cores f.core } else f
  { s with msys := { s.msys with flights := flights },
           gate := { s.gate with egress := s.gate.egress.map (s.movedReq t), resend := s.gate.resend.map (s.movedReq t),
                                 store := s.gate.store.map fun x => { x with req := s.movedReq t x.req } } }
/-- TEAM_RESTORE: the team args[0] that is being restored gets its state back on its new cores, its logs are applied, its save area is freed, and
every strand runs on at its saved PC (R184). Everything is read from the save area as it then stands (R183). A stop issued meanwhile then takes
effect (R180). -/
def execTeamRestore (s : State) : Out :=
  .next (
    match s.team (s.args.headD 0) with
    | none => s
    | some t =>
      if t.phase ≠ .restoring then s
      else
        let s := (s.carry t.areaAt (0x10000 + t.n * 0x590000) t.asid).1
        let put (u : State) (r : Nat) : State :=
          let c := t.cores.getD r 0
          (u.copyMem (t.block r) (spadKey c 0) 0x400000).setCore c (s.restored t r c)
        let u := (List.range t.n).foldl put s
        let v := (List.range t.n).foldl (fun u r => (s.savedLog t r).foldl (fun u e => u.applyLog (t.cores.getD r 0) e) u) (u.moveFlights t)
        let exited := (List.range t.n).filter fun r => (v.getCore (t.cores.getD r 0)).run == .exited
        let t' : Team := { t with phase := .running, saved := [], logs := List.replicate t.n [], exitedRanks := exited,
                                  preempts := t.preempts + 1, started := s.now, quantumTold := false, stop := none, wire := false,
                                  beat := s.cycle }
        let w := { v with nextId := v.nextId + 192 * t.n }.modTeam t.id fun _ => t'
        match t.stop with
        | some (i, a) => if exited.length = t.n then w else w.issueStop t' i a t.notDies
        | none => w)

end Sys2Proof.Machine
end

