-- ==== Sys2Proof/Machine/Slate.lean ====
section
/-!
DEFINITION. Slates (chapter 8): the snapshot (R191, R192), the fallback (R196), abnormal ends (R195), invocations, ticks and swaps (R189, R190,
R199), and the slate operations (R201 to R209).
-/
namespace Sys2Proof.Machine

/-! ### The snapshot (R192) -/

/-- The size of a column; none for an unassigned code. -/
def colSize (k : Nat) : Option Nat :=
  if k ≤ 0x0C then some 1024
  else if k = 0x10 ∨ k = 0x11 then some 16
  else if k = 0x18 then some 64
  else if k = 0x20 then some 4096
  else if k = 0x30 ∨ k = 0x31 then some 1
  else none
/-- Whether a stage has a ready head that is not malformed, or a saved team (R192). -/
def State.stReady (s : State) (p q t : Nat) : Bool := s.headGood p q t || !(s.savedOf p q t).isEmpty
/-- The value of a stage column of a declared stage of an enabled pipeline (R192). -/
def State.stageCol (s : State) (p q t k : Nat) : Nat :=
  let i := 64 * q + t
  let u := s.stInq p q t
  let x := s.getPart p
  let mine := s.teams.filter fun m => m.part == p && m.pipe == q && m.stage == t
  match k with
  | 0x00 => s.quCount p q u
  | 0x01 => if s.quCount p q u = 0 then 0 else (s.now + 1 - Tab.get 0 x.headTime (256 * q + u)) / 1000
  | 0x02 => ((s.headBytes p q t).map recRows).getD 0
  | 0x03 => if s.quCount p q u = 0 then 0
            else let n := ((s.headBytes p q t).map recTeam).getD 0; if n = 0 then s.stTeam p q t else n
  | 0x04 => s.mg4 (stageAt p q t + 16) 1
  | 0x05 => (mine.filter Team.holds).length
  | 0x06 => s.stCores p q t
  | 0x07 => (s.cores.any fun c =>
      (match c.2.wait with | .qput k none _ => k == u && decide (2 ^ s.quLog p q u ≤ diff32 (s.quTail p q u) (s.quHead p q u)) | _ => false) &&
      (match s.team c.2.act.csr.teamId.toNat with | some m => m.part == p && m.pipe == q | none => false)).toNat
  | 0x08 => Tab.get 0 x.faults i
  | 0x09 => (s.stReady p q t).toNat
  | 0x0A => (s.savedOf p q t).length
  | 0x0B => match s.savedOf p q t with
    | m :: _ => if m.image then rangePages (recWord m.record 0) / 16 else 0
    | [] => 0
  | _ => Tab.get 0 x.shares i
/-- The partition's cores that hold no strand. -/
def State.freeOf (s : State) (p : Nat) : List Nat := (List.range 256).filter (s.coreFree p)
/-- The value of a column that no stage indexes (R192). -/
def State.otherCol (s : State) (p k i : Nat) : Nat :=
  match k with
  | 0x10 => ((s.freeOf p).filter (· / 16 == i)).length
  | 0x11 =>
    let held := s.teams.any fun t => t.holds && t.timed && t.cores.any fun c => c / 16 == i && s.holdsUnit p (c / 4)
    (!held && (s.freeOf p).any (· / 16 == i)).toNat
  | 0x18 => (((s.freeOf p).filter (· / 4 == i)).map fun c => 2 ^ (c % 4)).sum
  | 0x20 => if s.pipeOn p (i / 256) then s.mg4 (semAt p (i / 256) (i % 256)) 4 else 0
  | 0x30 => (s.now - (s.getPart p).start) / 1000 % 2 ^ 31
  | _ => (s.freeOf p).length
/-- The value of a column at an index, clamped (R192). -/
def State.colAt (s : State) (p k i : Nat) : W32 :=
  let v :=
    if k ≤ 0x0C then (if s.pipeOn p (i / 64) ∧ s.stTeam p (i / 64) (i % 64) ≠ 0 then s.stageCol p (i / 64) (i % 64) k else 0)
    else s.otherCol p k i
  BitVec.ofNat 32 (min v 0x7FFFFFFF)
/-- The indexes of a column that can read other than zero. -/
def State.colIdx (s : State) (p k : Nat) : List Nat :=
  let on := (List.range 16).filter (s.pipeOn p)
  if k ≤ 0x0C then on.flatMap fun q => (s.stages p q).map (64 * q + ·)
  else if k = 0x20 then on.flatMap fun q => (List.range 256).map (256 * q + ·)
  else List.range ((colSize k).getD 0)
/-- The snapshot of a partition, by 4096 × column + index (R191). -/
def State.snapshot (s : State) (p : Nat) : Tab W32 :=
  ((List.range 64).filter fun k => (colSize k).isSome).flatMap fun k =>
    ((s.colIdx p k).map fun i => (4096 * k + i, s.colAt p k i)).filter fun e => e.2 != 0

/-! ### The fallback (R196) -/

/-- Since when a stage's oldest saved team or head record has waited. -/
def State.waitedSince (s : State) (p q t : Nat) : Nat :=
  let saved := (s.savedOf p q t).map (·.since)
  let head := if s.headGood p q t then [Tab.get 0 (s.getPart p).headTime (256 * q + s.stInq p q t) - 1] else []
  (saved ++ head).foldl min s.now
/-- The stage that the fallback dispatches next: ready, below its share, longest waiting, lowest index (R196). -/
def State.fallbackPick (s : State) (p : Nat) : Option Nat :=
  let all := ((List.range 16).filter (s.pipeOn p)).flatMap fun q => (s.stages p q).map (64 * q + ·)
  let ok := all.filter fun i =>
    let h := Tab.get 0 (s.getPart p).shares i
    s.stReady p (i / 64) (i % 64) && (h == 0 || decide (s.stCores p (i / 64) (i % 64) < h))
  ok.foldl (fun b i => match b with
    | none => some i
    | some j => if s.waitedSince p (i / 64) (i % 64) < s.waitedSince p (j / 64) (j % 64) then some i else some j) none
/-- What a dispatch changes: the teams that hold cores and the fault slots. -/
def State.dispatchMark (s : State) (p : Nat) : Nat × Nat :=
  ((s.teams.filter Team.holds).length, (s.getPart p).slots.length)
/-- The dispatches of the fallback; fuel is 32 (R196). -/
def State.fallbackRun (p : Nat) : Nat → State → State
  | 0, s => s
  | f + 1, s =>
    match s.fallbackPick p with
    | none => s
    | some i =>
      let t := s.dispatch p i 0xFFFF
      if t.dispatchMark p = s.dispatchMark p then t else State.fallbackRun p f t
/-- The fallback decides an event (R196). -/
def State.fallback (s : State) (p : Nat) (e : Event) : State :=
  match e.kind.toNat with
  | 1 | 4 => s.fallbackRun p 32
  | 2 => if e.a1 = 1 ∨ e.a1 = 2 then s.applyDec p (1, e.a2, 0) else s
  | 3 => if e.a1 = 0x40 then s else if e.a1 = 4 then s.applyDec p (4, e.a2, 0) else s.applyDec p (6, e.a2, 0)
  | _ => s

/-! ### Ends (R195, R197, R209) -/

/-- The m-words as management reads them from now on (R197). -/
def State.showM (s : State) (p : Nat) : State :=
  s.writeB (mgKey (partBlock p + 0x100)) ((List.range 64).flatMap fun i => toLE 4 (Tab.get 0 (s.getPart p).m i).toNat)
/-- An invocation ends abnormally: its decisions go, the fallback decides its event, and FAULT with cause 0x40 is queued (R195). -/
def State.abend (s : State) (p cause : Nat) : State :=
  let x := s.getPart p
  match x.inv with
  | none => s
  | some e =>
    let n := min 8 (x.consec + 1)
    let t := s.modPart p fun x =>
      { x with inv := none, decs := [], loops := [], overruns := x.overruns + 1, consec := n, disabled := x.disabled || n == 8,
               lastCause := cause }
    ((t.showM p).fallback p e).slateEvent p 3 0x40 0xFFFFFFFF (x.overruns + 1).toNat

/-! ### Events of the policy processor -/

/-- Whether a record stands ready to be retired (R171). -/
def State.retirable (s : State) (p : Nat) : Bool :=
  ((List.range 16).filter (s.pipeOn p)).any fun q => (s.stages p q).any fun t =>
    match s.headOf p q t with
    | some (.ok r) => recRows r == 0 && recSkip r && s.semOk p q r
    | _ => false
/-- A partition without the event at the head of its queue; a DISPATCH with reason 0 follows a dropped one as soon as an entry frees (R190). -/
def Part.popEvent (x : Part) : Part :=
  let y := { x with events := x.events.tail }
  if y.resync ∧ (dispatches y.events).length < 256 then ({ y with resync := false } : Part).queueEvent ⟨1, 0, 0xFFFFFFFF, 0⟩ else y
/-- SLATE_INVOCATION: the next event of the policy processor's partition is taken, the snapshot frozen, and the active policy started, or the
fallback decides where the slot is empty or the policy disabled (R188 to R191, R195). It waits for a swap and for retirements. -/
def execSlateInvocation (s : State) : Out :=
  .next (
    let p := s.pol
    let x := s.getPart p
    match x.events with
    | [] => s
    | e :: _ =>
      if !s.ready ∨ x.pstate ≠ 2 ∨ x.inv.isSome ∨ x.swapPend ∨ s.retirable p then s
      else
        let t := s.modPart p Part.popEvent
        if x.act.isEmpty ∨ x.disabled then t.fallback p e
        else
          let g := ([(0, e.kind), (1, e.a1), (2, e.a2), (3, e.a3)] : List (Nat × W32)).foldl (fun t r => Tab.put 0 t r.1 r.2) []
          t.modPart p fun x => { x with inv := some e, g := g, pc := 0, used := 0, loops := [], decs := [], snap := t.snapshot p })
/-- TICK: every 100 µs a TICK is raised for the policy processor's partition (R190). -/
def execTick (s : State) : Out :=
  .next (
    let x := s.getPart s.pol
    if !s.ready ∨ x.pstate ≠ 2 ∨ s.now < x.lastTick + 100000 then s
    else (s.modPart s.pol fun x => { x with lastTick := x.lastTick + 100000 }).slateEvent s.pol 4 1 0 0)
/-- SLATE_SWAP: between invocations the waiting image becomes active and a SWAP event stands first (R199). -/
def execSlateSwap (s : State) : Out :=
  .next (
    let x := s.getPart s.pol
    if !s.ready ∨ x.pstate ≠ 2 ∨ x.inv.isSome ∨ !x.swapPend then s
    else
      (s.modPart s.pol fun x =>
        { x with act := x.sby, sby := [], m := if x.swapKeep then x.m else [], consec := 0, disabled := false, swapPend := false,
                 swaps := (x.swaps + 1) % 256 }).slateEvent s.pol 5 x.swapKeep.toNat 0 0)

/-! ### Operations (R193, R201) -/

/-- The cycles that an operation costs (R193). -/
def slateCost (i : Instr) : Nat :=
  match i with
  | .ldv .. | .slateMul .. | .slateMulImm .. | .emitDispatch .. | .emitPreempt .. | .emitShare .. | .emitFaultact .. => 2
  | .argmax _ _ _ n => 2 + (n + 16) / 16
  | _ => 1
/-- The operation at the partition's PC; none for an empty or illegal word, or past the slot (R195). -/
def Part.opAt (x : Part) : Option Instr :=
  let w := Tab.get 0 x.act x.pc
  if 256 ≤ x.pc ∨ w = 0 then none else decodeSlate w
/-- BUDGET: the operation at the PC would take the invocation past 2,048 cycles, and ends it (R193, R195). -/
def execBudget (s : State) : Out :=
  .next (
    let x := s.getPart s.pol
    match x.inv, x.opAt with
    | some _, some i => if 2048 < x.used + slateCost i then s.abend s.pol 1 else s
    | _, _ => s)
/-- g[r]. -/
def Part.rg (x : Part) (r : Nat) : W32 := Tab.get 0 x.g r
/-- A write of g[r]. -/
def Part.setG (x : Part) (r : Nat) (v : W32) : Part := { x with g := Tab.put 0 x.g r v }
/-- Going on to the next word. -/
def Part.step (x : Part) : Part := { x with pc := x.pc + 1 }
/-- An operation of the running invocation: its cost is added, or BUDGET ends it; it changes the partition or ends it with a cause (R193,
R195). -/
def State.slateOp (s : State) (cost : Nat) (f : Part → Except Nat Part) : Out :=
  .next (
    let x := s.getPart s.pol
    if x.inv.isNone then s
    else if 2048 < x.used + cost then s.abend s.pol 1
    else
      match f { x with used := x.used + cost } with
      | .error c => s.abend s.pol c
      | .ok y => s.modPart s.pol fun _ => y)
/-- An index formed from a register and a constant (R202). -/
def Part.index (x : Part) (a : Nat) (idx : Bool) (c : Nat) : Nat :=
  if idx then (x.rg a + BitVec.ofNat 32 c).toNat else c
/-- LDV (R202). -/
def execLdv (d a : Nat) (x : Bool) (k c : Nat) (s : State) : Out :=
  s.slateOp 2 fun p =>
    let i := p.index a x c
    match colSize k with
    | none => .error 3
    | some n => if n ≤ i then .error 3 else .ok (p.setG d (Tab.get 0 p.snap (4096 * k + i))).step
/-- LDM (R203). -/
def execLdm (d a : Nat) (x : Bool) (c : Nat) (s : State) : Out :=
  s.slateOp 1 fun p =>
    let i := p.index a x c
    if 63 < i then .error 3 else .ok (p.setG d (Tab.get 0 p.m i)).step
/-- STM (R203). -/
def execStm (d a : Nat) (x : Bool) (c : Nat) (s : State) : Out :=
  s.slateOp 1 fun p =>
    let i := p.index a x c
    if 63 < i then .error 3 else .ok ({ p with m := Tab.put 0 p.m i (p.rg d) } : Part).step
/-- The first maximum of n + 1 values of a column from an index (R207). -/
def snapMax (t : Tab W32) (k base : Nat) : Nat → Nat
  | 0 => base
  | n + 1 =>
    let b := snapMax t k base n
    if (Tab.get 0 t (4096 * k + b)).toNat < (Tab.get 0 t (4096 * k + base + n + 1)).toNat then base + n + 1 else b
/-- ARGMAX over n + 1 values (R207). -/
def execArgmax (d a k n : Nat) (s : State) : Out :=
  s.slateOp (2 + (n + 16) / 16) fun p =>
    let base := (p.rg a).toNat
    match colSize k with
    | none => .error 3
    | some m =>
      if m < base + n + 1 then .error 3
      else
        let b := snapMax p.snap k base n
        .ok ((p.setG a (Tab.get 0 p.snap (4096 * k + b))).setG d (BitVec.ofNat 32 b)).step
/-- The loop stack without the loops that a branch to a word leaves (R205). -/
def leaveLoops (t : Nat) : List SlateLoop → List SlateLoop
  | [] => []
  | l :: ls => if l.last < t then leaveLoops t ls else l :: ls
/-- BRF (R205). -/
def execBrf (a c d : Nat) (s : State) : Out :=
  s.slateOp 1 fun p =>
    let t := p.pc + d
    if 255 < t ∨ d = 0 ∨ 2 < c then .error 2
    else if c = 0 ∨ (c = 1 ∧ p.rg a ≠ 0) ∨ (c = 2 ∧ p.rg a = 0) then .ok { p with pc := t, loops := leaveLoops t p.loops }
    else .ok p.step
/-- LOOP (R206). -/
def execSlateLoop (d l n : Nat) (s : State) : Out :=
  s.slateOp 1 fun p =>
    if n = 0 ∨ 64 < n ∨ l = 0 then .error 2
    else if p.loops.length = 4 then .error 5
    else .ok (({ p with loops := ⟨p.pc + 1, p.pc + l, n, 0, d⟩ :: p.loops } : Part).setG d 0).step
/-- ENDL (R206). -/
def execEndl (s : State) : Out :=
  s.slateOp 1 fun p =>
    match p.loops with
    | [] => .error 5
    | l :: ls =>
      if l.last ≠ p.pc then .error 5
      else if l.i + 1 < l.n then
        .ok { ({ p with loops := { l with i := l.i + 1 } :: ls } : Part).setG l.reg (BitVec.ofNat 32 (l.i + 1)) with pc := l.start }
      else .ok ({ p with loops := ls } : Part).step
/-- An EMIT: a 33rd one, or an operand that fails its check, ends the invocation (R208, R195). -/
def State.emit (s : State) (bad : Part → Bool) (dec : Part → Nat × W32 × W32) : Out :=
  s.slateOp 2 fun p => if 32 ≤ p.decs.length ∨ bad p then .error 4 else .ok ({ p with decs := p.decs ++ [dec p] } : Part).step
/-- EMIT.DISPATCH (R208). -/
def execEmitDispatch (d a : Nat) (s : State) : Out :=
  s.emit (fun p => decide (1023 < (p.rg d).toNat) || decide (0xFFFF < (p.rg a).toNat)) fun p => (0, p.rg d, p.rg a)
/-- EMIT.PREEMPT (R208). -/
def execEmitPreempt (d : Nat) (s : State) : Out := s.emit (fun _ => false) fun p => (1, p.rg d, 0)
/-- EMIT.SHARE (R208, R200). -/
def execEmitShare (d a : Nat) (s : State) : Out :=
  s.emit (fun p => decide (1023 < (p.rg d).toNat) || decide (256 < (p.rg a).toNat)) fun p => (2, p.rg d, p.rg a)
/-- EMIT.FAULTACT (R208). -/
def execEmitFaultact (d t : Nat) (s : State) : Out := s.emit (fun _ => false) fun p => (4 + t, p.rg d, 0)
/-- RET: the invocation ends and its decisions are applied in order (R209, R194). -/
def execSlateRet (s : State) : Out :=
  .next (
    let x := s.getPart s.pol
    if x.inv.isNone then s
    else if 2048 < x.used + 1 then s.abend s.pol 1
    else
      let t := s.modPart s.pol fun x =>
        { x with inv := none, decs := [], loops := [], used := x.used + 1, consec := 0, invocations := x.invocations + 1 }
      x.decs.foldl (fun u d => u.applyDec s.pol d) (t.showM s.pol))
/-- An arithmetic operation on g[GA] and a second operand (R204). -/
def State.slateAlu (s : State) (cost d a : Nat) (b : Part → W32) (f : W32 → W32 → W32) : Out :=
  s.slateOp cost fun p => .ok (p.setG d (f (p.rg a) (b p))).step
/-- The result of ADD (R204). -/
def slateAddFn (a b : W32) : W32 := a + b
/-- ADD (R204). -/
def execSlateAdd (d a b : Nat) (s : State) : Out := s.slateAlu 1 d a (·.rg b) slateAddFn
/-- ADD with an immediate (R204). -/
def execSlateAddImm (d a : Nat) (i : BitVec 18) (s : State) : Out := s.slateAlu 1 d a (fun _ => i.signExtend 32) slateAddFn
/-- The result of SUB (R204). -/
def slateSubFn (a b : W32) : W32 := a - b
/-- SUB (R204). -/
def execSlateSub (d a b : Nat) (s : State) : Out := s.slateAlu 1 d a (·.rg b) slateSubFn
/-- SUB with an immediate (R204). -/
def execSlateSubImm (d a : Nat) (i : BitVec 18) (s : State) : Out := s.slateAlu 1 d a (fun _ => i.signExtend 32) slateSubFn
/-- The result of MUL: bits [31:0] of the product (R204). -/
def slateMulFn (a b : W32) : W32 := a * b
/-- MUL (R204). -/
def execSlateMul (d a b : Nat) (s : State) : Out := s.slateAlu 2 d a (·.rg b) slateMulFn
/-- MUL with an immediate (R204). -/
def execSlateMulImm (d a : Nat) (i : BitVec 18) (s : State) : Out := s.slateAlu 2 d a (fun _ => i.signExtend 32) slateMulFn
/-- The result of AND (R204). -/
def slateAndFn (a b : W32) : W32 := a &&& b
/-- AND (R204). -/
def execSlateAnd (d a b : Nat) (s : State) : Out := s.slateAlu 1 d a (·.rg b) slateAndFn
/-- AND with an immediate (R204). -/
def execSlateAndImm (d a : Nat) (i : BitVec 18) (s : State) : Out := s.slateAlu 1 d a (fun _ => i.signExtend 32) slateAndFn
/-- The result of OR (R204). -/
def slateOrFn (a b : W32) : W32 := a ||| b
/-- OR (R204). -/
def execSlateOr (d a b : Nat) (s : State) : Out := s.slateAlu 1 d a (·.rg b) slateOrFn
/-- OR with an immediate (R204). -/
def execSlateOrImm (d a : Nat) (i : BitVec 18) (s : State) : Out := s.slateAlu 1 d a (fun _ => i.signExtend 32) slateOrFn
/-- The result of XOR (R204). -/
def slateXorFn (a b : W32) : W32 := a ^^^ b
/-- XOR (R204). -/
def execSlateXor (d a b : Nat) (s : State) : Out := s.slateAlu 1 d a (·.rg b) slateXorFn
/-- XOR with an immediate (R204). -/
def execSlateXorImm (d a : Nat) (i : BitVec 18) (s : State) : Out := s.slateAlu 1 d a (fun _ => i.signExtend 32) slateXorFn
/-- The result of SHL: zero outside 0 to 31 (R204). -/
def slateShlFn (a b : W32) : W32 := if b.toNat ≤ 31 then a <<< b.toNat else 0
/-- SHL (R204). -/
def execSlateShl (d a b : Nat) (s : State) : Out := s.slateAlu 1 d a (·.rg b) slateShlFn
/-- SHL with an immediate (R204). -/
def execSlateShlImm (d a : Nat) (i : BitVec 18) (s : State) : Out := s.slateAlu 1 d a (fun _ => i.signExtend 32) slateShlFn
/-- The result of SHR: logical, zero outside 0 to 31 (R204). -/
def slateShrFn (a b : W32) : W32 := if b.toNat ≤ 31 then a >>> b.toNat else 0
/-- SHR (R204). -/
def execSlateShr (d a b : Nat) (s : State) : Out := s.slateAlu 1 d a (·.rg b) slateShrFn
/-- SHR with an immediate (R204). -/
def execSlateShrImm (d a : Nat) (i : BitVec 18) (s : State) : Out := s.slateAlu 1 d a (fun _ => i.signExtend 32) slateShrFn
/-- The result of MIN, signed (R204). -/
def slateMinFn (a b : W32) : W32 := if a.toInt < b.toInt then a else b
/-- MIN (R204). -/
def execSlateMin (d a b : Nat) (s : State) : Out := s.slateAlu 1 d a (·.rg b) slateMinFn
/-- MIN with an immediate (R204). -/
def execSlateMinImm (d a : Nat) (i : BitVec 18) (s : State) : Out := s.slateAlu 1 d a (fun _ => i.signExtend 32) slateMinFn
/-- The result of MAX, signed (R204). -/
def slateMaxFn (a b : W32) : W32 := if a.toInt < b.toInt then b else a
/-- MAX (R204). -/
def execSlateMax (d a b : Nat) (s : State) : Out := s.slateAlu 1 d a (·.rg b) slateMaxFn
/-- MAX with an immediate (R204). -/
def execSlateMaxImm (d a : Nat) (i : BitVec 18) (s : State) : Out := s.slateAlu 1 d a (fun _ => i.signExtend 32) slateMaxFn
/-- The result of CMPLT, signed (R204). -/
def slateCmpltFn (a b : W32) : W32 := if a.toInt < b.toInt then 1 else 0
/-- CMPLT (R204). -/
def execSlateCmplt (d a b : Nat) (s : State) : Out := s.slateAlu 1 d a (·.rg b) slateCmpltFn
/-- CMPLT with an immediate (R204). -/
def execSlateCmpltImm (d a : Nat) (i : BitVec 18) (s : State) : Out := s.slateAlu 1 d a (fun _ => i.signExtend 32) slateCmpltFn
/-- The result of CMPEQ (R204). -/
def slateCmpeqFn (a b : W32) : W32 := if a = b then 1 else 0
/-- CMPEQ (R204). -/
def execSlateCmpeq (d a b : Nat) (s : State) : Out := s.slateAlu 1 d a (·.rg b) slateCmpeqFn
/-- CMPEQ with an immediate (R204). -/
def execSlateCmpeqImm (d a : Nat) (i : BitVec 18) (s : State) : Out := s.slateAlu 1 d a (fun _ => i.signExtend 32) slateCmpeqFn
/-- SEL: a where g[GD] is not zero, else b (R204). -/
def State.slateSelect (s : State) (d a : Nat) (b : Part → W32) : Out :=
  s.slateOp 1 fun p => .ok (p.setG d (if p.rg d ≠ 0 then p.rg a else b p)).step
/-- SEL (R204). -/
def execSlateSel (d a b : Nat) (s : State) : Out := s.slateSelect d a (·.rg b)
/-- SEL with an immediate (R204). -/
def execSlateSelImm (d a : Nat) (i : BitVec 18) (s : State) : Out := s.slateSelect d a fun _ => i.signExtend 32

end Sys2Proof.Machine
end

