-- ==== Sys2Proof/Machine/Host.lean ====
section
/-!
DEFINITION. The host link (R144 to R148, R305, R469): the host's reads and writes of module memory, management registers, doorbells and EVENT
messages.
-/
namespace Sys2Proof.Machine

/-! ### Host reads and writes of memory (R145, R297) -/

/-- A request to the node that a remote leaf names, for the host (R145, R272). -/
def State.hostProxy (s : State) (kind asid va len : Nat) (e : W64) (data : List Byte) : State :=
  let r : Req :=
    { id := s.nextId, kind := kind, asker := .host, part := asidPart (s.asidEntry asid), node := pteNode e, va := va, asid := asid,
      len := len, order := pteOrder e, conf := pteConf e, sync := pteSync e, data := data, aop := 0, opa := 0, opb := 0, bar := none,
      box := none, off := 0, retries := 0, due := s.now }
  let t : State := { s.post r with nextId := s.nextId + 1 }
  { t with mg := { t.mg with hostWait := some (false, 0) } }
/-- An access of the host that passes its checks to a local leaf is counted where its page is migratable (R270). -/
def State.hostCount (s : State) (asid va pa : Nat) (e : W64) : State :=
  if pteMig e then s.countAccess asid (asidPart (s.asidEntry asid)) va (pa % 2 ^ 48 / 65536) s.mg.node.toNat (pteTier e) else s
/-- The checks of an MREAD (kind 2) or MWRITE (kind 1) of len bytes; ok is done with the leaf and the address in memory. An access to a page
that moves waits (R145, R271). -/
def State.hostAccess (s : State) (kind asid va len : Nat) (data : List Byte) (ok : State → W64 → Nat → State) : State :=
  if len = 0 ∨ 256 < len ∨ 65536 < va % 65536 + len then s.hostDone 6 []
  else if !pteV (s.asidEntry asid) then s.hostDone 2 []
  else
    let found := s.walk asid va
    let s := s.walked asid va
    match found with
    | .absent => if s.moving asid va then s else (s.postFault asid va (kindBits kind - 16 + 32) 0).hostDone 3 []
    | .malformed => s.hostDone 2 []
    | .leaf e _ _ pa =>
      if !(if kind = 2 then pteR e else pteW e && !pteBed e) then s.hostDone 2 []
      else if pteConf e then s.hostDone 4 []
      else if pteNode e ≠ s.mg.node.toNat then s.hostProxy kind asid va len e data
      else ok s e (pa % 2 ^ 48)
/-- MREAD: operands ASID, VA and the number of bytes (R144, R145). -/
def execMread (s : State) : Out :=
  s.hostReq fun s =>
    let asid := s.arg 0 % 65536
    let va := s.arg 1 % 2 ^ 64
    s.hostAccess 2 asid va (s.arg 2) [] fun s e pa =>
      let r := (s.hostCount asid va pa e).scan pa (s.arg 2) asid va
      match r.2 with
      | some _ => r.1.hostDone 5 []
      | none => r.1.hostDone 0 (r.1.readB pa (s.arg 2))
/-- MWRITE: operands ASID, VA, the number of bytes and the bytes as a number (R144, R145). A write to a page that is copy-on-write waits for its
copy (R304). -/
def execMwrite (s : State) : Out :=
  s.hostReq fun s =>
    let asid := s.arg 0 % 65536
    let va := s.arg 1 % 2 ^ 64
    let data := toLE (s.arg 2) (s.arg 3)
    s.hostAccess 1 asid va (s.arg 2) data fun s e pa =>
      if s.isCow asid va then s else ((s.hostCount asid va pa e).writeB pa data).hostOk

/-! ### Management registers (R469) -/

/-- The register that a management access reaches: MODSTATUS; a ring's register; a ring's CONS; the slate's status registers and m-words of a
partition; its other registers; a pipeline, stage, queue, semaphore or capacity entry of a partition's pipeline, with the offset within
it; an ASID entry, window or tenant register; a word of a tenant's window. -/
inductive MgReg where
  | modstatus
  | ring (ro : Bool)
  | cons (ring : Nat)
  | slate (p k : Nat)
  | part (p : Nat) (ro : Bool)
  | pipe (p q off : Nat)
  | stage (p q : Nat)
  | queue (p q off : Nat)
  | sem (p q : Nat)
  | cap (p q off : Nat)
  | table
  | tenWin (i : Nat)
  deriving DecidableEq, Repr

/-- The register of a ring at an offset, for an access of w bytes; base is the number of its EVENT messages (R148, R305). -/
def ringReg (n off w : Nat) : Option MgReg :=
  if off = 0 ∧ w = 8 then some (.ring false)
  else if (off = 8 ∨ off = 0x14) ∧ w = 4 then some (.ring false)
  else if off = 0xC ∧ w = 4 then some (.ring true)
  else if off = 0x10 ∧ w = 4 then some (.cons n)
  else none
/-- The register of partition p's block at an offset. -/
def partReg (p off w : Nat) : Option MgReg :=
  if (off = 0x400 ∨ off = 0x420) ∧ w = 8 then some (.part p false)
  else if w ≠ 4 then none
  else if off = 0 ∨ off = 4 ∨ off = 8 then some (.slate p (off / 4))
  else if 0x100 ≤ off ∧ off < 0x200 ∧ off % 4 = 0 then some (.part p true)
  else if off = 0x408 ∨ off = 0x410 then some (.part p false)
  else if off = 0x40C ∨ off = 0x414 then some (.part p true)
  else none
/-- The register of a pipeline's area at an offset. -/
def pipeReg (p q off w : Nat) : Option MgReg :=
  let fine := w == 4 && off % 4 == 0 || w == 8 && off % 8 == 0
  if 0x3000 ≤ off ∧ off < 0x3400 then (if w = 4 ∧ off % 4 = 0 then some (.sem p q) else none)
  else if !fine then none
  else if off < 0x40 then some (.pipe p q off)
  else if 0x1000 ≤ off ∧ off < 0x2000 then some (.stage p q)
  else if 0x2000 ≤ off ∧ off < 0x3000 then some (.queue p q (off % 0x40))
  else if 0x4000 ≤ off ∧ off < 0x8000 then some (.cap p q (off % 0x10))
  else none
/-- The register that an access of w bytes at a management address reaches; none where it is MALFORMED (R469). -/
def mgReg (a w : Nat) : Option MgReg :=
  let fine := w == 4 && a % 4 == 0 || w == 8 && a % 8 == 0
  if a = 0 then (if w = 4 then some .modstatus else none)
  else if 0x1000 ≤ a ∧ a < 0x1000 + 0x20 * 18 then ringReg ((a - 0x1000) / 0x20) (a % 0x20) w
  else if 0x2000 ≤ a ∧ a < 0x2000 + 0x20 * 23 then ringReg (32 + (a - 0x2000) / 0x20) (a % 0x20) w
  else if 0x10000 ≤ a ∧ a < 0x110000 then partReg ((a - 0x10000) / 0x10000) (a % 0x10000) w
  else if 0x01000000 ≤ a ∧ a < 0x02000000 then pipeReg (a / 0x100000 % 16) (a / 0x10000 % 16) (a % 0x10000) w
  else if 0x20000000 ≤ a ∧ a < 0x20000000 + 8 * 65536 then (if fine then some .table else none)
  else if 0x20100000 ≤ a ∧ a < 0x20100000 + 0x20 * 4096 then (if fine then some .table else none)
  else if 0x20200000 ≤ a ∧ a < 0x20240000 then
    let o := a % 0x1000
    if o < 8 then (if fine then some .table else none)
    else if w = 4 ∧ a % 4 = 0 ∧ (o = 8 ∨ (0x400 ≤ o ∧ o < 0x800)) then some .table
    else none
  else if 0x30000000 ≤ a ∧ a < 0x30400000 then (if w = 8 ∧ a % 8 = 0 then some (.tenWin ((a - 0x30000000) / 0x10000)) else none)
  else none
/-- The partition whose block a register stands in. -/
def MgReg.part? : MgReg → Option Nat
  | .slate p _ | .part p _ | .pipe p _ _ | .stage p _ | .queue p _ _ | .sem p _ | .cap p _ _ => some p
  | _ => none
/-- PSTAT (R197). -/
def Part.pstat (x : Part) : Nat :=
  x.disabled.toNat * 2 ^ 31 + x.swapPend.toNat * 2 ^ 30 + x.swaps % 256 * 2 ^ 16 + x.consec % 16 * 2 ^ 12 + x.lastCause % 16 * 2 ^ 8
/-- The value of a management register of w bytes; the blocks of a FREE partition read zero (R469, R54, R197). -/
def State.mgValue (s : State) (a w : Nat) (r : MgReg) : Nat :=
  match r.part? with
  | some p =>
    let x := s.getPart p
    if x.pstate = 0 then 0
    else
      match r with
      | .slate _ 0 => x.pstat
      | .slate _ 1 => x.overruns.toNat
      | .slate _ _ => x.invocations.toNat
      | _ => s.mg4 a w
  | none => if r = .modstatus then s.mg.modstatus.toNat else s.mg4 a w
/-- MGMTRD: operands address and width. It is answered in every phase (R469, R55). -/
def execMgmtrd (s : State) : Out :=
  .next (
    if s.mg.hostWait.isSome then s
    else
      match mgReg (s.arg 0) (s.arg 1) with
      | none => s.hostDone 6 []
      | some r => s.hostDone 0 (toLE (s.arg 1) (s.mgValue (s.arg 0) (s.arg 1) r)))
/-- The bits of a register of 4 or 8 bytes that a write keeps: a reserved field of a management register reads zero (R4). The reserved fields of
descriptors are kept for R162. -/
def mgKeeps (a : Nat) (r : MgReg) (v : Nat) : Nat :=
  match r with
  | .ring _ => if a % 0x20 = 8 then v % 32 else v
  | .part _ _ => if a % 0x10000 = 0x408 then v % 32 else v
  | _ => v
/-- The bytes of a write of w bytes at an offset of an entry that it leaves as they are, those from lo to hi − 1. -/
def keepBytes (old new : List Byte) (off lo hi : Nat) : List Byte :=
  (List.range new.length).map fun i => if lo ≤ off + i ∧ off + i < hi then old.getD i 0 else new.getD i 0
/-- A write of a management register without behaviour of its own (R469, R161, R162, R166, R186). -/
def State.mgWrite (s : State) (a w v : Nat) (r : MgReg) : State :=
  let bytes := toLE w v
  let put (s : State) : State := (s.setMg a w (mgKeeps a r v)).hostOk
  let shut (p : Nat) : Bool := !s.active p
  match r with
  | .modstatus | .table | .ring true => s.hostOk
  | .ring false => put s
  | .cons _ => s
  | .slate p _ | .part p true => if shut p then s.refused else s.hostOk
  | .part p false => if shut p then s.refused else put s
  | .pipe p q off => if off = 0 then s else if shut p ∨ s.pipeOn p q then s.refused else put s
  | .stage p q => if shut p ∨ s.pipeOn p q then s.refused else put s
  | .queue p q off =>
    if shut p ∨ s.pipeOn p q then s.refused
    else (s.writeB (mgKey a) (keepBytes (s.readB (mgKey a) w) bytes off 12 24)).hostOk
  | .sem p _ => if shut p then s.refused else ((s.setMg a w v).noteReady p).hostOk
  | .cap p q off =>
    if shut p ∨ s.pipeOn p q then s.refused
    else (s.writeB (mgKey a) (keepBytes (zeros w) bytes off 12 16)).hostOk
  | .tenWin i => if (List.range 16).any fun p => s.active p && s.holdsUnit p (5000 + i) then put s else s.refused
/-- MGMTWR: operands address, width and value. A write of CONS, ELCONS or the word that holds ENABLE is a step of its own (R469). -/
def execMgmtwr (s : State) : Out :=
  s.hostReq fun s =>
    match mgReg (s.arg 0) (s.arg 1) with
    | none => s.hostDone 6 []
    | some r => s.mgWrite (s.arg 0) (s.arg 1) (s.arg 2 % 2 ^ (8 * s.arg 1)) r

/-! ### Enabling a pipeline (R162) -/

/-- Whether some byte of a management range is not zero. -/
def State.mgSome (s : State) (a n : Nat) : Bool := (s.readB (mgKey a) n).any (· != 0)
/-- Whether a reserved field of a pipeline's descriptors is not zero (R159, R160, R161). -/
def State.reservedSet (s : State) (p q : Nat) : Bool :=
  s.mg4 (pipeAt p q) 1 / 2 != 0 || s.mg4 (pipeAt p q + 1) 1 / 16 != 0 || s.mgSome (pipeAt p q + 16) 48 ||
  (List.range 64).any (fun t =>
    s.mg4 (stageAt p q t + 10) 1 / 4 != 0 || s.mgSome (stageAt p q t + 17) 3 || s.mgSome (stageAt p q t + 36) 4 ||
    s.mgSome (stageAt p q t + 48) 16) ||
  (List.range 64).any fun k => s.mgSome (queueAt p q k + 9) 3 || s.mgSome (queueAt p q k + 24) 40
/-- Whether a pipeline's descriptors refuse to be enabled (R162). -/
def State.enableBad (s : State) (p q : Nat) : Bool :=
  let st := s.stages p q
  let undeclared (k : Nat) : Bool := decide (63 < k) || s.quLog p q k == 0
  s.reservedSet p q || decide (1024 < s.mg4 (pipeAt p q + 4) 2) ||
  (st.any fun t => undeclared (s.stInq p q t) ||
    (List.range 4).any fun j => s.stOutq p q t j != 0xFF && undeclared (s.stOutq p q t j)) ||
  (st.any fun t => st.any fun u => decide (t < u) && s.stInq p q t == s.stInq p q u) ||
  st.any fun t => s.stGrouped p q t && s.stTeam p q t % 4 != 0 || s.stTimed p q t && decide (16 < s.stTeam p q t)
/-- PIPELINE_ENABLE: operands address, width and value of a write that holds the ENABLE byte of a pipeline's descriptor. Clearing it is accepted
always, setting it only for descriptors that pass R162; heads are looked at anew. -/
def execPipelineEnable (s : State) : Out :=
  s.hostReq fun s =>
    let a := s.arg 0
    let w := s.arg 1
    match mgReg a w with
    | some (.pipe p q 0) =>
      let v := s.arg 2 % 2 ^ (8 * w)
      let t := s.setMg a w v
      if !s.active p then s.refused
      else if v % 2 = 0 then t.hostOk
      else if s.pipeOn p q ∨ t.enableBad p q then s.refused
      else
        ((t.modPart p fun x => { x with readySeen := x.readySeen.filter (fun i => i / 64 != q),
                                        waitPages := x.waitPages.filter (fun e => e.1 / 64 != q || decide (0x10000 ≤ e.1)) }).noteReady p).hostOk
    | _ => s

/-! ### EVENT messages (R148, R305) -/

/-- The management address of the ring that EVENT messages number n: event rings 0 to 17, error-log rings 32 to 54. -/
def ringAt (n : Nat) : Option Nat :=
  if n < 18 then some (evRing n) else if 32 ≤ n ∧ n < 55 then some (elRing (n - 32)) else none
/-- An EVENT message is sent for a ring that holds unconsumed records and has none outstanding. -/
def State.tellRing (s : State) (n a : Nat) : State :=
  if s.mg.ringOut.contains n ∨ s.mg4 (a + 0xC) 4 = s.mg4 (a + 0x10) 4 then s
  else { s with mg := { s.mg with ringOut := s.mg.ringOut ++ [n], hostOut := s.mg.hostOut ++ [.event n] } }
/-- EVENT: the message of ring args[0] is due (R148, R146). -/
def execEventMessage (s : State) : Out :=
  .next (match ringAt (s.arg 0) with
    | some a => s.tellRing (s.arg 0) a
    | none => s)
/-- A write of a ring's consumer count: it re-arms the ring, and another EVENT message follows at once where records remain. -/
def State.consume (s : State) (n value : Nat) : Out :=
  s.hostReq fun s =>
    match ringAt n with
    | none => s.hostDone 6 []
    | some a =>
      let t := s.setMg (a + 0x10) 4 (value % 2 ^ 32)
      let u : State := { t with mg := { t.mg with ringOut := t.mg.ringOut.filter (· != n) } }
      u.hostOk.tellRing n a
/-- CONS: the host writes CONS of event ring args[0] (R148). -/
def execCons (s : State) : Out := s.consume (if s.arg 0 < 18 then s.arg 0 else 18) (s.arg 1)
/-- ELCONS: the host writes ELCONS of error-log ring args[0] (R305). -/
def execElcons (s : State) : Out := s.consume (32 + s.arg 0) (s.arg 1)

/-! ### Doorbells (R147) -/

/-- Whether a doorbell word is refused for a partition. -/
def State.bellBad (s : State) (p w : Nat) : Bool :=
  let q := nfld w 43 40
  let t := nfld w 39 34
  let k := s.stInq p q t
  !s.active p || decide (2 ^ 44 ≤ w) || nfld w 33 32 != 0 || s.stTeam p q t == 0 || s.quLog p q k == 0 || s.kernelFed p q k ||
  decide (2 ^ s.quLog p q k < diff32 (nfld w 31 0) (s.quTail p q k) + diff32 (s.quTail p q k) (s.quHead p q k))
/-- DOORBELL: operands partition and doorbell word. The tail of the stage's queue is set and DISPATCH with reason 1 raised, or it is refused
(R147, R170). -/
def execDoorbell (s : State) : Out :=
  s.hostReq fun s =>
    let p := s.arg 0
    let w := s.arg 1
    if s.bellBad p w then s.refused
    else
      let q := nfld w 43 40
      let t := nfld w 39 34
      let k := s.stInq p q t
      let was := s.quCount p q k
      let u := s.setMg (queueAt p q k + 16) 4 (nfld w 31 0)
      let v := if was = 0 ∧ u.quCount p q k ≠ 0 then u.newHead p q k else u
      ((v.slateEvent p 1 1 (64 * q + t) 0).noteReady p).hostOk

end Sys2Proof.Machine
end

