-- ==== Sys2Proof/Machine/Manage.lean ====
section
/-!
DEFINITION. The management commands (R106, R149 to R155, R179, R198, R470): partitions, ASID entries, tenant entries, registration windows, parked
pebbles, pre-emption requests, slate images, key slots and attestation.
-/
namespace Sys2Proof.Machine

/-! ### Units (R149, R151) -/

/-- Whether a number names a resource unit that PASSIGN gives (R149, log 22). -/
def isUnit (u : Nat) : Bool :=
  let within (lo n : Nat) : Bool := decide (lo ≤ u) && decide (u < lo + n)
  decide (u < 64) || within 1000 512 || within 2000 32 || within 3000 128 || within 4000 256 || within 5000 64 || within 6000 16 ||
  within 10000 4096 || within 20000 4096
/-- The units that a partition holds, ascending. -/
def State.unitsOf (s : State) (p : Nat) : List Nat := (s.mg.owners.filter fun e => e.2 == p + 1).map (·.1)
/-- The state with the holder of a unit set: a partition plus one, or 0. -/
def State.setOwner (s : State) (u holder : Nat) : State := { s with mg := { s.mg with owners := Tab.put 0 s.mg.owners u holder } }
/-- The identity word of a tenant entry that a partition holds and that is not bound (R469). -/
def heldWord (p : Nat) : Nat := p % 16 * 2 ^ 16 + 2 ^ 20
/-- The pebbles parked in a tenant entry are discarded without events, and so are those that a visit runs under it, of which the spec says
nothing (R92, R151; log 69). -/
def State.dropParks (s : State) (i : Nat) : State :=
  { s with router := { s.router with
      parks := s.router.parks.filter fun k => k.entry != i,
      visits := s.router.visits.filter fun e => match e.2 with | some v => v.entry != i | none => true } }
/-- A tenant entry is released: its pebbles go and its identity word becomes w (R92). -/
def State.releaseTenant (s : State) (i w : Nat) : State := (s.dropParks i).setMg (tenAt i) 8 w
/-- The window, counters and discard counter of a tenant entry are set to zero and its park area is emptied (R92). -/
def State.zeroTenant (s : State) (i : Nat) : State :=
  (((s.zeroMem (mgKey (0x30000000 + 0x10000 * i)) 65536).zeroMem (mgKey (tenAt i + 0x400)) 1024).setMg (tenAt i + 8) 4 0).dropParks i
/-- A core with every register, accumulator, plane and queue zero or empty, and its scratchpad zero (R151). -/
def State.clearCore (s : State) (c : Nat) : State :=
  let x := s.getCore c
  (s.zeroMem (spadKey c 0) 0x400000).setCore c
    { Core.zero with halted := x.halted, gated := x.gated, upset := x.upset, brk := x.brk }
/-- A unit is cleared before it becomes free (R151). -/
def State.clearUnit (s : State) (u : Nat) : State :=
  if u < 64 then (List.range 4).foldl (fun s i => s.clearCore (4 * u + i)) s
  else if u < 2000 then s.zeroMem ((u - 1000) * 2 ^ 32) (2 ^ 32)
  else if u < 3000 then s.zeroMem (2 ^ 42 + (u - 2000) * 2 ^ 37) (2 ^ 37)
  else if u < 4000 then s.zeroMem (2 ^ 43 + (u - 3000) * 2 ^ 25) (2 ^ 25)
  else if u < 5000 then s
  else if u < 6000 then (s.zeroTenant (u - 5000)).setMg (tenAt (u - 5000)) 8 0
  else if u < 10000 then s
  else if u < 20000 then s.setMg (winAt (u - 10000)) 32 0
  else s.setKey (u - 20000) KeySlot.zero
/-- A unit is cleared and becomes free (R150, R151). -/
def State.freeUnit (s : State) (u : Nat) : State := (s.clearUnit u).setOwner u 0

/-! ### Partitions (R150, R151) -/

/-- The state of a partition's life: FREE, BUILDING or ACTIVE; none for a number that names no partition. -/
def State.inPhase (s : State) (p k : Nat) : Bool := decide (p < 16) && (s.getPart p).pstate == k
/-- PCREATE: operand p. -/
def execPcreate (s : State) : Out :=
  let p := s.arg 0
  s.command (s.inPhase p 0) fun s => s.modPart p fun _ => { Part.zero with pstate := 1 }
/-- PASSIGN: operands p and unit. -/
def execPassign (s : State) : Out :=
  let p := s.arg 0
  let u := s.arg 1
  s.command (s.inPhase p 1 && isUnit u && s.owner u == 0) fun s =>
    let t := s.setOwner u (p + 1)
    if 5000 ≤ u ∧ u < 5064 then t.setMg (tenAt (u - 5000)) 8 (heldWord p) else t
/-- PRELEASE: operands p and unit. -/
def execPrelease (s : State) : Out :=
  let p := s.arg 0
  let u := s.arg 1
  s.command (s.inPhase p 1 && isUnit u && s.holdsUnit p u) fun s => s.freeUnit u
/-- The blocks of a partition read zero (R166, R186, R469). -/
def State.zeroBlocks (s : State) (p : Nat) : State :=
  (s.zeroMem (mgKey (partBlock p)) 0x10000).zeroMem (mgKey (pipeAt p 0)) 0x100000
/-- PSTART: operand p. Semaphores, capacity entries, m-words and the status registers are zero, both slots empty (R150, R166, R186, R188, R197). -/
def execPstart (s : State) : Out :=
  let p := s.arg 0
  let us := s.unitsOf p
  let some (lo n : Nat) : Bool := us.any fun u => decide (lo ≤ u) && decide (u < lo + n)
  let one := (us.filter fun u => decide (6000 ≤ u) && decide (u < 6016)).length == 1
  s.command (s.inPhase p 1 && one && some 0 64 && some 1000 512) fun s =>
    (s.zeroBlocks p).modPart p fun _ => { Part.zero with pstate := 2, start := s.now, lastTick := s.now }
/-- The unit that holds the byte at a memory key. -/
def unitOfKey (k : Nat) : Option Nat := if 2 ^ 48 ≤ k then some ((k - 2 ^ 48) / 2 ^ 24) else unitOfPa k
/-- Whether something that passed its checks is still to be performed in the units of a partition, or a window of it is not closed (R151). -/
def State.partBusy (s : State) (p : Nat) : Bool :=
  let mine (k : Nat) : Bool := match unitOfKey k with | some u => s.holdsUnit p u | none => false
  (s.msys.flights.any fun f => mine f.acc.lo) || (s.gate.jobs.any fun j => j.stage == 1 && mine j.pa) ||
  (s.windows.any fun w => s.holdsUnit p (10000 + w) && winState (s.win w) != 3)
/-- The migration and move counts of an address space are forgotten (R151, R273). -/
def State.forgetCounts (s : State) (asid : Nat) : State :=
  { s with msys := { s.msys with migs := s.msys.migs.filter fun x => x.asid != asid,
                                 moveCnt := s.msys.moveCnt.filter fun x => x.1 != asid } }
/-- An ASID entry is written all zero, and nothing of the address space is kept for the next owner (R135, R151, R470). -/
def State.clearAsid (s : State) (asid : Nat) : State := (s.setMg (0x20000000 + 8 * asid) 8 0).forgetCounts asid
/-- Steps 1 to 3 of R151: ASID entries are cleared, dispatch stops, teams end without a save, queued records go, page moves are given up, and every
open window closes. -/
def State.stopPart (s : State) (p : Nat) : State :=
  let s0 : State := { s with msys := { s.msys with moves := s.msys.moves.filter fun x => x.part != p } }
  let s1 := (s.asidsOf p).foldl State.clearAsid s0
  let s2 := (s1.teams.filter fun t => t.part == p).foldl (fun t m => t.endTeam m) s1
  let s3 := s2.zeroMem (mgKey (pipeAt p 0)) 0x100000
  let s4 := s3.modPart p fun x => { x with inv := none, events := [], slots := [], decs := [], swapPend := false, act := [], disabled := true }
  (s4.windows.filter fun w => s4.holdsUnit p (10000 + w) && winState (s4.win w) == 1).foldl (fun t w =>
    (t.setMg (winAt w) 32 (setFld (t.win w) 207 206 2)).winSettle w) s4
/-- Steps 4 and 5 of R151: key slots are emptied, tenant entries released, and every unit is cleared and free; what the memory system kept for the
partition goes with it. -/
def State.clearPart (s : State) (p : Nat) : State :=
  let t := (s.unitsOf p).foldl (fun t u => t.freeUnit u) s
  let m := t.msys
  let m' : MemSys :=
    { m with shoots := m.shoots.filter fun x => x.part != p,
             migs := m.migs.filter fun x => x.part != p, pools := m.pools.filter fun x => x.1 != p,
             snaps := m.snaps.filter fun x => x.part != p, oldTrees := m.oldTrees.filter fun x => x.1 != p }
  ({ t with msys := m' }.zeroBlocks p).modPart p fun _ => Part.zero
/-- PDESTROY: operand p. It waits for what passed its checks before it and for every window to reach closed, and then completes (R150, R151). -/
def execPdestroy (s : State) : Out :=
  let p := s.arg 0
  .next (
    if s.mg.hostWait ≠ none ∧ s.mg.hostWait ≠ some (true, p + 1) then s
    else if !s.ready then s.hostDone 1 []
    else if !(s.inPhase p 1 || s.inPhase p 2) then s.refused
    else
      let t := s.stopPart p
      if t.partBusy p then { t with mg := { t.mg with hostWait := some (true, p + 1) } } else (t.clearPart p).hostOk)

/-! ### ASID entries (R135, R470) -/

/-- ASIDSET: operands p, asid, rootppn, winreq and remote. -/
def execAsidset (s : State) : Out :=
  let asid := s.arg 1
  let word := 1 + s.arg 4 % 2 * 2 + s.arg 3 % 2 * 4 + s.arg 0 % 16 * 2 ^ 12 + s.arg 2 % 2 ^ 48 * 2 ^ 16
  s.command (s.active (s.arg 0) && decide (asid < 65536) && !pteV (s.asidEntry asid)) fun s => s.setMg (0x20000000 + 8 * asid) 8 word
/-- ASIDCLR: operands p and asid. -/
def execAsidclr (s : State) : Out :=
  s.command (s.active (s.arg 0) && s.asidOf (s.arg 0) (s.arg 1)) fun s => s.clearAsid (s.arg 1)

/-! ### Tenant entries (R92, R470) -/

/-- Whether an ACTIVE partition holds tenant entry i. -/
def State.holdsTenant (s : State) (p i : Nat) : Bool := s.active p && decide (i < 64) && s.holdsUnit p (5000 + i)
/-- TENSET: operands p, i, tenant and mask. -/
def execTenset (s : State) : Out :=
  let i := s.arg 1
  let tenant := s.arg 2
  let mask := s.arg 3
  let w := s.tenWord i
  let ok := s.holdsTenant (s.arg 0) i && decide (tenant < 65536) && decide (mask < 65536) && mask % 16 == 0 &&
    (match s.tenantEntry tenant with | some k => k == i | none => true) && (!tenBound w || fld w 15 0 == tenant)
  s.command ok fun s =>
    let t := if tenBound w then s else s.zeroTenant i
    t.setMg (tenAt i) 8 (tenant + heldWord (s.arg 0) + 2 ^ 21 + mask * 2 ^ 32)
/-- TENCLR: operands p and i. -/
def execTenclr (s : State) : Out :=
  s.command (s.holdsTenant (s.arg 0) (s.arg 1) && tenBound (s.tenWord (s.arg 1))) fun s => s.releaseTenant (s.arg 1) (heldWord (s.arg 0))
/-- TENZERO: operands p, i and sel. -/
def execTenzero (s : State) : Out :=
  let i := s.arg 1
  s.command (s.holdsTenant (s.arg 0) i && tenBound (s.tenWord i) && decide (s.arg 2 < 2)) fun s =>
    if s.arg 2 = 0 then s.zeroMem (mgKey (tenAt i + 0x400)) 1024 else s.setMg (tenAt i + 8) 4 0

/-! ### Registration windows (R137, R140, R470) -/

/-- Whether an ACTIVE partition holds registration window w. -/
def State.holdsWindow (s : State) (p w : Nat) : Bool := s.active p && decide (w < 4096) && s.holdsUnit p (10000 + w)
/-- OPEN: operands p, w, asid, srcmatch, srcmask, pr, pw, pa, notify, npipe, nsem, base and pages. -/
def execOpenWindow (s : State) : Out :=
  let w := s.arg 1
  let base := s.arg 11 % 2 ^ 39
  let pages := s.arg 12 % 2 ^ 32
  let ok := s.holdsWindow (s.arg 0) w && winState (s.win w) == 0 && s.asidOf (s.arg 0) (s.arg 2) && decide (1 ≤ pages) &&
    decide (base + pages ≤ 2 ^ 39)
  s.command ok fun s =>
    let n := s.arg 2 * 2 ^ 240 + s.arg 3 % 65536 * 2 ^ 224 + s.arg 4 % 65536 * 2 ^ 208 + 1 * 2 ^ 206 + s.arg 5 % 2 * 2 ^ 205 +
      s.arg 6 % 2 * 2 ^ 204 + s.arg 7 % 2 * 2 ^ 203 + s.arg 8 % 2 * 2 ^ 202 + s.arg 9 % 16 * 2 ^ 198 + s.arg 10 % 256 * 2 ^ 190 +
      base * 2 ^ 128 + pages * 2 ^ 96
    s.setMg (winAt w) 32 n
/-- CLOSE: operands p and w. A window with nothing in flight is closed at once (R140). -/
def execCloseWindow (s : State) : Out :=
  let w := s.arg 1
  s.command (s.holdsWindow (s.arg 0) w && winState (s.win w) == 1) fun s =>
    (s.setMg (winAt w) 32 (setFld (s.win w) 207 206 2)).winSettle w
/-- FREE: operands p and w. -/
def execFreeWindow (s : State) : Out :=
  let w := s.arg 1
  s.command (s.holdsWindow (s.arg 0) w && winState (s.win w) == 3) fun s => s.setMg (winAt w) 32 0

/-! ### Parked pebbles (R106) -/

/-- The pebble parked at a place of the park area of a tenant entry. -/
def State.parkAt (s : State) (i n : Nat) : Option Park := s.router.parks.find? fun k => k.entry == i && k.idx == n
/-- A command for the parked pebble that operands p, i and n name: its entry is freed, and then f is done with its pebble. -/
def State.parkCommand (s : State) (ok : Bool) (f : State → Park → State) : Out :=
  let i := s.arg 1
  let n := s.arg 2
  match s.parkAt i n with
  | none => s.command false fun s => s
  | some k =>
    s.command (s.holdsTenant (s.arg 0) i && tenBound (s.tenWord i) && ok) fun s =>
      f { s with router := { s.router with parks := s.router.parks.filter fun x => !(x.entry == i && x.idx == n) } } k
/-- A pebble with the budget of a command, capped by the mask of its entry (R106). -/
def State.rebudget (s : State) (k : Park) (budget : Nat) : Packet := k.pkt.setPb 39 32 (min budget (hopCap (tenMask (s.tenWord k.entry))))
/-- RESUME: operands p, i, entry, pc and budget. The pebble stands in its arrival port's buffer, to be visited at pc. -/
def execResumeParked (s : State) : Out :=
  s.parkCommand (decide (s.arg 3 < 16) && decide (s.arg 4 < 256)) fun s k =>
    let q := (s.rebudget k (s.arg 4)).setPb 0 0 1
    { s with router := { s.router with arrivals := s.router.arrivals ++ [Arrival.mk q k.port (some (s.arg 3)) s.now s.cycle] } }
/-- REDIRECT: operands p, i, entry, a direction or 7 for the turn list, and budget. -/
def execRedirectParked (s : State) : Out :=
  let d := s.arg 3
  s.parkCommand ((decide (d < 6) || d == 7) && decide (s.arg 4 < 256)) fun s k =>
    let q := s.rebudget k (s.arg 4)
    s.leaveBy k.entry q d q.entryPc k.port none
/-- DROP: operands p, i and entry. -/
def execDropParked (s : State) : Out := s.parkCommand true fun s _ => s

/-! ### Pre-emption requests (R179) -/

/-- PREEMPTREQ: operands p and team identifier. -/
def execPreemptreq (s : State) : Out :=
  let p := s.arg 0
  let id := s.arg 1
  match s.team id with
  | none => s.command false fun s => s
  | some t =>
    s.command (s.active p && id / 2 ^ 28 == p && t.part == p && t.phase != .stopping && t.phase != .saved) fun s => s.slateEvent p 2 2 id (64 * t.pipe + t.stage)

/-! ### Slate images (R198) -/

/-- The span of a LOOP of an image, as the indices of its LOOP and its ENDL. -/
def loopSpans (is : List Instr) : List (Nat × Nat) :=
  (is.zip (List.range is.length)).filterMap fun x => match x.1 with
    | .slateLoop _ l _ => some (x.2, x.2 + l)
    | _ => none
/-- Whether an operation is unfit for its place in an image: a BRF that is not forward or leaves the image, or a LOOP whose ENDL is not in the
image. -/
def slateUnfit (is : List Instr) (k : Nat) (i : Instr) : Bool :=
  match i with
  | .brf _ _ d => d == 0 || decide (is.length ≤ k + d)
  | .slateLoop _ l _ => is[k + l]? != some .endl
  | _ => false
/-- Whether an image breaks R198. -/
def slateBad (ws : List W32) : Bool :=
  let ds := ws.map fun w => decodeSlate w
  let is := ds.filterMap id
  let sp := loopSpans is
  is.length != ws.length || (is.zip (List.range is.length)).any (fun x => slateUnfit is x.2 x.1) ||
  sp.any fun a => sp.any fun b => decide (a.1 < b.1) && decide (b.1 ≤ a.2) && decide (a.2 ≤ b.2)
/-- SLOAD: operands p, asid, va, words and keep. A page of the image that moves holds it (R198, R250). -/
def execSload (s : State) : Out :=
  let p := s.arg 0
  let n := s.arg 3
  let image := match s.readVa p (s.arg 1) (s.arg 2) (4 * n) with
    | .ok bs => some ((List.range n).map fun i => BitVec.ofNat 32 (leField bs (4 * i) 4))
    | .error _ => none
  let ok := s.active p && s.asidOf p (s.arg 1) && decide (1 ≤ n) && decide (n ≤ 256) && s.arg 2 % 64 == 0 && decide (s.arg 4 < 2) &&
    (match image with | some ws => !slateBad ws | none => false)
  if s.active p ∧ s.asidOf p (s.arg 1) ∧ n ≤ 256 ∧ s.heldVa (s.arg 1) (s.arg 2) (4 * n) then .next s
  else
    s.command ok fun s => (s.touchVa (s.arg 1) (s.arg 2) (4 * n)).modPart p fun x =>
      { x with sby := Tab.cells 0 0 (image.getD []), swapPend := true, swapKeep := s.arg 4 == 1 }

/-! ### Key slots (R154, R155) -/

/-- Whether an ACTIVE partition holds key slot i. -/
def State.holdsKey (s : State) (p i : Nat) : Bool := s.active p && decide (i < 4096) && s.holdsUnit p (20000 + i)
/-- KEYLOAD: operands p, slot, peer, PANY, the length of the blob and the blob as a number. -/
def execKeyload (s : State) : Out :=
  let p := s.arg 0
  let i := s.arg 1
  let peer := s.arg 2 % 65536
  let any := s.arg 3 % 2 == 1
  match Config.unwrapKey s.mg.kaGen i p peer any (toLE (s.arg 4) (s.arg 5)) with
  | none => s.command false fun s => s
  | some key =>
    s.command (s.holdsKey p i && (s.keySlot i).st == 0) fun s => s.setKey i { st := 1, part := p, peer := peer, pany := any, key := key, cnt := 0 }
/-- PROMOTE: operands p and slot. Any other ACTIVE slot of the same PART, PEER and PANY becomes RECEIVE. -/
def execPromote (s : State) : Out :=
  let i := s.arg 1
  let k := s.keySlot i
  s.command (s.holdsKey (s.arg 0) i && k.st == 1) fun s =>
    let same (x : KeySlot) : Bool := x.st == 2 && x.part == k.part && x.peer == k.peer && x.pany == k.pany
    let keys := Tab.mapV KeySlot.zero (fun x => if same x then { x with st := 1 } else x) s.mg.keys
    ({ s with mg := { s.mg with keys := keys } } : State).setKey i { k with st := 2 }
/-- RETIRE: operands p and slot. -/
def execRetire (s : State) : Out := s.command (s.holdsKey (s.arg 0) (s.arg 1)) fun s => s.setKey (s.arg 1) KeySlot.zero

/-! ### Attestation (R153) -/

/-- The units of a partition in the order of R149: its ASIDs, by number from 100,000, stand before its windows. -/
def State.reportUnits (s : State) (p : Nat) : List Nat :=
  let us := s.unitsOf p
  us.filter (fun u => decide (u < 10000)) ++ (s.asidsOf p).map (100000 + ·) ++ us.filter fun u => decide (10000 ≤ u)
/-- Bytes 0 to 423 of the report for a nonce and a partition, or 0xFFFF (R153). -/
def State.report (s : State) (nonce p : Nat) : List Byte :=
  let fit (n : Nat) (bs : List Byte) : List Byte := (bs ++ zeros n).take n
  let cfg := s.mg.cfg
  toLE 4 0x52545441 ++ toLE 4 1 ++ toLE 64 nonce ++ fit 64 (sha512 (s.mg.fw.flatMap (·.bytes))) ++
  fit 64 ((cfg.map Cfg.digest).getD []) ++ toLE 8 ((cfg.map Cfg.seq).getD 0).toNat ++ toLE 8 ((cfg.map Cfg.serial).getD 0).toNat ++
  toLE 2 s.mg.node.toNat ++ toLE 2 p ++ zeros 4 ++
  (if p = 0xFFFF then zeros 64 else fit 64 (sha512 (Config.unitList (s.reportUnits p)))) ++
  fit 133 (Config.agreementKey s.mg.kaGen) ++ zeros 3
/-- ATTEST: operands nonce and partition, 0xFFFF for none (R153). -/
def execAttest (s : State) : Out :=
  s.hostReq fun s =>
    let p := s.arg 1
    if 16 ≤ p ∧ p ≠ 0xFFFF then s.refused
    else
      let r := s.report (s.arg 0) p
      s.hostDone 0 (r ++ (Config.identitySign r ++ zeros 132).take 132)

end Sys2Proof.Machine
end

