-- ==== Sys2Proof/Machine/BringUp.lean ====
section
/-!
DEFINITION. Bring-up, configuration, power, clocks and ports (R44, R48 to R56, R58, R152, R266).
-/
namespace Sys2Proof.Machine

/-! ### MODSTATUS (R54) -/

/-- PHASE. -/
def State.bootPhase (s : State) : Nat := nfld s.mg.modstatus.toNat 18 16
/-- MODSTATUS with bits hi to lo replaced. -/
def State.setStatus (s : State) (hi lo v : Nat) : State :=
  { s with mg := { s.mg with modstatus := BitVec.ofNat 32 (setFld s.mg.modstatus.toNat hi lo v) } }
/-- A change of a FABRIC_READY bit: the bit, the event to the host, and, once READY has been entered, boot firmware's fabric event for each later
change, in FAILED too (R56, R58, R87). R87 lists no kind for a fabric event: the model gives it a host message of its own, outside the rings (log
66). -/
def State.portBit (s : State) (d : Nat) (up : Bool) (e : EvRec) : State :=
  let t := (s.setStatus (25 - d) (25 - d) up.toNat).raiseRing 1 e
  if t.ready ∨ t.lost then { t with mg := { t.mg with hostOut := t.mg.hostOut ++ [.fabric d up] } } else t
/-- PORT_DOWN for a port: its bit clears, the packets in its output buffers are discarded and counted, and a LINK record is made; pebbles
that wait for the exit park (R58, R69). -/
def State.takePortDown (s : State) (d : Nat) : State :=
  let lost := s.router.outq.filter fun o => o.dir == d && !o.pkt.isPebble
  let t : State := { s with router := { s.router with outq := s.router.outq.filter fun o => !(o.dir == d && !o.pkt.isPebble) } }
  (t.portBit d false { kind := 3, port := d, arg0 := lost.length }).logErr (portRing d) { kind := 8, unit := 0x80, port := d, arg0 := lost.length }
/-- What entering FAILED from READY stops and loses: the scheduler, every core and engine, the node router, every port, and the page moves under way
(R54). -/
def State.stopAll (s : State) : State :=
  let t := (List.range 6).foldl (fun t d => if t.portUp d then t.takePortDown d else t) s
  let quiet (x : Part) : Part := { x with inv := none, events := [], decs := [], slots := [], resync := false }
  let u : State :=
    { t with teams := [], cores := Tab.mapV Core.zero Core.freed t.cores, parts := Tab.mapV Part.zero quiet t.parts,
             router := { Router.zero with parks := t.router.parks },
             gate := { Gateway.zero with lists := t.gate.lists, rot := t.gate.rot, ancient := t.gate.ancient },
             msys := { t.msys with flights := [], shoots := [], moves := [], migs := [] } }
  if u.mg.hostWait.isSome then u.hostDone 1 [] else u
/-- The module enters FAILED with the first failing unit and its code (R54). -/
def State.enterFailed (s : State) (unit code : Nat) : State :=
  if s.bootPhase = 5 then s
  else
    let t := if s.ready then s.stopAll else s
    ((((t.setStatus 31 31 0).setStatus 19 19 1).setStatus 18 16 5).setStatus 15 8 unit).setStatus 7 0 code
/-- READY is entered when the last of its conditions is met (R54, R56). R87 lists no kind for the READY event: the model gives it a host message of
its own, outside the rings (log 66). -/
def State.tryReady (s : State) : State :=
  if s.bootPhase = 3 ∧ nfld s.mg.modstatus.toNat 30 26 = 31 then
    let t := (s.setStatus 18 16 4).setStatus 31 31 1
    { t with mg := { t.mg with hostOut := t.mg.hostOut ++ [.ready] } }
  else s

/-! ### Reset and firmware (R52, R152) -/

/-- MODULE_RESET: reset is asserted. Only flash, the firmware and its lowest version, and the count of key-agreement pairs outlast it (R52, R53,
R78, R153). -/
def execModuleReset (s : State) : Out :=
  .next { State.reset with
    turns := s.turns, args := s.args, core := s.core, eng := s.eng, pol := s.pol, fresh := s.fresh, nextId := s.nextId,
    mem := s.mem.filter fun e => decide (flashKey 0 ≤ e.1), marks := s.marks.filter fun e => decide (flashKey 0 ≤ 8 * e.1),
    mg := { Mgmt.zero with fw := s.mg.fw, fwMin := s.mg.fwMin, kaGen := s.mg.kaGen } }
/-- RESET_RELEASE: the security processor begins to verify the firmware, and a fresh key-agreement pair stands (R152, R153). -/
def execResetRelease (s : State) : Out :=
  .next (if s.bootPhase ≠ 0 ∨ s.mg.released then s else { s with mg := { s.mg with released := true, kaGen := s.mg.kaGen + 1 } })
/-- FIRMWARE_VERIFIED: every image verifies and is not older than the lowest version accepted, and CONFIG begins; or bring-up fails (R152,
R52). -/
def execFirmwareVerified (s : State) : Out :=
  .next (
    if s.bootPhase ≠ 0 ∨ !s.mg.released then s
    else if s.mg.fw.all fun i => rootVerifies i.bytes i.sig && decide (s.mg.fwMin ≤ i.version) then s.setStatus 18 16 1
    else s.enterFailed 0x10 4)

/-- A signed command raises the lowest version that is accepted; one that does not verify, or would lower it, has no effect (R152). The spec gives the
command no form and names no key for it: the root key signs it here, and the version that its bytes name is a free value (log 6). -/
def State.raiseMin (s : State) (command sig : List Byte) : State :=
  if rootVerifies command sig then { s with mg := { s.mg with fwMin := max s.mg.fwMin (Config.commandVersion command) } } else s

/-! ### Configuration records (R49 to R51) -/

/-- A configuration record as it is read: its kind, whether its reserved fields, length and place are legal, its SEQ, its payload, and whether its
signature verifies. -/
structure CfgRec where
  kind : Nat
  legal : Bool
  seq : Nat
  payload : List Byte
  signed : Bool
  deriving DecidableEq, Repr
/-- The records of the area whose first byte has key base, from offset o; fuel bounds them. A record that does not fit in its area ends it. -/
def State.cfgRecords (s : State) (base : Nat) : Nat → Nat → List CfgRec
  | 0, _ => []
  | f + 1, o =>
    let k := base + o
    if 0x100000 < o + 24 ∨ s.readN k 4 ≠ 0x43524647 then []
    else
      let len := s.readN (k + 8) 4
      let fits := decide (o + 24 + len + 132 ≤ 0x100000)
      let head := s.readB k (24 + len)
      let legal := s.readN (k + 6) 2 == 0 && s.readN (k + 12) 4 == 0 && decide (len ≤ 65536) && len % 8 == 0 && fits
      let key := s.mg.fw.flatMap (·.bytes)
      let r : CfgRec :=
        { kind := s.readN (k + 4) 2, legal := legal, seq := s.readN (k + 16) 8, payload := if fits then head.drop 24 else [],
          signed := fits && configVerifies key head (s.readB (k + 24 + len) 132) }
      r :: (if fits then s.cfgRecords base f (o + 24 + len + 132) else [])
/-- The records of area A (0) or B (1). -/
def State.cfgArea (s : State) (area : Nat) : List CfgRec := s.cfgRecords (flashKey (0x100000 * area)) 0x2000 0
/-- Field k of the record of a kind; none where the area has no such record. -/
def cfgField (rs : List CfgRec) (kind k : Nat) : Option Nat := (rs.find? (·.kind == kind)).map fun r => Config.configField kind k r.payload
/-- Whether the stated values of an area are in their ranges: the power limit, the clock floor of at least 350 MHz, MIGMAX and MIGTHRESH (R51,
R270). -/
def cfgRanges (rs : List CfgRec) : Bool :=
  let within (kind k lo hi : Nat) : Bool := match cfgField rs kind k with | some v => decide (lo ≤ v) && decide (v ≤ hi) | none => true
  let floorOk : Bool := match cfgField rs 3 1 with | some v => decide (350 ≤ v) | none => true
  within 3 0 0 6600 && floorOk && within 4 0 0 63 && within 6 0 1 15 && within 6 1 1 65535 &&
  rs.all fun r => Config.configInRange r.kind r.payload
/-- Whether an area all of whose records verify is valid (R50 step 2, R51). -/
def cfgSound (rs : List CfgRec) : Bool :=
  let kinds := rs.map (·.kind)
  rs.all (fun r => r.legal && decide (1 ≤ r.kind) && decide (r.kind ≤ 7)) && decide kinds.Nodup && [1, 2, 3].all kinds.contains &&
  rs.all (fun r => some r.seq == (rs.head?).map (·.seq)) && cfgRanges rs
/-- Whether an area is valid (R50). -/
def cfgValid (rs : List CfgRec) : Bool := rs.all (·.signed) && cfgSound rs
/-- SEQ of an area. -/
def cfgSeq (rs : List CfgRec) : Nat := ((rs.head?).map (·.seq)).getD 0
/-- The bytes of an area's records. -/
def State.cfgBytes (s : State) (area : Nat) (rs : List CfgRec) : List Byte :=
  s.readB (flashKey (0x100000 * area)) ((rs.map fun r => r.payload.length + 156).sum)
/-- A valid area is applied, and CALIBRATE begins (R50, R51, R52). -/
def State.applyCfg (s : State) (area : Nat) (rs : List CfgRec) : State :=
  let c : Cfg :=
    { area := area, seq := w64 (cfgSeq rs), powerLimit := (cfgField rs 3 0).getD 6600, floor := (cfgField rs 3 1).getD 350,
      ports := BitVec.ofNat 6 ((cfgField rs 4 0).getD 63), migmax := (cfgField rs 6 0).getD 3, migthresh := (cfgField rs 6 1).getD 64,
      serial := w64 ((cfgField rs 1 0).getD 0), digest := sha512 (s.cfgBytes area rs) }
  let t : State := { s with mg := { s.mg with cfg := some c, node := BitVec.ofNat 16 ((cfgField rs 1 2).getD 0) } }
  (t.setStatus 30 30 1).setStatus 18 16 2
/-- A CONFIG record about an area in the hub die's error-log ring: ARG0 is the area (R50, R306). The spec gives its kind and ring alone: SEV 1 and
UNIT 0x80, and that a rejected area and an area B of equal SEQ have the same record, are the model's (log 67). -/
def State.logCfg (s : State) (area : Nat) : State := s.logErr 16 { kind := 9, unit := 0x80, arg0 := area }
/-- CONFIG: the valid area with the larger SEQ is applied, area A for equal ones; the other is logged where it is rejected or equal. With no valid
area bring-up fails (R50). -/
def execConfigApply (s : State) : Out :=
  .next (
    let a := s.cfgArea 0
    let b := s.cfgArea 1
    if s.bootPhase ≠ 1 then s
    else
      match cfgValid a, cfgValid b with
      | true, true =>
        if cfgSeq a < cfgSeq b then s.applyCfg 1 b else if cfgSeq a = cfgSeq b then (s.logCfg 1).applyCfg 0 a else s.applyCfg 0 a
      | true, false => (s.logCfg 1).applyCfg 0 a
      | false, true => (s.logCfg 0).applyCfg 1 b
      | false, false => s.enterFailed 0xF0 (if a.all (·.signed) && b.all (·.signed) then 5 else 4))

/-! ### Calibration and memory initialisation (R52, R53) -/

/-- A step of bring-up that ends in success, or with args[0] = u + 1 in the failure of unit u with a code (R54). -/
def State.bootStep (s : State) (code : Nat) (done : State → State) : State :=
  match s.arg 0 with
  | 0 => done s
  | u + 1 => s.enterFailed u code
/-- CAL_DONE: every PHY but the torus ports is trained and bedrock refresh calibrated, and MEMINIT begins (R52). -/
def execCalDone (s : State) : Out :=
  .next (if s.bootPhase ≠ 2 then s else s.bootStep 1 fun s => (s.setStatus 29 29 1).setStatus 18 16 3)
/-- HBM_READY: all HBM holds zero with valid check bits (R53). -/
def execHbmReady (s : State) : Out :=
  .next (
    if s.bootPhase ≠ 3 ∨ s.mg.modstatus.getLsbD 28 then s
    else s.bootStep 2 fun s => ((s.zeroMem 0 (2 ^ 41)).setStatus 28 28 1).tryReady)
/-- LP_READY: all of the LP tier holds zero with valid check bits (R53). -/
def execLpReady (s : State) : Out :=
  .next (
    if s.bootPhase ≠ 3 ∨ s.mg.modstatus.getLsbD 27 then s
    else s.bootStep 2 fun s => ((s.zeroMem (2 ^ 42) (2 ^ 42)).setStatus 27 27 1).tryReady)
/-- BEDROCK_READY: the bedrocks, every scratchpad, the router's windows and counters, the register files, tiles and planes hold zero (R53). -/
def execBedrockReady (s : State) : Out :=
  .next (
    if s.bootPhase ≠ 3 ∨ s.mg.modstatus.getLsbD 26 then s
    else
      s.bootStep 2 fun s =>
        let t := (((s.zeroMem (2 ^ 43) (2 ^ 32)).zeroMem (spadKey 0 0) (2 ^ 30)).zeroMem (mgKey 0x20200000) 0x40000).zeroMem (mgKey 0x30000000)
          0x400000
        let u : State := { t with cores := Tab.mapV Core.zero (fun c => { Core.zero with halted := c.halted, brk := c.brk }) t.cores }
        (u.setStatus 26 26 1).tryReady)

/-! ### Failures (R54, R44) -/

/-- The unit that a rail feeds: 0 to 15 the core rails of the compute dies, 16 to 31 their HBM rails, 32 the hub die's, 33 the LP tier's
(R54). -/
def railUnit (r : Nat) : Nat := if r < 16 then r else if r < 32 then 0x20 + 2 * (r - 16) else if r = 32 then 0x10 else 0x40
/-- RAIL_FAULT: the rail args[0] fails, in any phase (R54). -/
def execRailFault (s : State) : Out := .next (if 33 < s.arg 0 then s else s.enterFailed (railUnit (s.arg 0)) 3)
/-- Whether a number names a unit that FAILUNIT can name in READY (R54). -/
def isFailUnit (u : Nat) : Bool := decide (u ≤ 0x10) || decide (0x20 ≤ u) && decide (u < 0x60)
/-- UNIT_FAILED: the unit args[0] can no longer serve in READY (R54). -/
def execUnitFailed (s : State) : Out := .next (if s.ready ∧ isFailUnit (s.arg 0) then s.enterFailed (s.arg 0) 6 else s)
/-- UCIE_LINK_FAILED: the link of die args[0] to die args[1] (16 the hub die) is marked failed in the die's error-log ring, and its traffic goes
through the hub die until the next module reset (R44). The spec gives the record's kind and ring alone: SEV 2, UNIT 21 (the die gateway) and
ARG0, the other die, are the model's (log 67). -/
def execUcieLinkFailed (s : State) : Out :=
  .next (
    let a := s.arg 0
    let b := s.arg 1
    if 16 ≤ a ∨ 16 < b ∨ a = b ∨ s.mg.linksDown.contains (17 * a + b) then s
    else
      let t : State := { s with mg := { s.mg with linksDown := s.mg.linksDown ++ [17 * a + b] } }
      t.logErr a { kind := 8, sev := 2, unit := 21, arg0 := b })

/-! ### Clocks, ports, gating and halting (R48, R52, R58, R266) -/

/-- CLOCK_STEP: the arithmetic clock of all compute dies falls (args[0] = 0) or rises by 25 MHz, within the floor and 700 MHz (R47, R48). -/
def execClockStep (s : State) : Out :=
  .next (
    let floor := max 350 ((s.mg.cfg.map Cfg.floor).getD 350)
    let c := s.mg.clock
    if s.arg 0 = 0 then (if floor + 25 ≤ c then { s with mg := { s.mg with clock := c - 25 } } else s)
    else if c + 25 ≤ 700 then { s with mg := { s.mg with clock := c + 25 } }
    else s)
/-- PORT_UP: port args[0] finishes training with a live neighbour, in any phase from CALIBRATE on, FAILED included, unless a record disables it;
every flow of this node then owes a SYN, and both sides of each channel begin with every credit (R52, R54, R58, R64, R78). -/
def execPortUp (s : State) : Out :=
  .next (
    let d := s.arg 0
    let on := ((s.mg.cfg.map Cfg.ports).getD 0).getLsbD (5 - d)
    if 6 ≤ d ∨ s.portUp d ∨ s.bootPhase < 2 ∨ !on then s
    else
      let used := s.router.used.filter fun e => e.1 / 8 != d
      let freed := s.router.freed.filter fun e => e.1 / 8 != d
      let t : State := { s with router := { s.router with used := used, freed := freed },
                                gate := { s.gate with flowsOut := s.gate.flowsOut.map fun f => { f with syn := true } } }
      t.portBit d true { kind := 4, port := d })
/-- PORT_DOWN: a flit of port args[0] has failed 16 consecutive retries (R58). -/
def execPortDown (s : State) : Out := .next (if s.portUp (s.arg 0) then s.takePortDown (s.arg 0) else s)
/-- CORE_POWER_GATE: the core args[0], which holds no strand, is gated; it holds no extents (R266). -/
def execCorePowerGate (s : State) : Out :=
  .next (
    let c := s.arg 0
    if 256 ≤ c ∨ (s.teams.any fun t => t.holds && t.cores.contains c) then s else s.modCore c fun x => { x with gated := true })
/-- DEBUG_HALT: a debugger halts core args[0]; its die's translation agent runs on (R266). -/
def execDebugHalt (s : State) : Out := .next (if 256 ≤ s.arg 0 then s else s.modCore (s.arg 0) fun x => { x with halted := true })

end Sys2Proof.Machine
end

