-- ==== Sys2Proof/Machine/Dispatch.lean ====
section
/-!
DEFINITION. One arm for each instruction: a direct call of its meaning.
-/
namespace Sys2Proof.Machine

/-- What an instruction, operation or step does. -/
def exec (i : Instr) (s : State) : Host.Outcome State Fault Refusal :=
  match i with
  | .moduleReset => Sys2Proof.Machine.execModuleReset s
  | .resetRelease => Sys2Proof.Machine.execResetRelease s
  | .firmwareVerified => Sys2Proof.Machine.execFirmwareVerified s
  | .configApply => Sys2Proof.Machine.execConfigApply s
  | .calDone => Sys2Proof.Machine.execCalDone s
  | .hbmReady => Sys2Proof.Machine.execHbmReady s
  | .lpReady => Sys2Proof.Machine.execLpReady s
  | .bedrockReady => Sys2Proof.Machine.execBedrockReady s
  | .railFault => Sys2Proof.Machine.execRailFault s
  | .unitFailed => Sys2Proof.Machine.execUnitFailed s
  | .ucieLinkFailed => Sys2Proof.Machine.execUcieLinkFailed s
  | .clockStep => Sys2Proof.Machine.execClockStep s
  | .portUp => Sys2Proof.Machine.execPortUp s
  | .portDown => Sys2Proof.Machine.execPortDown s
  | .packageGatewayEgress => Sys2Proof.Machine.execPackageGatewayEgress s
  | .routePacket => Sys2Proof.Machine.execRoutePacket s
  | .multicastBranch => Sys2Proof.Machine.execMulticastBranch s
  | .ingressRequest => Sys2Proof.Machine.execIngressRequest s
  | .writePacket => Sys2Proof.Machine.execWritePacket s
  | .readPacket => Sys2Proof.Machine.execReadPacket s
  | .amoPacket => Sys2Proof.Machine.execAmoPacket s
  | .flushPacket => Sys2Proof.Machine.execFlushPacket s
  | .eventPacket => Sys2Proof.Machine.execEventPacket s
  | .readResp => Sys2Proof.Machine.execReadResp s
  | .amoResp => Sys2Proof.Machine.execAmoResp s
  | .ackPacket => Sys2Proof.Machine.execAckPacket s
  | .nackPacket => Sys2Proof.Machine.execNackPacket s
  | .flushAck => Sys2Proof.Machine.execFlushAck s
  | .ackHoldExpiry => Sys2Proof.Machine.execAckHoldExpiry s
  | .retransmit => Sys2Proof.Machine.execRetransmit s
  | .retryBackoff => Sys2Proof.Machine.execRetryBackoff s
  | .holdTimeout => Sys2Proof.Machine.execHoldTimeout s
  | .combiningArrival => Sys2Proof.Machine.execCombiningArrival s
  | .combiningSlotClose => Sys2Proof.Machine.execCombiningSlotClose s
  | .decombiningRecordExpiry => Sys2Proof.Machine.execDecombiningRecordExpiry s
  | .decombine => Sys2Proof.Machine.execDecombine s
  | .pebbleExitTimeout => Sys2Proof.Machine.execPebbleExitTimeout s
  | .pebbleVisit => Sys2Proof.Machine.execPebbleVisit s
  | .stepBudget => Sys2Proof.Machine.execStepBudget s
  | .kill => Sys2Proof.Machine.execKill s
  | .pushi i0 => Sys2Proof.Machine.execPushi i0 s
  | .pushk n => Sys2Proof.Machine.execPushk n s
  | .popk n => Sys2Proof.Machine.execPopk n s
  | .addk n => Sys2Proof.Machine.execAddk n s
  | .dup => Sys2Proof.Machine.execDup s
  | .swap => Sys2Proof.Machine.execSwap s
  | .pebbleDrop => Sys2Proof.Machine.execPebbleDrop s
  | .pebbleAdd => Sys2Proof.Machine.execPebbleAdd s
  | .pebbleSub => Sys2Proof.Machine.execPebbleSub s
  | .pebbleAnd => Sys2Proof.Machine.execPebbleAnd s
  | .pebbleOr => Sys2Proof.Machine.execPebbleOr s
  | .pebbleXor => Sys2Proof.Machine.execPebbleXor s
  | .pebbleShl => Sys2Proof.Machine.execPebbleShl s
  | .pebbleCmpeq => Sys2Proof.Machine.execPebbleCmpeq s
  | .pebbleCmplt => Sys2Proof.Machine.execPebbleCmplt s
  | .pebbleBz d => Sys2Proof.Machine.execPebbleBz d s
  | .pebbleBnz d => Sys2Proof.Machine.execPebbleBnz d s
  | .ldr => Sys2Proof.Machine.execLdr s
  | .addr => Sys2Proof.Machine.execAddr s
  | .ctr n => Sys2Proof.Machine.execCtr n s
  | .ctrinc n => Sys2Proof.Machine.execCtrinc n s
  | .coord sel => Sys2Proof.Machine.execCoord sel s
  | .hop => Sys2Proof.Machine.execHop s
  | .loadCount d => Sys2Proof.Machine.execLoadCount d s
  | .fwd d => Sys2Proof.Machine.execFwd d s
  | .clone m => Sys2Proof.Machine.execClone m s
  | .deliver => Sys2Proof.Machine.execDeliver s
  | .park => Sys2Proof.Machine.execPark s
  | .slateInvocation => Sys2Proof.Machine.execSlateInvocation s
  | .budget => Sys2Proof.Machine.execBudget s
  | .tick => Sys2Proof.Machine.execTick s
  | .slateSwap => Sys2Proof.Machine.execSlateSwap s
  | .ldv d a x k c => Sys2Proof.Machine.execLdv d a x k c s
  | .ldm d a x c => Sys2Proof.Machine.execLdm d a x c s
  | .stm d a x c => Sys2Proof.Machine.execStm d a x c s
  | .argmax d a k n => Sys2Proof.Machine.execArgmax d a k n s
  | .brf a c d => Sys2Proof.Machine.execBrf a c d s
  | .slateLoop d l n => Sys2Proof.Machine.execSlateLoop d l n s
  | .endl => Sys2Proof.Machine.execEndl s
  | .emitDispatch d a => Sys2Proof.Machine.execEmitDispatch d a s
  | .emitPreempt d => Sys2Proof.Machine.execEmitPreempt d s
  | .emitShare d a => Sys2Proof.Machine.execEmitShare d a s
  | .emitFaultact d t => Sys2Proof.Machine.execEmitFaultact d t s
  | .slateRet => Sys2Proof.Machine.execSlateRet s
  | .slateAdd d a b => Sys2Proof.Machine.execSlateAdd d a b s
  | .slateAddImm d a i0 => Sys2Proof.Machine.execSlateAddImm d a i0 s
  | .slateSub d a b => Sys2Proof.Machine.execSlateSub d a b s
  | .slateSubImm d a i0 => Sys2Proof.Machine.execSlateSubImm d a i0 s
  | .slateMul d a b => Sys2Proof.Machine.execSlateMul d a b s
  | .slateMulImm d a i0 => Sys2Proof.Machine.execSlateMulImm d a i0 s
  | .slateAnd d a b => Sys2Proof.Machine.execSlateAnd d a b s
  | .slateAndImm d a i0 => Sys2Proof.Machine.execSlateAndImm d a i0 s
  | .slateOr d a b => Sys2Proof.Machine.execSlateOr d a b s
  | .slateOrImm d a i0 => Sys2Proof.Machine.execSlateOrImm d a i0 s
  | .slateXor d a b => Sys2Proof.Machine.execSlateXor d a b s
  | .slateXorImm d a i0 => Sys2Proof.Machine.execSlateXorImm d a i0 s
  | .slateShl d a b => Sys2Proof.Machine.execSlateShl d a b s
  | .slateShlImm d a i0 => Sys2Proof.Machine.execSlateShlImm d a i0 s
  | .slateShr d a b => Sys2Proof.Machine.execSlateShr d a b s
  | .slateShrImm d a i0 => Sys2Proof.Machine.execSlateShrImm d a i0 s
  | .slateMin d a b => Sys2Proof.Machine.execSlateMin d a b s
  | .slateMinImm d a i0 => Sys2Proof.Machine.execSlateMinImm d a i0 s
  | .slateMax d a b => Sys2Proof.Machine.execSlateMax d a b s
  | .slateMaxImm d a i0 => Sys2Proof.Machine.execSlateMaxImm d a i0 s
  | .slateCmplt d a b => Sys2Proof.Machine.execSlateCmplt d a b s
  | .slateCmpltImm d a i0 => Sys2Proof.Machine.execSlateCmpltImm d a i0 s
  | .slateCmpeq d a b => Sys2Proof.Machine.execSlateCmpeq d a b s
  | .slateCmpeqImm d a i0 => Sys2Proof.Machine.execSlateCmpeqImm d a i0 s
  | .slateSel d a b => Sys2Proof.Machine.execSlateSel d a b s
  | .slateSelImm d a i0 => Sys2Proof.Machine.execSlateSelImm d a i0 s
  | .strandStart => Sys2Proof.Machine.execStrandStart s
  | .teamSave => Sys2Proof.Machine.execTeamSave s
  | .teamRestore => Sys2Proof.Machine.execTeamRestore s
  | .recordRetire => Sys2Proof.Machine.execRecordRetire s
  | .taskCompletion => Sys2Proof.Machine.execTaskCompletion s
  | .quantumExpiry => Sys2Proof.Machine.execQuantumExpiry s
  | .strandFault => Sys2Proof.Machine.execStrandFault s
  | .engineCommandBegin => Sys2Proof.Machine.execEngineCommandBegin s
  | .engineCommandComplete => Sys2Proof.Machine.execEngineCommandComplete s
  | .replay => Sys2Proof.Machine.execReplay s
  | .bedrockRefresh => Sys2Proof.Machine.execBedrockRefresh s
  | .retranslation => Sys2Proof.Machine.execRetranslation s
  | .shootdownComplete => Sys2Proof.Machine.execShootdownComplete s
  | .migrationMove => Sys2Proof.Machine.execMigrationMove s
  | .moveComplete => Sys2Proof.Machine.execMoveComplete s
  | .copyOnWrite => Sys2Proof.Machine.execCopyOnWrite s
  | .mread => Sys2Proof.Machine.execMread s
  | .mwrite => Sys2Proof.Machine.execMwrite s
  | .mgmtrd => Sys2Proof.Machine.execMgmtrd s
  | .mgmtwr => Sys2Proof.Machine.execMgmtwr s
  | .pipelineEnable => Sys2Proof.Machine.execPipelineEnable s
  | .cons => Sys2Proof.Machine.execCons s
  | .elcons => Sys2Proof.Machine.execElcons s
  | .doorbell => Sys2Proof.Machine.execDoorbell s
  | .eventMessage => Sys2Proof.Machine.execEventMessage s
  | .pcreate => Sys2Proof.Machine.execPcreate s
  | .passign => Sys2Proof.Machine.execPassign s
  | .prelease => Sys2Proof.Machine.execPrelease s
  | .pstart => Sys2Proof.Machine.execPstart s
  | .pdestroy => Sys2Proof.Machine.execPdestroy s
  | .asidset => Sys2Proof.Machine.execAsidset s
  | .asidclr => Sys2Proof.Machine.execAsidclr s
  | .tenset => Sys2Proof.Machine.execTenset s
  | .tenclr => Sys2Proof.Machine.execTenclr s
  | .tenzero => Sys2Proof.Machine.execTenzero s
  | .openWindow => Sys2Proof.Machine.execOpenWindow s
  | .closeWindow => Sys2Proof.Machine.execCloseWindow s
  | .freeWindow => Sys2Proof.Machine.execFreeWindow s
  | .resumeParked => Sys2Proof.Machine.execResumeParked s
  | .redirectParked => Sys2Proof.Machine.execRedirectParked s
  | .dropParked => Sys2Proof.Machine.execDropParked s
  | .preemptreq => Sys2Proof.Machine.execPreemptreq s
  | .sload => Sys2Proof.Machine.execSload s
  | .tableCmd => Sys2Proof.Machine.execTableCmd s
  | .mapCmd => Sys2Proof.Machine.execMapCmd s
  | .unmap => Sys2Proof.Machine.execUnmap s
  | .protect => Sys2Proof.Machine.execProtect s
  | .mpool => Sys2Proof.Machine.execMpool s
  | .migclr => Sys2Proof.Machine.execMigclr s
  | .codebump => Sys2Proof.Machine.execCodebump s
  | .snaparm => Sys2Proof.Machine.execSnaparm s
  | .snapcommit => Sys2Proof.Machine.execSnapcommit s
  | .snapdrop => Sys2Proof.Machine.execSnapdrop s
  | .keyload => Sys2Proof.Machine.execKeyload s
  | .promote => Sys2Proof.Machine.execPromote s
  | .retire => Sys2Proof.Machine.execRetire s
  | .attest => Sys2Proof.Machine.execAttest s
  | .nop g => Sys2Proof.Machine.execNop g s
  | .add g sd sa sb => Sys2Proof.Machine.execAdd g sd sa sb s
  | .sub g sd sa sb => Sys2Proof.Machine.execSub g sd sa sb s
  | .mul g sd sa sb => Sys2Proof.Machine.execMul g sd sa sb s
  | .mulh g sd sa sb => Sys2Proof.Machine.execMulh g sd sa sb s
  | .mulhu g sd sa sb => Sys2Proof.Machine.execMulhu g sd sa sb s
  | .div g sd sa sb => Sys2Proof.Machine.execDiv g sd sa sb s
  | .divu g sd sa sb => Sys2Proof.Machine.execDivu g sd sa sb s
  | .rem g sd sa sb => Sys2Proof.Machine.execRem g sd sa sb s
  | .remu g sd sa sb => Sys2Proof.Machine.execRemu g sd sa sb s
  | .andR g sd sa sb => Sys2Proof.Machine.execAnd g sd sa sb s
  | .orR g sd sa sb => Sys2Proof.Machine.execOr g sd sa sb s
  | .xorR g sd sa sb => Sys2Proof.Machine.execXor g sd sa sb s
  | .andn g sd sa sb => Sys2Proof.Machine.execAndn g sd sa sb s
  | .shl g sd sa sb => Sys2Proof.Machine.execShl g sd sa sb s
  | .shr g sd sa sb => Sys2Proof.Machine.execShr g sd sa sb s
  | .sar g sd sa sb => Sys2Proof.Machine.execSar g sd sa sb s
  | .minR g sd sa sb => Sys2Proof.Machine.execMin g sd sa sb s
  | .maxR g sd sa sb => Sys2Proof.Machine.execMax g sd sa sb s
  | .minu g sd sa sb => Sys2Proof.Machine.execMinu g sd sa sb s
  | .maxu g sd sa sb => Sys2Proof.Machine.execMaxu g sd sa sb s
  | .clz g sd sa => Sys2Proof.Machine.execClz g sd sa s
  | .ctz g sd sa => Sys2Proof.Machine.execCtz g sd sa s
  | .popc g sd sa => Sys2Proof.Machine.execPopc g sd sa s
  | .ext g sd sa x => Sys2Proof.Machine.execExt g sd sa x s
  | .sel g sd sa sb pa => Sys2Proof.Machine.execSel g sd sa sb pa s
  | .cmp g c sa sb pd => Sys2Proof.Machine.execCmp g c sa sb pd s
  | .madd g sd sa sb sc => Sys2Proof.Machine.execMadd g sd sa sb sc s
  | .pand g pd pa pb => Sys2Proof.Machine.execPand g pd pa pb s
  | .por g pd pa pb => Sys2Proof.Machine.execPor g pd pa pb s
  | .pxor g pd pa pb => Sys2Proof.Machine.execPxor g pd pa pb s
  | .pnot g pd pa => Sys2Proof.Machine.execPnot g pd pa s
  | .pget g sd => Sys2Proof.Machine.execPget g sd s
  | .pset g sa => Sys2Proof.Machine.execPset g sa s
  | .addImm g sd sa imm => Sys2Proof.Machine.execAddImm g sd sa imm s
  | .subImm g sd sa imm => Sys2Proof.Machine.execSubImm g sd sa imm s
  | .mulImm g sd sa imm => Sys2Proof.Machine.execMulImm g sd sa imm s
  | .andImm g sd sa imm => Sys2Proof.Machine.execAndImm g sd sa imm s
  | .orImm g sd sa imm => Sys2Proof.Machine.execOrImm g sd sa imm s
  | .xorImm g sd sa imm => Sys2Proof.Machine.execXorImm g sd sa imm s
  | .shlImm g sd sa imm => Sys2Proof.Machine.execShlImm g sd sa imm s
  | .shrImm g sd sa imm => Sys2Proof.Machine.execShrImm g sd sa imm s
  | .sarImm g sd sa imm => Sys2Proof.Machine.execSarImm g sd sa imm s
  | .minImm g sd sa imm => Sys2Proof.Machine.execMinImm g sd sa imm s
  | .maxImm g sd sa imm => Sys2Proof.Machine.execMaxImm g sd sa imm s
  | .minuImm g sd sa imm => Sys2Proof.Machine.execMinuImm g sd sa imm s
  | .maxuImm g sd sa imm => Sys2Proof.Machine.execMaxuImm g sd sa imm s
  | .cmpImm g c sa pd imm => Sys2Proof.Machine.execCmpImm g c sa pd imm s
  | .sppeer g sd sa imm => Sys2Proof.Machine.execSppeer g sd sa imm s
  | .addpc g sd imm => Sys2Proof.Machine.execAddpc g sd imm s
  | .lds g k sd sa imm => Sys2Proof.Machine.execLds g k sd sa imm s
  | .sts g k sd sa imm => Sys2Proof.Machine.execSts g k sd sa imm s
  | .ldg g k sd sa imm => Sys2Proof.Machine.execLdg g k sd sa imm s
  | .stg g k sd sa imm => Sys2Proof.Machine.execStg g k sd sa imm s
  | .loadReturn => Sys2Proof.Machine.execLoadReturn s
  | .br g disp => Sys2Proof.Machine.execBr g disp s
  | .bz g sa disp => Sys2Proof.Machine.execBz g sa disp s
  | .bnz g sa disp => Sys2Proof.Machine.execBnz g sa disp s
  | .brmz g disp => Sys2Proof.Machine.execBrmz g disp s
  | .call g disp => Sys2Proof.Machine.execCall g disp s
  | .callr g sa => Sys2Proof.Machine.execCallr g sa s
  | .ret g => Sys2Proof.Machine.execRet g s
  | .jr g sa => Sys2Proof.Machine.execJr g sa s
  | .loop g sa disp => Sys2Proof.Machine.execLoop g sa disp s
  | .loopq g disp => Sys2Proof.Machine.execLoopq g disp s
  | .exit g => Sys2Proof.Machine.execExit g s
  | .strandEnd => Sys2Proof.Machine.execStrandEnd s
  | .li g sd imm => Sys2Proof.Machine.execLi g sd imm s
  | .addx g sd sa imm => Sys2Proof.Machine.execAddx g sd sa imm s
  | .andx g sd sa imm => Sys2Proof.Machine.execAndx g sd sa imm s
  | .orx g sd sa imm => Sys2Proof.Machine.execOrx g sd sa imm s
  | .csrr g sd csr => Sys2Proof.Machine.execCsrr g sd csr s
  | .csrw g sa csr => Sys2Proof.Machine.execCsrw g sa csr s
  | .csrs g sa csr => Sys2Proof.Machine.execCsrs g sa csr s
  | .csrc g sa csr => Sys2Proof.Machine.execCsrc g sa csr s
  | .trap g imm => Sys2Proof.Machine.execTrap g imm s
  | .brk g imm => Sys2Proof.Machine.execBrk g imm s
  | .icinv g => Sys2Proof.Machine.execIcinv g s
  | .fmtpush g sa => Sys2Proof.Machine.execFmtpush g sa s
  | .pair g sop sd sa sb vop vd va vb => Sys2Proof.Machine.execPair g sop sd sa sb vop vd va vb s
  | .vadd g vd va vb ty rnd sat => Sys2Proof.Machine.execVadd g vd va vb ty rnd sat s
  | .vsub g vd va vb ty rnd sat => Sys2Proof.Machine.execVsub g vd va vb ty rnd sat s
  | .vmul g vd va vb ty rnd sat => Sys2Proof.Machine.execVmul g vd va vb ty rnd sat s
  | .vfma g vd va vb vc ty rnd sat => Sys2Proof.Machine.execVfma g vd va vb vc ty rnd sat s
  | .vmin g vd va vb ty => Sys2Proof.Machine.execVmin g vd va vb ty s
  | .vmax g vd va vb ty => Sys2Proof.Machine.execVmax g vd va vb ty s
  | .vabs g vd va ty sat => Sys2Proof.Machine.execVabs g vd va ty sat s
  | .vneg g vd va ty sat => Sys2Proof.Machine.execVneg g vd va ty sat s
  | .vand g vd va vb => Sys2Proof.Machine.execVand g vd va vb s
  | .vor g vd va vb => Sys2Proof.Machine.execVor g vd va vb s
  | .vxor g vd va vb => Sys2Proof.Machine.execVxor g vd va vb s
  | .vnot g vd va => Sys2Proof.Machine.execVnot g vd va s
  | .vshl g vd va vb ty => Sys2Proof.Machine.execVshl g vd va vb ty s
  | .vshr g vd va vb ty => Sys2Proof.Machine.execVshr g vd va vb ty s
  | .vsar g vd va vb ty => Sys2Proof.Machine.execVsar g vd va vb ty s
  | .vcmp g c vd va vb ty => Sys2Proof.Machine.execVcmp g c vd va vb ty s
  | .vsel g vd va vb vc ty => Sys2Proof.Machine.execVsel g vd va vb vc ty s
  | .vmov g vd va => Sys2Proof.Machine.execVmov g vd va s
  | .vcvt g vd va dst src rnd sat => Sys2Proof.Machine.execVcvt g vd va dst src rnd sat s
  | .vexp2 g vd va => Sys2Proof.Machine.execVexp2 g vd va s
  | .vlog2 g vd va => Sys2Proof.Machine.execVlog2 g vd va s
  | .vrcp g vd va ty rnd => Sys2Proof.Machine.execVrcp g vd va ty rnd s
  | .vrsq g vd va ty rnd => Sys2Proof.Machine.execVrsq g vd va ty rnd s
  | .vredadd g vd va ty rnd sat => Sys2Proof.Machine.execVredadd g vd va ty rnd sat s
  | .vredmax g vd va ty => Sys2Proof.Machine.execVredmax g vd va ty s
  | .vredmin g vd va ty => Sys2Proof.Machine.execVredmin g vd va ty s
  | .vlse2 g vd va => Sys2Proof.Machine.execVlse2 g vd va s
  | .vscan g vd va ty sat => Sys2Proof.Machine.execVscan g vd va ty sat s
  | .vhist g vd va ty => Sys2Proof.Machine.execVhist g vd va ty s
  | .vperm g vd va vb ty => Sys2Proof.Machine.execVperm g vd va vb ty s
  | .viota g vd ty => Sys2Proof.Machine.execViota g vd ty s
  | .vamax g vd va ty => Sys2Proof.Machine.execVamax g vd va ty s
  | .vscale g vd va ty rnd => Sys2Proof.Machine.execVscale g vd va ty rnd s
  | .vbexp g vd va => Sys2Proof.Machine.execVbexp g vd va s
  | .vtobi g vd va vb => Sys2Proof.Machine.execVtobi g vd va vb s
  | .vfrombi g vd va vb rnd sat => Sys2Proof.Machine.execVfrombi g vd va vb rnd sat s
  | .mpush g va => Sys2Proof.Machine.execMpush g va s
  | .minv g => Sys2Proof.Machine.execMinv g s
  | .mpop g => Sys2Proof.Machine.execMpop g s
  | .vaddScalar g vd va b ty rnd sat => Sys2Proof.Machine.execVaddScalar g vd va b ty rnd sat s
  | .vsubScalar g vd va b ty rnd sat => Sys2Proof.Machine.execVsubScalar g vd va b ty rnd sat s
  | .vmulScalar g vd va b ty rnd sat => Sys2Proof.Machine.execVmulScalar g vd va b ty rnd sat s
  | .vminScalar g vd va b ty => Sys2Proof.Machine.execVminScalar g vd va b ty s
  | .vmaxScalar g vd va b ty => Sys2Proof.Machine.execVmaxScalar g vd va b ty s
  | .vandScalar g vd va b ty => Sys2Proof.Machine.execVandScalar g vd va b ty s
  | .vorScalar g vd va b ty => Sys2Proof.Machine.execVorScalar g vd va b ty s
  | .vxorScalar g vd va b ty => Sys2Proof.Machine.execVxorScalar g vd va b ty s
  | .vshlScalar g vd va b ty => Sys2Proof.Machine.execVshlScalar g vd va b ty s
  | .vshrScalar g vd va b ty => Sys2Proof.Machine.execVshrScalar g vd va b ty s
  | .vsarScalar g vd va b ty => Sys2Proof.Machine.execVsarScalar g vd va b ty s
  | .vcmpScalar g c vd va b ty => Sys2Proof.Machine.execVcmpScalar g c vd va b ty s
  | .vbcast g vd b ty => Sys2Proof.Machine.execVbcast g vd b ty s
  | .vld g vd sb imm => Sys2Proof.Machine.execVld g vd sb imm s
  | .vst g vd sb imm => Sys2Proof.Machine.execVst g vd sb imm s
  | .vldx g vd va sb imm => Sys2Proof.Machine.execVldx g vd va sb imm s
  | .vstx g vd va sb imm => Sys2Proof.Machine.execVstx g vd va sb imm s
  | .vextr g sb va lane ty => Sys2Proof.Machine.execVextr g sb va lane ty s
  | .vins g vd sb lane ty => Sys2Proof.Machine.execVins g vd sb lane ty s
  | .ldw g sa bed e ts => Sys2Proof.Machine.execLdw g sa bed e ts s
  | .wswap g e ts => Sys2Proof.Machine.execWswap g e ts s
  | .mm g td sa clr e ts => Sys2Proof.Machine.execMm g td sa clr e ts s
  | .mgroup g td sa sb sc e ts => Sys2Proof.Machine.execMgroup g td sa sb sc e ts s
  | .accz g td e ts => Sys2Proof.Machine.execAccz g td e ts s
  | .accld g td sa e ts => Sys2Proof.Machine.execAccld g td sa e ts s
  | .accwr g td sa sb e ts => Sys2Proof.Machine.execAccwr g td sa sb e ts s
  | .plnset g td sa e ts => Sys2Proof.Machine.execPlnset g td sa e ts s
  | .plnld g td sa e ts => Sys2Proof.Machine.execPlnld g td sa e ts s
  | .margset g sa sb e ts => Sys2Proof.Machine.execMargset g sa sb e ts s
  | .balance g sa e ts => Sys2Proof.Machine.execBalance g sa e ts s
  | .plnrd g td sa e ts => Sys2Proof.Machine.execPlnrd g td sa e ts s
  | .plnscl g sa sb e ts => Sys2Proof.Machine.execPlnscl g sa sb e ts s
  | .cpin g sd sa sl sbr e => Sys2Proof.Machine.execCpin g sd sa sl sbr e s
  | .cpinScl g sa sl e => Sys2Proof.Machine.execCpinScl g sa sl e s
  | .cqfill g sa sl e => Sys2Proof.Machine.execCqfill g sa sl e s
  | .cpgath g sd sa sl sbr e => Sys2Proof.Machine.execCpgath g sd sa sl sbr e s
  | .cpfill g sd sa sl sbr e => Sys2Proof.Machine.execCpfill g sd sa sl sbr e s
  | .cploc g sd sa sl sbr e => Sys2Proof.Machine.execCploc g sd sa sl sbr e s
  | .cpout g sd sa sl sbr e => Sys2Proof.Machine.execCpout g sd sa sl sbr e s
  | .cppeer g sd sa sl sbr e => Sys2Proof.Machine.execCppeer g sd sa sl sbr e s
  | .cpmc g sd sa sl sbr e => Sys2Proof.Machine.execCpmc g sd sa sl sbr e s
  | .cpscat g sd sa sl sbr e => Sys2Proof.Machine.execCpscat g sd sa sl sbr e s
  | .cpmem g sd sa sl sbr e => Sys2Proof.Machine.execCpmem g sd sa sl sbr e s
  | .amo g op ord w scope sd sa sb imm => Sys2Proof.Machine.execAmo g op ord w scope sd sa sb imm s
  | .amocas g ord w scope sd sa sb sc imm => Sys2Proof.Machine.execAmocas g ord w scope sd sa sb sc imm s
  | .amoReturn => Sys2Proof.Machine.execAmoReturn s
  | .fenceAcq g scope => Sys2Proof.Machine.execFenceAcq g scope s
  | .fenceRel g scope => Sys2Proof.Machine.execFenceRel g scope s
  | .fenceFull g scope => Sys2Proof.Machine.execFenceFull g scope s
  | .fenceDone => Sys2Proof.Machine.execFenceDone s
  | .flush g scope => Sys2Proof.Machine.execFlush g scope s
  | .flushDone => Sys2Proof.Machine.execFlushDone s
  | .qfence g qs => Sys2Proof.Machine.execQfence g qs s
  | .qfenceDone => Sys2Proof.Machine.execQfenceDone s
  | .qdrain g => Sys2Proof.Machine.execQdrain g s
  | .qdrainDone => Sys2Proof.Machine.execQdrainDone s
  | .tkpush g s7 => Sys2Proof.Machine.execTkpush g s7 s
  | .tkpop g s7 => Sys2Proof.Machine.execTkpop g s7 s
  | .tkpopDone => Sys2Proof.Machine.execTkpopDone s
  | .binit g sa sb sc => Sys2Proof.Machine.execBinit g sa sb sc s
  | .bexpect g sa sb => Sys2Proof.Machine.execBexpect g sa sb s
  | .barrive g scope sa sb => Sys2Proof.Machine.execBarrive g scope sa sb s
  | .barriveApplied => Sys2Proof.Machine.execBarriveApplied s
  | .bwait g ps pe sa sb => Sys2Proof.Machine.execBwait g ps pe sa sb s
  | .bwaitWake => Sys2Proof.Machine.execBwaitWake s
  | .bwaitout g sa => Sys2Proof.Machine.execBwaitout g sa s
  | .bwaitoutDone => Sys2Proof.Machine.execBwaitoutDone s
  | .bhandle g sd sa => Sys2Proof.Machine.execBhandle g sd sa s
  | .qput g sa q => Sys2Proof.Machine.execQput g sa q s
  | .qputReserve => Sys2Proof.Machine.execQputReserve s
  | .qputPublish => Sys2Proof.Machine.execQputPublish s
  | .semsig g scope sa sb => Sys2Proof.Machine.execSemsig g scope sa sb s
  | .capadd g sa sb => Sys2Proof.Machine.execCapadd g sa sb s
  | .capget g sd sa => Sys2Proof.Machine.execCapget g sd sa s
  | .capupd g => Sys2Proof.Machine.execCapupd g s
  | .cqpush g sa => Sys2Proof.Machine.execCqpush g sa s
  | .cqpushTeam g sa => Sys2Proof.Machine.execCqpushTeam g sa s
  | .pbuild g sd sa sb sc imm => Sys2Proof.Machine.execPbuild g sd sa sb sc imm s
  | .psend g sa sb sc dir => Sys2Proof.Machine.execPsend g sa sb sc dir s
  | .rwld g sd sa imm => Sys2Proof.Machine.execRwld g sd sa imm s
  | .rwst g sa sb imm => Sys2Proof.Machine.execRwst g sa sb imm s
  | .creditReturn => Sys2Proof.Machine.execCreditReturn s
  | .inPackageWrite => Sys2Proof.Machine.execInPackageWrite s
  | .semsigDone => Sys2Proof.Machine.execSemsigDone s
  | .capgetReturn => Sys2Proof.Machine.execCapgetReturn s
  | .icinvDone => Sys2Proof.Machine.execIcinvDone s
  | .corePowerGate => Sys2Proof.Machine.execCorePowerGate s
  | .debugHalt => Sys2Proof.Machine.execDebugHalt s

end Sys2Proof.Machine
end

