-- ==== Sys2Proof/Machine/Hazard.lean ====
section
/-!
DEFINITION. What holds a bundle back or stops it before it acts: registers it reads and writes against loads that are outstanding or have
failed, poison registers (R213, R219, R300, R301), and the checker core (R218, R303).
-/
namespace Sys2Proof.Machine

/-! ### Registers of a bundle

Scalar register r has number r and vector register r number 64 + r. -/

/-- The guard of a core instruction (R330). -/
def guardOf (i : Instr) : Option Guard :=
  match i with
  | .nop g | .add g _ _ _ | .sub g _ _ _ | .mul g _ _ _ | .mulh g _ _ _ | .mulhu g _ _ _ | .div g _ _ _ | .divu g _ _ _
    | .rem g _ _ _ | .remu g _ _ _ | .andR g _ _ _ | .orR g _ _ _ | .xorR g _ _ _ | .andn g _ _ _ | .shl g _ _ _ | .shr
    g _ _ _ | .sar g _ _ _ | .minR g _ _ _ | .maxR g _ _ _ | .minu g _ _ _ | .maxu g _ _ _ | .clz g _ _ | .ctz g _ _ |
    .popc g _ _ | .ext g _ _ _ | .sel g _ _ _ _ | .cmp g _ _ _ _ | .madd g _ _ _ _ | .pand g _ _ _ | .por g _ _ _ |
    .pxor g _ _ _ | .pnot g _ _ | .pget g _ | .pset g _ | .addImm g _ _ _ | .subImm g _ _ _ | .mulImm g _ _ _ | .andImm
    g _ _ _ | .orImm g _ _ _ | .xorImm g _ _ _ | .shlImm g _ _ _ | .shrImm g _ _ _ | .sarImm g _ _ _ | .minImm g _ _ _ |
    .maxImm g _ _ _ | .minuImm g _ _ _ | .maxuImm g _ _ _ | .cmpImm g _ _ _ _ | .sppeer g _ _ _ | .addpc g _ _ | .lds g
    _ _ _ _ | .sts g _ _ _ _ | .ldg g _ _ _ _ | .stg g _ _ _ _ | .br g _ | .bz g _ _ | .bnz g _ _ | .brmz g _ | .call g
    _ | .callr g _ | .ret g | .jr g _ | .loop g _ _ | .loopq g _ | .exit g | .li g _ _ | .addx g _ _ _ | .andx g _ _ _ |
    .orx g _ _ _ | .csrr g _ _ | .csrw g _ _ | .csrs g _ _ | .csrc g _ _ | .trap g _ | .brk g _ | .icinv g | .fmtpush g
    _ | .pair g _ _ _ _ _ _ _ _ | .vadd g _ _ _ _ _ _ | .vsub g _ _ _ _ _ _ | .vmul g _ _ _ _ _ _ | .vfma g _ _ _ _ _ _
    _ | .vmin g _ _ _ _ | .vmax g _ _ _ _ | .vabs g _ _ _ _ | .vneg g _ _ _ _ | .vand g _ _ _ | .vor g _ _ _ | .vxor g _
    _ _ | .vnot g _ _ | .vshl g _ _ _ _ | .vshr g _ _ _ _ | .vsar g _ _ _ _ | .vcmp g _ _ _ _ _ | .vsel g _ _ _ _ _ |
    .vmov g _ _ | .vcvt g _ _ _ _ _ _ | .vexp2 g _ _ | .vlog2 g _ _ | .vrcp g _ _ _ _ | .vrsq g _ _ _ _ | .vredadd g _ _
    _ _ _ | .vredmax g _ _ _ | .vredmin g _ _ _ | .vlse2 g _ _ | .vscan g _ _ _ _ | .vhist g _ _ _ | .vperm g _ _ _ _ |
    .viota g _ _ | .vamax g _ _ _ | .vscale g _ _ _ _ | .vbexp g _ _ | .vtobi g _ _ _ | .vfrombi g _ _ _ _ _ | .mpush g
    _ | .minv g | .mpop g | .vaddScalar g _ _ _ _ _ _ | .vsubScalar g _ _ _ _ _ _ | .vmulScalar g _ _ _ _ _ _ |
    .vminScalar g _ _ _ _ | .vmaxScalar g _ _ _ _ | .vandScalar g _ _ _ _ | .vorScalar g _ _ _ _ | .vxorScalar g _ _ _ _
    | .vshlScalar g _ _ _ _ | .vshrScalar g _ _ _ _ | .vsarScalar g _ _ _ _ | .vcmpScalar g _ _ _ _ _ | .vbcast g _ _ _
    | .vld g _ _ _ | .vst g _ _ _ | .vldx g _ _ _ _ | .vstx g _ _ _ _ | .vextr g _ _ _ _ | .vins g _ _ _ _ | .ldw g _ _
    _ _ | .wswap g _ _ | .mm g _ _ _ _ _ | .mgroup g _ _ _ _ _ _ | .accz g _ _ _ | .accld g _ _ _ _ | .accwr g _ _ _ _ _
    | .plnset g _ _ _ _ | .plnld g _ _ _ _ | .margset g _ _ _ _ | .balance g _ _ _ | .plnrd g _ _ _ _ | .plnscl g _ _ _
    _ | .cpin g _ _ _ _ _ | .cpinScl g _ _ _ | .cqfill g _ _ _ | .cpgath g _ _ _ _ _ | .cpfill g _ _ _ _ _ | .cploc g _
    _ _ _ _ | .cpout g _ _ _ _ _ | .cppeer g _ _ _ _ _ | .cpmc g _ _ _ _ _ | .cpscat g _ _ _ _ _ | .cpmem g _ _ _ _ _ |
    .amo g _ _ _ _ _ _ _ _ | .amocas g _ _ _ _ _ _ _ _ | .fenceAcq g _ | .fenceRel g _ | .fenceFull g _ | .flush g _ |
    .qfence g _ | .qdrain g | .tkpush g _ | .tkpop g _ | .binit g _ _ _ | .bexpect g _ _ | .barrive g _ _ _ | .bwait g _
    _ _ _ | .bwaitout g _ | .bhandle g _ _ | .qput g _ _ | .semsig g _ _ _ | .capadd g _ _ | .capget g _ _ | .capupd g |
    .cqpush g _ | .cqpushTeam g _ | .pbuild g _ _ _ _ _ | .psend g _ _ _ _ | .rwld g _ _ _ | .rwst g _ _ _ => some g
  | _ => none
/-- The register of a second operand. -/
def operandReg (b : SOperand) : List Nat :=
  match b with
  | .reg r => [r]
  | .imm _ => []
/-- The registers that a core instruction reads as operands. -/
def readsOf (i : Instr) : List Nat :=
  match i with
  | .add _ _ sa sb | .sub _ _ sa sb | .mul _ _ sa sb | .mulh _ _ sa sb | .mulhu _ _ sa sb | .div _ _ sa sb | .divu _ _
    sa sb | .rem _ _ sa sb | .remu _ _ sa sb | .andR _ _ sa sb | .orR _ _ sa sb | .xorR _ _ sa sb | .andn _ _ sa sb |
    .shl _ _ sa sb | .shr _ _ sa sb | .sar _ _ sa sb | .minR _ _ sa sb | .maxR _ _ sa sb | .minu _ _ sa sb | .maxu _ _
    sa sb | .sel _ _ sa sb _ | .cmp _ _ sa sb _ | .accwr _ _ sa sb _ _ | .margset _ sa sb _ _ | .plnscl _ sa sb _ _ |
    .amo _ _ _ _ _ _ sa sb _ | .bexpect _ sa sb | .barrive _ _ sa sb | .bwait _ _ _ sa sb | .semsig _ _ sa sb | .capadd
    _ sa sb | .rwst _ sa sb _ => [sa, sb]
  | .clz _ _ sa | .ctz _ _ sa | .popc _ _ sa | .ext _ _ sa _ | .pset _ sa | .addImm _ _ sa _ | .subImm _ _ sa _ |
    .mulImm _ _ sa _ | .andImm _ _ sa _ | .orImm _ _ sa _ | .xorImm _ _ sa _ | .shlImm _ _ sa _ | .shrImm _ _ sa _ |
    .sarImm _ _ sa _ | .minImm _ _ sa _ | .maxImm _ _ sa _ | .minuImm _ _ sa _ | .maxuImm _ _ sa _ | .cmpImm _ _ sa _ _
    | .sppeer _ _ sa _ | .lds _ _ _ sa _ | .ldg _ _ _ sa _ | .bz _ sa _ | .bnz _ sa _ | .callr _ sa | .jr _ sa | .loop _
    sa _ | .addx _ _ sa _ | .andx _ _ sa _ | .orx _ _ sa _ | .csrw _ sa _ | .csrs _ sa _ | .csrc _ sa _ | .fmtpush _ sa
    | .ldw _ sa _ _ _ | .mm _ _ sa _ _ _ | .accld _ _ sa _ _ | .plnset _ _ sa _ _ | .plnld _ _ sa _ _ | .balance _ sa _
    _ | .plnrd _ _ sa _ _ | .bwaitout _ sa | .bhandle _ _ sa | .qput _ sa _ | .capget _ _ sa | .cqpush _ sa |
    .cqpushTeam _ sa | .rwld _ _ sa _ => [sa]
  | .madd _ _ sa sb sc | .mgroup _ _ sa sb sc _ _ | .amocas _ _ _ _ _ sa sb sc _ | .binit _ sa sb sc | .psend _ sa sb sc
    _ => [sa, sb, sc]
  | .sts _ _ sd sa _ | .stg _ _ sd sa _ => [sd, sa]
  | .pair _ sop _ sa sb vop vd va vb =>
    (if sop = .nop then [] else [sa, sb]) ++ (if vop = .nop then [] else if vop = .mov then [64 + va]
      else if vop = .fmaF then [64 + va, 64 + vb, 64 + vd] else [64 + va, 64 + vb])
  | .vadd _ _ va vb _ _ _ | .vsub _ _ va vb _ _ _ | .vmul _ _ va vb _ _ _ | .vmin _ _ va vb _ | .vmax _ _ va vb _ |
    .vand _ _ va vb | .vor _ _ va vb | .vxor _ _ va vb | .vshl _ _ va vb _ | .vshr _ _ va vb _ | .vsar _ _ va vb _ |
    .vcmp _ _ _ va vb _ | .vperm _ _ va vb _ | .vtobi _ _ va vb | .vfrombi _ _ va vb _ _ => [64 + va, 64 + vb]
  | .vfma _ _ va vb vc _ _ _ | .vsel _ _ va vb vc _ => [64 + va, 64 + vb, 64 + vc]
  | .vabs _ _ va _ _ | .vneg _ _ va _ _ | .vnot _ _ va | .vmov _ _ va | .vcvt _ _ va _ _ _ _ | .vexp2 _ _ va | .vlog2 _
    _ va | .vrcp _ _ va _ _ | .vrsq _ _ va _ _ | .vredadd _ _ va _ _ _ | .vredmax _ _ va _ | .vredmin _ _ va _ | .vlse2
    _ _ va | .vscan _ _ va _ _ | .vamax _ _ va _ | .vscale _ _ va _ _ | .vbexp _ _ va | .mpush _ va |
    .vextr _ _ va _ _ => [64 + va]
  | .vaddScalar _ _ va b _ _ _ | .vsubScalar _ _ va b _ _ _ | .vmulScalar _ _ va b _ _ _ | .vminScalar _ _ va b _ |
    .vmaxScalar _ _ va b _ | .vandScalar _ _ va b _ | .vorScalar _ _ va b _ | .vxorScalar _ _ va b _ | .vshlScalar _ _
    va b _ | .vshrScalar _ _ va b _ | .vsarScalar _ _ va b _ | .vcmpScalar _ _ _ va b _ => [64 + va] ++ operandReg b
  | .vbcast _ _ b _ => operandReg b
  | .vhist _ vd va _ => [64 + va, 64 + vd]
  | .vld _ _ sb _ | .vins _ _ sb _ _ => [sb]
  | .vst _ vd sb _ => [64 + vd, sb]
  | .vldx _ _ va sb _ => [64 + va, sb]
  | .vstx _ vd va sb _ => [64 + vd, 64 + va, sb]
  | .cpin _ sd sa sl sbr _ | .cpgath _ sd sa sl sbr _ | .cpfill _ sd sa sl sbr _ | .cploc _ sd sa sl sbr _ | .cpout _ sd
    sa sl sbr _ | .cppeer _ sd sa sl sbr _ | .cpmc _ sd sa sl sbr _ | .cpscat _ sd sa sl sbr _ | .cpmem _ sd sa sl sbr _
    => [sd, sa, sl, sbr]
  | .cpinScl _ sa sl _ | .cqfill _ sa sl _ => [sa, sl]
  | .pbuild _ sd sa sb sc _ => [sd, sa, sb] ++ if sc ≤ 60 then [sc, sc + 1, sc + 2, sc + 3] else []
  | _ => []
/-- The registers that a core instruction writes as destinations. -/
def writesOf (i : Instr) : List Nat :=
  match i with
  | .add _ sd _ _ | .sub _ sd _ _ | .mul _ sd _ _ | .mulh _ sd _ _ | .mulhu _ sd _ _ | .div _ sd _ _ | .divu _ sd _ _ |
    .rem _ sd _ _ | .remu _ sd _ _ | .andR _ sd _ _ | .orR _ sd _ _ | .xorR _ sd _ _ | .andn _ sd _ _ | .shl _ sd _ _ |
    .shr _ sd _ _ | .sar _ sd _ _ | .minR _ sd _ _ | .maxR _ sd _ _ | .minu _ sd _ _ | .maxu _ sd _ _ | .clz _ sd _ |
    .ctz _ sd _ | .popc _ sd _ | .ext _ sd _ _ | .sel _ sd _ _ _ | .madd _ sd _ _ _ | .pget _ sd | .addImm _ sd _ _ |
    .subImm _ sd _ _ | .mulImm _ sd _ _ | .andImm _ sd _ _ | .orImm _ sd _ _ | .xorImm _ sd _ _ | .shlImm _ sd _ _ |
    .shrImm _ sd _ _ | .sarImm _ sd _ _ | .minImm _ sd _ _ | .maxImm _ sd _ _ | .minuImm _ sd _ _ | .maxuImm _ sd _ _ |
    .sppeer _ sd _ _ | .addpc _ sd _ | .lds _ _ sd _ _ | .ldg _ _ sd _ _ | .li _ sd _ | .addx _ sd _ _ | .andx _ sd _ _
    | .orx _ sd _ _ | .csrr _ sd _ | .amo _ _ _ _ _ sd _ _ _ | .amocas _ _ _ _ sd _ _ _ _ | .bhandle _ sd _ | .capget _
    sd _ | .rwld _ sd _ _ => [sd]
  | .pair _ sop sd _ _ vop vd _ _ => (if sop = .nop then [] else [sd]) ++ (if vop = .nop then [] else [64 + vd])
  | .vadd _ vd _ _ _ _ _ | .vsub _ vd _ _ _ _ _ | .vmul _ vd _ _ _ _ _ | .vfma _ vd _ _ _ _ _ _ | .vmin _ vd _ _ _ |
    .vmax _ vd _ _ _ | .vabs _ vd _ _ _ | .vneg _ vd _ _ _ | .vand _ vd _ _ | .vor _ vd _ _ | .vxor _ vd _ _ | .vnot _
    vd _ | .vshl _ vd _ _ _ | .vshr _ vd _ _ _ | .vsar _ vd _ _ _ | .vcmp _ _ vd _ _ _ | .vsel _ vd _ _ _ _ | .vmov _ vd
    _ | .vcvt _ vd _ _ _ _ _ | .vexp2 _ vd _ | .vlog2 _ vd _ | .vrcp _ vd _ _ _ | .vrsq _ vd _ _ _ | .vredadd _ vd _ _ _
    _ | .vredmax _ vd _ _ | .vredmin _ vd _ _ | .vlse2 _ vd _ | .vscan _ vd _ _ _ | .vhist _ vd _ _ | .vperm _ vd _ _ _
    | .viota _ vd _ | .vamax _ vd _ _ | .vscale _ vd _ _ _ | .vbexp _ vd _ | .vtobi _ vd _ _ | .vfrombi _ vd _ _ _ _ |
    .vaddScalar _ vd _ _ _ _ _ | .vsubScalar _ vd _ _ _ _ _ | .vmulScalar _ vd _ _ _ _ _ | .vminScalar _ vd _ _ _ |
    .vmaxScalar _ vd _ _ _ | .vandScalar _ vd _ _ _ | .vorScalar _ vd _ _ _ | .vxorScalar _ vd _ _ _ | .vshlScalar _ vd
    _ _ _ | .vshrScalar _ vd _ _ _ | .vsarScalar _ vd _ _ _ | .vcmpScalar _ _ vd _ _ _ | .vbcast _ vd _ _ | .vld _ vd _
    _ | .vldx _ vd _ _ _ | .vins _ vd _ _ _ => [64 + vd]
  | .vextr _ sb _ _ _ => [sb]
  | _ => []
/-- The registers that a bundle reads in a context: a spilling call and a return from the stack read s63 (R236), and CQPUSH.TEAM reads only rank 0's
register (R235). -/
def Ctx.readsOf (x : Ctx) (i : Instr) : List Nat :=
  let rs := match i with
    | .call .. | .callr .. => (if x.ras.length = 16 then [63] else []) ++ Machine.readsOf i
    | .ret .. => if x.ras.isEmpty then [63] else []
    | .cqpushTeam .. => if x.csr.rank = 0 then Machine.readsOf i else []
    | _ => Machine.readsOf i
  rs.filter (· != 0)
/-- Whether a poison register is among some registers. -/
def Ctx.poisonAmong (x : Ctx) (rs : List Nat) : Bool :=
  rs.any fun r => if r < 64 then x.poisS.contains r else x.vPoison (r - 64)
/-- Whether word k of the register file is of a register among some registers. -/
def wordOf (rs : List Nat) (k : Nat) : Bool := rs.any fun r => if r < 64 then k == r else k / 64 == r - 63
/-! ### The checker core (R218, R303) -/

/-- Whether a taken transfer of control is among what a bundle does. -/
def State.taken (s : State) (i : Instr) : Bool :=
  match i with
  | .br .. | .call .. | .callr .. | .ret .. | .jr .. => true
  | .bz _ sa _ => s.rs sa == 0
  | .bnz _ sa _ => s.rs sa != 0
  | .brmz .. => s.top == 0
  | _ => false
/-- Whether the checker compares a bundle before it takes effect: scalar stores, engine commands, CSR writes, operations of classes 8
and 9, and taken transfers. -/
def State.compared (s : State) (i : Instr) : Bool :=
  s.taken i ||
  match i with
  | .sts .. | .stg .. | .csrw .. | .csrs .. | .csrc .. => true
  | .ldw .. | .wswap .. | .mm .. | .mgroup .. | .accz .. | .accld .. | .accwr .. | .plnset .. | .plnld .. | .margset ..
  | .balance .. | .plnrd .. | .plnscl .. => true
  | .cpin .. | .cpinScl .. | .cqfill .. | .cpgath .. | .cpfill .. | .cploc .. | .cpout .. | .cppeer .. | .cpmc .. | .cpscat ..
  | .cpmem .. => true
  | .amo .. | .amocas .. | .fenceAcq .. | .fenceRel .. | .fenceFull .. | .flush .. | .qfence .. | .qdrain .. | .tkpush .. | .tkpop ..
  | .binit .. | .bexpect .. | .barrive .. | .bwait .. | .bwaitout .. | .bhandle .. | .qput .. | .semsig .. | .capadd ..
  | .capget .. | .capupd .. | .cqpush .. | .cqpushTeam .. => true
  | .pbuild .. | .psend .. | .rwld .. | .rwst .. => true
  | _ => false
/-- CHECKER_MISMATCH at the bundle, with its log record; the forms that differ are free values (R303, log 5). -/
def State.mismatch (s : State) : State :=
  let a := (Config.freeFaultAddr s.fresh).toNat
  let b := (Config.freeFaultAddr (s.fresh + 1)).toNat
  let t := { s with fresh := s.fresh + 2 }
  ((t.logErr (s.core / 16) { kind := 5, unit := s.core % 16, asid := s.myAsid, code := 0x10, arg0 := a, arg1 := b }).modCur fun c =>
    { c with upset := false }).raiseFree 0x10

/-! ### Everything that holds a bundle or stops it -/

/-- Whether a bundle acts: its guard holds, or it has none (R330). -/
def State.acts (s : State) (i : Instr) : Bool := match guardOf i with | some g => s.holds g | none => true
/-- The registers that a bundle reads are checked as it reads them: an error is corrected and logged, or leaves poison (R298, R299). -/
def State.readRegs (s : State) (i : Instr) : State := if s.acts i then s.fixRegs (wordOf (s.ctx.readsOf i)) else s
/-- What becomes of a bundle before it acts: none to go on, or the state that it leaves. In order: a wait for outstanding loads, a failed load whose
destination the bundle reads, poison, and the checker (R213, R219, R301, R218). A bundle whose guard fails is held by none of these. -/
def State.hold (s : State) (i : Instr) : Option State :=
  let rs := s.ctx.readsOf i
  if !s.acts i then none
  else if s.cur.awaits (rs ++ writesOf i) then some s
  else
    match s.reportLoad fun p => rs.contains p.ret.reg with
    | some t => some t
    | none =>
      let t := s.readRegs i
      if t.ctx.poisonAmong rs then
        some ((t.logErr (s.core / 16) { kind := 3, unit := s.core % 16, asid := s.myAsid }).raiseFree 0x0F)
      else if s.cur.upset ∧ s.compared i then some t.mismatch
      else none

end Sys2Proof.Machine
end

