-- ==== Sys2Proof/Machine/Fetch.lean ====
section
/-!
DEFINITION. What runs next on a core, in a pebble engine and on a policy processor: fetching and decoding a bundle (R274, R237, R328, R350), the
next operation of a visit (R95) and of an invocation (R193, R195), and the reads of a wait shadow (R285).
-/
namespace Sys2Proof.Machine

/-- What a turn comes to: an instruction that runs in a state, or a state that stands without one. -/
inductive Fetched where
  | done (s : State)
  | run (i : Instr) (s : State)
  deriving DecidableEq, Repr

/-! ### Fetching a bundle -/

/-- A fetch fault after a transfer of control names the transfer in BRANCHPC (R237). -/
def State.setBranch (s : State) : State :=
  match s.ctx.via with
  | some b => s.modCsr fun c => { c with branchPc := b }
  | none => s
/-- The code word at an address, with the cache filled from a code extent; or the state in which the fetch has faulted or waits (R274, R259,
R301). -/
def State.fetchWord (s : State) (a : W64) : Except State (State × W64) :=
  match s.cur.cached a.toNat with
  | some w => .ok (s, w)
  | none =>
    match s.xlate .fetch a.toNat 8 with
    | .fault c f => .error (s.setBranch.raiseT .fetch c f)
    | .held => .error s
    | .ok [] => .error s
    | .ok (p :: _) =>
      let r := (s.countPiece p).scan p.key 8 s.myAsid p.va
      match r.2 with
      | some _ => .error (r.1.setBranch.raise 0x0F a)
      | none =>
        let w := w64 (r.1.readN p.key 8)
        .ok (r.1.modCur fun c => { c with icache := ((a.toNat, w) :: c.icache).take 32768 }, w)
/-- Whether the running core issues bundles: its strand runs and waits for nothing, and it is neither halted nor gated (R284). -/
def State.mayIssueBundle (s : State) : Bool :=
  s.cur.run == .running && !s.cur.halted && !s.cur.gated && s.cur.wait == .none
/-- The bundle at the running core's PC: a debug match stops before it, with the matched address in FAULTADDR, a fetch or decoding fault at it, and
what holds it back holds it (R244, R378, R237, R350). -/
def State.fetchBundle (s : State) : Fetched :=
  if !s.mayIssueBundle then .done s
  else if s.cur.brk.contains s.ctx.pc.toNat then .done (s.raise 0x15 s.ctx.pc)
  else
    match s.fetchWord s.ctx.pc with
    | .error t => .done t
    | .ok (t, w) =>
      match if coreLength w = 16 then t.fetchWord (t.ctx.pc + 8) else .ok (t, 0) with
      | .error u => .done u
      | .ok (u, w2) =>
        match decodeCore w w2 with
        | none => .done u.illegal
        | some i =>
          match u.hold i with
          | some v => .done v
          | none => .run i (u.readRegs i)

/-! ### The next operation of a visit and of an invocation -/

/-- The next operation of the visit of the running engine: after 32 the visit ends by its step budget, and an entry that is no operation parks
the pebble (R95, R112). -/
def State.fetchPebble (s : State) : Fetched :=
  match s.visit with
  | none => .done s
  | some v =>
    if 32 ≤ v.steps then .run .stepBudget s
    else
      match decodePebble (BitVec.ofNat 16 (v.pkt.codeAt v.pc)) with
      | none => .done s.pebbleIllegal
      | some i => .run i s
/-- The next operation of the running invocation: an empty or illegal word ends it, and one past the budget does (R193, R195). -/
def State.fetchSlate (s : State) : Fetched :=
  let x := s.getPart s.pol
  if x.inv.isNone then .done s
  else
    match x.opAt with
    | none => .done (s.abend s.pol 2)
    | some i => .run (if 2048 < x.used + slateCost i then .budget else i) s

/-! ### The wait shadow (R285) -/

/-- The next read of the wait shadow that may be performed: its bundle, address, length and part. ps and pe are the predicates that the wait
writes, written the registers that earlier shadow loads write; fuel counts the bundles left. -/
def State.shadowNext (s : State) (ps pe : Nat) : Nat → W64 → List Nat → Option (Nat × Nat × Piece)
  | 0, _, _ => none
  | f + 1, pc, written =>
    let x := s.ctx
    let atEnd := x.lpDepth != 0 && (x.level (x.lpDepth - 1)).last == pc - 8 && x.callDepth == (x.level (x.lpDepth - 1)).cd
    if atEnd then none
    else
      match (s.peekCode pc).bind fun w => decodeCore w 0 with
      | some (.ldg g k sd sa imm) =>
        if (g.p ≠ 0 ∧ (g.p = ps ∨ g.p = pe)) ∨ written.contains sa ∨ s.cur.awaits [sa] ∨ x.poisS.contains sa then none
        else
          let va := (s.rs sa + sx32 imm).toNat
          let next := s.shadowNext ps pe f (pc + 8) (sd :: written)
          let early := (s.cur.shadow.any fun e => e.1 == pc.toNat) || s.cur.pend.any fun p => p.ret == .early pc.toNat
          if !s.holds g ∨ early then next
          else if va % ldSize k ≠ 0 then next
          else
            match s.xlate .read va (ldSize k) with
            | .ok (p :: _) =>
              if p.order = 2 then none
              else if p.node ≠ s.mg.node.toNat then some (pc.toNat, va, p)
              else
                let acc := s.accOf s.nextId 0 0 p
                -- one that the synchronisation engine would not perform at once is not made early
                if (s.badB p.key p.len).isEmpty ∧ s.cur.mayPerform acc ∧ (!acc.sync || s.syncFree s.myAsid acc) then some (pc.toNat, va, p)
                else next
            | _ => next
      | _ => none
/-- A read of the wait shadow of the running core's BWAIT is performed, or sent to the node that homes its bytes (R285, log 10). -/
def State.shadowRead (s : State) : State :=
  match s.cur.wait with
  | .bwait ps pe _ _ =>
    if s.cur.run ≠ .running then s
    else
      match s.shadowNext ps pe 8 (s.ctx.pc + 8) [] with
      | some (pc, va, p) =>
        if p.node = s.mg.node.toNat then
          let t := ((s.countPiece p).carry p.key p.len s.myAsid p.va).1
          t.modCur fun c => { c with shadow := c.shadow ++ [(pc, va, t.readB p.key p.len)] }
        else
          let n := s.newId
          ((n.1.addPend { acc := n.1.accOf n.2 0 0 p, ret := .early pc, sent := true, fail := none }).post
            (n.1.reqTo n.2 2 (.load s.core n.2) s.csr.part.toNat s.myAsid p))
      | none => s
  | _ => s

end Sys2Proof.Machine
end

