-- ==== Sys2Proof/Machine/Lockstep.lean ====
section
/-!
DEFINITION. The bundles of a core as they issue: alone, or in a timed team with those of every other member, at one schedule-counter value (R238 to
R240, R371).
-/
namespace Sys2Proof.Machine

/-- What a turn comes to is done. -/
def Fetched.finish (f : Fetched) : Host.Outcome State Fault Refusal :=
  match f with
  | .done s => .next s
  | .run i s => exec i s
/-- The state after an outcome; the state before where there is none. -/
def afterOut (s : State) (o : Out) : State :=
  match o with
  | .next t => t
  | _ => s

/-! ### Outcomes that the members compare (R239, R371) -/

/-- The levels that a taken branch of the running core to a target closes (R370). -/
def State.bodiesLeft (s : State) (t : W64) : Nat := s.ctx.lpDepth - (closeLevels 4 s.ctx t).lpDepth
/-- The outcome of a taken branch: how many loop bodies it leaves. -/
def State.branchOutcome (s : State) (t : W64) : Nat := 1 + s.bodiesLeft t
/-- What a member decides at a conditional branch, a guarded transfer, a branch out of a loop body, a LOOP or a LOOPQ; none at any other bundle (R239,
R371). -/
def State.outcome (s : State) (i : Instr) : Option Nat :=
  match guardOf i with
  | none => none
  | some g =>
    let h := s.holds g
    let at_ (d : BitVec 32) : W64 := dispTarget s.ctx.pc d
    match i with
    | .bz _ _ d | .bnz _ _ d | .brmz _ d => some (if h && s.taken i then s.branchOutcome (at_ d) else 0)
    | .br _ d => if g.p = 0 ∧ s.bodiesLeft (at_ d) = 0 then none else some (if h then s.branchOutcome (at_ d) else 0)
    | .jr _ sa => if g.p = 0 ∧ s.bodiesLeft (s.rs sa) = 0 then none else some (if h then s.branchOutcome (s.rs sa) else 0)
    | .call .. | .callr .. | .ret .. => if g.p = 0 then none else some h.toNat
    | .loop _ sa _ => some (if h then (s.rs sa).toNat + 1 else 0)
    | .loopq .. => some (if h then (s.cur.counts.headD (0, none)).1.toNat + 1 else 0)
    | _ => none
/-- The bundle at a core's PC as far as it can be read without a fetch. -/
def State.bundleAt (s : State) : Option Instr :=
  (s.peekCode s.ctx.pc).bind fun w => decodeCore w (if coreLength w = 16 then (s.peekCode (s.ctx.pc + 8)).getD 0 else 0)
/-- What core c decides at its next bundle. -/
def State.decides (s : State) (c : Nat) : Option Nat :=
  let now : State := { s with core := c }
  now.bundleAt.bind now.outcome

/-! ### The joint issue of a timed team (R238, R240) -/

/-- A member of a timed team tries to issue its bundle, or the one that waits. -/
def State.tryMember (s : State) (c : Nat) : State :=
  let now : State := { s with core := c }
  let t := match now.cur.wait with
    | .none => afterOut now now.fetchBundle.finish
    | .tkpop _ => now.finishTkpop
    | .bwait .. => now.tryBwait
    | .bwaitout _ => now.tryBwaitout
    | .barrive .. => now.tryBarrive
    | .semsig .. => now.trySemsig
    | .qput .. => now.tryQput
    | _ => now.finishWait
  { t with core := s.core }
/-- Whether core c has issued its bundle between two states: its schedule counter has advanced, or its strand has ended. -/
def State.issued (before after : State) (c : Nat) : Bool :=
  (after.getCore c).act.csr.schedCtr != (before.getCore c).act.csr.schedCtr || (after.getCore c).run == .exited
/-- Whether a member cannot issue whatever its bundle: it has not started or has faulted, is halted, replays, or meets a refresh window (R240,
R302). -/
def State.cannotIssue (s : State) (c : Nat) : Bool :=
  (s.getCore c).run != .running || (s.getCore c).halted || (s.getCore c).gated || (s.getCore c).replay != 0 || s.refreshClash c
/-- What the members that could not issue have done of themselves: a wait begun, or a fault taken; whatever would issue is left. -/
def State.tryAlone (base s : State) (cs : List Nat) : State :=
  cs.foldl (fun u c => let v := u.tryMember c; if base.issued v c then u else v) s
/-- A timed team at its next schedule-counter value: every member issues its bundle, in rank order, or none does and the stall wire is raised. Where
the members' outcomes differ, every one faults with TIMED_VIOLATION and the bundle has no effect. One value takes at least one cycle (R238 to
R240, R371). -/
def State.runTeam (s : State) (t : Team) : State :=
  let ms := s.members t
  let raised (u : State) : State := u.modTeam t.id fun x => { x with wire := true }
  if t.phase ≠ .running ∨ s.cycle < t.beat ∨ ms.isEmpty then s
  else if ms.any s.cannotIssue then raised s
  else
    let base := ms.foldl (fun u c => u.modCore c fun x => { x with settled := none }) s
    let u := ms.foldl State.tryMember base
    let late := ms.filter fun c => !base.issued u c
    if !late.isEmpty then raised (base.tryAlone base late)
    else
      let ds := ms.map base.decides
      if ds.any (·.isSome) && ds.any (· != ds.headD none) then
        raised { ms.foldl (fun v c => ({ v with core := c } : State).raiseFree 0x11) base with core := s.core }
      else u.modTeam t.id fun x => { x with wire := false, beat := s.cycle + 1 }
/-- A bundle turn of core c: its strand's next bundle, or in a timed team the next one of every member. -/
def State.runCore (s : State) (c : Nat) : Out :=
  let now : State := { s with core := c }
  match now.myTeam with
  | some t => if t.timed then .next (now.runTeam t) else now.fetchBundle.finish
  | none => now.fetchBundle.finish

end Sys2Proof.Machine
end

