-- ==== Sys2Proof/Machine/Outside.lean ====
section
/-!
DEFINITION. What the outside world does to the module (log 2): packets arrive from neighbours, flash and firmware are written, errors
strike stored words, tiles and cores, the instruction cache drops words, boot firmware writes the torus registers (R56) and the turn
lists (R67), and a debugger sets matches and resumes a core.
-/
namespace Sys2Proof.Machine


/-- A packet arrives over a trained port, into its channel's buffer of 32 flits: the neighbour sends no packet for which it holds no credits
(R64). -/
def State.arrive (s : State) (port : Nat) (p : Packet) : State :=
  if s.portUp port ∧ s.buffered port p.vc + p.size ≤ 32 then
    { s with router := { s.router with arrivals := s.router.arrivals ++ [Arrival.mk p port none s.now s.cycle] } }
  else s
/-- The key of the first register mark: 2^56 + 8192 c + k for scalar register k, or word k - 64 of the vector registers, of core c. -/
def regMark : Nat := 2 ^ 56
/-- The check-code state of a word after an error: one more error in a word that has one already makes it uncorrectable, as a poison word that suffers
an error reads (R298, R299). -/
def struck (old kind : Nat) : Nat := if old = 0 ∨ old = 4 then kind else if kind = 1 ∨ kind = 2 then 2 else old
/-- An error strikes the word at 8 key, or a register: kind 1 can be corrected, 2 not, 3 is poison, 4 an error on the path of the next read (R298,
R299). With 5 the backing read of the word's line begins to await repair, and with 6 it is repaired (R234). -/
def State.strike (s : State) (key kind : Nat) : State :=
  if kind = 5 then s.modDie (homeDie (homeOf (8 * key))) fun x => { x with stuck := key / 8 :: x.stuck.filter (· != key / 8) }
  else if kind = 6 then s.modDie (homeDie (homeOf (8 * key))) fun x => { x with stuck := x.stuck.filter (· != key / 8) }
  else if kind = 0 ∨ 4 < kind then s
  else if key < regMark then { s with marks := Tab.put 0 s.marks key (struck (s.mark key) kind) }
  else
    let k := (key - regMark) % 8192
    s.modCore ((key - regMark) / 8192 % 256) fun c =>
      { c with act :=
          if kind < 3 then { c.act with err := Tab.put 0 c.act.err k (struck (Tab.get 0 c.act.err k) kind) }
          else if k < 64 then { c.act with poisS := k :: c.act.poisS.filter (· != k) }
          else { c.act with poisV := (k - 64) :: c.act.poisV.filter (· != k - 64) } }
/-- An error strikes accumulator tile 0 to 7, the active plane (8), the shadow plane (9) or the multiply array (10) of a core; 11 and 12 are the second
halves of the planes (R298, R302). -/
def State.strikeMat (s : State) (core tile : Nat) : State :=
  s.modCore core fun c =>
    let add (l : List Nat) (h : Nat) : List Nat := h :: l.filter (· != h)
    { c with mat := if tile = 8 ∨ tile = 11 then { c.mat with badA := add c.mat.badA (tile / 11) }
                    else if tile = 9 ∨ tile = 12 then { c.mat with badS := add c.mat.badS (tile / 12) }
                    else if tile = 10 then { c.mat with badM := true }
                    else if tile < 8 then { c.mat with badTiles := tile :: c.mat.badTiles.filter (· != tile) } else c.mat }
/-- A debugger sets or clears a match on an address. -/
def State.breakAt (s : State) (core addr : Nat) : State :=
  s.modCore core fun c => { c with brk := if c.brk.contains addr then c.brk.filter (· != addr) else addr :: c.brk }
/-- Boot firmware writes TORUSDIM, NODEXYZ and the scope table; what it writes to reserved bits is ignored (R4, R56, R279, R377). -/
def State.bootRegs (s : State) (torus : W64) (node : BitVec 16) (scopes : W64) : State :=
  { s with mg := { s.mg with torus := torus &&& 0x7F3F3F, node := node, scopetab := scopes &&& 0x7FFFFFFFFFFFFF } }
/-- Turn list k of a node is written (R67). -/
def State.setTurnList (s : State) (node k : Nat) (list : W32) : State :=
  { s with gate := { s.gate with lists := Tab.put 0 s.gate.lists (node * 4 + k % 4) list } }

end Sys2Proof.Machine
end

