-- ==== Sys2Proof/Machine/Place.lean ====
section
/-!
DEFINITION. An instruction given to the machine to run next (log 2): a bundle on core 0, an operation of a pebble in engine 0, or an operation of
partition 0's slate.
-/
namespace Sys2Proof.Machine

/-- The address at which a placed bundle stands, and the key of its bytes. -/
def placedPc : W64 := 0x100000000
/-- The key of a placed bundle. -/
def placedKey : Nat := 0x10000
/-- The identifier of the team that holds core 0. -/
def placedTeam : Nat := 1
/-- A team of one strand on core 0 whose code is one page of memory. -/
def placedTeamOf : Team :=
  { id := placedTeam, part := 0, pipe := 0, stage := 0, asid := 0, n := 1, record := [], cores := [0], timed := false,
    grouped := false, image := false, phase := .running,
    exts := [{ vbase := placedPc.toNat, units := 16, pbase := placedKey, absent := false, r := false, w := false, x := true, order := 0,
               conf := false, sync := false, bedrock := false, tier := false, mig := false, stale := false, bed := [] }],
    pset := [], saved := [], exitedRanks := [], logs := [[]], area := 0, notDies := [], sched := 0, preempts := 0, started := 0,
    since := 0, quantumTold := false, entry := placedPc, waiting := [], areaAt := 0, stop := none, wire := false, beat := 0 }
/-- A running core 0 of the placed team at the placed bundle, with an empty instruction cache. -/
def Core.placed (c : Core) : Core :=
  { c with run := .running, wait := .none, halted := false, gated := false, upset := false, icache := [], brk := [], pend := [],
           act := { c.act with pc := placedPc, via := none, poisS := [], poisV := [], err := [],
                               csr := { c.act.csr with teamId := BitVec.ofNat 32 placedTeam, timed := false, teamSize := 1 } } }
/-- A bundle placed on core 0: its bytes stand in memory, and core 0's strand is about to fetch them. -/
def State.placeBundle (s : State) (w : Nat) : State :=
  { ((s.writeB placedKey (toLE 16 w)).modCore 0 Core.placed) with
    turns := [.bundle 0], core := 0,
    teams := placedTeamOf :: s.teams.filter fun t => t.id != placedTeam && !t.cores.contains 0,
    mg := { s.mg with node := 0 } }
/-- A pebble of a visit whose entry 0 is a word. -/
def placedPacket (w : Nat) : Packet :=
  { head := BitVec.ofNat 512 (setFld 0 (8 * 34 - 1) (8 * 32) w), flits := [0, 0] }
/-- A pebble operation placed in engine 0. -/
def State.placePebble (s : State) (w : Nat) : State :=
  { s with turns := [.pebble 0], eng := 0,
           router := { s.router with
             visits := Tab.put none s.router.visits 0 (some { pkt := placedPacket w, port := 0, entry := 0, pc := 0, steps := 0 }) } }
/-- A slate operation placed at word 0 of partition 0's active slot, with an invocation under way. -/
def State.placeSlate (s : State) (w : Nat) : State :=
  { s.modPart 0 fun x =>
      { x with pstate := 2, act := Tab.put 0 x.act 0 (BitVec.ofNat 32 w), pc := 0, used := 0, loops := [], decs := [],
               inv := some ⟨1, 0, 0, 0⟩ } with
    turns := [.slate 0], pol := 0 }
/-- An instruction placed where the next step runs it: 16 bits are a pebble operation, 32 a slate operation, more a bundle. -/
def State.placeWord (s : State) (nbits w : Nat) : State :=
  if nbits ≤ 16 then s.placePebble w else if nbits ≤ 32 then s.placeSlate w else s.placeBundle w

end Sys2Proof.Machine
end

