-- ==== Sys2Proof/Machine/Step.lean ====
section
/-!
DEFINITION. One step of the module: the next turn is taken (log 2). With no turn left, one nanosecond passes.
-/
namespace Sys2Proof.Machine

/-- What a turn does in a state from which it has been taken. -/
def Turn.take (t : Turn) (s : State) : Host.Outcome State Fault Refusal :=
  match t with
  | .bundle c => s.runCore c
  | .pebble e => ({ s with eng := e } : State).fetchPebble.finish
  | .slate p => ({ s with pol := p } : State).fetchSlate.finish
  | .step i c e p args =>
    match encode i with
    | some _ => .fault .notAStep
    | none => exec i { s with core := c, eng := e, pol := p, args := args }
  | .elapse ns cycles => .next (s.elapse ns cycles)
  | .packet port p => .next (s.arrive port p)
  | .flash a bs => .next (s.writeB (flashKey a) bs)
  | .firmware fs => .next { s with mg := { s.mg with fw := fs } }
  | .minVersion c g => .next (s.raiseMin c g)
  | .mark k kind => .next (s.strike k kind)
  | .spoil c t => .next (s.strikeMat c t)
  | .upset c => .next (s.modCore c fun x => { x with upset := true })
  | .evict c a => .next (s.modCore c fun x => { x with icache := x.icache.filter fun e => e.1 != a })
  | .shadowRead c => .next ({ s with core := c } : State).shadowRead
  | .boot torus node scopes => .next (s.bootRegs torus node scopes)
  | .turnList node k list => .next (s.setTurnList node k list)
  | .breakAt c a => .next (s.breakAt c a)
  | .resume c => .next (s.modCore c fun x => { x with halted := false })
/-- One step of the module. -/
def step (s : State) : Host.Outcome State Fault Refusal :=
  match s.turns with
  | [] => .next (s.elapse 1 0)
  | t :: rest => t.take { s with turns := rest }
/-- The state in which the next step runs an instruction of nbits bits w. -/
def State.withFetchWord (s : State) (nbits w : Nat) : State := s.placeWord nbits w

end Sys2Proof.Machine
end

