-- ==== Sys2Proof/Safety.lean ====
section
/-!
DEFINITION. What claims speak of: memory in its canonical form, a safe step, an instruction that completes, and the frames of a bundle: what
it changes of the running strand's register context, and that it changes nothing else.
-/
namespace Sys2Proof.Machine

/-- Memory is in its canonical form: addresses strictly rise, and no listed byte is what an unlisted one reads as (log 1). -/
abbrev Memory.wf (m : Tab Byte) : Prop := Tab.wf 0 m
/-- A step is safe when it answers a next state. -/
def SafeStep (s : State) : Prop := ∃ t, step s = .next t
/-- The instruction answers a next state, and P holds of it. -/
def Completes (i : Instr) (s : State) (P : State → Prop) : Prop := ∃ t, exec i s = .next t ∧ P t

/-! ### Frames of a bundle -/

/-- t differs from s in the running core alone. -/
structure CoreOnly (s t : State) : Prop where
  outside : t = { s with cores := t.cores }
  others : ∀ c, c ≠ s.core → t.getCore c = s.getCore c
  bytes : ∀ a, t.byte a = s.byte a
/-- t differs from s in the active register context of the running core alone. -/
structure CtxOnly (s t : State) : Prop extends CoreOnly s t where
  core : t.cur = { s.cur with act := t.ctx }
/-- A bundle of n bytes that does nothing but go on. -/
structure GoesOn (s t : State) (n : Nat) : Prop extends CtxOnly s t where
  ctx : t.ctx = s.ctx.advance n
/-- A bundle of n bytes that writes v to s[r] and goes on: a write of s0 is discarded, and every other register, flag, special register and
byte of memory stays as it is. -/
structure WritesS (s t : State) (n r : Nat) (v : W64) : Prop extends CtxOnly s t where
  ctx : t.ctx = { s.ctx.advance n with s := t.ctx.s, poisS := t.ctx.poisS, err := t.ctx.err }
  reg : ∀ q, t.rs q = if q = 0 then 0 else if q = r then v else s.rs q
  poison : ∀ q, q ∈ t.ctx.poisS ↔ q ∈ s.ctx.poisS ∧ (r = 0 ∨ q ≠ r)
  errors : ∀ e, e ∈ t.ctx.err ↔ e ∈ s.ctx.err ∧ (r = 0 ∨ e.1 ≠ r)
/-- A bundle that writes b to p[r] and goes on; p0 is never written. -/
structure WritesP (s t : State) (r : Nat) (b : Bool) : Prop extends CtxOnly s t where
  ctx : t.ctx = { s.ctx.advance 8 with p := t.ctx.p }
  reg : ∀ q, q < 8 → t.rp q = if q = 0 then true else if q = r then b else s.rp q
/-- Whether the lanes that a mask enables cover word k of the vector registers, a word of v[r]: word j of a register is its lanes 2 j and
2 j + 1 (R219, R300). -/
def Covers (r : Nat) (m : BitVec 128) (k : Nat) : Prop :=
  k / 64 = r ∧ m.getLsbD (2 * (k % 64)) = true ∧ m.getLsbD (2 * (k % 64) + 1) = true
/-- A bundle that writes f k to each element k of width w of v[r] whose lane the mask stack enables, and goes on. A word that is written whole loses
its poison and its errors; a word written in part keeps them (R300). -/
structure WritesV (s t : State) (r w : Nat) (f : Nat → Nat) : Prop extends CtxOnly s t where
  ctx : t.ctx = { s.ctx.advance 8 with v := t.ctx.v, poisV := t.ctx.poisV, err := t.ctx.err }
  elems : ∀ k, k < 4096 / w →
    elem (t.rv r) w k = if maskBit s.top (laneOf w k) then f k % 2 ^ w else elem (s.rv r) w k
  regs : ∀ q, q ≠ r → t.rv q = s.rv q
  poison : ∀ k, k ∈ t.ctx.poisV ↔ k ∈ s.ctx.poisV ∧ ¬ Covers r s.top k
  errors : ∀ e, e ∈ t.ctx.err ↔ e ∈ s.ctx.err ∧ (e.1 < 64 ∨ ¬ Covers r s.top (e.1 - 64))
/-- A bundle of 8 bytes that stores bytes bs at key k and goes on: every byte outside stays as it is, and so does every register. -/
structure StoresB (s t : State) (k : Nat) (bs : List Byte) : Prop where
  outside : t = { s with mem := t.mem, marks := t.marks, cores := t.cores }
  others : ∀ c, c ≠ s.core → t.getCore c = s.getCore c
  core : t.cur = { s.cur with act := s.ctx.advance 8 }
  bytes : ∀ a, t.byte a = if k ≤ a ∧ a < k + bs.length then bs.getD (a - k) 0 else s.byte a
/-- A scratchpad access of 8 bytes' bundle that lies out of range at pointer p and goes on: OOBFLAG is set and OOBADDR takes the pointer
when the flag was 0; s[r] reads v afterwards when r is given. -/
structure OutOfRange (s t : State) (p : BitVec 32) (r : Option (Nat × W64)) : Prop extends CtxOnly s t where
  ctx : t.ctx = { s.ctx.advance 8 with
    s := t.ctx.s, poisS := t.ctx.poisS, err := t.ctx.err
    csr := { s.csr with schedCtr := s.csr.tick, oobFlag := true, oobAddr := if s.csr.oobFlag then s.csr.oobAddr else p } }
  reg : ∀ q, t.rs q = if q = 0 then 0 else match r with
    | some (d, v) => if q = d then v else s.rs q
    | none => s.rs q
/-- No word that n bytes at key k touch has a check-code error or poison (R298, R299). -/
def State.sound (s : State) (k n : Nat) : Prop := ∀ e ∈ s.marks, e.1 < k / 8 ∨ k + n ≤ 8 * e.1
/-- v is the value of a load of kind k at a key: its bytes, the lowest first, sign-extended for .b, .h and .w and zero-extended otherwise
(R363). -/
def State.loads (s : State) (key : Nat) (k : LdKind) (v : W64) : Prop := ∀ i, i < 64 →
  v.getLsbD i =
    if i < 8 * ldSize k then (s.byte (key + i / 8)).getLsbD (i % 8)
    else match k with
      | .b | .h | .w => (s.byte (key + ldSize k - 1)).getLsbD 7
      | _ => false
/-- bs are the bytes that a store of kind k of a register value stores, the lowest first (R363). -/
def storedBytes (k : StKind) (v : W64) (bs : List Byte) : Prop :=
  bs.length = stSize k ∧ ∀ i, i < stSize k → bs.getD i 0 = BitVec.ofNat 8 (v.toNat / 2 ^ (8 * i))
/-- A taken transfer of control to a: the loop levels that the target leaves are closed, the branch is remembered for BRANCHPC and the
schedule counter advances; nothing else changes. -/
structure JumpsTo (s t : State) (a : W64) : Prop extends CtxOnly s t where
  ctx : t.ctx = { s.ctx with pc := a, via := some s.ctx.pc, lpDepth := (closeLevels 4 s.ctx a).lpDepth,
                             csr := { s.csr with schedCtr := s.csr.tick } }
/-- A precise fault of the running strand at the bundle at pc: the strand stops there, CAUSE, FAULTPC and FAULTADDR hold what is said, and
nothing else of the machine changes but the counter of free values. -/
structure FaultsAt (s t : State) (code : BitVec 8) (srcq : BitVec 2) (pc : W64) : Prop where
  outside : t = { s with cores := t.cores, fresh := t.fresh }
  others : ∀ c, c ≠ s.core → t.getCore c = s.getCore c
  core : t.cur = { s.cur with run := .faulted, told := false, act := t.ctx }
  ctx : t.ctx = { s.ctx with csr := { s.csr with code := code, srcq := srcq, faultPc := pc, faultAddr := t.csr.faultAddr } }
  bytes : ∀ a, t.byte a = s.byte a
/-- A command with its register values enters the queue of engine e (1 L, 2 M, 3 S) of the running core at its end and the strand goes on
(R211): bound and unbound are the bound format words and the unbound scales afterwards (R223, R224), and nothing else of the machine
changes but, where the statement says so, memory. -/
structure Enqueues (s t : State) (e : Nat) (op : Instr) (a b c d : W64) (nullified : Bool) (bound unbound : Nat) : Prop where
  outside : t = { s with cores := t.cores, nextId := s.nextId + 1, mem := t.mem, marks := t.marks }
  others : ∀ c, c ≠ s.core → t.getCore c = s.getCore c
  core : t.cur = { s.cur with act := s.ctx.advance 8, el := t.cur.el, em := t.cur.em, es := t.cur.es, fmtBound := bound, unbound := unbound }
  queue : t.cur.engine e = { s.cur.engine e with q := (s.cur.engine e).q ++
    [{ id := s.nextId, pc := s.ctx.pc, op := op, a := a, b := b, c := c, d := d, begun := 0, nullified := nullified }] }
  rest : ∀ x ∈ [1, 2, 3], x ≠ e → t.cur.engine x = s.cur.engine x
/-! ### Exact values and their rounding -/

/-- v is the finite value of a sign and a magnitude (R308). -/
def FV.IsFin (v : FV) (neg : Bool) (x : Rat) : Prop := ∃ (m : Nat) (e : Int), v = .fin neg m e ∧ (m : Rat) * 2 ^ e = x
/-- v is a finite value and x the number that it is. -/
def FV.Is (v : FV) (x : Rat) : Prop :=
  ∃ (neg : Bool) (m : Nat) (e : Int), v = .fin neg m e ∧ x = (if neg then -1 else 1) * ((m : Rat) * 2 ^ e)
/-- k × 2^q is the multiple of 2^q that a mode takes for a magnitude x, u being the random value of RSR (R310, R311). The magnitude is given by
what it exceeds: d y has the sign of y - x. -/
def Takes (mode : Rnd) (u : Nat) (d : Rat → Rat) (q : Int) (k : Nat) : Prop :=
  let at_ (y : Rat) : Rat := d (y * 2 ^ q)
  match mode with
  | .rtz => at_ k ≤ 0 ∧ 0 < at_ (k + 1)
  | .rne => at_ (k - 1 / 2) ≤ 0 ∧ 0 ≤ at_ (k + 1 / 2) ∧ (at_ (k - 1 / 2) = 0 ∨ at_ (k + 1 / 2) = 0 → k % 2 = 0)
  | .rsr => ∃ a T : Nat, T < 65536 ∧ at_ (a + T / 65536) ≤ 0 ∧ 0 < at_ (a + (T + 1) / 65536) ∧ k = if T + u < 65536 then a else a + 1
/-- r is ROUND of a value with a sign and a positive magnitude, given as for Takes, to a format of precision p, least exponent emin and
largest value top: the candidate that the mode takes, unless that exceeds top (R310, R311, R313). -/
def RoundsTo (F : FFmt) (p : Nat) (emin : Int) (top : Nat) (mode : Rnd) (sat : Bool) (u : Nat) (neg : Bool) (d : Rat → Rat)
    (r : Nat) : Prop :=
  ∃ (e : Int) (k : Nat), d (2 ^ e) ≤ 0 ∧ 0 < d (2 ^ (e + 1)) ∧
    let q := max e emin - (p - 1 : Nat)
    let x : Rat := k * 2 ^ q
    Takes mode u d q k ∧ r < 2 ^ F.bits ∧
    if x ≤ top then (F.value r).IsFin neg x
    else if sat = true then (F.value r).IsFin neg top
    else if F.hasInf = false then r = F.nanBits
    else if mode = .rtz then (F.value r).IsFin neg top
    else F.value r = .inf neg
/-- new is an element of a tile row after a block under the format word f: a and w are the codes of the 128 activations and weights, sa and sw the
row's and the plane's scale, and old the element before (R316, R318, R409, R413). -/
def MacElem (f : W32) (a w : Nat → Nat) (sa sw : W32) (old new : Nat) : Prop :=
  if f.toNat / 2 ^ 28 = 1 then
    let ty (c : Nat) : VType := if c = 1 then .bf16 else if c = 2 then .e4m3 else .e5m2
    let p := rne32 (fvSum ((List.range 128).map fun k =>
      (vVal (ty (f.toNat / 2 ^ 24 % 16)) (a k)).mul (vVal (ty (f.toNat / 2 ^ 20 % 16)) (w k))))
    let sc := rne32 ((f32 sa.toNat).mul (f32 sw.toNat))
    new = rne32 ((f32 old).add (f32 (rne32 ((f32 p).mul (f32 sc)))))
  else
    let num (signed : Bool) (n : Nat) : Int := if signed then (BitVec.ofNat 8 n).toInt else n
    let x : Int := (BitVec.ofNat 32 old).toInt + ((List.range 128).map fun k => num (f.getLsbD 27) (a k) * num (f.getLsbD 26) (w k)).sum
    (new : Int) = (if f.getLsbD 25 then max (-2147483648) (min 2147483647 x) else x) % 2 ^ 32
/-- One sweep of BALANCE leads from the scales of p to those of q, with residual res (R422). -/
structure SweepTo (m : Mat) (p q : Plan) (res : Nat) : Prop where
  same : q.group = p.group ∧ q.r = p.r ∧ q.c = p.c
  rows : ∀ i, i < 128 → pv q.u i = if pv p.r i % 2 ^ 31 = 0 then 0xFF800000 else
    let l := lse2 ((List.range 128).map fun j => add3 (m.kern p i j) 0 (pv p.v j))
    if l = 0xFF800000 then 0xFF800000 else rne32 ((f32 (log2 (pv p.r i))).add (f32 l).neg)
  cols : ∀ j, j < 128 → pv q.v j = if pv p.c j % 2 ^ 31 = 0 then 0xFF800000 else
    let l := lse2 ((List.range 128).map fun i => add3 (m.kern p i j) (pv q.u i) 0)
    if l = 0xFF800000 then 0xFF800000 else rne32 ((f32 (log2 (pv p.c j))).add (f32 l).neg)
  residual : res = (List.range 128).foldl (fun x i => vMaxE .f32 x (rne32 (((f32 (rne32 (fvSum ((List.range 128).map fun j =>
    f32 (exp2 (add3 (m.kern p i j) (pv q.u i) (pv q.v j))))))).add (f32 (pv p.r i)).neg).abs))) 0
/-- A byte sequence at consecutive addresses: each byte with where it stands. -/
def placed (k : Nat) (bs : List Byte) : List (Nat × Byte) := (List.range bs.length).map fun o => (k + o, bs.getD o 0)
/-- The bytes of an iteration's translated sources in order, those of other nodes as their READs returned them (R428). -/
def State.srcBytes (s : State) (it : Iter) : List Byte :=
  it.src.flatMap fun p => (List.range p.len).map fun o => if p.node = s.mg.node.toNat then s.byte (p.key + o) else Tab.get 0 it.got (p.va + o)
/-- The writes under way fs put, in order, the bytes bs at the addresses of the pieces ps (R431). -/
def Sends (fs : List Flight) (ps : List Piece) (bs : List Byte) : Prop :=
  (fs.flatMap fun f => placed f.acc.lo f.bytes) = (ps.flatMap fun p => (List.range p.len).map (p.key + ·)).zip bs ∧
  ∀ f ∈ fs, f.dest = none ∧ f.bad = [] ∧ f.acc.len = f.bytes.length
/-- The writes under way fs carry, each to where it goes, exactly the bytes that cell gives the addresses it gives one. -/
def Carry (fs : List Flight) (cell : Nat → Option Byte) : Prop :=
  (∀ f ∈ fs, ∀ j, j < f.bytes.length → cell (f.acc.lo + j) = some (f.bytes.getD j 0)) ∧
  ∀ a b, cell a = some b → ∃ f ∈ fs, f.acc.lo ≤ a ∧ a < f.acc.lo + f.bytes.length
/-- A bundle that begins to wait: the strand stays at it, in the state w, and nothing else of the machine changes. -/
structure WaitsIn (s t : State) (w : Wait) : Prop extends CoreOnly s t where
  core : t.cur = { s.cur with wait := w }
/-- The wait at the bundle is over and the strand goes on; nothing else of the machine changes but the commands that the sequencer is
joined to (R281). -/
structure WaitEnds (s t : State) : Prop extends CoreOnly s t where
  core : t.cur = { s.cur with wait := .none, act := s.ctx.advance 8, joined := t.cur.joined }

/-! ### Pebbles -/

/-- The stack of a pebble, its bottom first (R88). -/
def Packet.stack (p : Packet) : List W64 := (List.range p.depth).map p.stk
/-- The visit v runs one instruction and goes on at next, with that stack and those slots: every other field of the pebble, every other visit
and all of the machine but memory stay as they are. -/
structure PebbleGoes (s t : State) (v : Visit) (next : Nat) (stack : List W64) (slots : Nat → W64) : Prop where
  outside : t = { s with router := { s.router with visits := t.router.visits }, mem := t.mem, marks := t.marks }
  others : ∀ e, e ≠ s.eng → Tab.get none t.router.visits e = Tab.get none s.router.visits e
  visit : ∃ p : Packet, t.visit = some { v with pkt := p, pc := next, steps := v.steps + 1 } ∧ p.stack = stack ∧
    (∀ n, n < 4 → p.slot n = slots n) ∧ (p.setPb 11 8 0).head = (v.pkt.setPb 11 8 0).head ∧ p.flits.drop 2 = v.pkt.flits.drop 2
/-- Place i of the park area of tenant entry e is the first free one of an area that has room (R102). -/
def FreePlace (s : State) (e i : Nat) : Prop :=
  (s.router.parks.filter fun k => k.entry == e).length < 1024 ∧ (∀ k ∈ s.router.parks, k.entry = e → k.idx ≠ i) ∧
  ∀ j, j < i → ∃ k ∈ s.router.parks, k.entry = e ∧ k.idx = j
/-- The visit v is over and its pebble p parked at the first free place of the area of its tenant entry, with a code and an index (R102). -/
def ParksAs (s t : State) (v : Visit) (p : Packet) (code index : Nat) : Prop :=
  t.visit = none ∧ ∃ i, FreePlace s v.entry i ∧ t.router.parks = s.router.parks ++ [⟨v.entry, i, p, code, index, v.port, s.now⟩]

/-! ### The scheduler -/

/-- cs are the n lowest-numbered cores of partition p, on dies that meet a test, that hold no strand (R175). -/
def LowestFree (s : State) (p n : Nat) (on : Nat → Bool) (cs : List Nat) : Prop :=
  let free (c : Nat) : Prop := c < 256 ∧ on (c / 16) = true ∧ s.holdsUnit p (c / 4) = true ∧ ∀ t ∈ s.teams, t.phase ≠ .saved → c ∉ t.cores
  cs.length = n ∧ cs.Pairwise (· < ·) ∧ (∀ c ∈ cs, free c) ∧ ∀ c, free c → c ∉ cs → ∀ x ∈ cs, x < c
/-- cs are the cores for n strands of partition p, by rank, on dies that meet a test (R175): the lowest free ones; for a timed stage, grouped or not
(log 73), those of the lowest die that has n free and holds no timed team; for a grouped one, those of the lowest clusters that are free whole. -/
def Placed (s : State) (p n : Nat) (on : Nat → Bool) (grouped timed : Bool) (cs : List Nat) : Prop :=
  let plain (d : Nat) : Prop := d < 16 ∧ on d = true ∧ ∀ t ∈ s.teams, t.phase ≠ .saved → t.timed = true → ∀ c ∈ t.cores, c / 16 ≠ d
  let free (k : Nat) : Prop := k < 64 ∧ on (k / 4) = true ∧ s.holdsUnit p k = true ∧
    ∀ i, i < 4 → ∀ t ∈ s.teams, t.phase ≠ .saved → 4 * k + i ∉ t.cores
  if timed then ∃ d, plain d ∧ LowestFree s p n (· == d) cs ∧ ∀ e, e < d → plain e → ∀ es, ¬ LowestFree s p n (· == e) es
  else if grouped then ∃ ks : List Nat, cs = ks.flatMap (fun k => [4 * k, 4 * k + 1, 4 * k + 2, 4 * k + 3]) ∧ cs.length = n ∧ ks.Pairwise (· < ·) ∧
    (∀ k ∈ ks, free k) ∧ ∀ k, free k → k ∉ ks → ∀ x ∈ ks, x < k
  else LowestFree s p n on cs
/-- Whether save area k of a team's stage is taken: by an absent team, or by a stop that has been decided (R183). -/
def AreaTaken (s : State) (tm : Team) (k : Nat) : Prop :=
  ∃ x ∈ s.teams, x.part = tm.part ∧ x.pipe = tm.pipe ∧ x.stage = tm.stage ∧ ((x.absent = true ∧ x.area = k) ∨ ∃ a, x.stop = some (k, a))
/-- The stop of team tm is issued: its strands stand stopped at their bundles, those past EXIT apart, and it is absent, its save area the lowest free
one of its stage (R180, R183). -/
structure Stops (s t : State) (tm : Team) (notDies : List Nat) : Prop where
  cores : ∀ c ∈ tm.cores, (s.getCore c).run ≠ .setUp →
    (t.getCore c).act = (s.getCore c).act ∧ (t.getCore c).run = if (s.getCore c).run = .exited then .exited else .stopped
  team : ∃ k u, ¬ AreaTaken s tm k ∧ (∀ j, j < k → AreaTaken s tm j) ∧ k < s.mg4 (stageAt tm.part tm.pipe tm.stage + 32) 4 ∧
    t.team tm.id = some u ∧ u.phase = .stopping ∧ u.area = k ∧ u.notDies = notDies ∧
    u.areaAt = s.mg4 (stageAt tm.part tm.pipe tm.stage + 24) 8 % 2 ^ 48 + k * (0x10000 + s.stTeam tm.part tm.pipe tm.stage * 0x590000)
/-- What a core's tables and queues hold has its place in the block of a save area (R182, R210, R221). -/
structure Core.Fits (c : Core) : Prop where
  scalars : ∀ r ∈ c.act.poisS, r < 64
  vectors : (∀ e ∈ c.act.v, e.1 < 640) ∧ ∀ k ∈ c.act.poisV, k < 40960
  matrix : (∀ e ∈ c.mat.tiles, e.1 < 256) ∧ (∀ e ∈ c.mat.planeA, e.1 < 64) ∧ (∀ e ∈ c.mat.planeS, e.1 < 64) ∧ ∀ t ∈ c.mat.badTiles, t < 8
  depths : c.act.ras.length ≤ 16 ∧ c.act.masks.length ≤ 8 ∧ c.act.early.length ≤ 16
  queues : c.counts.length ≤ 64 ∧ c.fmt.length ≤ 64 ∧ c.fifo.length ≤ 512 ∧ c.el.q.length ≤ 64 ∧ c.em.q.length ≤ 64 ∧ c.es.q.length ≤ 64

/-! ### Requests of this node -/

/-- u is s without the request x at place n of the retransmission store; a flow whose SYN it was sends again (R78, R84). -/
structure Unstored (s u : State) (n : Nat) (x : Stored) : Prop where
  outside : u = { s with gate := { s.gate with store := s.gate.store.take n ++ s.gate.store.drop (n + 1), flowsOut := u.gate.flowsOut } }
  flows : ∀ d c v, u.flowOut d c v =
    if d = x.req.node ∧ c = x.req.cls ∧ v = x.req.stream ∧ (s.flowOut d c v).held = some x.seq
    then { s.flowOut d c v with held := none } else s.flowOut d c v

/-! ### Policies -/

/-- The policy of the focus partition runs an operation of that cost and goes on at next: f says what it changes beside the registers, which
read as given; nothing else of the machine changes. -/
structure PolicyGoes (s t : State) (cost next : Nat) (f : Part → Part) (regs : Nat → W32) : Prop where
  outside : t = { s with parts := t.parts }
  others : ∀ p, p ≠ s.pol → t.getPart p = s.getPart p
  part : t.getPart s.pol = { f (s.getPart s.pol) with
    used := (s.getPart s.pol).used + cost, pc := next, g := (t.getPart s.pol).g }
  regs : ∀ r, (t.getPart s.pol).rg r = regs r
/-- u is s with the focus partition as y says, and its m-words shown to management (R197). -/
structure ShowsM (s u : State) (y : Part) : Prop where
  outside : u = { s with parts := u.parts, mem := u.mem, marks := u.marks }
  others : ∀ p, p ≠ s.pol → u.getPart p = s.getPart p
  part : u.getPart s.pol = y
  shown : ∀ i, i < 64 → u.readN (mgKey (partBlock s.pol + 0x100 + 4 * i)) 4 = (Tab.get 0 y.m i).toNat
  bytes : ∀ a, a < mgKey (partBlock s.pol + 0x100) ∨ mgKey (partBlock s.pol + 0x200) ≤ a → u.byte a = s.byte a
/-- The invocation under way ends abnormally: its decisions and loops go, OVERRUNS and the consecutive count advance, the m-words stay, the
fallback decides the event, and FAULT with cause 0x40 is queued (R195). -/
def EndsAbnormally (s t : State) (cause : Nat) : Prop :=
  let x := s.getPart s.pol
  ∃ e u, x.inv = some e ∧ t = (u.fallback s.pol e).slateEvent s.pol 3 0x40 0xFFFFFFFF (x.overruns + 1).toNat ∧ ShowsM s u
    { x with inv := none, decs := [], loops := [], overruns := x.overruns + 1, consec := min 8 (x.consec + 1)
             disabled := x.disabled || decide (8 ≤ x.consec + 1), lastCause := cause }

end Sys2Proof.Machine
end

