-- ==== Sys2Proof/Certificates/Slice0/Obligations.lean ====
section
/-!
DEFINITION. The statements of this slice, for the provers: what the rules of the spec say that an instruction or the machine does.
-/
open Sys2Proof Sys2Proof.Machine

/-- ADD, SUB, MUL, MULH, MULHU, the bitwise operations and MIN, MAX, MINU, MAXU write their result to s[SD] and nothing else
(15_scalar_and_control_instructions.md). -/
def Obligations.AddSubtractMultiplyAndLogic : Prop :=
  ∀ (s : State) (g : Guard) (sd sa sb : Nat) (imm : BitVec 32), s.holds g = true →
    let a := s.rs sa
    let b := s.rs sb
    let c := imm.signExtend 64
    let mulS (x y : W64) : W64 := (x.signExtend 128 * y.signExtend 128).extractLsb' 64 64
    let mulU (x y : W64) : W64 := (x.zeroExtend 128 * y.zeroExtend 128).extractLsb' 64 64
    Completes (.add g sd sa sb) s (fun t => WritesS s t 8 sd (a + b)) ∧
    Completes (.addImm g sd sa imm) s (fun t => WritesS s t 8 sd (a + c)) ∧
    Completes (.sub g sd sa sb) s (fun t => WritesS s t 8 sd (a - b)) ∧
    Completes (.subImm g sd sa imm) s (fun t => WritesS s t 8 sd (a - c)) ∧
    Completes (.mul g sd sa sb) s (fun t => WritesS s t 8 sd (a * b)) ∧
    Completes (.mulImm g sd sa imm) s (fun t => WritesS s t 8 sd (a * c)) ∧
    Completes (.mulh g sd sa sb) s (fun t => WritesS s t 8 sd (mulS a b)) ∧
    Completes (.mulhu g sd sa sb) s (fun t => WritesS s t 8 sd (mulU a b)) ∧
    Completes (.andR g sd sa sb) s (fun t => WritesS s t 8 sd (a &&& b)) ∧
    Completes (.andImm g sd sa imm) s (fun t => WritesS s t 8 sd (a &&& c)) ∧
    Completes (.orR g sd sa sb) s (fun t => WritesS s t 8 sd (a ||| b)) ∧
    Completes (.orImm g sd sa imm) s (fun t => WritesS s t 8 sd (a ||| c)) ∧
    Completes (.xorR g sd sa sb) s (fun t => WritesS s t 8 sd (a ^^^ b)) ∧
    Completes (.xorImm g sd sa imm) s (fun t => WritesS s t 8 sd (a ^^^ c)) ∧
    Completes (.andn g sd sa sb) s (fun t => WritesS s t 8 sd (a &&& ~~~b)) ∧
    Completes (.minR g sd sa sb) s (fun t => WritesS s t 8 sd (if a.slt b then a else b)) ∧
    Completes (.minImm g sd sa imm) s (fun t => WritesS s t 8 sd (if a.slt c then a else c)) ∧
    Completes (.maxR g sd sa sb) s (fun t => WritesS s t 8 sd (if a.slt b then b else a)) ∧
    Completes (.maxImm g sd sa imm) s (fun t => WritesS s t 8 sd (if a.slt c then c else a)) ∧
    Completes (.minu g sd sa sb) s (fun t => WritesS s t 8 sd (if a.ult b then a else b)) ∧
    Completes (.minuImm g sd sa imm) s (fun t => WritesS s t 8 sd (if a.ult c then a else c)) ∧
    Completes (.maxu g sd sa sb) s (fun t => WritesS s t 8 sd (if a.ult b then b else a)) ∧
    Completes (.maxuImm g sd sa imm) s (fun t => WritesS s t 8 sd (if a.ult c then c else a))

/-- DIV, DIVU, REM and REMU give the quotient and remainder of R355 and fault on nothing (R355). -/
def Obligations.DivisionNeverFaults : Prop :=
  ∀ (s : State) (g : Guard) (sd sa sb : Nat), s.holds g = true →
    let a := s.rs sa
    let b := s.rs sb
    let q : W64 := if b = 0 then BitVec.allOnes 64
                   else if a.toInt = -2 ^ 63 ∧ b.toInt = -1 then a else BitVec.ofInt 64 (a.toInt.tdiv b.toInt)
    let u : W64 := if b = 0 then BitVec.allOnes 64 else BitVec.ofNat 64 (a.toNat / b.toNat)
    Completes (.div g sd sa sb) s (fun t => WritesS s t 8 sd q) ∧
    Completes (.divu g sd sa sb) s (fun t => WritesS s t 8 sd u) ∧
    Completes (.rem g sd sa sb) s (fun t => WritesS s t 8 sd (a - q * b)) ∧
    Completes (.remu g sd sa sb) s (fun t => WritesS s t 8 sd (a - u * b))

/-- SHL, SHR and SAR shift by the whole unsigned count: 0 from 64 up, or 64 copies of bit 63 for SAR (R356). -/
def Obligations.ShiftsByAnyCount : Prop :=
  ∀ (s : State) (g : Guard) (sd sa sb : Nat) (imm : BitVec 32), s.holds g = true →
    let a := s.rs sa
    let left (v : W64) (n : Nat) : Prop := ∀ i, i < 64 → v.getLsbD i = (decide (n ≤ i) && a.getLsbD (i - n))
    let right (v : W64) (n : Nat) : Prop := ∀ i, i < 64 → v.getLsbD i = a.getLsbD (i + n)
    let keep (v : W64) (n : Nat) : Prop := ∀ i, i < 64 → v.getLsbD i = a.getLsbD (min (i + n) 63)
    let n := (s.rs sb).toNat
    let m := (imm.signExtend 64).toNat
    Completes (.shl g sd sa sb) s (fun t => ∃ v, left v n ∧ WritesS s t 8 sd v) ∧
    Completes (.shr g sd sa sb) s (fun t => ∃ v, right v n ∧ WritesS s t 8 sd v) ∧
    Completes (.sar g sd sa sb) s (fun t => ∃ v, keep v n ∧ WritesS s t 8 sd v) ∧
    Completes (.shlImm g sd sa imm) s (fun t => ∃ v, left v m ∧ WritesS s t 8 sd v) ∧
    Completes (.shrImm g sd sa imm) s (fun t => ∃ v, right v m ∧ WritesS s t 8 sd v) ∧
    Completes (.sarImm g sd sa imm) s (fun t => ∃ v, keep v m ∧ WritesS s t 8 sd v)

/-- NOP, CLZ, CTZ, POPC, EXT, SEL and MADD complete with the results of R357 and change nothing else (R357). -/
def Obligations.UnaryScalarOperations : Prop :=
  ∀ (s : State) (g : Guard) (sd sa sb sc pa : Nat) (x : Ext), s.holds g = true →
    let a := s.rs sa
    let extended : W64 := match x with
      | .b => (a.truncate 8).signExtend 64
      | .bu => (a.truncate 8).zeroExtend 64
      | .h => (a.truncate 16).signExtend 64
      | .hu => (a.truncate 16).zeroExtend 64
      | .w => (a.truncate 32).signExtend 64
      | .wu => (a.truncate 32).zeroExtend 64
    Completes (.nop g) s (fun t => GoesOn s t 8) ∧
    Completes (.clz g sd sa) s (fun t => ∃ n : Nat, n ≤ 64 ∧ (∀ i, 64 - n ≤ i → a.getLsbD i = false) ∧
      (n < 64 → a.getLsbD (63 - n) = true) ∧ WritesS s t 8 sd (BitVec.ofNat 64 n)) ∧
    Completes (.ctz g sd sa) s (fun t => ∃ n : Nat, n ≤ 64 ∧ (∀ i, i < n → a.getLsbD i = false) ∧
      (n < 64 → a.getLsbD n = true) ∧ WritesS s t 8 sd (BitVec.ofNat 64 n)) ∧
    Completes (.popc g sd sa) s (fun t =>
      WritesS s t 8 sd (BitVec.ofNat 64 ((List.range 64).filter fun i => a.getLsbD i).length)) ∧
    Completes (.ext g sd sa x) s (fun t => WritesS s t 8 sd extended) ∧
    Completes (.sel g sd sa sb pa) s (fun t => WritesS s t 8 sd (if s.rp pa then a else s.rs sb)) ∧
    Completes (.madd g sd sa sb sc) s (fun t => WritesS s t 8 sd (a * s.rs sb + s.rs sc))

/-- CMP and the predicate operations write predicates or their number; LI, ADDX, ANDX, ORX, ADDPC and SPPEER write their results;
nothing else changes (15_scalar_and_control_instructions.md). -/
def Obligations.PredicatesAndWideImmediates : Prop :=
  (∀ (s : State) (g : Guard) (c : Cond) (sd sa sb pd pa pb : Nat) (imm : BitVec 32), s.holds g = true → pd < 8 →
    let sat (x y : W64) : Bool := match c with
      | .eq => x == y
      | .ne => x != y
      | .lt => x.slt y
      | .ge => !x.slt y
      | .ltu => x.ult y
      | .geu => !x.ult y
    Completes (.cmp g c sa sb pd) s (fun t => WritesP s t pd (sat (s.rs sa) (s.rs sb))) ∧
    Completes (.cmpImm g c sa pd imm) s (fun t => WritesP s t pd (sat (s.rs sa) (imm.signExtend 64))) ∧
    Completes (.pand g pd pa pb) s (fun t => WritesP s t pd (s.rp pa && s.rp pb)) ∧
    Completes (.por g pd pa pb) s (fun t => WritesP s t pd (s.rp pa || s.rp pb)) ∧
    Completes (.pxor g pd pa pb) s (fun t => WritesP s t pd (s.rp pa ^^ s.rp pb)) ∧
    Completes (.pnot g pd pa) s (fun t => WritesP s t pd (!s.rp pa)) ∧
    Completes (.pget g sd) s (fun t => ∃ v : W64, (∀ i, i < 64 → v.getLsbD i = (decide (i < 8) && s.rp i)) ∧ WritesS s t 8 sd v) ∧
    Completes (.pset g sa) s (fun t => CtxOnly s t ∧ t.ctx = { s.ctx.advance 8 with p := t.ctx.p } ∧ t.rp 0 = true ∧
      ∀ q, 0 < q → q < 8 → t.rp q = (s.rs sa).getLsbD q)) ∧
  (∀ (s : State) (g : Guard) (sd sa : Nat) (imm : BitVec 32) (wide : W64), s.holds g = true →
    Completes (.li g sd wide) s (fun t => WritesS s t 16 sd wide) ∧
    Completes (.addx g sd sa wide) s (fun t => WritesS s t 16 sd (s.rs sa + wide)) ∧
    Completes (.andx g sd sa wide) s (fun t => WritesS s t 16 sd (s.rs sa &&& wide)) ∧
    Completes (.orx g sd sa wide) s (fun t => WritesS s t 16 sd (s.rs sa ||| wide)) ∧
    Completes (.addpc g sd imm) s (fun t => WritesS s t 8 sd (s.ctx.pc + imm.signExtend 64)) ∧
    Completes (.sppeer g sd sa imm) s (fun t =>
      WritesS s t 8 sd ((1#2 ++ (s.rs sa).truncate 8 ++ imm.truncate 22 : BitVec 32).zeroExtend 64)))

/-- LDS and STS of the own scratchpad read and write exactly the bytes at their offset, and an access out of range reads zero or
stores nothing (15_scalar_and_control_instructions.md). -/
def Obligations.OwnScratchpadLoadsAndStores : Prop :=
  ∀ (s : State) (g : Guard) (k : LdKind) (y : StKind) (sd sa : Nat) (imm : BitVec 32), s.holds g = true →
    let p := (s.rs sa).toNat % 2 ^ 32
    let off : Int := (p % 2 ^ 22 : Nat) + imm.toInt
    let key := spadKey s.core off.toNat
    let at_ : BitVec 32 := BitVec.ofNat 32 (p / 2 ^ 22 * 2 ^ 22 + (off % 2 ^ 22).toNat)
    s.ctx.ptrOwn p = true → s.ctx.rankOk p = true →
    (off % (ldSize k : Int) = 0 → 0 ≤ off → off + ldSize k ≤ 4194304 → s.sound key (ldSize k) →
      Completes (.lds g k sd sa imm) s (fun t => ∃ v, s.loads key k v ∧ WritesS s t 8 sd v)) ∧
    (off % (ldSize k : Int) = 0 → (off < 0 ∨ 4194304 < off + ldSize k) →
      Completes (.lds g k sd sa imm) s (fun t => OutOfRange s t at_ (some (sd, 0)))) ∧
    (off % (stSize y : Int) = 0 → 0 ≤ off → off + stSize y ≤ 4194304 →
      Completes (.sts g y sd sa imm) s (fun t => ∃ bs, storedBytes y (s.rs sd) bs ∧ StoresB s t key bs)) ∧
    (off % (stSize y : Int) = 0 → (off < 0 ∨ 4194304 < off + stSize y) →
      Completes (.sts g y sd sa imm) s (fun t => OutOfRange s t at_ none))

/-- LDS and STS of a peer's scratchpad become an outstanding load and a write under way, and a reserved or misaligned pointer faults
precisely (15_scalar_and_control_instructions.md, 10_memory_and_translation.md). -/
def Obligations.PeerScratchpadAndPointerFaults : Prop :=
  ∀ (s : State) (g : Guard) (k : LdKind) (y : StKind) (sd sa : Nat) (imm : BitVec 32), s.holds g = true →
    let p := (s.rs sa).toNat % 2 ^ 32
    let off : Int := (p % 2 ^ 22 : Nat) + imm.toInt
    (s.ctx.ptrOwn p = false → p < 2 ^ 31 → s.ctx.rankOk p = true →
      (off % (ldSize k : Int) = 0 → 0 ≤ off → off + ldSize k ≤ 4194304 →
        Completes (.lds g k sd sa imm) s (fun t => t.ctx = s.ctx.advance 8 ∧ (∀ a, t.byte a = s.byte a) ∧
          ∃ q : Pend, t.cur.pend = s.cur.pend ++ [q] ∧ q.ret = .scalar k sd ∧ q.fail = none ∧ q.sent = false ∧
            q.acc.lo = spadKey (s.rankCore (p / 2 ^ 22 % 2 ^ 8)) off.toNat ∧ q.acc.len = ldSize k)) ∧
      (off % (stSize y : Int) = 0 → 0 ≤ off → off + stSize y ≤ 4194304 →
        Completes (.sts g y sd sa imm) s (fun t => t.ctx = s.ctx.advance 8 ∧ (∀ a, t.byte a = s.byte a) ∧
          ∃ f : Flight, t.msys.flights = s.msys.flights ++ [f] ∧ storedBytes y (s.rs sd) f.bytes ∧
            f.dest = some (s.csr.teamId.toNat, p / 2 ^ 22 % 2 ^ 8, off.toNat) ∧ f.bad = [] ∧ f.obj = none ∧ f.count = none ∧
            t.cur.outw = s.cur.outw ++ [⟨f.acc, none⟩]))) ∧
    (s.ctx.ptrOwn p = false → p < 2 ^ 31 →
      let at_ : BitVec 32 := BitVec.ofNat 32 (p / 2 ^ 22 * 2 ^ 22 + (off % 2 ^ 22).toNat)
      (off % (ldSize k : Int) = 0 → (s.ctx.rankOk p = false ∨ off < 0 ∨ 4194304 < off + ldSize k) →
        Completes (.lds g k sd sa imm) s (fun t => OutOfRange s t at_ (some (sd, 0)))) ∧
      (off % (stSize y : Int) = 0 → (s.ctx.rankOk p = false ∨ off < 0 ∨ 4194304 < off + stSize y) →
        Completes (.sts g y sd sa imm) s (fun t => OutOfRange s t at_ none))) ∧
    (s.cur.run = .running → 2 ^ 31 ≤ p →
      Completes (.lds g k sd sa imm) s (fun t => FaultsAt s t 0x03 0 s.ctx.pc ∧ t.csr.faultAddr = BitVec.ofNat 64 p) ∧
      Completes (.sts g y sd sa imm) s (fun t => FaultsAt s t 0x03 0 s.ctx.pc ∧ t.csr.faultAddr = BitVec.ofNat 64 p)) ∧
    (s.cur.run = .running → p < 2 ^ 31 →
      (off % (ldSize k : Int) ≠ 0 → Completes (.lds g k sd sa imm) s (fun t => FaultsAt s t 0x05 0 s.ctx.pc)) ∧
      (off % (stSize y : Int) ≠ 0 → Completes (.sts g y sd sa imm) s (fun t => FaultsAt s t 0x05 0 s.ctx.pc)))

/-- LDG and STG: a local store changes exactly its bytes, a load is outstanding until its data returns, a remote leaf makes a READ or
a WRITE (15_scalar_and_control_instructions.md, 10_memory_and_translation.md). -/
def Obligations.LoadsAndStoresByVirtualAddress : Prop :=
  ∀ (s : State) (g : Guard) (k : LdKind) (y : StKind) (sd sa : Nat) (imm : BitVec 32) (p : Piece) (ps : List Piece),
    s.holds g = true →
    let va := s.rs sa + imm.signExtend 64
    let acc := s.accOf s.nextId 0 0 p
    let here := p.node == s.mg.node.toNat
    let queue := (s.die (homeDie acc.home)).parked
    let turn : Prop := s.lineHeld s.myAsid acc.va acc.lo = false ∧ queue.length < 256 ∧ ∀ e ∈ queue, e.2 ≠ acc.lo / 64
    (s.cur.shadow = [] → (∀ q ∈ s.cur.pend, q.isEarly = false) → va.toNat < 2 ^ 55 → va.toNat % ldSize k = 0 → s.xlate .read va.toNat (ldSize k) = .ok (p :: ps) →
      s.cur.mayIssue acc = true →
      Completes (.ldg g k sd sa imm) s (fun t => t.ctx = s.ctx.advance 8 ∧ (∀ a, t.byte a = s.byte a) ∧
        t.cur.pend = s.cur.pend ++ [{ acc := acc, ret := .scalar k sd, sent := !here, fail := none }] ∧
        (here = true → t.gate = s.gate) ∧
        (here = false → ∃ r : Req, t.gate.egress = s.gate.egress ++ [r] ∧ r.kind = 2 ∧ r.va = p.va ∧ r.len = p.len ∧
          r.node = p.node ∧ r.asker = .load s.core acc.id))) ∧
    (va.toNat < 2 ^ 55 → va.toNat % stSize y = 0 → s.xlate .write va.toNat (stSize y) = .ok (p :: ps) →
      s.cur.mayIssue acc = true →
      (here = true → s.cur.mayPerform acc = true → (acc.sync = true → turn) →
        Completes (.stg g y sd sa imm) s (fun t => t.ctx = s.ctx.advance 8 ∧ ∃ bs, storedBytes y (s.rs sd) bs ∧
          ∀ a, t.byte a = if p.key ≤ a ∧ a < p.key + stSize y then bs.getD (a - p.key) 0 else s.byte a)) ∧
      (here = true → acc.sync = true → ¬ turn → (∀ e ∈ queue, e.1 ≠ acc.id) →
        Completes (.stg g y sd sa imm) s (fun t => t.ctx = s.ctx.advance 8 ∧ (∀ a, t.byte a = s.byte a) ∧
          t.cur.outw = s.cur.outw ++ [{ acc := acc, obj := none }] ∧
          ∃ f : Flight, t.msys.flights = s.msys.flights ++ [f] ∧ f.acc = acc ∧ f.dest = none ∧ storedBytes y (s.rs sd) f.bytes)) ∧
      (here = false →
        Completes (.stg g y sd sa imm) s (fun t => t.ctx = s.ctx.advance 8 ∧ (∀ a, t.byte a = s.byte a) ∧
          t.cur.outw = s.cur.outw ++ [{ acc := acc, obj := none }] ∧
          ∃ r : Req, t.gate.egress = s.gate.egress ++ [r] ∧ r.kind = 1 ∧ r.va = p.va ∧ r.node = p.node ∧
            storedBytes y (s.rs sd) r.data))) ∧
    (s.cur.run = .running → s.cur.shadow = [] → (∀ q ∈ s.cur.pend, q.isEarly = false) → 2 ^ 55 ≤ va.toNat →
      Completes (.ldg g k sd sa imm) s (fun t => FaultsAt s t 0x03 0 s.ctx.pc ∧ t.csr.faultAddr = va) ∧
      Completes (.stg g y sd sa imm) s (fun t => FaultsAt s t 0x03 0 s.ctx.pc ∧ t.csr.faultAddr = va)) ∧
    (s.cur.run = .running → s.cur.shadow = [] → (∀ q ∈ s.cur.pend, q.isEarly = false) → va.toNat < 2 ^ 55 →
      (va.toNat % ldSize k ≠ 0 →
        Completes (.ldg g k sd sa imm) s (fun t => FaultsAt s t 0x05 0 s.ctx.pc ∧ t.csr.faultAddr = va)) ∧
      (va.toNat % stSize y ≠ 0 →
        Completes (.stg g y sd sa imm) s (fun t => FaultsAt s t 0x05 0 s.ctx.pc ∧ t.csr.faultAddr = va)))

/-- LOAD_RETURN performs an outstanding load when the order of its stream lets it and writes its data to the destination alone
(15_scalar_and_control_instructions.md, 09_core_and_engines.md, 11_memory_ordering.md). -/
def Obligations.LoadDataReturns : Prop :=
  ∀ (s : State) (q : Pend) (k : LdKind) (sd : Nat), s.cur.wait = .none →
    s.cur.pend.find? (fun p => p.acc.id == s.args.headD 0) = some q → q.ret = .scalar k sd → q.fail = none → q.sent = false →
    q.acc.len = ldSize k → q.acc.sync = false →
    (s.cur.mayPerform q.acc = true → s.bankBusy (s.core / 16) q.acc.lo q.acc.len = false → s.sound q.acc.lo q.acc.len →
      Completes .loadReturn s (fun t => CoreOnly s t ∧ t.cur.pend = s.cur.pend.filter (fun p => p.acc.id != q.acc.id) ∧
        t.ctx = { s.ctx with s := t.ctx.s, poisS := t.ctx.poisS, err := t.ctx.err } ∧
        ∃ v, s.loads q.acc.lo k v ∧ ∀ r, t.rs r = if r = 0 then 0 else if r = sd then v else s.rs r)) ∧
    (s.cur.mayPerform q.acc = false ∨ s.bankBusy (s.core / 16) q.acc.lo q.acc.len = true → exec .loadReturn s = .next s)

/-- BR, BZ, BNZ, BRMZ and JR transfer to their target when taken and go on when not; a JR target that is no multiple of 8 raises
ALIGNMENT (15_scalar_and_control_instructions.md). -/
def Obligations.BranchesTransferControl : Prop :=
  ∀ (s : State) (g : Guard) (sa : Nat) (disp : BitVec 32), s.holds g = true →
    let target : W64 := s.ctx.pc + disp.signExtend 64 * 8
    Completes (.br g disp) s (fun t => JumpsTo s t target) ∧
    Completes (.bz g sa disp) s (fun t => if s.rs sa = 0 then JumpsTo s t target else GoesOn s t 8) ∧
    Completes (.bnz g sa disp) s (fun t => if s.rs sa = 0 then GoesOn s t 8 else JumpsTo s t target) ∧
    Completes (.brmz g disp) s (fun t => if s.top = 0 then JumpsTo s t target else GoesOn s t 8) ∧
    ((s.rs sa).toNat % 8 = 0 → Completes (.jr g sa) s (fun t => JumpsTo s t (s.rs sa))) ∧
    ((s.rs sa).toNat % 8 ≠ 0 → s.cur.run = .running →
      Completes (.jr g sa) s (fun t => FaultsAt s t 0x05 0 s.ctx.pc))

/-- A taken branch closes, from the top, the loop levels opened at this call depth whose body does not hold its target, a return those
opened deeper, and no others (15_scalar_and_control_instructions.md). -/
def Obligations.TakenBranchClosesTheLevelsItLeaves : Prop :=
  ∀ (x : Ctx) (target : W64),
    let leaves (d : Nat) : Prop := x.callDepth = (x.level d).cd ∧
      (target.toNat < (x.level d).start.toNat ∨ (x.level d).last.toNat < target.toNat)
    let y := closeLevels 4 x target
    let deeper (d : Nat) : Prop := x.callDepth.toNat < (x.level d).cd.toNat
    let z := closeAfterRet 4 x
    (y = { x with lpDepth := y.lpDepth } ∧ y.lpDepth ≤ x.lpDepth ∧ (∀ d, y.lpDepth ≤ d → d < x.lpDepth → leaves d) ∧
      (y.lpDepth = 0 ∨ ¬ leaves (y.lpDepth - 1) ∨ x.lpDepth = y.lpDepth + 4)) ∧
    z = { x with lpDepth := z.lpDepth } ∧ z.lpDepth ≤ x.lpDepth ∧ (∀ d, z.lpDepth ≤ d → d < x.lpDepth → deeper d) ∧
    (z.lpDepth = 0 ∨ ¬ deeper (z.lpDepth - 1) ∨ x.lpDepth = z.lpDepth + 4)

/-- CALL and CALLR push PC + 8 and count CALLDEPTH up, RET takes it back; a full store spills its oldest entry below s63 and an empty
one reloads it (15_scalar_and_control_instructions.md, 09_core_and_engines.md). -/
def Obligations.CallsAndReturns : Prop :=
  ∀ (s : State) (g : Guard) (sa : Nat) (disp : BitVec 32), s.holds g = true →
    let x := s.ctx
    let sp := s.rs 63
    let frame (t : State) : Prop := t = { s with mem := t.mem, marks := t.marks, cores := t.cores } ∧
      (∀ c, c ≠ s.core → t.getCore c = s.getCore c) ∧ t.cur = { s.cur with act := t.ctx }
    let next : Csr := { x.csr with schedCtr := x.csr.tick }
    let called (t : State) (target : W64) (rest : List W64) : Prop := frame t ∧ t.ctx = { x with
      s := t.ctx.s, poisS := t.ctx.poisS, err := t.ctx.err, pc := target, via := some x.pc, ras := (x.pc + 8) :: rest
      callDepth := x.callDepth + 1, csr := next }
    let calls (i : Instr) (target : W64) : Prop :=
      (x.ras.length < 16 → Completes i s (fun t => called t target x.ras ∧ t.ctx.s = x.s ∧ t.ctx.poisS = x.poisS ∧ t.ctx.err = x.err ∧
        ∀ a, t.byte a = s.byte a)) ∧
      (x.ras.length = 16 → s.csr.stkBase ≠ s.csr.stkLim → s.csr.stkLim.toNat + 8 ≤ sp.toNat → sp.toNat % 8 = 0 → sp.toNat ≤ 4194304 →
        Completes i s (fun t => called t target (x.ras.take 15) ∧
          (∀ r, t.rs r = if r = 0 then 0 else if r = 63 then sp - 8 else s.rs r) ∧
          ∀ a, t.byte a = if spadKey s.core (sp.toNat - 8) ≤ a ∧ a < spadKey s.core sp.toNat then
            BitVec.ofNat 8 ((x.ras.getD 15 0).toNat / 2 ^ (8 * (a - spadKey s.core (sp.toNat - 8)))) else s.byte a)) ∧
      (x.ras.length = 16 → s.cur.run = .running → (s.csr.stkBase = s.csr.stkLim ∨ (sp - 8).toNat < s.csr.stkLim.toNat) →
        Completes i s (fun t => FaultsAt s t 0x06 0 x.pc)) ∧
      (x.ras.length = 16 → s.cur.run = .running → s.csr.stkBase ≠ s.csr.stkLim → s.csr.stkLim.toNat ≤ (sp - 8).toNat →
        sp.toNat % 8 ≠ 0 → Completes i s (fun t => FaultsAt s t 0x05 0 x.pc))
    let returned (t : State) (target : W64) (rest : List W64) : Prop := frame t ∧ t.ctx = { x with
      s := t.ctx.s, poisS := t.ctx.poisS, err := t.ctx.err, pc := target, via := some x.pc, ras := rest
      callDepth := x.callDepth - 1, lpDepth := (closeAfterRet 4 { x with callDepth := x.callDepth - 1 }).lpDepth, csr := next } ∧
      ∀ a, t.byte a = s.byte a
    calls (.call g disp) (x.pc + disp.signExtend 64 * 8) ∧
    ((s.rs sa).toNat % 8 = 0 → calls (.callr g sa) (s.rs sa)) ∧
    (∀ a rest, x.ras = a :: rest → Completes (.ret g) s (fun t => returned t a rest ∧ t.ctx.s = x.s ∧ t.ctx.poisS = x.poisS ∧ t.ctx.err = x.err)) ∧
    (x.ras = [] → sp.toNat < s.csr.stkBase.toNat → sp.toNat % 8 = 0 → s.sound (spadKey s.core sp.toNat) 8 →
      s.readN (spadKey s.core sp.toNat) 8 % 8 = 0 →
      Completes (.ret g) s (fun t => returned t (BitVec.ofNat 64 (s.readN (spadKey s.core sp.toNat) 8)) [] ∧
        ∀ r, t.rs r = if r = 0 then 0 else if r = 63 then sp + 8 else s.rs r)) ∧
    (x.ras = [] → s.cur.run = .running → s.csr.stkBase.toNat ≤ sp.toNat → Completes (.ret g) s (fun t => FaultsAt s t 0x07 0 x.pc)) ∧
    (x.ras = [] → s.cur.run = .running → sp.toNat < s.csr.stkBase.toNat → sp.toNat % 8 ≠ 0 →
      Completes (.ret g) s (fun t => FaultsAt s t 0x05 0 x.pc)) ∧
    (s.cur.run = .running → (s.rs sa).toNat % 8 ≠ 0 → Completes (.callr g sa) s (fun t => FaultsAt s t 0x05 0 x.pc))

/-- LOOP and LOOPQ open a level, or skip the body for a count of 0, or raise ILLEGAL_OP where they would not nest; a top level's end
bundle repeats or closes it (15_scalar_and_control_instructions.md, 09_core_and_engines.md). -/
def Obligations.HardwareLoops : Prop :=
  (∀ (s : State) (g : Guard) (sa : Nat) (disp : BitVec 32), s.holds g = true →
    let x := s.ctx
    let e : W64 := x.pc + disp.signExtend 64 * 8
    let nests : Prop := 0 < disp.toInt ∧ x.lpDepth < 4 ∧ (x.lpDepth = 0 ∨ e.toNat ≤ (x.level (x.lpDepth - 1)).last.toNat)
    let opened (t : State) (n : W64) : Prop := (∀ r, t.rs r = s.rs r) ∧ (∀ a, t.byte a = s.byte a) ∧
      t.csr.schedCtr = s.csr.tick ∧
      if n = 0 then t.ctx.pc = s.after e ∧ t.ctx.lpDepth = x.lpDepth ∧ t.ctx.levels = x.levels
      else t.ctx.pc = x.pc + 8 ∧ t.ctx.lpDepth = x.lpDepth + 1 ∧
        t.ctx.levels = x.levels.set x.lpDepth { start := x.pc + 8, last := e, cnt := n, cd := x.callDepth }
    (nests → Completes (.loop g sa disp) s (fun t => opened t (s.rs sa))) ∧
    (nests → ∀ n rest, s.cur.counts = (n, none) :: rest →
      Completes (.loopq g disp) s (fun t => opened t (n.zeroExtend 64) ∧ t.cur.counts = rest)) ∧
    (nests → ∀ n a rest, s.cur.counts = (n, some a) :: rest → s.cur.run = .running → Completes (.loopq g disp) s (fun t =>
      t.cur.run = .faulted ∧ t.csr.code = 0x0F ∧ t.csr.faultPc = x.pc ∧ t.csr.faultAddr = a ∧ t.cur.counts = s.cur.counts)) ∧
    (nests → s.cur.counts = [] → s.cur.el.hasCqfill = true → exec (.loopq g disp) s = .next s) ∧
    (nests → s.cur.counts = [] → s.cur.el.hasCqfill = false → s.cur.run = .running →
      Completes (.loopq g disp) s (fun t => FaultsAt s t 0x0C 0 x.pc)) ∧
    (x.lpDepth ≤ 4 → ¬ nests → s.cur.run = .running →
      Completes (.loop g sa disp) s (fun t => FaultsAt s t 0x01 0 x.pc ∧ t.csr.faultAddr = x.pc) ∧
      Completes (.loopq g disp) s (fun t => FaultsAt s t 0x01 0 x.pc ∧ t.csr.faultAddr = x.pc))) ∧
  (∀ (x : Ctx) (n : Nat),
    let top := x.level (x.lpDepth - 1)
    let atEnd : Prop := x.lpDepth ≠ 0 ∧ top.last = x.pc ∧ top.cd = x.callDepth
    let y := x.advance n
    (atEnd → 1 < top.cnt.toNat → y.pc = top.start ∧ y.lpDepth = x.lpDepth ∧
      y.levels = x.levels.set (x.lpDepth - 1) { top with cnt := top.cnt - 1 } ∧ y.via = some x.pc) ∧
    (atEnd → top.cnt.toNat ≤ 1 →
      (x.lpDepth = 1 ∨ (x.level (x.lpDepth - 2)).last ≠ x.pc ∨ (x.level (x.lpDepth - 2)).cd ≠ x.callDepth) →
      y.pc = x.pc + BitVec.ofNat 64 n ∧ y.lpDepth = x.lpDepth - 1 ∧ y.levels = x.levels ∧ y.via = none) ∧
    (¬ atEnd → y.pc = x.pc + BitVec.ofNat 64 n ∧ y.lpDepth = x.lpDepth ∧ y.levels = x.levels ∧ y.via = none) ∧
    y.csr = { x.csr with schedCtr := if x.csr.timed then x.csr.schedCtr + 1 else x.csr.schedCtr } ∧ y.s = x.s ∧ y.p = x.p ∧ y.v = x.v ∧ y.masks = x.masks ∧
    y.ras = x.ras ∧ y.callDepth = x.callDepth)

/-- EXIT drains and then ends the strand: nothing more issues, and open loops, the return-address store and the mask stack are
discarded (15_scalar_and_control_instructions.md, 09_core_and_engines.md). -/
def Obligations.ExitEndsTheStrand : Prop :=
  ∀ (s : State) (g : Guard),
    let ended (t : State) : Prop := CoreOnly s t ∧ t.cur.run = .exited ∧ t.cur.wait = .none ∧
      t.ctx = { s.ctx with lpDepth := 0, ras := [], masks := [] }
    (s.holds g = true → s.cur.pend = [] → s.cur.failed = [] → s.cur.drained = true → Completes (.exit g) s ended) ∧
    (s.holds g = true → (∀ p ∈ s.cur.pend, p.fail = none) → s.cur.drained = false →
      Completes (.exit g) s (fun t => CoreOnly s t ∧ t.cur = { s.cur with wait := .exit })) ∧
    (s.cur.wait = .exit → s.cur.run = .running → s.cur.pend = [] → s.cur.failed = [] → s.cur.drained = true →
      Completes .strandEnd s ended) ∧
    (∀ f fs, s.holds g = true → s.cur.run = .running → s.cur.pend = [] → s.cur.drained = true → s.cur.failed = f :: fs →
      Completes (.exit g) s (fun t => t.cur.run = .faulted ∧ t.csr.code = 0x12 ∧ t.csr.faultPc = s.ctx.pc ∧
        (fs = [] → t.csr.faultAddr = f.va)))

/-- CSRR reads every CSR; CSRW, CSRS and CSRC write STKBASE, STKLIM, OOBFLAG, OOBADDR, ERRADDR and RNGSEED whole, ORed or cleared,
their reserved bits ignored (15_scalar_and_control_instructions.md, 13_number_formats_and_arithmetic.md). -/
def Obligations.ControlAndStatusRegisters : Prop :=
  ∀ (s : State) (g : Guard) (sd sa : Nat), s.holds g = true →
    let c := s.csr
    let writes (n : Nat) (old : W64) (set : W64 → Csr → Csr) (rng : W64 → Tab W32) : Prop :=
      (∀ (i : Instr) (v : W64), (i = .csrw g sa n ∧ v = s.rs sa) ∨ (i = .csrs g sa n ∧ v = (old ||| s.rs sa)) ∨
          (i = .csrc g sa n ∧ v = (old &&& ~~~ s.rs sa)) →
        Completes i s (fun t => CtxOnly s t ∧
          t.ctx = { s.ctx.advance 8 with csr := set v { c with schedCtr := c.tick }, rng := rng v }))
    let reads (n : Nat) (v : W64) : Prop := Completes (.csrr g sd n) s (fun t => WritesS s t 8 sd v)
    let same (_ : W64) : Tab W32 := s.ctx.rng
    let die := Tab.get Die.zero s.dies (s.core / 16)
    let begins : Int := c.schedCtr.toNat + (die.refAt + 512 : Nat) - s.cycle
    writes 0x006 c.stkBase (fun v c => { c with stkBase := v &&& 0x3FFFF8 }) same ∧
    writes 0x007 c.stkLim (fun v c => { c with stkLim := v &&& 0x3FFFF8 }) same ∧
    writes 0x008 (if c.oobFlag then 1 else 0) (fun v c => { c with oobFlag := v.getLsbD 0 }) same ∧
    writes 0x009 (c.oobAddr.zeroExtend 64) (fun v c => { c with oobAddr := v.truncate 32 }) same ∧
    writes 0x00E c.errAddr (fun v c => { c with errAddr := v }) same ∧
    writes 0x012 (c.seed.zeroExtend 64) (fun v c => { c with seed := v.truncate 32 }) (fun v => seedStates (v.truncate 32)) ∧
    reads 0x000 (BitVec.ofNat 64 (c.part.toNat * 2 ^ 28 + s.ctx.lpDepth * 2 ^ 24 + s.ctx.ras.length * 2 ^ 19 + s.ctx.masks.length * 2 ^ 15 +
      s.cur.fmt.length * 2 ^ 8 + (if c.grouped then 2 else 0) + (if c.timed then 1 else 0))) ∧
    reads 0x001 (c.physid.zeroExtend 64) ∧ reads 0x002 (c.rank.zeroExtend 64) ∧ reads 0x003 (c.teamSize.zeroExtend 64) ∧
    reads 0x004 (c.teamId.zeroExtend 64) ∧ reads 0x005 (c.preempts.zeroExtend 64) ∧ reads 0x006 c.stkBase ∧ reads 0x007 c.stkLim ∧
    reads 0x008 (if c.oobFlag then 1 else 0) ∧ reads 0x009 (c.oobAddr.zeroExtend 64) ∧
    reads 0x00A c.faultPc ∧ reads 0x00B c.faultAddr ∧ reads 0x00C c.branchPc ∧
    reads 0x00D (BitVec.ofNat 64 (c.srcq.toNat * 256 + c.code.toNat)) ∧ reads 0x00E c.errAddr ∧ reads 0x010 c.schedCtr ∧
    reads 0x011 (BitVec.ofNat 64 ((die.refGroup + 1) % 8 * 2 ^ 32 + (begins % (2 ^ 32 : Int)).toNat)) ∧
    reads 0x012 (c.seed.zeroExtend 64) ∧ reads 0x020 s.mg.torus ∧ reads 0x021 (s.mg.node.zeroExtend 64) ∧ reads 0x022 s.mg.scopetab ∧
    reads 0x030 (s.ctx.callDepth.zeroExtend 64) ∧ reads 0x031 (BitVec.ofNat 64 s.ctx.lpDepth) ∧
    ∀ k, k < 4 → reads (0x032 + k) (s.ctx.level k).start ∧ reads (0x036 + k) (s.ctx.level k).last ∧
      reads (0x03A + k) (s.ctx.level k).cnt ∧ reads (0x03E + k) ((s.ctx.level k).cd.zeroExtend 64)

/-- TRAP and BRK fault with FAULTADDR the immediate and count as executed; ICINV empties the instruction cache once its prior writes
are performed (15_scalar_and_control_instructions.md). -/
def Obligations.TrapsAndInstructionCache : Prop :=
  ∀ (s : State) (g : Guard) (imm : BitVec 16), s.cur.run = .running →
    let trapped (code : BitVec 8) (t : State) : Prop := CoreOnly s t ∧ t.cur.run = .faulted ∧ t.ctx = { s.ctx.advance 8 with
      csr := { s.csr with schedCtr := s.csr.tick, code := code, srcq := 0, faultPc := s.ctx.pc,
                          faultAddr := imm.zeroExtend 64 } }
    let emptied (t : State) : Prop := CoreOnly s t ∧ t.cur.icache = [] ∧ t.cur.wait = .none ∧ t.ctx = s.ctx.advance 8
    (s.holds g = true →
      Completes (.trap g imm) s (trapped 0x14) ∧ Completes (.brk g imm) s (trapped 0x15) ∧
      (s.writesDone 3 false = true → Completes (.icinv g) s emptied) ∧
      (s.writesDone 3 false = false → Completes (.icinv g) s (fun t => CoreOnly s t ∧ t.cur = { s.cur with wait := .icinv }))) ∧
    (s.cur.wait = .icinv → s.writesDone 3 false = true → Completes .icinvDone s emptied)

/-- Integer vector arithmetic gives each element the exact result modulo 2^w, or clamped to the type's range under .sat (R384). -/
def Obligations.IntegerElementArithmetic : Prop :=
  ∀ (s : State) (g : Guard) (vd va vb vc : Nat) (b : SOperand) (ty : VType) (rnd : Rnd) (sat : Bool), s.holds g = true →
    ty ∈ [VType.i8, .ui8, .i16, .i32] →
    let w := vWidth ty
    let val (n : Nat) : Int := if ty = .ui8 then n else (BitVec.ofNat w n).toInt
    let lo : Int := if ty = .ui8 then 0 else -2 ^ (w - 1)
    let hi : Int := if ty = .ui8 then 255 else 2 ^ (w - 1) - 1
    let A (k : Nat) := val (elem (s.rv va) w k)
    let B (k : Nat) := val (elem (s.rv vb) w k)
    let C (k : Nat) := val (elem (s.rv vc) w k)
    let x : Int := val (match b with
      | .reg r => (s.rs r).toNat % 2 ^ w
      | .imm i => (i.signExtend 64).toNat % 2 ^ w)
    let gets (f : Nat → Int) (t : State) : Prop := ∃ h : Nat → Nat, WritesV s t vd w h ∧ ∀ k, h k < 2 ^ w ∧
      if sat then val (h k) = max lo (min hi (f k)) else (2 ^ w : Int) ∣ val (h k) - f k
    let getsExactly (f : Nat → Int) (t : State) : Prop := ∃ h : Nat → Nat, WritesV s t vd w h ∧ ∀ k, h k < 2 ^ w ∧ val (h k) = f k
    Completes (.vadd g vd va vb ty rnd sat) s (gets fun k => A k + B k) ∧
    Completes (.vaddScalar g vd va b ty rnd sat) s (gets fun k => A k + x) ∧
    Completes (.vsub g vd va vb ty rnd sat) s (gets fun k => A k - B k) ∧
    Completes (.vsubScalar g vd va b ty rnd sat) s (gets fun k => A k - x) ∧
    Completes (.vmul g vd va vb ty rnd sat) s (gets fun k => A k * B k) ∧
    Completes (.vmulScalar g vd va b ty rnd sat) s (gets fun k => A k * x) ∧
    Completes (.vfma g vd va vb vc ty rnd sat) s (gets fun k => A k * B k + C k) ∧
    (ty ≠ .ui8 → Completes (.vabs g vd va ty sat) s (gets fun k => (A k).natAbs)) ∧
    (ty ≠ .ui8 → Completes (.vneg g vd va ty sat) s (gets fun k => -A k)) ∧
    Completes (.vmin g vd va vb ty) s (getsExactly fun k => min (A k) (B k)) ∧
    Completes (.vminScalar g vd va b ty) s (getsExactly fun k => min (A k) x) ∧
    Completes (.vmax g vd va vb ty) s (getsExactly fun k => max (A k) (B k)) ∧
    Completes (.vmaxScalar g vd va b ty) s (getsExactly fun k => max (A k) x)

/-- Floating vector arithmetic rounds the exact result once, by ROUND; VMIN, VMAX, VABS and VNEG round nothing (R385). -/
def Obligations.FloatingElementArithmetic : Prop :=
  (∀ (s : State) (g : Guard) (vd va vb vc sb : Nat) (ty : VType) (rnd : Rnd), s.holds g = true →
    ty ∈ [VType.f32, .bf16] → rnd ∈ [Rnd.rne, .rtz] →
    let w := vWidth ty
    let F := fmtOf ty
    let a (k : Nat) := elem (s.rv va) w k
    let b (k : Nat) := elem (s.rv vb) w k
    let c (k : Nat) := elem (s.rv vc) w k
    let x := (s.rs sb).toNat % 2 ^ w
    let val := F.value
    let rounds (f : Nat → FV) (t : State) : Prop := WritesV s t vd w fun k => F.round rnd false (f k)
    let picks (y : Nat → Nat) (lower : FV → FV → Bool) (t : State) : Prop := ∃ h : Nat → Nat, WritesV s t vd w h ∧ ∀ k,
      if (val (a k)).isNan ∨ (val (y k)).isNan then h k = F.nanBits
      else (h k = a k ∨ h k = y k) ∧ lower (val (a k)) (val (h k)) = false ∧ lower (val (y k)) (val (h k)) = false
    let sign (keep : Bool → Bool) (t : State) : Prop := ∃ h : Nat → Nat, WritesV s t vd w h ∧ ∀ k,
      if (val (a k)).isNan then h k = F.nanBits
      else h k < 2 ^ w ∧ ∀ i, i < w → (h k).testBit i = if i = w - 1 then keep ((a k).testBit i) else (a k).testBit i
    Completes (.vadd g vd va vb ty rnd false) s (rounds fun k => (val (a k)).add (val (b k))) ∧
    Completes (.vaddScalar g vd va (.reg sb) ty rnd false) s (rounds fun k => (val (a k)).add (val x)) ∧
    Completes (.vsub g vd va vb ty rnd false) s (rounds fun k => (val (a k)).add (val (b k)).neg) ∧
    Completes (.vsubScalar g vd va (.reg sb) ty rnd false) s (rounds fun k => (val (a k)).add (val x).neg) ∧
    Completes (.vmul g vd va vb ty rnd false) s (rounds fun k => (val (a k)).mul (val (b k))) ∧
    Completes (.vmulScalar g vd va (.reg sb) ty rnd false) s (rounds fun k => (val (a k)).mul (val x)) ∧
    Completes (.vfma g vd va vb vc ty rnd false) s (rounds fun k => ((val (a k)).mul (val (b k))).add (val (c k))) ∧
    Completes (.vmin g vd va vb ty) s (picks b fun u v => u.below v) ∧
    Completes (.vminScalar g vd va (.reg sb) ty) s (picks (fun _ => x) fun u v => u.below v) ∧
    Completes (.vmax g vd va vb ty) s (picks b fun u v => v.below u) ∧
    Completes (.vmaxScalar g vd va (.reg sb) ty) s (picks (fun _ => x) fun u v => v.below u) ∧
    Completes (.vabs g vd va ty false) s (sign fun _ => false) ∧
    Completes (.vneg g vd va ty false) s (sign fun b => !b)) ∧
  (∀ (F : FFmt) (bits p : Nat) (emin : Int) (top nan : Nat) (inf : Bool),
    (F, bits, p, emin, top, nan, inf) ∈ [(fmtF32, 32, 24, -126, (2 ^ 24 - 1) * 2 ^ 104, 0x7FC00000, true),
      (fmtBf16, 16, 8, -126, (2 ^ 8 - 1) * 2 ^ 120, 0x7FC0, true), (fmtE4m3, 8, 4, -6, 448, 0x7F, false),
      (fmtE5m2, 8, 3, -14, 57344, 0x7E, true)] →
    F.bits = bits ∧ F.nanBits = nan ∧ F.hasInf = inf ∧
    (∀ n, n < 2 ^ bits →
      let neg := n.testBit (bits - 1)
      let ex : Nat := n / 2 ^ (p - 1) % 2 ^ (bits - p)
      let frac : Nat := n % 2 ^ (p - 1)
      let ones : Prop := ex = 2 ^ (bits - p) - 1
      let normal : Rat := (1 + (frac : Rat) / 2 ^ (p - 1)) * 2 ^ ((ex : Int) + emin - 1)
      (ex = 0 → (F.value n).IsFin neg ((frac : Rat) * 2 ^ (emin - (p - 1 : Nat)))) ∧ (ex ≠ 0 → ¬ ones → (F.value n).IsFin neg normal) ∧
      (ones → if inf = true then F.value n = (if frac = 0 then .inf neg else .nan)
        else if frac = 2 ^ (p - 1) - 1 then F.value n = .nan else (F.value n).IsFin neg normal)) ∧
    ∀ (mode : Rnd) (sat neg : Bool) (u : Nat), u < 65536 →
      (∀ (m : Nat) (e : Int), 0 < m →
        RoundsTo F p emin top mode sat u neg (fun y => y - m * 2 ^ e) (F.roundU mode sat u (.fin neg m e))) ∧
      (∀ e, (F.value (F.roundU mode sat u (.fin neg 0 e))).IsFin neg 0) ∧ F.roundU mode sat u .nan = nan ∧
      (let r := F.roundU mode sat u (.inf neg)
        if sat = true then (F.value r).IsFin neg top else if inf = true then F.value r = .inf neg else r = nan) ∧
      ∀ v, F.round mode sat v = F.roundU mode sat 0 v) ∧
  (∀ v, rne32 v = fmtF32.round .rne false v) ∧
  (∀ (a b : FV) (x y : Rat) (neg minus : Bool), a.IsFin neg x → b.IsFin minus y →
    let sg (b : Bool) : Rat := if b then -1 else 1
    (a.add b).Is (sg neg * x + sg minus * y) ∧ (∀ z e, a.add b = .fin z 0 e → z = (neg && minus && x == 0 && y == 0)) ∧
    (a.mul b).IsFin (neg != minus) (x * y) ∧ a.neg.IsFin (!neg) x ∧ (a.lt b = true ↔ sg neg * x < sg minus * y) ∧
    (a.below b = true ↔ a.lt b = true ∨ (x = 0 ∧ y = 0 ∧ neg = true ∧ minus = false)) ∧
    (FV.inf neg).add b = .inf neg ∧ b.add (.inf neg) = .inf neg ∧
    (FV.inf neg).mul b = (if y = 0 then .nan else .inf (neg != minus)) ∧ b.mul (.inf neg) = (if y = 0 then .nan else .inf (neg != minus))) ∧
  (∀ (a : FV) (x y : Bool), FV.nan.add a = .nan ∧ a.add .nan = .nan ∧ FV.nan.mul a = .nan ∧ a.mul .nan = .nan ∧
    (FV.inf x).add (.inf y) = (if x = y then .inf x else .nan) ∧ (FV.inf x).mul (.inf y) = .inf (x != y) ∧ (FV.inf x).neg = .inf (!x))

/-- Vector logic, shifts, moves, permutation, iota and broadcast write each enabled element as R389, R397 and R398 give (R389, R397). -/
def Obligations.VectorLogicShiftsAndMoves : Prop :=
  ∀ (s : State) (g : Guard) (vd va vb : Nat) (o : SOperand) (ty : VType), s.holds g = true →
    let w := vWidth ty
    let a (n k : Nat) := elem (s.rv va) n k
    let b (n k : Nat) := elem (s.rv vb) n k
    let x : Nat := match o with
      | .reg r => (s.rs r).toNat % 2 ^ w
      | .imm i => (i.signExtend 64).toNat % 2 ^ w
    let left (n : Nat → Nat) (t : State) := WritesV s t vd w fun k => if w ≤ n k then 0 else a w k * 2 ^ n k
    let right (n : Nat → Nat) (t : State) := WritesV s t vd w fun k => a w k / 2 ^ n k
    let keep (n : Nat → Nat) (t : State) := ∃ h : Nat → Nat, WritesV s t vd w h ∧ ∀ k i, i < w →
      (h k).testBit i = (a w k).testBit (min (i + n k) (w - 1))
    Completes (.vand g vd va vb) s (fun t => WritesV s t vd 32 fun k => a 32 k &&& b 32 k) ∧
    Completes (.vandScalar g vd va o ty) s (fun t => WritesV s t vd w fun k => a w k &&& x) ∧
    Completes (.vor g vd va vb) s (fun t => WritesV s t vd 32 fun k => a 32 k ||| b 32 k) ∧
    Completes (.vorScalar g vd va o ty) s (fun t => WritesV s t vd w fun k => a w k ||| x) ∧
    Completes (.vxor g vd va vb) s (fun t => WritesV s t vd 32 fun k => a 32 k ^^^ b 32 k) ∧
    Completes (.vxorScalar g vd va o ty) s (fun t => WritesV s t vd w fun k => a w k ^^^ x) ∧
    Completes (.vnot g vd va) s (fun t => WritesV s t vd 32 fun k => 2 ^ 32 - 1 - a 32 k) ∧
    Completes (.vmov g vd va) s (fun t => WritesV s t vd 32 fun k => a 32 k) ∧
    Completes (.vshl g vd va vb ty) s (left fun k => b w k) ∧
    Completes (.vshlScalar g vd va o ty) s (left fun _ => x) ∧
    Completes (.vshr g vd va vb ty) s (right fun k => b w k) ∧
    Completes (.vshrScalar g vd va o ty) s (right fun _ => x) ∧
    Completes (.vsar g vd va vb ty) s (keep fun k => b w k) ∧
    Completes (.vsarScalar g vd va o ty) s (keep fun _ => x) ∧
    Completes (.vperm g vd va vb ty) s (fun t => WritesV s t vd w fun k => if b w k < 4096 / w then a w (b w k) else 0) ∧
    Completes (.viota g vd ty) s (fun t => WritesV s t vd w fun k => k) ∧
    Completes (.vbcast g vd o ty) s (fun t => WritesV s t vd w fun _ => x)

/-- VCMP writes all ones or zero by the condition of R386, and VSEL selects element by element (R387). -/
def Obligations.VectorComparesAndSelection : Prop :=
  ∀ (s : State) (g : Guard) (vd va vb vc : Nat) (o : SOperand) (c : Cond) (ty : VType), s.holds g = true →
    let w := vWidth ty
    let a (k : Nat) := elem (s.rv va) w k
    let b (k : Nat) := elem (s.rv vb) w k
    let x : Nat := match o with
      | .reg r => (s.rs r).toNat % 2 ^ w
      | .imm i => (i.signExtend 64).toNat % 2 ^ w
    let val (n : Nat) : Int := if ty = .ui8 then n else (BitVec.ofNat w n).toInt
    let fl := (fmtOf ty).value
    let nan (m n : Nat) : Prop := (fl m).isNan ∨ (fl n).isNan
    let lt (m n : Nat) : Prop := (fl m).lt (fl n) = true
    let isF : Prop := ty ∈ [VType.f32, .bf16]
    let holds (m n : Nat) : Prop := match c with
      | .eq => if isF then ¬ nan m n ∧ ¬ lt m n ∧ ¬ lt n m else m = n
      | .ne => if isF then nan m n ∨ lt m n ∨ lt n m else m ≠ n
      | .lt => if isF then ¬ nan m n ∧ lt m n else val m < val n
      | .ge => if isF then ¬ nan m n ∧ ¬ lt m n else val n ≤ val m
      | .ltu => m < n
      | .geu => n ≤ m
    let flags (y : Nat → Nat) (t : State) : Prop := ∃ h : Nat → Nat, WritesV s t vd w h ∧ ∀ k,
      (holds (a k) (y k) → h k = 2 ^ w - 1) ∧ (¬ holds (a k) (y k) → h k = 0)
    (ty ∈ [VType.f32, .bf16, .i8, .ui8, .i16, .i32] → (isF → c ≠ .ltu ∧ c ≠ .geu) →
      Completes (.vcmp g c vd va vb ty) s (flags b) ∧ Completes (.vcmpScalar g c vd va o ty) s (flags fun _ => x)) ∧
    Completes (.vsel g vd va vb vc ty) s (fun t => WritesV s t vd w fun k => if elem (s.rv vc) w k ≠ 0 then a k else b k)

/-- MPUSH, MINV and MPOP push, invert and pop the mask stack, and fault with MASK_OVERFLOW and MASK_UNDERFLOW (R388, R220). -/
def Obligations.MaskStackActs : Prop :=
  ∀ (s : State) (g : Guard) (va : Nat), s.holds g = true →
    let becomes (m : List (BitVec 128)) (t : State) : Prop := CtxOnly s t ∧ t.ctx = { s.ctx.advance 8 with masks := m }
    (s.ctx.masks.length < 8 → Completes (.mpush g va) s (fun t => ∃ c, becomes (c :: s.ctx.masks) t ∧
      ∀ i, i < 128 → c.getLsbD i = (elem (s.rv va) 32 i != 0 && s.top.getLsbD i))) ∧
    (∀ x rest, s.ctx.masks = x :: rest →
      Completes (.minv g) s (becomes ((~~~x &&& rest.headD (BitVec.allOnes 128)) :: rest)) ∧
      Completes (.mpop g) s (becomes rest)) ∧
    (s.cur.run ≠ .faulted →
      (s.ctx.masks.length = 8 → Completes (.mpush g va) s (fun t => FaultsAt s t 0x08 0 s.ctx.pc)) ∧
      (s.ctx.masks = [] → Completes (.minv g) s (fun t => FaultsAt s t 0x09 0 s.ctx.pc) ∧
        Completes (.mpop g) s (fun t => FaultsAt s t 0x09 0 s.ctx.pc)))

/-- VCVT, VEXP2, VLOG2, VRCP, VRSQ, VSCALE, VTOBI and VFROMBI write their function of each element, and what each function's value is
(R390, R391, R392, R393, R403, R404). -/
def Obligations.ConversionsAndFunctions : Prop :=
  (∀ (s : State) (g : Guard) (vd va vb : Nat) (dst src ty : VType) (rnd : Rnd) (sat : Bool), s.holds g = true →
    let a (w k : Nat) := elem (s.rv va) w k
    let w := vWidth dst
    let n := 32 / w
    let val (n : Nat) : Int := if src = .ui8 then n else (BitVec.ofNat (vWidth src) n).toInt
    let lo : Int := if dst = .ui8 then 0 else -2 ^ (w - 1)
    let hi : Int := if dst = .ui8 then 255 else 2 ^ (w - 1) - 1
    let F := fmtOf dst
    let conv (u x : Nat) : Nat :=
      if vIsFloat dst then F.roundU rnd sat u (if vIsFloat src then (fmtOf src).value x else fvInt (val x) 0)
      else ((if vIsFloat src then ((fmtOf src).value x).toRange rnd lo hi
             else if sat then max lo (min hi (val x)) else val x) % (2 ^ w : Int)).toNat
    (rnd ≠ .rsr → Completes (.vcvt g vd va dst src rnd sat) s (fun t => WritesV s t vd w fun k =>
      conv 0 (a (vWidth src) (k % (4096 / vWidth src))))) ∧
    (rnd = .rsr → Completes (.vcvt g vd va dst src rnd sat) s (fun t => CtxOnly s t ∧
      t.ctx = { s.ctx.advance 8 with v := t.ctx.v, poisV := t.ctx.poisV, rng := t.ctx.rng, err := t.ctx.err } ∧
      (∀ i, i < 128 → Tab.get 0 t.ctx.rng i = rngSteps n (Tab.get 0 s.ctx.rng i)) ∧
      ∀ k, k < 4096 / w → elem (t.rv vd) w k = if maskBit s.top (laneOf w k)
        then conv (rngStep (rngSteps (k % n) (Tab.get 0 s.ctx.rng (laneOf w k)))).2 (a (vWidth src) (k % (4096 / vWidth src))) % 2 ^ w
        else elem (s.rv vd) w k)) ∧
    Completes (.vexp2 g vd va) s (fun t => WritesV s t vd 32 fun k => exp2 (a 32 k)) ∧
    Completes (.vlog2 g vd va) s (fun t => WritesV s t vd 32 fun k => log2 (a 32 k)) ∧
    Completes (.vrcp g vd va ty rnd) s (fun t => WritesV s t vd (vWidth ty) fun k =>
      (fmtOf ty).round rnd false ((fmtOf ty).value (a (vWidth ty) k)).rcp) ∧
    Completes (.vrsq g vd va ty rnd) s (fun t => WritesV s t vd (vWidth ty) fun k =>
      (fmtOf ty).round rnd false ((fmtOf ty).value (a (vWidth ty) k)).rsq) ∧
    Completes (.vscale g vd va ty rnd) s (fun t => WritesV s t vd 32 fun k => scaleOf ty (a 32 k) rnd) ∧
    Completes (.vtobi g vd va vb) s (fun t => WritesV s t vd 32 fun k =>
      (toBlock (a 32 k) (BitVec.ofNat 32 (elem (s.rv vb) 32 k)).toInt % (2 ^ 32 : Int)).toNat) ∧
    Completes (.vfrombi g vd va vb rnd sat) s (fun t => WritesV s t vd 32 fun k =>
      fromBlock (BitVec.ofNat 32 (a 32 k)).toInt (BitVec.ofNat 32 (elem (s.rv vb) 32 k)).toInt rnd sat)) ∧
  let F := fmtF32.value
  let top : Nat := (2 ^ 24 - 1) * 2 ^ 104
  let near (z : Int) (x : Rat) : Prop := (z : Rat) - 1 / 2 ≤ x ∧ x ≤ (z : Rat) + 1 / 2 ∧ (x - z = 1 / 2 ∨ z - x = 1 / 2 → z % 2 = 0)
  (∀ (a : FV) (x : Rat) (lo hi : Int), a.Is x → lo ≤ hi →
    (∃ z : Int, near z x ∧ a.toRange .rne lo hi = max lo (min hi z)) ∧
    ∃ z : Int, (0 ≤ x → (z : Rat) ≤ x ∧ x < z + 1) ∧ (x < 0 → (z : Rat) - 1 < x ∧ x ≤ z) ∧ a.toRange .rtz lo hi = max lo (min hi z)) ∧
  (∀ (mode : Rnd) (lo hi : Int), FV.nan.toRange mode lo hi = 0 ∧ (FV.inf true).toRange mode lo hi = lo ∧
    (FV.inf false).toRange mode lo hi = hi) ∧
  (∀ (G : FFmt) (p most : Nat) (mode : Rnd) (a : FV) (x : Rat) (neg : Bool),
    (G, p, most) ∈ [(fmtF32, 24, top), (fmtBf16, 8, (2 ^ 8 - 1) * 2 ^ 120)] → mode ≠ .rsr → 0 < x → a.IsFin neg x →
    RoundsTo G p (-126) most mode false 0 neg (fun y => y * x - 1) (G.round mode false a.rcp) ∧
    (neg = true → a.rsq = .nan) ∧ (neg = false →
      RoundsTo G p (-126) most mode false 0 false (fun y => if y < 0 then -1 else y * y * x - 1) (G.round mode false a.rsq))) ∧
  (∀ (a : FV) (neg : Bool), (a.IsFin neg 0 → a.rcp = .inf neg ∧ a.rsq = .inf neg) ∧ (FV.inf neg).rcp.IsFin neg 0 ∧
    FV.nan.rcp = .nan ∧ FV.nan.rsq = .nan ∧ (FV.inf true).rsq = .nan ∧ (FV.inf false).rsq.IsFin false 0) ∧
  (∀ n, (F n = .nan → exp2 n = 0x7FC00000 ∧ log2 n = 0x7FC00000) ∧
    (F n = .inf true → exp2 n = 0 ∧ log2 n = 0x7FC00000) ∧ (F n = .inf false → exp2 n = 0x7F800000 ∧ log2 n = 0x7F800000) ∧
    ∀ x, (F n).Is x → (128 ≤ x → exp2 n = 0x7F800000) ∧ (x < -151 → exp2 n = 0) ∧ (x = 0 → log2 n = 0xFF800000) ∧
      (x < 0 → log2 n = 0x7FC00000) ∧
      ∀ k : Int, -149 ≤ k → k ≤ 127 → (x = k → (F (exp2 n)).Is (2 ^ k)) ∧ (x = 2 ^ k → (F (log2 n)).Is k)) ∧
  (∀ n neg x, (F n).IsFin neg x → -151 ≤ (if neg then -x else x) → (if neg then -x else x) < 128 →
    ∃ z : Int, (z : Rat) ≤ (if neg then -x else x) * 2 ^ 32 ∧ (if neg then -x else x) * 2 ^ 32 < z + 1 ∧
      let f := (z % 2 ^ 24).toNat
      let c := 2977044472 + f * (1031764991 + f * 238388332 / 2 ^ 32) / 2 ^ 32
      let m := texp (z / 2 ^ 24 % 2 ^ 8).toNat
      exp2 n = rne32 (.fin false (m + m * (f * c / 2 ^ 32) / 2 ^ 32) (z / 2 ^ 32 - 30))) ∧
  (∀ j, j < 256 → (2 * texp j - 1) ^ 256 < 2 ^ (31 * 256 + j) ∧ 2 ^ (31 * 256 + j) < (2 * texp j + 1) ^ 256) ∧
  (∀ (t : VType) (n : Nat) (rnd : Rnd) (x : Rat) (neg : Bool), t ∈ [VType.e4m3, .e5m2] → rnd ≠ .rsr →
    ((F n).IsFin neg 0 → scaleOf t n rnd = 0x3F800000) ∧ ((∀ b y, ¬ (F n).IsFin b y) → scaleOf t n rnd = 0x7FC00000) ∧
    ((F n).IsFin neg x → 0 < x → RoundsTo fmtF32 24 (-126) top rnd false 0 false
      (fun y => y * (if t = .e4m3 then 448 else 57344) - x) (scaleOf t n rnd))) ∧
  (∀ (n : Nat) (e : Int) (x : Rat), toBlock n 0x7FFF = 0 ∧ (e ≠ 0x7FFF → (F n).Is x →
    ∃ z : Int, near z (x * 2 ^ (-e)) ∧ toBlock n e = max (-2 ^ 31) (min (2 ^ 31 - 1) z))) ∧
  (∀ (a e : Int) (mode : Rnd) (sat : Bool), mode ≠ .rsr → a.natAbs ≤ 2 ^ 31 → fromBlock a 0x7FFF mode sat = 0x7FC00000 ∧
    (e ≠ 0x7FFF → (a = 0 → fromBlock a e mode sat = 0) ∧ (a ≠ 0 →
      RoundsTo fmtF32 24 (-126) top mode sat 0 (decide (a < 0)) (fun y => y - a.natAbs * 2 ^ e) (fromBlock a e mode sat))))

/-- Reductions write one value into every enabled element and nothing when no lane is enabled; VSCAN and VHIST act as R395 and R396
give (R394, R395, R396, R402). -/
def Obligations.ReductionsScansAndHistograms : Prop :=
  (∀ (s : State) (g : Guard) (vd va : Nat) (ty : VType) (rnd : Rnd) (sat : Bool), s.holds g = true →
    let w := vWidth ty
    let val (n : Nat) : Int := if ty = .ui8 then n else (BitVec.ofNat w n).toInt
    let lo : Int := if ty = .ui8 then 0 else -2 ^ (w - 1)
    let hi : Int := if ty = .ui8 then 255 else 2 ^ (w - 1) - 1
    let F := fmtOf ty
    let on (w : Nat) : List Nat := ((List.range (4096 / w)).filter fun k => maskBit s.top (laneOf w k)).map (elem (s.rv va) w)
    let reduces (w : Nat) (i : Instr) (P : Nat → Prop) : Prop := Completes i s fun t =>
      if on w = [] then GoesOn s t 8 else ∃ r, P r ∧ WritesV s t vd w fun _ => r
    let is (r : Int) (n : Nat) : Prop := n < 2 ^ w ∧ if sat then val n = max lo (min hi r) else (2 ^ w : Int) ∣ val n - r
    reduces w (.vredadd g vd va ty rnd sat) (fun r =>
      if vIsFloat ty then r = F.round rnd false (fvSum ((on w).map F.value)) else is ((on w).map val).sum r) ∧
    let nan : Prop := vIsFloat ty = true ∧ ∃ x ∈ on w, (F.value x).isNan = true
    let less (x y : Nat) : Prop := if vIsFloat ty then (F.value x).below (F.value y) = true else val x < val y
    reduces w (.vredmax g vd va ty) (fun r => (nan → r = F.nanBits) ∧ (¬ nan → r ∈ on w ∧ ∀ x ∈ on w, ¬ less r x)) ∧
    reduces w (.vredmin g vd va ty) (fun r => (nan → r = F.nanBits) ∧ (¬ nan → r ∈ on w ∧ ∀ x ∈ on w, ¬ less x r)) ∧
    (ty ∈ [VType.f32, .bf16] → reduces w (.vamax g vd va ty) (fun r =>
      (nan → r = F.nanBits) ∧
      (¬ nan → (∃ x ∈ on w, r = x % 2 ^ (w - 1)) ∧ ∀ x ∈ on w, (F.value r).lt (F.value x).abs = false))) ∧
    reduces 32 (.vlse2 g vd va) (fun r => r = lse2 (on 32)) ∧
    reduces 32 (.vbexp g vd va) (fun r => r = (blockExp (on 32) % (2 ^ 32 : Int)).toNat) ∧
    (vIsFloat ty = false → Completes (.vscan g vd va ty sat) s (fun t => ∃ h : Nat → Nat, WritesV s t vd w h ∧ ∀ k, k < 4096 / w →
      is ((((List.range k).filter fun j => maskBit s.top (laneOf w j)).map fun j => val (elem (s.rv va) w j)).sum) (h k))) ∧
    Completes (.vhist g vd va ty) s (fun t => WritesV s t vd 32 fun b => elem (s.rv vd) 32 b + (on w).count b)) ∧
  let F := fmtF32.value
  (∀ vs : List Nat,
    ((∃ v ∈ vs, F v = .nan) → lse2 vs = 0x7FC00000) ∧
    ((∀ v ∈ vs, F v = .inf true) → lse2 vs = 0xFF800000) ∧
    ((∀ v ∈ vs, F v ≠ .nan) → (∃ v ∈ vs, F v = .inf false) → lse2 vs = 0x7F800000) ∧
    (∀ m ∈ vs, (F m).special = false → (∀ v ∈ vs, v = m ∨ (F v).lt (F m) = true) →
      lse2 vs = rne32 ((F m).add (F (log2 (rne32 (fvSum (vs.map fun v => F (exp2 (rne32 ((F v).add (F m).neg))))))))))) ∧
  (∀ vs : List Nat,
    ((∃ v ∈ vs, (F v).special = true) → blockExp vs = 0x7FFF) ∧
    ((∀ v ∈ vs, (F v).Is 0) → blockExp vs = -150) ∧
    ((∀ v ∈ vs, (F v).special = false) → (∃ v ∈ vs, ¬ (F v).Is 0) →
      (∃ v ∈ vs, ∃ x, (F v).Is x ∧ 2 ^ (2 * blockExp vs) ≤ x * x) ∧ ∀ v ∈ vs, ∀ x, (F v).Is x → x * x < 2 ^ (2 * blockExp vs + 2))) ∧
  (∀ (v : FV) (vs : List FV), (∀ y, v.special = (v == .nan || v == .inf y || v == .inf !y)) ∧ fvSum [] = .fin false 0 0 ∧ fvSum [v] = v ∧
    fvSum (vs ++ [v]) = if vs = [] then v else (fvSum vs).add v)

/-- VLD, VST, VLDX and VSTX of the own scratchpad read and write exactly the elements of the enabled lanes (R399, R400, R401). -/
def Obligations.VectorScratchpadAccesses : Prop :=
  ∀ (s : State) (g : Guard) (vd va sb : Nat) (imm : BitVec 12), s.holds g = true →
    let p := (s.rs sb).toNat % 2 ^ 32
    let a : Int := (p % 2 ^ 22 : Nat) + imm.toInt
    let on (i : Nat) : Prop := i < 128 ∧ maskBit s.top i = true
    let off (i : Nat) : Int := a + (elem (s.rv va) 32 i % 2 ^ 22 : Nat)
    let lane (i n : Nat) : Byte := BitVec.ofNat 8 (elem (s.rv vd) 32 i / 2 ^ (8 * n))
    let storing (at_ : Nat → Nat) (t : State) : Prop :=
      t = { s with mem := t.mem, marks := t.marks, cores := t.cores } ∧ (∀ c, c ≠ s.core → t.getCore c = s.getCore c) ∧
      t.cur = { s.cur with act := s.ctx.advance 8 } ∧
      (∀ k, (∀ i, on i → k < at_ i ∨ at_ i + 4 ≤ k) → t.byte k = s.byte k) ∧
      ∀ i, on i → (∀ j, on j → i < j → at_ j ≠ at_ i) → ∀ n, n < 4 → t.byte (at_ i + n) = lane i n
    s.ctx.ptrOwn p = true → s.ctx.rankOk p = true →
    (a % 64 = 0 → 0 ≤ a → a + 512 ≤ 4194304 →
      let at_ (i : Nat) := spadKey s.core (a.toNat + 4 * i)
      (s.sound (at_ 0) 512 → Completes (.vld g vd sb imm) s (fun t => WritesV s t vd 32 fun i => s.readN (at_ i) 4)) ∧
      Completes (.vst g vd sb imm) s (storing at_)) ∧
    ((∀ i, on i → off i % 4 = 0 ∧ 0 ≤ off i ∧ off i + 4 ≤ 4194304) →
      let at_ (i : Nat) := spadKey s.core (off i).toNat
      ((∀ i, on i → s.sound (at_ i) 4) → Completes (.vldx g vd va sb imm) s (fun t => WritesV s t vd 32 fun i => s.readN (at_ i) 4)) ∧
      Completes (.vstx g vd va sb imm) s (storing at_))

/-- A vector access of a reserved pointer or a misaligned address faults, and one out of range reads zeros or stores nothing and sets
OOBFLAG (R399, R400, R247). -/
def Obligations.VectorScratchpadFaults : Prop :=
  ∀ (s : State) (g : Guard) (vd va sb : Nat) (imm : BitVec 12), s.holds g = true →
    let p := (s.rs sb).toNat % 2 ^ 32
    let a : Int := (p % 2 ^ 22 : Nat) + imm.toInt
    let faults (code : BitVec 8) (i : Instr) : Prop := Completes i s (fun t => FaultsAt s t code 0 s.ctx.pc)
    let at_ : BitVec 32 := BitVec.ofNat 32 (p / 2 ^ 22 * 2 ^ 22 + (a % 2 ^ 22).toNat)
    let off (i : Nat) : Int := a + (elem (s.rv va) 32 i % 2 ^ 22 : Nat)
    let on (i : Nat) : Prop := i < 128 ∧ maskBit s.top i = true
    let out (t : State) : Prop := CtxOnly s t ∧ t.ctx = { s.ctx.advance 8 with
      v := t.ctx.v, poisV := t.ctx.poisV, err := t.ctx.err
      csr := { s.csr with schedCtr := s.csr.tick, oobFlag := true, oobAddr := if s.csr.oobFlag then s.csr.oobAddr else at_ } }
    let loadsOut (t : State) : Prop := out t ∧ (∀ q, q ≠ vd → t.rv q = s.rv q) ∧
      ∀ i, i < 128 → elem (t.rv vd) 32 i = if maskBit s.top i then 0 else elem (s.rv vd) 32 i
    let storesOut (t : State) : Prop := out t ∧ t.ctx.v = s.ctx.v ∧ t.ctx.poisV = s.ctx.poisV
    let core := s.rankCore (p / 2 ^ 22 % 2 ^ 8)
    let loadsPeer (offs : List Nat) (lo len : Nat) (t : State) : Prop := t.ctx = s.ctx.advance 8 ∧ (∀ k, t.byte k = s.byte k) ∧
      ∃ q : Pend, t.cur.pend = s.cur.pend ++ [q] ∧ q.ret = .gather vd s.top offs ∧ q.acc.lo = spadKey core lo ∧ q.acc.len = len ∧
        q.fail = none ∧ q.sent = false
    let storesPeer (at_ : Nat → Nat) (t : State) : Prop := t.ctx = s.ctx.advance 8 ∧ (∀ k, t.byte k = s.byte k) ∧
      ∃ fs : List Flight, t.msys.flights = s.msys.flights ++ fs ∧ t.cur.outw = s.cur.outw ++ fs.map (fun f => ⟨f.acc, none⟩) ∧
        (∀ f ∈ fs, f.bad = [] ∧ f.obj = none ∧ f.count = none ∧
          ∃ o, f.acc.lo = spadKey core o ∧ f.dest = some (s.csr.teamId.toNat, p / 2 ^ 22 % 2 ^ 8, o)) ∧
        ∃ cell : Nat → Option Byte, Carry fs cell ∧
          (∀ i n, on i → n < 4 → cell (spadKey core (at_ i + n)) = some (BitVec.ofNat 8 (elem (s.rv vd) 32 i / 2 ^ (8 * n)))) ∧
          ∀ k x, cell k = some x → ∃ i n, on i ∧ n < 4 ∧ k = spadKey core (at_ i + n)
    (s.cur.run ≠ .faulted → 2 ^ 31 ≤ p → ∀ i ∈ [Instr.vld g vd sb imm, .vst g vd sb imm, .vldx g vd va sb imm, .vstx g vd va sb imm],
      Completes i s (fun t => FaultsAt s t 0x03 0 s.ctx.pc ∧ t.csr.faultAddr = BitVec.ofNat 64 p)) ∧
    (s.cur.run ≠ .faulted → p < 2 ^ 31 → a % 64 ≠ 0 → faults 0x05 (.vld g vd sb imm) ∧ faults 0x05 (.vst g vd sb imm)) ∧
    (s.cur.run ≠ .faulted → p < 2 ^ 31 → (∃ i, on i ∧ off i % 4 ≠ 0) →
      faults 0x05 (.vldx g vd va sb imm) ∧ faults 0x05 (.vstx g vd va sb imm)) ∧
    (p < 2 ^ 31 → a % 64 = 0 → (a < 0 ∨ 4194304 < a + 512 ∨ s.ctx.rankOk p = false) →
      Completes (.vld g vd sb imm) s loadsOut ∧ Completes (.vst g vd sb imm) s storesOut) ∧
    (p < 2 ^ 31 → (∀ i, on i → off i % 4 = 0) → (s.ctx.rankOk p = false ∨ ∃ i, on i ∧ (off i < 0 ∨ 4194304 < off i + 4)) →
      Completes (.vldx g vd va sb imm) s loadsOut ∧ Completes (.vstx g vd va sb imm) s storesOut) ∧
    (p < 2 ^ 31 → s.ctx.ptrOwn p = false → s.ctx.rankOk p = true →
      (a % 64 = 0 → 0 ≤ a → a + 512 ≤ 4194304 →
        Completes (.vld g vd sb imm) s (loadsPeer ((List.range 128).map fun i => a.toNat + 4 * i) a.toNat 512) ∧
        Completes (.vst g vd sb imm) s (storesPeer fun i => a.toNat + 4 * i)) ∧
      ((∀ i, on i → off i % 4 = 0 ∧ 0 ≤ off i ∧ off i + 4 ≤ 4194304) →
        Completes (.vldx g vd va sb imm) s (fun t => ∃ lo len, loadsPeer ((List.range 128).map fun i => (off i).toNat) lo len t ∧
          (∀ i, on i → lo ≤ (off i).toNat ∧ (off i).toNat + 4 ≤ lo + len) ∧
          ((∃ i, on i) → (∃ i, on i ∧ (off i).toNat = lo) ∧ ∃ i, on i ∧ (off i).toNat + 4 = lo + len)) ∧
        ((∀ i j, on i → on j → i ≠ j → off i ≠ off j) →
          Completes (.vstx g vd va sb imm) s (storesPeer fun i => (off i).toNat))))

/-- VEXTR moves an element to a scalar register, extended, whatever the mask, and VINS one element's low bits from a scalar register
(R398). -/
def Obligations.LaneMoves : Prop :=
  ∀ (s : State) (g : Guard) (v sb lane : Nat) (ty : VType), s.holds g = true → ty ∈ [VType.i8, .ui8, .i16, .i32] →
    lane < 4096 / vWidth ty →
    let w := vWidth ty
    let x : BitVec w := BitVec.ofNat w (elem (s.rv v) w lane)
    Completes (.vextr g sb v lane ty) s (fun t => WritesS s t 8 sb (if ty = .ui8 then x.zeroExtend 64 else x.signExtend 64)) ∧
    Completes (.vins g v sb lane ty) s (fun t => CtxOnly s t ∧ t.ctx = { s.ctx.advance 8 with v := t.ctx.v } ∧
      (∀ q, q ≠ v → t.rv q = s.rv q) ∧ ∀ k, k < 4096 / w → elem (t.rv v) w k =
        if k = lane ∧ maskBit s.top (laneOf w lane) = true then (s.rs sb).toNat % 2 ^ w else elem (s.rv v) w k)

/-- A pair performs its scalar part and its vector part on the values both registers files held at issue (R333, R331). -/
def Obligations.PairActsOnBothParts : Prop :=
  ∀ (s : State) (g : Guard) (sop : SOp) (sd sa sb : Nat) (vop : VOp) (vd va vb : Nat), s.holds g = true →
    let a := s.rs sa
    let b := s.rs sb
    let r : Option W64 := match sop with
      | .nop => none | .add => some (a + b) | .sub => some (a - b) | .mul => some (a * b) | .and => some (a &&& b)
      | .or => some (a ||| b) | .xor => some (a ^^^ b)
      | .shl => some (if 64 ≤ b.toNat then 0 else a <<< b.toNat) | .shr => some (if 64 ≤ b.toNat then 0 else a >>> b.toNat)
      | .sar => some (a.sshiftRight (min b.toNat 63))
      | .min => some (if a.slt b then a else b) | .max => some (if a.slt b then b else a)
      | .minu => some (if a.ult b then a else b) | .maxu => some (if a.ult b then b else a)
    let x (k : Nat) := elem (s.rv va) 32 k
    let y (k : Nat) := elem (s.rv vb) 32 k
    let fp (f : FV → FV → FV) (k : Nat) : Nat := rne32 (f (f32 (x k)) (f32 (y k)))
    let nan (k : Nat) : Prop := (f32 (x k)).isNan ∨ (f32 (y k)).isNan
    let int (f : Int → Int → Int) (k : Nat) : Nat := (f (x k) (y k) % (2 ^ 32 : Int)).toNat
    let z (k : Nat) := (BitVec.ofNat 32 (x k)).slt (BitVec.ofNat 32 (y k))
    let v : Option (Nat → Nat) := match vop with
      | .nop => none
      | .addF => some (fp FV.add) | .subF => some (fp fun a b => a.add b.neg) | .mulF => some (fp FV.mul)
      | .maxF => some (fun k => if nan k then 0x7FC00000 else if (f32 (x k)).below (f32 (y k)) then y k else x k)
      | .minF => some (fun k => if nan k then 0x7FC00000 else if (f32 (y k)).below (f32 (x k)) then y k else x k)
      | .addI => some (int (· + ·)) | .subI => some (int (· - ·)) | .mulI => some (int (· * ·))
      | .and => some (fun k => x k &&& y k) | .or => some (fun k => x k ||| y k) | .xor => some (fun k => x k ^^^ y k)
      | .mov => some x
      | .fmaF => some (fun k => rne32 (((f32 (x k)).mul (f32 (y k))).add (f32 (elem (s.rv vd) 32 k))))
      | .maxI => some (fun k => if z k then y k else x k) | .minI => some (fun k => if z k then x k else y k)
    Completes (.pair g sop sd sa sb vop vd va vb) s (fun t => CtxOnly s t ∧
      t.ctx = { s.ctx.advance 8 with s := t.ctx.s, poisS := t.ctx.poisS, v := t.ctx.v, poisV := t.ctx.poisV, err := t.ctx.err } ∧
      (∀ q, t.rs q = if q = 0 then 0 else if q = sd then r.getD (s.rs q) else s.rs q) ∧
      (∀ q, q ≠ vd → t.rv q = s.rv q) ∧
      ∀ k, k < 128 → elem (t.rv vd) 32 k = match v with
        | some f => if maskBit s.top k then f k % 2 ^ 32 else elem (s.rv vd) 32 k
        | none => elem (s.rv vd) 32 k)

/-- Each class 0x6 command binds its format words and scales and enters the queue of M; a failed guard enqueues it nullified; missing
ones fault (R211, R331, R410, R223, R224, R408). -/
def Obligations.MatrixCommandsEnqueue : Prop :=
  ∀ (s : State) (g : Guard) (td sa sb sc : Nat) (x : Bool) (e : ECtl) (ts : Bool),
    let a := s.rs sa
    let b := s.rs sb
    let n := e.rep + 1
    let word (cls : List Nat) (j : Nat) : Prop := ∃ w, s.cur.fmt[s.cur.fmtBound + j]? = some w ∧ w.toNat / 2 ^ 28 ∈ cls
    let cmd (i : Instr) (ra rb rc : W64) (words scales : Nat) (cls : List Nat) (all : Bool) : Prop :=
      (s.cur.em.q.length < 64 → s.holds g = false → Completes i s (fun t =>
        Enqueues s t 2 i 0 0 0 0 true s.cur.fmtBound s.cur.unbound ∧ ∀ k, t.byte k = s.byte k)) ∧
      (s.cur.em.q.length < 64 → s.holds g = true → (∀ j, j < words → word cls j) → scales ≤ s.cur.unbound →
        (all = true → s.cur.unbound = scales) → Completes i s (fun t =>
          Enqueues s t 2 i ra rb rc 0 false (s.cur.fmtBound + words) (s.cur.unbound - scales) ∧ ∀ k, t.byte k = s.byte k)) ∧
      (s.holds g = true → s.cur.run ≠ .faulted → (∃ j, j < words ∧ ¬ word cls j) → Completes i s (fun t => FaultsAt s t 0x0A 0 s.ctx.pc)) ∧
      (s.holds g = true → s.cur.run ≠ .faulted → (∀ j, j < words → word cls j) →
        s.cur.unbound < scales ∨ (all = true ∧ scales < s.cur.unbound) → Completes i s (fun t => FaultsAt s t 0x0B 0 s.ctx.pc))
    cmd (.ldw g sa x e ts) a 0 0 0 0 [] ts ∧
    cmd (.wswap g e ts) 0 0 0 0 0 [] ts ∧
    cmd (.mm g td sa x e ts) a 0 0 n (33 * n) [1, 2] ts ∧
    cmd (.mgroup g td sa sb sc e ts) a b (s.rs sc) (s.rs sc).toNat (if s.rs sc = 0 then 0 else 32 + (s.rs sc).toNat) [1, 2] ts ∧
    cmd (.accz g td e ts) 0 0 0 0 0 [] ts ∧
    cmd (.accld g td sa e ts) a 0 0 0 0 [] ts ∧
    cmd (.accwr g td sa sb e ts) a b 0 0 0 [] true ∧
    cmd (.plnset g td sa e ts) a 0 0 1 0 [3] ts ∧
    cmd (.plnld g td sa e ts) a 0 0 n 0 [3] ts ∧
    cmd (.margset g sa sb e ts) a b 0 1 0 [3] ts ∧
    cmd (.balance g sa e ts) a 0 0 1 0 [3] ts ∧
    cmd (.plnrd g td sa e ts) a 0 0 n 0 [3] ts ∧
    cmd (.plnscl g sa sb e ts) a b 0 1 0 [3] ts ∧
    (s.holds g = true → fwOk (a.truncate 32) = true → s.cur.fmt.length < 64 → Completes (.fmtpush g sa) s (fun t =>
      CoreOnly s t ∧ t.cur = { s.cur with act := s.ctx.advance 8, fmt := s.cur.fmt ++ [a.truncate 32] }))

/-- Each class 0x7 command checks its operands at issue, adds what it will send to OUTBOUND, and enters the queue of L or S (R425,
R426, R427, R331, R211). -/
def Obligations.CopyCommandsEnqueue : Prop :=
  ∀ (s : State) (g : Guard) (sd sa sl sbr : Nat) (e : ECtl),
    let d := s.rs sd
    let a := s.rs sa
    let l := s.rs sl
    let c := s.rs sbr
    let own (w : W64) : Prop := s.ctx.ptrOwn (w.toNat % 2 ^ 32) = true
    let len : Prop := l.toNat ≤ 4194304
    let n := e.rep + 1
    let off := c.toNat % 2 ^ 22
    let o := s.obj s.core off
    let D := c.getLsbD 59
    let O := c.getLsbD 58
    let bar (noO noD : Bool) (total : Nat) : Prop := (D = false ∧ O = false) ∨
      (c.toNat / 2 ^ 32 % 2 ^ 26 = 0 ∧ own c ∧ off + 16 ≤ 4194304 ∧ off % 16 = 0 ∧ (O = true → noO = false) ∧ (D = true → noD = false) ∧
        (O = true → s.sound (spadKey s.core off) 16 ∧ o.ok = true ∧ -2147483648 ≤ o.outb + total ∧ o.outb + total ≤ 2147483647))
    let row : Prop := l.toNat / 2 ^ 17 % 2 ^ 13 = 0 ∧ 1 ≤ l.toNat / 2 ^ 30 % 2 ^ 12 ∧ 1 ≤ l.toNat % 2 ^ 17 ∧ l.toNat % 2 ^ 17 ≤ 65536 ∧
      l.toNat / 2 ^ 42 % 4 = 0
    let cmd (q : Nat) (i : Instr) (ok : Prop) (rd ra rl rc : W64) (total unbound : Nat) : Prop :=
      ((s.cur.engine q).q.length < 64 → s.holds g = false → Completes i s (fun t =>
        Enqueues s t q i 0 0 0 0 true s.cur.fmtBound s.cur.unbound ∧ ∀ k, t.byte k = s.byte k)) ∧
      ((s.cur.engine q).q.length < 64 → s.holds g = true → ok → Completes i s (fun t =>
        Enqueues s t q i ra rl rc rd false s.cur.fmtBound unbound ∧
        (rc.getLsbD 58 = true → t.obj s.core off = { o with outb := o.outb + total } ∧
          ∀ k, (k < spadKey s.core off ∨ spadKey s.core off + 16 ≤ k) → t.byte k = s.byte k) ∧
        (rc.getLsbD 58 = false → ∀ k, t.byte k = s.byte k)))
    let u := s.cur.unbound
    let rows := l.toNat / 2 ^ 30 % 2 ^ 12
    let rlen := l.toNat % 2 ^ 17
    let ext := l.toNat / 2 ^ 32 % 2 ^ 16
    let mlen := l.toNat % 2 ^ 23
    let size := (ext / 2 ^ 10 + 1) * (ext / 2 ^ 5 % 2 ^ 5 + 1) * (ext % 2 ^ 5 + 1)
    let mc : Prop := l.toNat / 2 ^ 23 % 2 ^ 9 = 0 ∧ mlen ≤ 4194304 ∧ ext / 2 ^ 10 < s.torus3.1 ∧ ext / 2 ^ 5 % 2 ^ 5 < s.torus3.2.1 ∧
      ext % 2 ^ 5 < s.torus3.2.2
    cmd 1 (.cpin g sd sa sl sbr e) (len ∧ own d ∧ bar true false 0) d a l c 0 u ∧
    cmd 1 (.cpinScl g sa sl e) (len ∧ l ≠ 0 ∧ l.toNat % 4 = 0) 0 a l 0 0 (u + n * (l.toNat / 4)) ∧
    cmd 1 (.cqfill g sa sl e) (1 ≤ l.toNat ∧ l.toNat ≤ 64 ∧ own a ∧ a.toNat % 4 = 0) 0 a l 0 0 u ∧
    cmd 1 (.cpgath g sd sa sl sbr e) (row ∧ own d ∧ bar true false 0) d a l c 0 u ∧
    cmd 1 (.cpfill g sd sa sl sbr e) (len ∧ own d ∧ bar true false 0) d a l c 0 u ∧
    cmd 1 (.cploc g sd sa sl sbr e) (len ∧ own d ∧ a.toNat % 2 ^ 32 < 2 ^ 31 ∧ bar true false 0) d a l c 0 u ∧
    cmd 3 (.cpout g sd sa sl sbr e) (len ∧ own a ∧ bar false false (n * l.toNat)) d a l c (n * l.toNat) u ∧
    cmd 3 (.cppeer g sd sa sl sbr e) (len ∧ d.toNat % 2 ^ 32 < 2 ^ 31 ∧ own a ∧ bar false false (n * l.toNat)) d a l c (n * l.toNat) u ∧
    cmd 3 (.cpmc g sd sa sl sbr e) (mc ∧ own a ∧ bar false true (n * mlen * size)) d a l c (n * mlen * size) u ∧
    cmd 3 (.cpscat g sd sa sl sbr e) (row ∧ own a ∧ bar false false (n * rows * rlen)) d a l c (n * rows * rlen) u ∧
    cmd 3 (.cpmem g sd sa sl sbr e) (len ∧ bar false false (n * l.toNat)) d a l c (n * l.toNat) u ∧
    (s.holds g = true → s.cur.run ≠ .faulted → 4194304 < l.toNat → Completes (.cpin g sd sa sl sbr e) s (fun t =>
      FaultsAt s t 0x01 0 s.ctx.pc ∧ t.csr.faultAddr = s.ctx.pc))

/-- ENGINE_COMMAND_BEGIN takes the head command of a queue, with its words and scales; an operand fault stops it at its bundle (R211,
R213, R217, R223, R224, R428, R429, R430, R431, R235). -/
def Obligations.EngineCommandsBegin : Prop :=
  ∀ (s : State) (c : Cmd) (rest : List Cmd),
    let k := ectlOf c.op
    let ks := c.kept
    let after : List Cmd := (c :: rest).map fun x => if x.id = c.id then { x with begun := c.begun + 1, kept := Kept.none } else x
    let dkey := spadKey s.core (c.b.toNat % 2 ^ 22)
    let drains : Bool := match c.op with | .accwr .. => !c.nullified | _ => false
    let it : Iter := { cmd := c, idx := c.begun, words := (ks.words ++ s.cur.fmt).take (wordsOf c)
                       scales := (ks.scales ++ s.cur.fifo).take (scalesOf c), joined := [],
                       took := [], src := [], dst := [], rows := [], hand := none, reads := [], got := [], gotBad := [], moved := false, rest := [],
                       desc := [], drew := none }
    let onPath (x : Iter) : Iter := { x with took := ks.toks, joined := ks.toks.foldl (fun l y => joinIds l y.2) [] }
    let begun : Iter := onPath { it with desc := if drains then s.readB dkey 64 else [] }
    let ready (e : Nat) : Prop := s.args.headD 0 = e ∧ (s.cur.engine e).q = c :: rest ∧ c.begun ≤ k.rep ∧ s.mayBegin e = true ∧
      k.wp = false ∧ k.wn = false ∧ wordsOf c ≤ ks.words.length + s.cur.fmt.length ∧ scalesOf c ≤ ks.scales.length + s.cur.fifo.length
    let words := wordsOf c - ks.words.length
    let took (t : State) : Prop := t.cur.fmt = s.cur.fmt.drop words ∧ t.cur.fmtBound = s.cur.fmtBound - words ∧
      t.cur.fifo = s.cur.fifo.drop (scalesOf c - ks.scales.length)
    let same (t : State) : Prop := ∀ a, t.byte a = s.byte a
    (ready 2 → s.cur.pathFree c.op = true →
      (c.nullified = true ∨ (s.runM it ≠ .held ∧ ∀ x a, s.runM it ≠ .fault x a) →
        (drains = true → c.b.toNat % 2 ^ 22 + 64 ≤ 4194304 ∧ s.sound dkey 64) →
        Completes .engineCommandBegin s (fun t => took t ∧ same t ∧ t.ctx = s.ctx ∧
          t.cur.em.q = after ∧ (if isLdw c.op then t.cur.em.ldw = some begun ∧ t.cur.em.run = s.cur.em.run
                                else t.cur.em.run = some begun ∧ t.cur.em.ldw = s.cur.em.ldw))) ∧
      ∀ x a, s.runM it = .fault x (some a) → x ≠ 4 → Completes .engineCommandBegin s (fun t =>
        FaultsAt s t (BitVec.ofNat 8 x) 2 c.pc ∧ t.csr.faultAddr = a)) ∧
    ∀ e, e = 1 ∨ e = 3 → ready e → (s.cur.engine e).run = none →
      (c.nullified = true → Completes .engineCommandBegin s (fun t => took t ∧ same t ∧ t.ctx = s.ctx ∧ (t.cur.engine e).q = after ∧
        (t.cur.engine e).run = some (onPath it))) ∧
      (∀ u jt, s.beginCopy e it = .ok u jt → u.cur.engine e = s.cur.engine e →
        Completes .engineCommandBegin s (fun t => (t.cur.engine e).q = after ∧ (t.cur.engine e).run = some (onPath jt))) ∧
      (c.nullified = false →
        let a : Int := (c.a.toNat % 2 ^ 22 : Nat) + stepBytes c.op c.begun
        let d : Int := (c.d.toNat % 2 ^ 22 : Nat) + stepBytes c.op c.begun
        let n := c.b.toNat
        let key := spadKey s.core a.toNat
        (e = 1 → ∀ g sa sl y, c.op = .cqfill g sa sl y → 0 < n →
          (64 < s.cur.counts.length + n → Completes .engineCommandBegin s (fun t =>
            t.cur.run = .faulted ∧ t.csr.code = 0x0C ∧ t.csr.srcq = 1 ∧ t.csr.faultPc = c.pc ∧ t.cur.counts = s.cur.counts)) ∧
          (s.cur.counts.length + n ≤ 64 → 0 ≤ a → a + 4 * n ≤ 4194304 → s.sound key (4 * n) → Completes .engineCommandBegin s (fun t =>
            same t ∧ (t.cur.engine e).q = after ∧ (t.cur.engine e).run = some (onPath it) ∧
            t.cur.counts = s.cur.counts ++ (List.range n).map fun i => (BitVec.ofNat 32 (s.readN (key + 4 * i) 4), none)))) ∧
        (∀ u jt, s.beginCopy e it = .ok u jt →
          let tab : Int := (n / 2 ^ 42 : Nat) + stepBytes c.op c.begun
          let rows := n / 2 ^ 30 % 2 ^ 12
          let len := n % 2 ^ 17
          let entry (r : Nat) : Nat := s.readN (spadKey s.core (tab.toNat + 4 * r)) 4
          let kept := (List.range rows).filter fun r => entry r != 0xFFFFFFFF
          let at_ (base : W64) : List W64 := kept.map fun r =>
            BitVec.ofInt 64 (base.toNat + stepBytes c.op c.begun + (entry r * len : Nat))
          0 ≤ tab → tab + 4 * rows ≤ 4194304 → s.sound (spadKey s.core tab.toNat) (4 * rows) →
          (∀ g sd sa sl sb y, c.op = .cpgath g sd sa sl sb y → jt.rows = kept ∧ s.xlateAll .read len (at_ c.a) = .ok jt.src) ∧
          ∀ g sd sa sl sb y, c.op = .cpscat g sd sa sl sb y → jt.rows = kept ∧ s.xlateAll .write len (at_ c.d) = .ok jt.dst) ∧
        (e = 3 → ∀ g sd sa sl sb y, c.op = .cppeer g sd sa sl sb y → s.srcReady 3 it = true → 0 < n →
          let p := c.d.toNat % 2 ^ 32
          let rank := if s.ctx.ptrOwn p then s.csr.rank.toNat else p / 2 ^ 22 % 2 ^ 8
          0 ≤ a → a + n ≤ 4194304 → s.sound key n → 0 ≤ d → d + n ≤ 4194304 → s.ctx.rankOk p = true →
          Completes .engineCommandBegin s (fun t => same t ∧ (t.cur.engine e).run = some (onPath it) ∧ ∃ fs, t.msys.flights = s.msys.flights ++ fs ∧
            (fs.flatMap fun f => placed f.acc.lo f.bytes) = placed (spadKey (s.rankCore rank) d.toNat) ((List.range n).map fun i => s.byte (key + i)) ∧
            (∀ f ∈ fs, f.bad = [] ∧ f.acc.len = f.bytes.length ∧ f.acc.cmd = it.name ∧
              (∃ o, f.acc.lo = spadKey (s.rankCore rank) o ∧ f.dest = some (s.csr.teamId.toNat, rank, o)) ∧
              f.count = if c.c.getLsbD 59 then
                some (c.c.toNat / 2 ^ 60, BitVec.ofNat 64 (s.csr.teamId.toNat * 2 ^ 32 + rank * 2 ^ 22 + c.c.toNat % 2 ^ 22)) else none) ∧
            t.cur.outw = s.cur.outw ++ fs.map fun f => ⟨f.acc, if c.c.getLsbD 58 then some (c.c.toNat % 2 ^ 22) else none⟩)))

/-- A completed iteration of each matrix and plan command has the effect that its rule gives it: planes, tile rows, drained bytes,
scales and plan (R316, R318, R319, R411, R412, R413, R414, R415, R417, R419, R420, R424). -/
def Obligations.MatrixIterationsComplete : Prop :=
  ∀ (s : State) (it : Iter), it.cmd.nullified = false → s.cur.replay = 0 →
    let m := s.cur.mat
    let i := it.idx
    let w := it.cmd.a
    let step (e : ECtl) : Int := e.step.toInt * 64 * i
    let src (e : ECtl) : Int := (w.toNat % 2 ^ 22 : Nat) + step e
    let own (x al n : Nat) : Prop := s.ctx.ptrOwn (x % 2 ^ 32) = true ∧ x % 2 ^ 22 % al = 0 ∧ x % 2 ^ 22 + n ≤ 4194304
    let at_ (e : ECtl) (n : Nat) : Prop := s.ctx.ptrOwn (w.toNat % 2 ^ 32) = true ∧ src e % 64 = 0 ∧ 0 ≤ src e ∧ src e + n ≤ 4194304
    let fine (e : ECtl) (n : Nat) : Prop := at_ e n ∧ s.sound (spadKey s.core (src e).toNat) n
    let loc (x : Nat) : Nat := spadKey s.core (x % 2 ^ 22)
    let rd (e : ECtl) (o n : Nat) : Nat := s.readN (spadKey s.core ((src e).toNat + o)) n
    let byte (e : ECtl) (o : Nat) : Nat := (s.byte (spadKey s.core ((src e).toNat + o))).toNat
    let others (k : Nat) (t : State) : Prop := ∀ q, q < 8 → q ≠ k → ∀ r, r < 32 → t.cur.mat.row q r = m.row q r
    let free (t : State) : Prop := t.cur.em.run = none ∧ (∀ a, t.byte a = s.byte a)
    let scale (n : Nat) : W32 := (it.scales.getD n (0, none)).1
    let done (p : State → Prop) : Prop := Completes .engineCommandComplete s p
    (s.args.headD 0 = 2 → s.cur.em.run = some it →
      (∀ g td e ts, it.cmd.op = .accz g td e ts →
        let k := (((td : Int) + e.step.toInt * i) % 8).toNat
        m.planTile k = false → done (fun t => free t ∧ others k t ∧ ∀ r, r < 32 → t.cur.mat.row k r = 0)) ∧
      (∀ g td sa e ts, it.cmd.op = .accld g td sa e ts → m.planTile ((td + i) % 8) = false → fine e 16384 →
        done (fun t => free t ∧ others ((td + i) % 8) t ∧ ∀ r, r < 32 → ∀ j, j < 512 →
          elem (t.cur.mat.row ((td + i) % 8) r) 8 j = byte e (512 * r + j))) ∧
      (∀ g e ts, it.cmd.op = .wswap g e ts → done (fun t => free t ∧
        t.cur.mat = { m with planeA := m.planeS, planeS := m.planeA, badA := m.badS, badS := m.badA })) ∧
      (∀ g td sa clr e ts f, it.cmd.op = .mm g td sa clr e ts → it.words = [f] →
        let k := (td + i) % 8
        let b := atBytes f
        scalesBad it.scales = none → planeBad m.badA f = false → m.badM = false → (clr = false → m.badTiles.contains k = false) →
        m.planTile k = false → fine e (4096 * b) →
        done (fun t => free t ∧ others k t ∧ ∀ r, r < 32 → ∀ j, j < 128 →
          MacElem f (fun x => rd e (128 * b * r + b * x) b) (fun x => planeElem m.planeA (8 * wtBytes f) x j) (scale r) (scale 32)
            (if clr then 0 else elem (m.row k r) 32 j) (elem (t.cur.mat.row k r) 32 j))) ∧
      (∀ g td sa sb sc e ts, it.cmd.op = .mgroup g td sa sb sc e ts → m.planTile td = false → m.badM = false →
        m.badTiles.contains td = false → scalesBad it.scales = none →
        let n := it.cmd.c.toNat
        let tab := it.cmd.b.toNat
        let ent (q o k : Nat) : Nat := s.readN (loc tab + 16 * q + o) k
        let rows (q : Nat) : Nat := ent q 8 1
        let word (q : Nat) : W32 := it.words.getD q 0
        let base (q : Nat) : Nat := ((List.range q).map rows).sum
        let act (q : Nat) : Nat := ((List.range q).map fun x => 128 * atBytes (word x) * rows x).sum
        let last (q : Nat) : Prop := q < n ∧ rows q ≠ 0 ∧ ∀ x, q < x → x < n → rows x = 0
        own tab 16 (16 * n) → s.sound (loc tab) (16 * n) → own w.toNat 1 (act n) → s.sound (loc w.toNat) (act n) → base n ≤ 32 →
        (∀ q, q < n → rows q ≤ 32 ∧ ent q 9 1 ≤ 1 ∧ ent q 10 6 = 0 ∧ (ent q 9 1 = 0 → ent q 0 8 < 2 ^ 32)) →
        ∀ key : Nat → Nat, (∀ q, q < n → rows q ≠ 0 →
          let len := 16384 * wtBytes (word q)
          s.sound (key q) len ∧ ((ent q 9 1 = 0 ∧ own (ent q 0 8) 64 len ∧ key q = loc (ent q 0 8)) ∨
            (ent q 9 1 = 1 ∧ ent q 0 8 % 64 = 0 ∧ ∃ p, s.xlate .read (ent q 0 8) len = .ok [p] ∧ p.bed = true ∧ p.key = key q ∧ p.len = len))) →
        let holds (plane : Tab Vec) (q : Nat) : Prop := ∀ c o, c < 32 * wtBytes (word q) → o < 512 →
          elem (Tab.get 0 plane c) 8 o = (s.byte (key q + 512 * c + o)).toNat
        done (fun t => free t ∧ others td t ∧ (∀ r, base n ≤ r → r < 32 → t.cur.mat.row td r = m.row td r) ∧
          (∀ q k j, q < n → k < rows q → j < 128 →
            let b := atBytes (word q)
            let v := wtBytes (word q)
            MacElem (word q) (fun x => s.readN (loc w.toNat + act q + b * (128 * k + x)) b) (fun x => s.readN (key q + v * (128 * x + j)) v)
              (scale (base q + k)) (scale (32 + q)) (elem (m.row td (base q + k)) 32 j) (elem (t.cur.mat.row td (base q + k)) 32 j)) ∧
          ∀ q, last q → holds t.cur.mat.planeA q ∧ ((∀ x, x < q → rows x = 0) → t.cur.mat.planeS = m.planeA) ∧
            ∀ x, x < q → rows x ≠ 0 → (∀ y, x < y → y < q → rows y = 0) → holds t.cur.mat.planeS x)) ∧
      (∀ g td sa sb e ts, it.cmd.op = .accwr g td sa sb e ts → it.desc.length = 64 → it.drew = none →
        let k := (td + i) % 8
        let d (o n : Nat) : Nat := leField it.desc o n
        let mode := d 1 1
        let rows := d 2 1
        let sh := d 3 1
        let stride := d 4 4
        let rq : Bool := mode / 8 % 2 == 1
        let rnd := mode % 4
        let sat := mode / 4 % 2
        let pars (x : Nat) : Prop := own x 64 512 ∧ s.sound (loc x) 512
        ∀ ty, otypeOf (d 0 1) = some ty → m.planTile k = false → m.badTiles.contains k = false → own it.cmd.b.toNat 64 0 → mode < 16 →
        leField it.desc 16 48 = 0 → 1 ≤ rows → rows ≤ 32 → sh ≤ 63 → stride % 64 = 0 → 64 ≤ stride → stride ≤ 65536 →
        ((rq = false ∧ d 8 4 = 0 ∧ d 12 4 = 0 ∧ ((ty ∈ [VType.f32, .i32] ∧ rnd = 0 ∧ sat = 0) ∨ (ty ∈ [VType.bf16, .e4m3, .e5m2] ∧ rnd ≤ 2))) ∨
          (rq = true ∧ ty ∈ [VType.i8, .ui8] ∧ rnd = 0 ∧ sat = 0 ∧ pars (d 8 4) ∧ pars (d 12 4))) →
        let z := vWidth ty / 8
        let row (r : Nat) : Nat := spadKey s.core (src e).toNat + r * stride
        at_ e ((rows - 1) * stride + 128 * z) → s.cur.em.pathWaits 2 = false →
        let par (x j : Nat) : Int := (BitVec.ofNat 32 (s.readN (loc x + 4 * j) 4)).toInt
        let quant (v : Nat) (j : Nat) : Int :=
          let pr : Int := (BitVec.ofNat 32 v).toInt * par (d 8 4) j
          let q : Int := if sh = 0 then pr else (if pr < 0 then -1 else 1) * (((pr.natAbs + 2 ^ (sh - 1)) / 2 ^ sh : Nat) : Int)
          if ty = .i8 then max (-128) (min 127 (q + par (d 12 4) j)) else max 0 (min 255 (q + par (d 12 4) j))
        let out (v r j : Nat) : Nat :=
          if rq then (quant v j % 256).toNat else if ty = .f32 ∨ ty = .i32 then v
          else (fmtOf ty).roundU (if rnd = 1 then .rtz else if rnd = 2 then .rsr else .rne) (sat == 1)
            (if rnd = 2 then (rngStep (rngSteps r (Tab.get 0 s.ctx.rng j))).2 else 0) (f32 v)
        done (fun t => t.cur.em.run = none ∧ t.cur.mat = m ∧
          (∀ j, j < 128 → Tab.get 0 t.ctx.rng j = if rnd = 2 then rngSteps rows (Tab.get 0 s.ctx.rng j) else Tab.get 0 s.ctx.rng j) ∧
          (∀ r j o, r < rows → j < 128 → o < z →
            (∀ x, r < x → x < rows → row r + z * j + o < row x ∨ row x + 128 * z ≤ row r + z * j + o) →
            t.byte (row r + z * j + o) = BitVec.ofNat 8 (out (elem (m.row k r) 32 j) r j / 2 ^ (8 * o))) ∧
          ∀ a, (∀ r, r < rows → a < row r ∨ row r + 128 * z ≤ a) → t.byte a = s.byte a)) ∧
      ∀ f, it.words = [f] →
        let plain : Prop := f.toNat / 2 ^ 12 % 2 ^ 16 = 0
        let leaves (t : State) (x : Option Plan) : Prop := free t ∧ t.cur.mat = { m with plan := x }
        (∀ g td sa e ts, it.cmd.op = .plnset g td sa e ts → plain → td % 4 = 0 →
          (w = 0 → done (fun t => leaves t (some ⟨td / 4, [], [], [], [], 0, 0⟩))) ∧
          (w = 1 → m.planTile td = true → done (fun t => leaves t none))) ∧
        ∀ p, m.plan = some p →
        let zero (x : Nat) : Prop := x % 2 ^ 31 = 0
        (∀ g td sa e ts, it.cmd.op = .plnld g td sa e ts → plain → p.group = td / 4 → fine e 16384 →
          (∀ x, x < 4096 → rd e (4 * x) 4 = 0xFF800000 ∨ rd e (4 * x) 4 % 2 ^ 31 ≤ 0x4E800000) →
          let k := 4 * (td / 4) + (td + i) % 4
          done (fun t => free t ∧ others k t ∧ ∀ r, r < 32 → ∀ j, j < 128 → elem (t.cur.mat.row k r) 32 j = rd e (512 * r + 4 * j) 4)) ∧
        (∀ g sa sb e ts, it.cmd.op = .margset g sa sb e ts → plain →
          let marg (x : W64) (k : Nat) : Nat := s.readN (loc x.toNat + 4 * k) 4
          let good (x : W64) : Prop := own x.toNat 64 512 ∧ s.sound (loc x.toNat) 512 ∧
            ∀ k, k < 128 → marg x k = 0x80000000 ∨ marg x k ≤ 0x7F7FFFFF
          good w → good it.cmd.b → done (fun t => ∃ q : Plan, leaves t (some { p with r := q.r, c := q.c }) ∧
            ∀ k, k < 128 → pv q.r k = marg w k ∧ pv q.c k = marg it.cmd.b k)) ∧
        (∀ g sa e ts, it.cmd.op = .balance g sa e ts → w.toNat ≤ 1 → (∀ x ∈ m.badTiles, x / 4 ≠ p.group) →
          let lim : Nat := f.toNat / 2 ^ 20 % 2 ^ 8
          let te : Nat := f.toNat / 2 ^ 12 % 2 ^ 8
          lim ≠ 0 → (te < 150 ∨ te = 255) →
          let tol := if te = 255 then 0 else rne32 (.fin false 1 (-(te : Int)))
          let met (x : Nat) : Prop := (f32 x).isNan = false ∧ (f32 tol).lt (f32 x) = false
          done (fun t => ∃ (n : Nat) (q : Nat → Plan) (res : Nat → Nat), 1 ≤ n ∧ n ≤ lim ∧
            (q 0).group = p.group ∧ (q 0).r = p.r ∧ (q 0).c = p.c ∧
            (∀ x, x < 128 →
              (zero (pv p.r x) → pv (q 0).u x = 0xFF800000) ∧ (¬ zero (pv p.r x) → pv (q 0).u x = if w = 0 then 0 else pv p.u x) ∧
              (zero (pv p.c x) → pv (q 0).v x = 0xFF800000) ∧ (¬ zero (pv p.c x) → pv (q 0).v x = if w = 0 then 0 else pv p.v x)) ∧
            (∀ k, k < n → SweepTo m (q k) (q (k + 1)) (res (k + 1))) ∧ (∀ k, 1 ≤ k → k < n → ¬ met (res k)) ∧ (met (res n) ∨ n = lim) ∧
            leaves t (some { q n with sweeps := BitVec.ofNat 32 n, residual := BitVec.ofNat 32 (res n) }))) ∧
        (∀ g td sa e ts, it.cmd.op = .plnrd g td sa e ts → plain → p.group = td / 4 → at_ e 16384 → s.cur.em.pathWaits 2 = false →
          m.badTiles.contains (4 * (td / 4) + (td + i) % 4) = false →
          done (fun t => t.cur.em.run = none ∧ t.cur.mat = m ∧
            (∀ r j, r < 32 → j < 128 →
              let x := 32 * ((td + i) % 4) + r
              (zero (pv p.r x) ∨ zero (pv p.c j) → t.readN (spadKey s.core ((src e).toNat + 512 * r + 4 * j)) 4 = 0) ∧
              (¬ zero (pv p.r x) → ¬ zero (pv p.c j) → t.readN (spadKey s.core ((src e).toNat + 512 * r + 4 * j)) 4 =
                exp2 (add3 (m.kern p x j) (pv p.u x) (pv p.v j)))) ∧
            ∀ a, a < spadKey s.core (src e).toNat ∨ spadKey s.core (src e).toNat + 16384 ≤ a → t.byte a = s.byte a)) ∧
        ∀ g sa sb e ts, it.cmd.op = .plnscl g sa sb e ts → plain → own w.toNat 64 512 → own it.cmd.b.toNat 64 576 → s.cur.em.pathWaits 2 = false →
          let u := loc w.toNat
          let v := loc it.cmd.b.toNat
          done (fun t => t.cur.em.run = none ∧ t.cur.mat = m ∧
            (u + 512 ≤ v ∨ v + 576 ≤ u → ∀ k, k < 128 → t.readN (u + 4 * k) 4 = pv p.u k) ∧ (∀ k, k < 128 → t.readN (v + 4 * k) 4 = pv p.v k) ∧
            t.readN (v + 512) 4 = p.sweeps.toNat ∧ t.readN (v + 516) 4 = p.residual.toNat ∧ (∀ k, k < 56 → t.byte (v + 520 + k) = 0) ∧
            ∀ a, (a < u ∨ u + 512 ≤ a) → (a < v ∨ v + 576 ≤ a) → t.byte a = s.byte a)) ∧
    (s.args.headD 0 = 4 → s.cur.em.ldw = some it → s.cur.em.pathWaits 4 = false → ∀ g sa e ts, it.cmd.op = .ldw g sa false e ts → fine e 16384 →
      Completes .engineCommandComplete s (fun t => t.cur.em.ldw = none ∧ t.cur.em.run = s.cur.em.run ∧ (∀ a, t.byte a = s.byte a) ∧
        t.cur.mat.planeA = m.planeA ∧ t.cur.mat.tiles = m.tiles ∧ ∀ q, q < 64 → ∀ j, j < 512 →
          elem (Tab.get 0 t.cur.mat.planeS q) 8 j =
            if q / 32 = i % 2 then byte e (512 * (q % 32) + j) else elem (Tab.get 0 m.planeS q) 8 j))

/-- A completed iteration of each copy command has moved its bytes or put its writes under way, and REPLAY runs a window again (R211,
R302, R428, R429, R430, R431, R432). -/
def Obligations.CopyIterationsCompleteAndReplay : Prop :=
  ∀ (s : State) (it : Iter),
    let c := it.cmd
    let n := c.b.toNat
    let here := s.mg.node.toNat
    let done (e : Nat) (t : State) : Prop := (t.cur.engine e).run = none ∧ (t.cur.engine e).q =
      if it.idx = (ectlOf c.op).rep then (s.cur.engine e).q.filter (fun x => x.id != c.id) else (s.cur.engine e).q
    let same (t : State) : Prop := ∀ a, t.byte a = s.byte a
    let step (e : ECtl) : Int := e.step.toInt * 64 * it.idx
    let dst (e : ECtl) : Int := (c.d.toNat % 2 ^ 22 : Nat) + step e
    let src (e : ECtl) : Int := (c.a.toNat % 2 ^ 22 : Nat) + step e
    let bytes := s.srcBytes it
    let completes (p : State → Prop) : Prop := Completes .engineCommandComplete s p
    (c.nullified = false → it.reads = [] → it.moved = false → it.gotBad = [] → (∀ f ∈ s.msys.flights, f.acc.cmd ≠ it.name) →
      (∀ p ∈ it.src, p.sync = false ∧ (p.node = here → s.sound p.key p.len)) →
      (s.args.headD 0 = 1 → s.cur.el.run = some it → s.srcReady 1 it = true → c.c.getLsbD 59 = false → c.c.getLsbD 58 = false →
        let leaves (e : ECtl) (len : Nat) (f : Nat → Byte) (t : State) : Prop := done 1 t ∧ ∀ a, t.byte a =
          if spadKey s.core (dst e).toNat ≤ a ∧ a < spadKey s.core (dst e).toNat + len then f (a - spadKey s.core (dst e).toNat) else s.byte a
        let scales : List (W32 × Option W64) := (List.range (bytes.length / 4)).map fun i => (BitVec.ofNat 32 (leField bytes (4 * i) 4), none)
        let room := 512 - s.cur.fifo.length
        (∀ g sd sa sl sbr e, c.op = .cpin g sd sa sl sbr e → 0 ≤ dst e → dst e + bytes.length ≤ 4194304 →
          completes (leaves e bytes.length fun i => bytes.getD i 0)) ∧
        (∀ g sa sl e, c.op = .cpinScl g sa sl e →
          (scales.length ≤ room → completes (fun t => done 1 t ∧ same t ∧ t.cur.fifo = s.cur.fifo ++ scales)) ∧
          (room < scales.length → completes (fun t => same t ∧ t.cur.fifo = s.cur.fifo ++ scales.take room ∧
            (t.cur.engine 1).run = some { it with moved := true, rest := scales.drop room }))) ∧
        (∀ g sa sl e, c.op = .cqfill g sa sl e → completes (fun t => done 1 t ∧ same t ∧ t.cur.counts = s.cur.counts)) ∧
        (∀ g sd sa sl sbr e, c.op = .cpgath g sd sa sl sbr e →
          let m := n % 2 ^ 17
          let row (r : Nat) : Nat := spadKey s.core (dst e + (r * m : Nat)).toNat
          it.rows.Pairwise (· < ·) → bytes.length = it.rows.length * m →
          (∀ r ∈ it.rows, 0 ≤ dst e + (r * m : Nat) ∧ dst e + (r * m : Nat) + m ≤ 4194304) → completes (fun t => done 1 t ∧
            (∀ k o, k < it.rows.length → o < m → t.byte (row (it.rows.getD k 0) + o) = bytes.getD (k * m + o) 0) ∧
            ∀ a, (∀ r ∈ it.rows, a < row r ∨ row r + m ≤ a) → t.byte a = s.byte a)) ∧
        (∀ g sd sa sl sbr e, c.op = .cpfill g sd sa sl sbr e → 0 ≤ dst e → dst e + n ≤ 4194304 → completes
          (leaves e n fun i => BitVec.ofNat 8 (c.a.toNat / 2 ^ (8 * (((dst e).toNat + i) % 8))))) ∧
        ∀ g sd sa sl sbr e, c.op = .cploc g sd sa sl sbr e → 0 ≤ dst e → dst e + n ≤ 4194304 → 0 ≤ src e → src e + n ≤ 4194304 →
          s.ctx.ptrOwn (c.a.toNat % 2 ^ 32) = true → s.ctx.rankOk (c.a.toNat % 2 ^ 32) = true →
          s.sound (spadKey s.core (src e).toNat) n → completes
            (leaves e n fun i => s.byte (spadKey s.core ((src e).toNat + i)))) ∧
      (s.args.headD 0 = 3 → s.cur.es.run = some it → s.srcReady 3 it = true →
        let obj : Option Nat := if c.c.getLsbD 58 then some (c.c.toNat % 2 ^ 22) else none
        let count : Option (Nat × W64) := if c.c.getLsbD 59 then it.hand.map fun h => (c.c.toNat / 2 ^ 60, h) else none
        let spad (o : Int) (len : Nat) : List Byte := (List.range len).map fun i => s.byte (spadKey s.core o.toNat + i)
        let inRange (o : Int) (len : Nat) : Prop := 0 ≤ o ∧ o + len ≤ 4194304 ∧ s.sound (spadKey s.core o.toNat) len
        let posts (qs : List Req) (va : Nat) (data : List Byte) (t : State) : Prop := done 3 t ∧ same t ∧
          t.gate.egress = s.gate.egress ++ qs ∧ (qs.flatMap fun q => placed q.va q.data) = placed va data ∧
          ∀ q ∈ qs, q.kind = 1 ∧ q.len = q.data.length ∧ q.asid = s.myAsid ∧ q.bad = []
        let sends (data : List Byte) : Prop :=
          ((∀ p ∈ it.dst, p.node = here) → (it.dst.map (·.len)).sum = data.length → completes (fun t => done 3 t ∧ same t ∧
            ∃ fs, t.msys.flights = s.msys.flights ++ fs ∧ Sends fs it.dst data ∧ (∀ f ∈ fs, f.acc.cmd = it.name ∧ f.count = count) ∧
              t.cur.outw = s.cur.outw ++ fs.map fun f => ⟨f.acc, obj⟩)) ∧
          ∀ p, it.dst = [p] → p.node ≠ here → p.len = data.length → completes (fun t => ∃ qs, posts qs p.va data t ∧
            (∀ q ∈ qs, q.node = p.node ∧ q.order = p.order ∧ q.bar = count ∧ q.box = none) ∧ ∃ ws, t.cur.outw = s.cur.outw ++ ws ∧
            (ws.map fun x => (x.acc.home, x.acc.len, x.obj)) = qs.map fun q => (Home.node p.node, q.len, obj))
        (∀ g sd sa sl sbr e, c.op = .cpout g sd sa sl sbr e → inRange (src e) n → sends (spad (src e) n)) ∧
        (∀ g sd sa sl sbr e, c.op = .cpscat g sd sa sl sbr e →
          let m := n % 2 ^ 17
          (∀ r ∈ it.rows, inRange (src e + (r * m : Nat)) m) → sends (it.rows.flatMap fun r => spad (src e + (r * m : Nat)) m)) ∧
        (∀ g sd sa sl sbr e, c.op = .cpmem g sd sa sl sbr e → sends bytes) ∧
        ∀ g sd sa sl sbr e, c.op = .cpmc g sd sa sl sbr e →
          let m := n % 2 ^ 23
          let origin := n / 2 ^ 48
          let ext := n / 2 ^ 32 % 2 ^ 16
          inRange (src e) m → completes (fun t => ∃ qs, posts qs (BitVec.ofInt 64 (c.d.toNat + step e)).toNat (spad (src e) m) t ∧
            (∀ q ∈ qs, q.node = origin ∧ q.box = some (origin, ext) ∧ q.bar = none) ∧ ∃ ws, t.cur.outw = s.cur.outw ++ ws ∧
            (ws.map fun x => (x.acc.home, x.acc.len, x.obj)) =
              qs.flatMap fun q => (s.boxNodes origin ext).map fun x => (Home.node x, q.len, obj)))) ∧
    (∀ w, s.cur.replay ≠ 0 → s.cur.em.onPath s.cur.replay = some it → s.cur.win = some w →
      let its := w.iters.filter fun x => !((s.cur.em.onPath (6 - s.cur.replay)).any (·.same x))
      let m0 := w.again s.cur.mat (its.filter fun x => !x.same it)
      (∀ u, ((s.modCur fun c => { c with mat := m0 }).logErr (s.core / 16)
          { kind := 4, unit := s.core % 16, asid := s.myAsid }).rerun its = some (u, none) →
        Completes .replay s (fun t => t.cur.replay = 0 ∧ t.cur.em.onPath s.cur.replay = none ∧ t.cur.mat = u.cur.mat)) ∧
      ∀ g td e ts, w.iters = [it] → s.cur.em.onPath (6 - s.cur.replay) = none → c.nullified = false → c.op = .accz g td e ts →
        let k := (((td : Int) + e.step.toInt * it.idx) % 8).toNat
        w.start.planTile k = false → Completes .replay s (fun t => t.cur.replay = 0 ∧ t.cur.em.onPath s.cur.replay = none ∧
          (∀ r, r < 32 → t.cur.mat.row k r = 0) ∧ ∀ q r, q < 8 → q ≠ k → r < 32 → t.cur.mat.row q r = w.start.row q r))

/-- A fence, FLUSH, QFENCE or QDRAIN goes on exactly when its accesses are done, else waits at its bundle until its step ends the wait
(R284, R290, R291, R216, R281, R434, R365). -/
def Obligations.FencesAndDrainsWait : Prop :=
  ∀ (s : State) (g : Guard) (lv : Nat) (qs : BitVec 3), s.holds g = true → (∀ p ∈ s.cur.pend, p.fail = none) →
    let reads (limited : Bool) : Prop := ∀ p ∈ s.cur.pend, p.isEarly = false → (limited = true → p.acc.uno = false) →
      s.inScope lv s.core p.acc.home = false
    let writes : Prop := (∀ w ∈ s.cur.outw, s.cur.prior w.acc.cmd = true → s.inScope lv s.core w.acc.home = false) ∧
      ∀ p ∈ s.cur.pend, p.isAtomic = true → s.inScope lv s.core p.acc.home = false
    let told : Prop := ∀ f ∈ s.cur.failed, s.cur.prior f.cmd = true → s.inScope lv s.core f.home = false
    let empty (e : Engine) : Prop := e.q = [] ∧ e.run = none ∧ e.ldw = none
    let queues (qs : BitVec 3) : Prop := (qs.getLsbD 0 = true → empty s.cur.el) ∧ (qs.getLsbD 1 = true → empty s.cur.em) ∧
      (qs.getLsbD 2 = true → empty s.cur.es)
    let drained : Prop := queues 7 ∧ s.cur.outw = [] ∧ ∀ p ∈ s.cur.pend, p.isEarly = true
    let ends (i : Instr) : Prop := Completes i s (fun t => WaitEnds s t ∧ t.cur.joined = s.cur.joined)
    let joins (i : Instr) (qs : BitVec 3) : Prop := Completes i s (fun t => WaitEnds s t ∧ ∀ c, c ∈ t.cur.joined ↔ c ∈ s.cur.joined ∨
      (qs.getLsbD 0 = true ∧ c ∈ s.cur.el.prior) ∨ (qs.getLsbD 1 = true ∧ c ∈ s.cur.em.prior) ∨ (qs.getLsbD 2 = true ∧ c ∈ s.cur.es.prior))
    let waits (i : Instr) (w : Wait) : Prop := Completes i s (fun t => WaitsIn s t w)
    (s.cur.wait = .none →
      (reads false → ends (.fenceAcq g lv)) ∧ (¬ reads false → waits (.fenceAcq g lv) (.fenceAcq lv)) ∧
      (reads false → writes → told → ends (.fenceRel g lv) ∧ ends (.fenceFull g lv)) ∧
      (¬ (reads false ∧ writes) → waits (.fenceRel g lv) (.fenceRel lv) ∧ waits (.fenceFull g lv) (.fenceFull lv)) ∧
      (writes → told → ends (.flush g lv)) ∧ (¬ writes → waits (.flush g lv) (.flush lv)) ∧
      (queues qs → joins (.qfence g qs) qs) ∧ (¬ queues qs → waits (.qfence g qs) (.qfence qs)) ∧
      (drained → s.cur.failed = [] → joins (.qdrain g) 7) ∧ (¬ drained → waits (.qdrain g) .qdrain)) ∧
    (s.cur.run = .running → s.csr.timed = false →
      (s.cur.wait = .fenceAcq lv → reads false → ends .fenceDone) ∧
      (s.cur.wait = .fenceRel lv ∨ s.cur.wait = .fenceFull lv → reads false → writes → told → ends .fenceDone) ∧
      (∀ id, s.cur.wait = .amoAcq lv id → reads true → (∀ p ∈ s.cur.pend, p.acc.id ≠ id) → Completes .fenceDone s (fun t => WaitsIn s t .none)) ∧
      (s.cur.wait = .flush lv → writes → told → ends .flushDone) ∧
      (s.cur.wait = .qfence qs → queues qs → joins .qfenceDone qs) ∧
      (s.cur.wait = .qdrain → drained → s.cur.failed = [] → joins .qdrainDone 7))

/-- TKPUSH and TKPOP move one token of their channel, and CQPUSH appends a count; a full channel or an empty one makes the sequencer
wait (R215, R434, R281, R448, R235). -/
def Obligations.TokensAndCounts : Prop :=
  ∀ (s : State) (g : Guard) (x : Bool) (sa : Nat), s.holds g = true → s.cur.el.sigs = [] → s.cur.em.sigs = [] → s.cur.es.sigs = [] →
    let up := if x then 7 else 0
    let down := if x then 3 else 4
    let v : W32 := (s.rs sa).truncate 32
    let popped (t : State) : Prop := CoreOnly s t ∧
      t.cur = { s.cur with wait := .none, act := { s.ctx.advance 8 with toks := t.ctx.toks }, joined := t.cur.joined } ∧
      (∀ c, c ∈ t.cur.joined ↔ c ∈ s.cur.joined ∨ c ∈ (s.ctx.channel down).headD []) ∧
      ∀ ch, t.ctx.channel ch = if ch = down then (s.ctx.channel down).tail else s.ctx.channel ch
    ((s.ctx.channel up).length < 15 → Completes (.tkpush g x) s (fun t => CtxOnly s t ∧
      t.ctx = { s.ctx.advance 8 with toks := t.ctx.toks } ∧
      ∀ ch, t.ctx.channel ch = if ch = up then s.ctx.channel up ++ [s.cur.joined] else s.ctx.channel ch)) ∧
    (15 ≤ (s.ctx.channel up).length → Completes (.tkpush g x) s (fun t => t = s)) ∧
    (s.cur.wait = .none → s.ctx.channel down ≠ [] → Completes (.tkpop g x) s popped) ∧
    (s.ctx.channel down = [] → Completes (.tkpop g x) s (fun t => WaitsIn s t (.tkpop down))) ∧
    (s.cur.wait = .tkpop down → s.cur.run = .running → s.csr.timed = false → s.ctx.channel down ≠ [] → Completes .tkpopDone s popped) ∧
    (s.cur.counts.length < 64 → Completes (.cqpush g sa) s (fun t => CoreOnly s t ∧
      t.cur = { s.cur with act := s.ctx.advance 8, counts := s.cur.counts ++ [(v, none)] })) ∧
    (64 ≤ s.cur.counts.length → s.cur.run ≠ .faulted → Completes (.cqpush g sa) s (fun t => FaultsAt s t 0x0C 0 s.ctx.pc)) ∧
    (s.csr.timed = true → ∀ tm, s.myTeam = some tm → tm.cores.head? = some s.core → s.cur.awaits [sa] = false →
      (∀ n, s.cur.settled = some n → n.1 ≠ s.csr.schedCtr.toNat) →
      let room : Prop := ∀ c ∈ tm.cores, (s.getCore c).counts.length < 64
      let settles (t : State) (n : Nat) : Prop := ∀ c ∈ tm.cores, (t.getCore c).settled = some (s.csr.schedCtr.toNat, n, v)
      (room → Completes (.cqpushTeam g sa) s (fun t => t.cur.counts = s.cur.counts ++ [(v, none)] ∧ t.ctx = s.ctx.advance 8 ∧ settles t 1 ∧
        ∀ a, t.byte a = s.byte a)) ∧
      (¬ room → s.cur.run ≠ .faulted → Completes (.cqpushTeam g sa) s (fun t => t.cur.run = .faulted ∧ t.csr.code = 0x0C ∧ t.csr.faultPc = s.ctx.pc ∧
        t.cur.counts = s.cur.counts ∧ settles t 0)))

/-- AMO and AMOCAS become one outstanding request, and AMO_RETURN performs it at its home in one step and writes the old value, or
parks it (R435, R436, R437, R233, R289). -/
def Obligations.AtomicsReadModifyWrite : Prop :=
  ∀ (s : State) (g : Guard) (op : AmoOp) (ord : Ord) (w : AWid) (scope sd sa sb sc : Nat) (imm : BitVec 12),
    let n := awSize w
    let va := s.rs sa + imm.signExtend 64
    let x := w64 ((s.rs sb).toNat % 2 ^ (8 * n))
    let y := w64 ((s.rs sc).toNat % 2 ^ (8 * n))
    let issues (i : Instr) (aop : Nat) (b : W64) : Prop := ∀ q qs, s.xlate .atomic va.toNat n = .ok (q :: qs) → q.tier = false →
      s.cur.mayIssue (s.accOf s.nextId 0 0 q) = true → (ord = .rel → s.relDone scope true = true) →
      Completes i s (fun t => (∀ a, t.byte a = s.byte a) ∧ (ord ≠ .acq → t.ctx = s.ctx.advance 8 ∧ t.cur.wait = s.cur.wait) ∧
        t.cur.pend = s.cur.pend ++ [{ acc := s.accOf s.nextId 0 0 q, ret := .atomic aop n (w == .i32) x b sd,
                                      sent := q.node != s.mg.node.toNat, fail := none }] ∧
        (ord = .acq → t.cur.wait = .amoAcq scope s.nextId) ∧
        (q.node ≠ s.mg.node.toNat → ∃ r : Req, t.gate.egress = s.gate.egress ++ [r] ∧ r.kind = 4 ∧ r.aop = aop ∧ r.opa = x ∧ r.opb = b ∧
          r.node = q.node ∧ r.va = q.va ∧ r.len = q.len) ∧
        (q.node = s.mg.node.toNat → t.gate = s.gate))
    (s.holds g = true → va.toNat < 2 ^ 55 → va.toNat % n = 0 →
      issues (.amo g op ord w scope sd sa sb imm) (amoCode op) 0 ∧ issues (.amocas g ord w scope sd sa sb sc imm) 0xA y) ∧
    ∀ (p : Pend) (aop m : Nat) (ext : Bool) (a b : W64) (r : Nat), s.cur.pend = [p] → p.acc.id = s.args.headD 0 → p.fail = none →
      p.sent = false → p.ret = .atomic aop m ext a b r → (m = 4 ∨ m = 8) → s.cur.outw = [] → s.cur.wait = .none →
      (s.die (homeDie p.acc.home)).parked = [] →
      let line := p.acc.lo / 64
      let held : Prop := s.moving s.myAsid p.acc.va = true ∨ line ∈ (s.die (homeDie (homeOf p.acc.lo))).stuck
      let old := s.readN p.acc.lo m
      let z := a.toNat % 2 ^ (8 * m)
      let so := (BitVec.ofNat (8 * m) old).toInt
      let sz := (BitVec.ofNat (8 * m) z).toInt
      let new : Nat := if aop = 0 then z else if aop = 1 then old + z else if aop = 2 then old &&& z else if aop = 3 then old ||| z
        else if aop = 4 then old ^^^ z else if aop = 5 then (if sz < so then z else old) else if aop = 6 then (if so < sz then z else old)
        else if aop = 7 then min old z else if aop = 8 then max old z else if aop = 9 then rne32 ((f32 old).add (f32 z))
        else if old = z then b.toNat else old
      (aop ≤ 10 → ¬ held → s.sound (64 * line) 64 → Completes .amoReturn s (fun t => t.cur.pend = [] ∧ t.ctx.pc = s.ctx.pc ∧
        (∀ k, t.byte k = if p.acc.lo ≤ k ∧ k < p.acc.lo + m then BitVec.ofNat 8 (new / 2 ^ (8 * (k - p.acc.lo))) else s.byte k) ∧
        ∀ q, t.rs q = if q = 0 then 0 else if q = r then
          (if m = 4 ∧ ext = true then (BitVec.ofNat 32 old).signExtend 64 else BitVec.ofNat 64 old) else s.rs q)) ∧
      (¬ held → (∃ e ∈ s.marks, e.2 = 3 ∧ 8 * line ≤ e.1 ∧ e.1 < 8 * line + 8) → Completes .amoReturn s (fun t => t.ctx = s.ctx ∧
        t.cur.pend = [{ p with fail := some (0x0F, BitVec.ofNat 64 p.acc.va) }])) ∧
      (held → Completes .amoReturn s (fun t => (t.die (homeDie p.acc.home)).parked = [(p.acc.id, line)] ∧ t.cur = s.cur ∧ t.mem = s.mem))

/-- The barrier instructions set up, count, arrive at, wait for and name the barrier object at their pointer (R226, R227, R229, R231,
R438, R439, R440, R441, R442, R443, R444). -/
def Obligations.BarrierInstructionsAct : Prop :=
  ∀ (s : State) (g : Guard) (sa sb sc sd ps pe lv : Nat), s.holds g = true →
    let p := (s.rs sa).toNat % 2 ^ 32
    let off := p % 2 ^ 22
    let key := spadKey s.core off
    let o := s.obj s.core off
    let held := s.ctx.heldFor off
    let n := (s.rs sb).toInt
    let outside (t : State) : Prop := ∀ a, (a < key ∨ key + 16 ≤ a) → t.byte a = s.byte a
    let flip (x : Obj) : Obj := if x.pend = 0 ∧ x.inb = 0 then
      { x with gen := (x.gen + 1) % 16, pend := x.expect - held, inb := x.next, next := 0 } else x
    let goes (t : State) : Prop := t.ctx.pc = (s.ctx.advance 8).pc ∧ t.ctx.s = s.ctx.s ∧ t.cur.wait = .none
    let regs (t : State) : Prop := CoreOnly s t ∧ t.ctx.s = s.ctx.s ∧ t.ctx.v = s.ctx.v
    let stops (i : Instr) (code : BitVec 8) : Prop := s.cur.run ≠ .faulted → Completes i s (fun t => t.csr.code = code ∧ t.cur.run = .faulted ∧
      t.csr.faultPc = s.ctx.pc ∧ ∀ a, t.byte a = s.byte a)
    let looks (i : Instr) (off gx : Nat) : Prop :=
      let o := s.obj s.core off
      let d := (16 + o.gen - gx) % 16
      (o.ok = false → stops i 0x0D) ∧ (o.ok = true → o.ovr = true → stops i 0x0E) ∧
      (o.ok = true → o.ovr = false → 1 ≤ d → d ≤ 7 → pe < 8 → ps < 8 → Completes i s (fun t => regs t ∧ t.cur.wait = .none ∧
        t.ctx.pc = (s.ctx.advance 8).pc ∧
        ∀ q, q < 8 → t.rp q = if q = 0 then true else if q = pe then o.err else if q = ps then decide (2 ≤ d) else s.rp q)) ∧
      (o.ok = true → o.ovr = false → d = 0 → Completes i s (fun t => regs t ∧ t.ctx = s.ctx ∧ t.cur.wait = .bwait ps pe off gx)) ∧
      (o.ok = true → o.ovr = false → 8 ≤ d → stops i 0x0D)
    let out (i : Instr) (off : Nat) : Prop :=
      let o := s.obj s.core off
      (o.rsv ≠ 0 → stops i 0x0D) ∧
      (o.rsv = 0 → (o.outb = 0 ∨ o.err = true) → Completes i s (fun t => regs t ∧ t.cur.wait = .none ∧ t.ctx = s.ctx.advance 8)) ∧
      (o.rsv = 0 → ¬ (o.outb = 0 ∨ o.err = true) → Completes i s (fun t => WaitsIn s t (.bwaitout off)))
    (s.ctx.ptrOwn p = true → s.ctx.rankOk p = true → off + 16 ≤ 4194304 → off % 16 = 0 → s.sound key 16 →
      ((s.rs sb).toNat ≤ 4095 → (s.rs sc).toNat ≤ 15 → ¬ (o.ok = true ∧ o.outb ≠ 0) → s.cur.wait = .none →
        Completes (.binit g sa sb sc) s (fun t => goes t ∧ outside t ∧ t.ctx.heldFor off = 0 ∧
          t.obj s.core off = ⟨(s.rs sc).toNat, (s.rs sb).toNat, (s.rs sb).toNat, false, false, true, 0, 0, 0, 0⟩)) ∧
      (-2147483648 ≤ n → n ≤ 2147483647 → o.ok = true → -2147483648 ≤ o.inb + n → o.inb + n ≤ 2147483647 → s.cur.wait = .none →
        held ≤ o.expect → Completes (.bexpect g sa sb) s (fun t => goes t ∧ outside t ∧ t.obj s.core off = flip { o with inb := o.inb + n })) ∧
      (-2147483648 ≤ n → n ≤ 2147483647 → o.ok = false → s.cur.run ≠ .faulted →
        Completes (.bexpect g sa sb) s (fun t => FaultsAt s t 0x0D 0 s.ctx.pc)) ∧
      Completes (.bhandle g sd sa) s (fun t => WritesS s t 8 sd
        (BitVec.ofNat 64 (s.csr.teamId.toNat * 2 ^ 32 + s.csr.rank.toNat * 2 ^ 22 + off))) ∧
      ((s.rs sb).toNat ≤ 15 → Completes (.barrive g lv sa sb) s (fun t =>
        WaitsIn s t (.barrive s.csr.rank.toNat off (s.rs sb).toNat lv))) ∧
      (s.cur.wait = .none → looks (.bwait g ps pe sa sb) off ((s.rs sb).toNat % 16) ∧ out (.bwaitout g sa) off)) ∧
    (s.cur.run = .running → s.csr.timed = false →
      (∀ off gx, s.cur.wait = .bwait ps pe off gx → gx < 16 → s.sound (spadKey s.core off) 16 →
        ((s.obj s.core off).gen = gx → Completes .bwaitWake s (fun t => t = s)) ∧ ((s.obj s.core off).gen ≠ gx → looks .bwaitWake off gx)) ∧
      (∀ off, s.cur.wait = .bwaitout off → s.sound (spadKey s.core off) 16 → out .bwaitoutDone off) ∧
      ∀ rank off st, s.cur.wait = .barrive rank off st lv → s.relDone lv true = true →
        ∀ c, s.place s.csr.teamId.toNat rank = .here c → s.sound (spadKey c off) 16 →
          let o := s.obj c off
          let early := (s.getCore c).act
          o.ok = true →
            (st = o.gen → 2 ≤ o.pend → Completes .barriveApplied s (fun t => t.cur.wait = .none ∧
              t.ctx.pc = (s.ctx.advance 8).pc ∧ t.obj c off = { o with pend := o.pend - 1 })) ∧
            (st = o.gen → o.pend = 1 → o.inb ≠ 0 → Completes .barriveApplied s (fun t => t.cur.wait = .none ∧
              t.ctx.pc = (s.ctx.advance 8).pc ∧ t.obj c off = { o with pend := 0 })) ∧
            (st = o.gen → o.pend = 1 → o.inb = 0 → Completes .barriveApplied s (fun t => t.cur.wait = .none ∧
              t.ctx.pc = (s.ctx.advance 8).pc ∧ (t.getCore c).act.heldFor off = 0 ∧
              t.obj c off = { o with gen := (o.gen + 1) % 16, pend := o.expect - early.heldFor off, inb := o.next, next := 0 })) ∧
            (st = (o.gen + 1) % 16 → early.heldFor off < o.expect → (early.heldFor off ≠ 0 ∨ early.early.length < 16) → ¬ (o.pend = 0 ∧ o.inb = 0) →
              Completes .barriveApplied s (fun t => t.cur.wait = .none ∧ t.ctx.pc = (s.ctx.advance 8).pc ∧ t.obj c off = o ∧
                (t.getCore c).act.heldFor off = early.heldFor off + 1)) ∧
            (st ≠ o.gen → st ≠ (o.gen + 1) % 16 → Completes .barriveApplied s (fun t => t.cur.wait = .none ∧ t.cur.run = .faulted ∧
              t.csr.code = 0x0E ∧ t.csr.faultPc = s.ctx.pc ∧ t.obj c off = { o with ovr := true, err := true })))

/-- QPUT waits, reserves, writes and publishes its slot; SEMSIG adds to a semaphore; CAPADD, CAPGET and CAPUPD act on the capacity
table (R166, R168, R186, R187, R445, R446, R447). -/
def Obligations.QueuesSemaphoresAndCapacity : Prop :=
  ∀ (s : State) (g : Guard) (sa sb sd q scope : Nat), s.holds g = true →
    let p := s.csr.part.toNat
    let pl := s.myStage.1
    let ptr := (s.rs sa).toNat % 2 ^ 32
    let off := ptr % 2 ^ 22
    let k := s.stOutq p pl s.myStage.2 q
    let e := (s.rs sa).toNat
    let a := capAt p pl e
    let capFree : Prop := ∀ x ∈ s.cur.pend, ∀ r c, x.ret ≠ .cap r c
    let waits (i : Instr) (w : Wait) : Prop := Completes i s (fun t => WaitsIn s t w)
    (s.ctx.ptrOwn ptr = true → off + 64 ≤ 4194304 → ptr % 64 = 0 → k ≠ 0xFF → s.quLog p pl k ≠ 0 →
      waits (.qput g sa q) (.qput k none off)) ∧
    (∀ k off, s.cur.run = .running → s.csr.timed = false → s.cur.wait = .qput k none off →
      2 ^ s.quLog p pl k ≤ diff32 (s.quTail p pl k) (s.quHead p pl k) → Completes .qputReserve s (fun t => t = s)) ∧
    (∀ k off pte lv ka pa, s.cur.run = .running → s.csr.timed = false → s.cur.wait = .qput k none off →
      diff32 (s.quTail p pl k) (s.quHead p pl k) < 2 ^ s.quLog p pl k → s.marks = [] →
      s.walk s.myAsid (s.quSlot p pl k (s.quTail p pl k)) = .leaf pte lv ka pa → pteNode pte = s.mg.node.toNat → pteW pte = true →
      pteBed pte = false → s.isCow s.myAsid (s.quSlot p pl k (s.quTail p pl k)) = false →
      s.moving s.myAsid (s.quSlot p pl k (s.quTail p pl k)) = false →
      Completes .qputReserve s (fun t => t.cur.wait = .qput k (some (s.quTail p pl k)) off ∧ t.ctx = s.ctx ∧
        t.quTail p pl k = (s.quTail p pl k + 1) % 2 ^ 32 ∧
        ∀ i, i < 64 → t.byte (pa % 2 ^ 48 + i) = s.byte (spadKey s.core off + i))) ∧
    (∀ k off, s.cur.run = .running → s.csr.timed = false → s.cur.wait = .qput k (some (s.quPub p pl k)) off → s.relDone 3 false = true →
      Completes .qputPublish s (fun t => t.cur.wait = .none ∧ t.ctx = s.ctx.advance 8 ∧
        t.quPub p pl k = (s.quPub p pl k + 1) % 2 ^ 32)) ∧
    (e ≤ 255 → waits (.semsig g scope sa sb) (.semsig e ((s.rs sb).toNat % 2 ^ 32) scope)) ∧
    (∀ i n, s.cur.run = .running → s.csr.timed = false → s.cur.wait = .semsig i n scope → s.relDone scope true = true → i < 256 →
      Completes .semsigDone s (fun t => t.cur.wait = .none ∧ t.ctx = s.ctx.advance 8 ∧
        t.mg4 (semAt p pl i) 4 = min (s.mg4 (semAt p pl i) 4 + n) 0xFFFFFFFF)) ∧
    (e < s.nexp → capFree → Completes (.capadd g sa sb) s (fun t => t.ctx = s.ctx.advance 8 ∧
      t.mg4 a 4 = min (s.mg4 a 4 + (s.rs sb).toNat % 2 ^ 32) 0xFFFFFFFF ∧
      ∀ b, (b < mgKey a ∨ mgKey a + 4 ≤ b) → t.byte b = s.byte b)) ∧
    (s.nexp ≤ e → s.cur.run ≠ .faulted → ∀ i ∈ [Instr.capadd g sa sb, .capget g sd sa], Completes i s (fun t =>
      FaultsAt s t 0x01 0 s.ctx.pc ∧ t.csr.faultAddr = s.ctx.pc)) ∧
    (e < s.nexp → Completes (.capget g sd sa) s (fun t => t.ctx = s.ctx.advance 8 ∧ (∀ b, t.byte b = s.byte b) ∧
      ∃ x : Pend, t.cur.pend = s.cur.pend ++ [x] ∧ x.ret = .cap sd e ∧ x.fail = none)) ∧
    (∀ x r c, s.cur.pend = [x] → x.ret = .cap r c → x.acc.id = s.args.headD 0 → s.cur.wait = .none →
      Completes .capgetReturn s (fun t => t.cur.pend = [] ∧ t.ctx.pc = s.ctx.pc ∧ (∀ b, t.byte b = s.byte b) ∧
        ∀ z, t.rs z = if z = 0 then 0 else if z = r then BitVec.ofNat 64 (s.mg4 (capAt p pl c + 8) 4) else s.rs z)) ∧
    (capFree → s.nexp ≤ 1024 → Completes (.capupd g) s (fun t => t.ctx = s.ctx.advance 8 ∧ ∀ n, n < s.nexp →
      let b := capAt p pl n
      let m := pipeAt p pl
      let ewma := ((s.mg4 (b + 4) 4 : Int) + ((s.mg4 b 4 : Int) - s.mg4 (b + 4) 4) / (2 ^ (s.mg4 (m + 1) 1 % 16) : Nat)).toNat
      t.mg4 b 4 = 0 ∧ t.mg4 (b + 4) 4 = ewma ∧
      t.mg4 (b + 8) 4 = min (max ((ewma * s.mg4 (m + 6) 2 + 255) / 256) (s.mg4 (m + 8) 4)) (s.mg4 (m + 12) 4)))

/-- PBUILD writes a pebble image from its template, slots and payload, PSEND injects one, and RWLD and RWST access a window word
(R449, R450, R451, R94, R296). -/
def Obligations.PebbleInjectionAndWindowWords : Prop :=
  ∀ (s : State) (g : Guard) (sd sa sb sc dir : Nat) (imm : BitVec 12), s.holds g = true →
    let off (r : Nat) : Nat := (s.rs r).toNat % 2 ^ 22
    let own (r n al : Nat) : Prop := s.ctx.ptrOwn ((s.rs r).toNat % 2 ^ 32) = true ∧ off r + n ≤ 4194304 ∧ (s.rs r).toNat % al = 0
    let key (r : Nat) := spadKey s.core (off r)
    let plen := imm.toNat
    let size := 64 * (3 + (plen + 7) / 8)
    let slot (j i : Nat) : Byte := BitVec.ofNat 8 ((s.rs (sc + j)).toNat / 2 ^ (8 * i))
    (plen ≤ 32 → sc ≤ 60 → own sd size 64 → own sa 64 64 → own sb (8 * plen) 8 → s.sound (key sa + 16) 48 → s.sound (key sb) (8 * plen) →
      Completes (.pbuild g sd sa sb sc imm) s (fun t => t.ctx = s.ctx.advance 8 ∧
        (∀ a, (a < key sd ∨ key sd + size ≤ a) → t.byte a = s.byte a) ∧
        (∀ i, i < 16 → t.byte (key sd + i) = 0) ∧
        (∀ b, b < 128 → (t.readN (key sd + 16) 16).testBit b =
          if 40 ≤ b ∧ b ≤ 45 then plen.testBit (b - 40) else if 8 ≤ b ∧ b ≤ 11 then false else (s.readN (key sa + 16) 16).testBit b) ∧
        (∀ i, i < 32 → t.byte (key sd + 32 + i) = s.byte (key sa + 32 + i)) ∧
        (∀ j i, j < 4 → i < 8 → t.byte (key sd + 64 + 8 * j + i) = slot j i) ∧
        (∀ i, i < 96 → t.byte (key sd + 96 + i) = 0) ∧
        ∀ i, 192 + i < size → t.byte (key sd + 192 + i) =
          if ¬ i < 8 * plen then 0
          else if key sd ≤ key sb + i ∧ key sb + i < key sd + 192 then t.byte (key sb + i) else s.byte (key sb + i))) ∧
    (let pl := (s.readN (key sa + 16) 16) / 2 ^ 40 % 2 ^ 6
     let p := s.pebbleOf (s.readB (key sa) (64 * (3 + (pl + 7) / 8))) ((s.rs sb).toNat % 2 ^ 16)
     pl ≤ 32 → own sa (64 * (3 + (pl + 7) / 8)) 64 → s.sound (key sa) (64 * (3 + (pl + 7) / 8)) → (s.rs sb).toNat < 2 ^ 16 →
     (s.rs sc).getLsbD 59 = false → p.pebbleBad = false → (∀ c ∈ s.cores, ∀ w ∈ c.2.outw, w.acc.id ≠ s.nextId) →
     ∀ e, s.tenantEntry p.tenant = some e → tenPart (s.tenWord e) = s.csr.part.toNat →
      let n := 64 * (3 + (pl + 7) / 8)
      let mask := tenMask (s.tenWord e)
      let q := p.setPb 39 32 (min p.budget (16 * (mask / 2 ^ 12 % 2 ^ 4) + 15))
      let exit (d : Nat) (x : Packet) : Prop := (dir = 7 ∧ q.listExit = some (d, x)) ∨ (dir ≠ 7 ∧ mask.testBit 4 = true ∧ d = dir ∧ x = q)
      let goes (t : State) : Prop := t.ctx = s.ctx.advance 8 ∧ t.nextId = s.nextId + 1
      let parks (code : Nat) : Prop := ∀ i, FreePlace s e i → Completes (.psend g sa sb sc dir) s (fun t => goes t ∧
        t.router.parks = s.router.parks ++ [⟨e, i, q, code, q.entryPc, 0xFF, s.now⟩] ∧ t.cur.outw = s.cur.outw)
      ((s.rs sc).getLsbD 58 = false →
        (∀ d x, exit d x → s.exitCode q d = none → s.router.outq = [] → s.hasCredits d (s.exited x d) = true →
          Completes (.psend g sa sb sc dir) s (fun t => goes t ∧ t.router.wire = s.router.wire ++ [(d, s.exited x d)] ∧
            t.router.parks = s.router.parks ∧ t.cur.outw = s.cur.outw ∧ ∀ a, t.byte a = s.byte a)) ∧
        (∀ d x c, exit d x → s.exitCode q d = some c → parks c) ∧
        (dir = 7 → q.listExit = none → parks 6) ∧ (dir ≠ 7 → mask.testBit 4 = false → parks 3)) ∧
      (let b := off sc
       let o := s.obj s.core b
       let O := (s.rs sc).getLsbD 58
       (O = true → (s.rs sc).toNat / 2 ^ 32 % 2 ^ 26 = 0 ∧ own sc 16 16 ∧ s.sound (spadKey s.core b) 16 ∧ o.ok = true ∧
         o.outb + n ≤ 2147483647 ∧ -2147483648 ≤ o.outb + n) →
       ∀ d x, exit d x → s.exitCode q d = none → s.router.outq = [] → s.hasCredits d (s.exited x d) = false →
        Completes (.psend g sa sb sc dir) s (fun t => goes t ∧
          t.router.outq = [⟨s.exited x d, d, 0xFF, s.now, q.entryPc, some s.nextId⟩] ∧ t.router.wire = s.router.wire ∧
          (∃ w : OutW, t.cur.outw = s.cur.outw ++ [w] ∧ w.acc.id = s.nextId ∧ w.acc.home = .hub ∧ w.acc.len = n ∧
            w.obj = if O then some b else none) ∧
          (O = true → t.obj s.core b = { o with outb := o.outb + n }) ∧ (O = false → ∀ a, t.byte a = s.byte a)))) ∧
    (let o : Int := ((s.rs sa).toNat % 2 ^ 16 : Nat) + imm.toInt
     ∀ e, s.tenantEntry ((s.rs sa).toNat / 2 ^ 16 % 2 ^ 16) = some e →
      (tenPart (s.tenWord e) = s.csr.part.toNat → 0 ≤ o → o ≤ 65535 → o % 8 = 0 →
        Completes (.rwld g sd sa imm) s (fun t => t.ctx = s.ctx.advance 8 ∧ (∀ a, t.byte a = s.byte a) ∧
          ∃ q : Pend, t.cur.pend = s.cur.pend ++ [q] ∧ q.ret = .rwld sd e o.toNat ∧ q.fail = none) ∧
        (s.cur.pend = [] → s.cur.outw = [] → Completes (.rwst g sa sb imm) s (fun t => t.ctx = s.ctx.advance 8 ∧
          ∀ a, t.byte a = if winKey e o.toNat ≤ a ∧ a < winKey e o.toNat + 8
            then BitVec.ofNat 8 ((s.rs sb).toNat / 2 ^ (8 * (a - winKey e o.toNat))) else s.byte a))) ∧
      (s.cur.run ≠ .faulted → (tenPart (s.tenWord e) ≠ s.csr.part.toNat ∨ o < 0 ∨ 65535 < o) →
        ∀ i ∈ [Instr.rwld g sd sa imm, .rwst g sa sb imm], Completes i s (fun t => FaultsAt s t 0x03 0 s.ctx.pc ∧ t.csr.faultAddr = s.rs sa)))

/-- Each pebble operation that goes on leaves the stack, the slots and the window or counter word that R113 to R118 give (R95, R113,
R114, R115, R116, R117, R118, R98, R99). -/
def Obligations.PebbleOperationsOnTheStack : Prop :=
  ∀ (s : State) (v : Visit) (below : List W64) (a b : W64) (n d sel : Nat) (i : BitVec 11), s.visit = some v → v.pc < 15 →
    2 ≤ v.pkt.flits.length → v.pkt.depth ≤ 8 → n < 4 → sel < 3 → d < 6 →
    let k := v.pkt.slot
    let st := v.pkt.stack
    let mask := tenMask (s.tenWord v.entry)
    let goes (ins : Instr) (stack : List W64) (slots : Nat → W64) : Prop := Completes ins s (fun t =>
      PebbleGoes s t v (v.pc + 1) stack slots ∧ ∀ x, t.byte x = s.byte x)
    let word (o : W64) : W64 := BitVec.ofNat 64 (s.readN (mgKey (0x30000000 + 0x10000 * v.entry + o.toNat)) 8)
    let only (t : State) (key n x : Nat) : Prop := ∀ j, t.byte j = if key ≤ j ∧ j < key + n then BitVec.ofNat 8 (x / 2 ^ (8 * (j - key))) else s.byte j
    let counter (c : Nat) : Nat := s.readN (mgKey (0x20200000 + 0x1000 * v.entry + 0x400 + 4 * c)) 4
    (v.pkt.depth ≤ 7 → goes (.pushi i) (st ++ [i.signExtend 64]) k ∧ goes (.pushk n) (st ++ [k n]) k ∧
      goes (.coord sel) (st ++ [BitVec.ofNat 64 (if sel = 0 then (coords s.mg.node.toNat).1 else if sel = 1 then (coords s.mg.node.toNat).2.1
        else (coords s.mg.node.toNat).2.2)]) k ∧
      goes .hop (st ++ [BitVec.ofNat 64 v.pkt.hops]) k ∧
      (permits mask 5 = true → goes (.loadCount d) (st ++ [BitVec.ofNat 64 (s.load d)]) k) ∧
      ∀ c, c < 256 → s.sound (mgKey (0x20200000 + 0x1000 * v.entry + 0x400 + 4 * c)) 4 →
        goes (.ctr c) (st ++ [BitVec.ofNat 64 (counter c)]) k ∧
        (permits mask 7 = true → Completes (.ctrinc c) s (fun t => PebbleGoes s t v (v.pc + 1) (st ++ [BitVec.ofNat 64 (counter c)]) k ∧
          only t (mgKey (0x20200000 + 0x1000 * v.entry + 0x400 + 4 * c)) 4 ((counter c + 1) % 2 ^ 32)))) ∧
    (st = below ++ [a] → goes (.popk n) below (fun m => if m = n then a else k m) ∧
      goes (.addk n) below (fun m => if m = n then k n + a else k m) ∧ goes .pebbleDrop below k ∧
      (v.pkt.depth ≤ 7 → goes .dup (below ++ [a, a]) k) ∧
      (a.toNat % 8 = 0 → a.toNat < 65536 → s.sound (mgKey (0x30000000 + 0x10000 * v.entry + a.toNat)) 8 → goes .ldr (below ++ [word a]) k) ∧
      (let target : Int := (v.pc : Int) + i.toInt
       let branch (ins : Instr) (taken : Bool) : Prop := Completes ins s (fun t =>
        PebbleGoes s t v (if taken then target.toNat else v.pc + 1) below k ∧ ∀ x, t.byte x = s.byte x)
       0 ≤ target → target ≤ 15 → branch (.pebbleBz i) (a == 0) ∧ branch (.pebbleBnz i) (a != 0))) ∧
    (st = below ++ [a, b] →
      let gives (ins : Instr) (r : W64) : Prop := goes ins (below ++ [r]) k
      goes .swap (below ++ [b, a]) k ∧ gives .pebbleAdd (a + b) ∧ gives .pebbleSub (a - b) ∧ gives .pebbleAnd (a &&& b) ∧
      gives .pebbleOr (a ||| b) ∧ gives .pebbleXor (a ^^^ b) ∧ gives .pebbleCmpeq (if a = b then 1 else 0) ∧
      gives .pebbleCmplt (if a.slt b then 1 else 0) ∧
      gives .pebbleShl (if 0 ≤ b.toInt ∧ b.toInt ≤ 63 then a <<< b.toInt.toNat
        else if -63 ≤ b.toInt ∧ b.toInt ≤ -1 then a >>> (-b.toInt).toNat else 0) ∧
      (permits mask 8 = true → a.toNat % 8 = 0 → a.toNat < 65536 → s.sound (mgKey (0x30000000 + 0x10000 * v.entry + a.toNat)) 8 →
        Completes .addr s (fun t => PebbleGoes s t v (v.pc + 1) (below ++ [word a]) k ∧
          only t (mgKey (0x30000000 + 0x10000 * v.entry + a.toNat)) 8 (word a + b).toNat)))

/-- FWD, CLONE, DELIVER, PARK, KILL, STEP_BUDGET, PEBBLE_VISIT and PEBBLE_EXIT_TIMEOUT start and end visits, and a failed check parks
(R91, R95, R96, R97, R102, R105, R107, R119, R120, R121, R69). -/
def Obligations.PebbleVisitsEnd : Prop :=
  ∀ (s : State) (v : Visit) (d : Nat) (m : BitVec 6), s.visit = some v → v.pkt.depth ≤ 8 →
    (s.router.parks.filter fun k => k.entry == v.entry).length < 1024 →
    let p := v.pkt
    let mask := tenMask (s.tenWord v.entry)
    let ends (t : State) : Prop := t.visit = none
    let leaves (t : State) (out : List (Nat × Packet)) : Prop := ends t ∧ t.router.wire = s.router.wire ++ out ∧ t.router.parks = s.router.parks
    let fit (q : Packet) (d : Nat) : Prop := s.exitCode q d = none ∧ s.hasCredits d (s.exited q d) = true
    let place := (s.teams.find? fun t => t.id == p.pb 127 96)
    Completes .kill s (fun t => ends t ∧ t.router.parks = s.router.parks ∧ t.router.wire = s.router.wire ∧ ∀ a, t.byte a = s.byte a) ∧
    Completes .park s (fun t => ParksAs s t v p 0x0C v.pc) ∧
    (v.steps = 32 → Completes .stepBudget s (fun t => ParksAs s t v p 0x02 v.pc)) ∧
    (s.router.outq = [] → d < 6 →
      (permits mask 4 = true → fit p d → Completes (.fwd d) s (fun t => leaves t [(d, s.exited p d)])) ∧
      (∀ q, p.listExit = some (d, q) → fit q d → Completes (.fwd 7) s (fun t => leaves t [(d, s.exited q d)])) ∧
      (permits mask 4 = true → s.portUp d = false → Completes (.fwd d) s (fun t => ParksAs s t v p 0x06 v.pc)) ∧
      (∀ q, p.listExit = some (d, q) → s.portUp d = false → Completes (.fwd 7) s (fun t => ParksAs s t v p 0x06 v.pc)) ∧
      (p.listExit = none → Completes (.fwd 7) s (fun t => ParksAs s t v p 0x06 v.pc)) ∧
      (permits mask 4 = true → s.portUp d = true → p.budget = 0 → Completes (.fwd d) s (fun t => ParksAs s t v p 0x01 v.pc)) ∧
      (permits mask 4 = false → Completes (.fwd d) s (fun t => ParksAs s t v p 0x03 v.pc)) ∧
      ((dirsOf m).length ≤ fanout mask → 1 ≤ fanout mask → (∀ x ∈ dirsOf m, fit p x) →
        Completes (.clone m) s (fun t => leaves t ((dirsOf m).map fun x => (x, s.exited p x)))) ∧
      (fanout mask = 0 → Completes (.clone m) s (fun t => ParksAs s t v p 0x03 v.pc))) ∧
    (p.depth = 0 → Completes .pebbleAdd s (fun t => ParksAs s t v p 0x04 v.pc)) ∧
    (∀ tm c, s.team (p.pb 127 96) = some tm → tm.part = tenPart (s.tenWord v.entry) → p.pb 95 88 < tm.n → tm.absent = false →
      tm.cores.getD (p.pb 95 88) 0 = c → p.pb 46 46 = 0 → p.delivery ≠ [] → 8 * p.pb 87 69 + p.delivery.length ≤ 4194304 →
      Completes .deliver s (fun t => ends t ∧ t.router.parks = s.router.parks ∧ ∀ a, t.byte a =
        if spadKey c (8 * p.pb 87 69) ≤ a ∧ a < spadKey c (8 * p.pb 87 69) + p.delivery.length
        then p.delivery.getD (a - spadKey c (8 * p.pb 87 69)) 0 else s.byte a)) ∧
    (∀ (z : State) (e : Nat) (a : Arrival) (rest : List Arrival), z.args = [e, 0] → e < 8 → z.lost = false → z.router.arrivals = a :: rest →
      a.pkt.isPebble = true → Tab.get none z.router.visits e = none →
      (a.pkt.pebbleBad = false → ∀ k, z.tenantEntry a.pkt.tenant = some k → Completes .pebbleVisit z (fun t => t.router.arrivals = rest ∧
        Tab.get none t.router.visits e = some ⟨a.pkt, a.port, k, a.mask.getD a.pkt.entryPc, 0⟩)) ∧
      (a.pkt.pebbleBad = true → Completes .pebbleVisit z (fun t => t.router.arrivals = rest ∧ Tab.get none t.router.visits e = none ∧
        t.router.parks = z.router.parks))) ∧
    (∀ (z : State) (o : OutPkt) (rest : List OutPkt) (e : Nat), z.args = [0] → z.router.outq = o :: rest → o.pkt.isPebble = true →
      z.portUp o.dir = false → z.tenantEntry o.pkt.tenant = some e → o.sent = none → ∀ i, FreePlace z e i →
      Completes .pebbleExitTimeout z (fun t => t.router.outq = rest ∧
        t.router.parks = z.router.parks ++ [⟨e, i, o.pkt, 0x06, o.idx, o.port, z.now⟩]))

/-- Each slate arithmetic, compare and select operation writes its result to g[GD], in register and immediate form, and goes on
(R204). -/
def Obligations.PolicyArithmetic : Prop :=
  ∀ (s : State) (d a b : Nat) (imm : BitVec 18), (s.getPart s.pol).inv.isSome = true →
    let x := s.getPart s.pol
    let goes (i : Instr) (cost : Nat) (v : W32) : Prop := x.used + cost ≤ 2048 →
      Completes i s (fun t => PolicyGoes s t cost (x.pc + 1) id (fun r => if r = d then v else x.rg r))
    let both (i j : Instr) (cost : Nat) (f : W32 → W32 → W32) : Prop :=
      goes i cost (f (x.rg a) (x.rg b)) ∧ goes j cost (f (x.rg a) (imm.signExtend 32))
    let within (b v : W32) : W32 := if 0 ≤ b.toInt ∧ b.toInt ≤ 31 then v else 0
    both (.slateAdd d a b) (.slateAddImm d a imm) 1 (fun a b => BitVec.ofInt 32 (a.toInt + b.toInt)) ∧
    both (.slateSub d a b) (.slateSubImm d a imm) 1 (fun a b => BitVec.ofInt 32 (a.toInt - b.toInt)) ∧
    both (.slateMul d a b) (.slateMulImm d a imm) 2 (fun a b => BitVec.ofInt 32 (a.toInt * b.toInt)) ∧
    both (.slateAnd d a b) (.slateAndImm d a imm) 1 (· &&& ·) ∧
    both (.slateOr d a b) (.slateOrImm d a imm) 1 (· ||| ·) ∧
    both (.slateXor d a b) (.slateXorImm d a imm) 1 (· ^^^ ·) ∧
    both (.slateShl d a b) (.slateShlImm d a imm) 1 (fun a b => within b (BitVec.ofNat 32 (a.toNat * 2 ^ b.toNat))) ∧
    both (.slateShr d a b) (.slateShrImm d a imm) 1 (fun a b => within b (BitVec.ofNat 32 (a.toNat / 2 ^ b.toNat))) ∧
    both (.slateMin d a b) (.slateMinImm d a imm) 1 (fun a b => BitVec.ofInt 32 (min a.toInt b.toInt)) ∧
    both (.slateMax d a b) (.slateMaxImm d a imm) 1 (fun a b => BitVec.ofInt 32 (max a.toInt b.toInt)) ∧
    both (.slateCmplt d a b) (.slateCmpltImm d a imm) 1 (fun a b => if a.toInt < b.toInt then 1 else 0) ∧
    both (.slateCmpeq d a b) (.slateCmpeqImm d a imm) 1 (fun a b => if a = b then 1 else 0) ∧
    both (.slateSel d a b) (.slateSelImm d a imm) 1 (fun a b => if x.rg d ≠ 0 then a else b)

/-- LDV, LDM, STM, ARGMAX, BRF, LOOP and ENDL read, write and branch as R202 to R207 give, or end the invocation with the cause of
R195 (R193, R195, R202, R203, R205, R206, R207). -/
def Obligations.PolicyMemoryAndControl : Prop :=
  ∀ (s : State) (d a c k n l : Nat) (ix : Bool), (s.getPart s.pol).inv.isSome = true →
    let x := s.getPart s.pol
    let goes (i : Instr) (cost next : Nat) (f : Part → Part) (regs : Nat → W32) : Prop := x.used + cost ≤ 2048 →
      Completes i s (fun t => PolicyGoes s t cost next f regs)
    let ends (i : Instr) (cost cause : Nat) : Prop := x.used + cost ≤ 2048 → Completes i s (fun t => EndsAbnormally s t cause)
    let set (v : W32) (r : Nat) : W32 := if r = d then v else x.rg r
    let idx := if ix then ((x.rg a).toNat + c) % 2 ^ 32 else c
    let snap (i : Nat) : W32 := Tab.get 0 x.snap (4096 * k + i)
    let base := (x.rg a).toNat
    let target := x.pc + d
    let taken := c = 0 ∨ (c = 1 ∧ x.rg a ≠ 0) ∨ (c = 2 ∧ x.rg a = 0)
    (∀ m, colSize k = some m →
      (idx < m → goes (.ldv d a ix k c) 2 (x.pc + 1) id (set (snap idx))) ∧ (m ≤ idx → ends (.ldv d a ix k c) 2 3) ∧
      (∀ best, base + n < m → base ≤ best → best ≤ base + n → (∀ i, base ≤ i → i ≤ base + n → (snap i).toNat ≤ (snap best).toNat) →
        (∀ i, base ≤ i → i < best → (snap i).toNat < (snap best).toNat) →
        goes (.argmax d a k n) (2 + (n + 16) / 16) (x.pc + 1) id
          (fun r => if r = d then BitVec.ofNat 32 best else if r = a then snap best else x.rg r)) ∧
      (m ≤ base + n → ends (.argmax d a k n) (2 + (n + 16) / 16) 3)) ∧
    (colSize k = none → ends (.ldv d a ix k c) 2 3 ∧ ends (.argmax d a k n) (2 + (n + 16) / 16) 3) ∧
    (idx ≤ 63 → goes (.ldm d a ix c) 1 (x.pc + 1) id (set (Tab.get 0 x.m idx)) ∧
      goes (.stm d a ix c) 1 (x.pc + 1) (fun y => { y with m := Tab.put 0 y.m idx (x.rg d) }) x.rg) ∧
    (63 < idx → ends (.ldm d a ix c) 1 3 ∧ ends (.stm d a ix c) 1 3) ∧
    (1 ≤ d → target ≤ 255 → c ≤ 2 →
      (taken → goes (.brf a c d) 1 target (fun y => { y with loops := y.loops.dropWhile fun l => decide (l.last < target) }) x.rg) ∧
      (¬ taken → goes (.brf a c d) 1 (x.pc + 1) id x.rg)) ∧
    ((d = 0 ∨ 255 < target ∨ 2 < c) → ends (.brf a c d) 1 2) ∧
    (1 ≤ n → n ≤ 64 → 1 ≤ l → (x.loops.length ≠ 4 → goes (.slateLoop d l n) 1 (x.pc + 1)
        (fun y => { y with loops := ⟨x.pc + 1, x.pc + l, n, 0, d⟩ :: y.loops }) (set 0)) ∧
      (x.loops.length = 4 → ends (.slateLoop d l n) 1 5)) ∧
    ((n = 0 ∨ 64 < n ∨ l = 0) → ends (.slateLoop d l n) 1 2) ∧
    (∀ top rest, x.loops = top :: rest → top.last = x.pc →
      (top.i + 1 < top.n → goes .endl 1 top.start (fun y => { y with loops := { top with i := top.i + 1 } :: rest })
        (fun r => if r = top.reg then BitVec.ofNat 32 (top.i + 1) else x.rg r)) ∧
      (top.n ≤ top.i + 1 → goes .endl 1 (x.pc + 1) (fun y => { y with loops := rest }) x.rg)) ∧
    ((x.loops = [] ∨ ∃ top rest, x.loops = top :: rest ∧ top.last ≠ x.pc) → ends .endl 1 5)

/-- EMIT lists a decision, RET applies the list in order, each decision doing what R194 and R209 give, and BUDGET ends an invocation
(R193, R194, R195, R197, R200, R208, R209, R172, R175, R177, R180, R184). -/
def Obligations.PolicyDecisionsAndEnds : Prop :=
  ∀ (s : State) (d a k : Nat), (s.getPart s.pol).inv.isSome = true →
    let x := s.getPart s.pol
    let emits (i : Instr) (ok : Prop) (dec : Nat × W32 × W32) : Prop := x.used + 2 ≤ 2048 →
      (x.decs.length < 32 → ok → Completes i s (fun t =>
        PolicyGoes s t 2 (x.pc + 1) (fun y => { y with decs := y.decs ++ [dec] }) x.rg)) ∧
      (32 ≤ x.decs.length ∨ ¬ ok → Completes i s (fun t => EndsAbnormally s t 4))
    emits (.emitDispatch d a) ((x.rg d).toNat ≤ 1023 ∧ (x.rg a).toNat ≤ 0xFFFF) (0, x.rg d, x.rg a) ∧
    emits (.emitPreempt d) True (1, x.rg d, 0) ∧
    emits (.emitShare d a) ((x.rg d).toNat ≤ 1023 ∧ (x.rg a).toNat ≤ 256) (2, x.rg d, x.rg a) ∧
    emits (.emitFaultact d k) True (4 + k, x.rg d, 0) ∧
    (x.used + 1 ≤ 2048 → Completes .slateRet s (fun t => ∃ u,
      ShowsM s u { x with inv := none, decs := [], loops := [], used := x.used + 1, consec := 0, invocations := x.invocations + 1 } ∧
      t = x.decs.foldl (fun u d => u.applyDec s.pol d) u)) ∧
    (let p := s.pol
     let blocked (i : Nat) : Prop := ∃ e ∈ x.slots, ∃ f, e.2 = some f ∧ f.stage = i ∧ (f.restore = true ∨ f.team = none)
     let share (i n : Nat) : Prop := Tab.get 0 x.shares i = 0 ∨ s.stCores p (i / 64) (i % 64) + n ≤ Tab.get 0 x.shares i
     (∀ i v, s.applyDec p (2, i, v) = s.modPart p fun y => { y with shares := Tab.put 0 y.shares i.toNat v.toNat }) ∧
     (∀ i m : W32, let q := i.toNat / 64
      let st := i.toNat % 64
      let t := s.applyDec p (0, i, m)
      let roomy (asid : Nat) (r : List Byte) (d : Nat) : Bool := (s.bedRoom p d asid (s.imageOf asid r).1 (s.imageOf asid r).2).isSome
      let slots (asid : Nat) (cs : List Nat) (tab : List W32) : Prop := s.slotHeld p asid (s.slotTab p q st) = false ∧
        s.slotTable p asid (s.slotTab p q st) cs = .ok tab
      let loaded (asid : Nat) (r : List Byte) (cs : List Nat) (tab : List W32) (timed : Bool) (t : State) : Prop := ∀ c ∈ cs,
        (timed = true → (t.die (c / 16)).slotTab = tab) ∧ (recImage r = true → c / 16 ∈ t.residentDies p asid (s.imageOf asid r))
      ((s.ready = false ∨ 1024 ≤ i.toNat ∨ s.pipeOn p q = false ∨ s.stTeam p q st = 0 ∨ blocked i.toNat) → t = s) ∧
      (s.ready = true → i.toNat < 1024 → s.pipeOn p q = true → s.stTeam p q st ≠ 0 → ¬ blocked i.toNat → s.marks = [] →
        (∀ tm rest cs es tab, s.savedOf p q st = tm :: rest → s.team tm.id = some tm →
          let r := s.readB (tm.areaAt + 0x40) 64
          let given (d : Nat) : Bool := m.toNat.testBit d && !tm.notDies.contains d
          let resident (d : Nat) : Bool := given d && (s.residentDies p tm.asid (s.imageOf tm.asid r)).contains d
          let on (d : Nat) : Bool := given d && (!recImage r || (if (List.range 16).any resident then resident d else roomy tm.asid r d))
          share i.toNat tm.n → Placed s p tm.n on tm.grouped tm.timed cs → (tm.timed = true → slots tm.asid cs tab) →
          s.taskExtents p tm.asid tm.entry.toNat r = .ok es → (∃ fs, (recImage r = false → fs = es) ∧ t.team tm.id = some
            { tm with record := r, image := recImage r, cores := cs, exts := fs, pset := [], phase := .restoring, notDies := [], waiting := [] }) ∧
            loaded tm.asid r cs tab tm.timed t) ∧
        (∀ r cs es tab, s.savedOf p q st = [] → s.headOf p q st = some (.ok r) → s.semOk p q r = true → (recRows r ≠ 0 ∨ recSkip r = false) →
          let n := if recTeam r = 0 then s.stTeam p q st else recTeam r
          let asid := s.pipeAsid p q
          share i.toNat n → Placed s p n (fun d => m.toNat.testBit d && (!recImage r || roomy asid r d)) (s.stGrouped p q st) (s.stTimed p q st) cs →
          (s.stTimed p q st = true → slots asid cs tab) → s.taskExtents p asid (s.mg4 (stageAt p q st) 8) r = .ok es →
          (∃ u : Team, t.teams = s.teams ++ [u] ∧ u.cores = cs ∧ u.n = n ∧ u.part = p ∧ u.pipe = q ∧ u.stage = st ∧ u.record = r ∧
            (recImage r = false → u.exts = es) ∧ u.phase = .starting) ∧ loaded asid r cs tab (s.stTimed p q st) t ∧
          t.quHead p q (s.stInq p q st) = (s.quHead p q (s.stInq p q st) + 1) % 2 ^ 32 ∧
          ∀ k c, cs[k]? = some c → let y := (t.getCore c).sby
            (t.getCore c).run = .setUp ∧ y.pc = BitVec.ofNat 64 (s.mg4 (stageAt p q st) 8) ∧ Tab.get 0 y.s 1 = 0x3FFFC0 ∧
            Tab.get 0 y.s 2 = BitVec.ofNat 64 k ∧ Tab.get 0 y.s 3 = BitVec.ofNat 64 n ∧ y.csr.rank = BitVec.ofNat 8 k ∧
            y.csr.teamSize = BitVec.ofNat 9 n))) ∧
     (∀ i w, s.team i.toNat = none → s.applyDec p (1, i, w) = s) ∧
     (∀ tm i w, s.team i.toNat = some tm → (tm.part ≠ p → s.applyDec p (1, i, w) = s) ∧
      (tm.part = p → tm.phase = .running → tm.stop = none → (∃ c ∈ tm.cores, (s.getCore c).run ≠ .exited) →
        let areas := s.mg4 (stageAt p tm.pipe tm.stage + 32) 4
        ((∃ k, k < areas ∧ ¬ AreaTaken s tm k) → Stops s (s.applyDec p (1, i, w)) tm []) ∧
        ((∀ k, k < areas → AreaTaken s tm k) → x.pstate = 2 → s.applyDec p (1, i, w) = s.modPart p fun y =>
          { y with events := y.events ++ [⟨2, 3, BitVec.ofNat 32 tm.id, BitVec.ofNat 32 (64 * tm.pipe + tm.stage)⟩] }))) ∧
     (∀ (n w : W32), Tab.get none x.slots n.toNat = none → ∀ a, s.applyDec p (4 + a, n, w) = s) ∧
     (∀ (n w : W32) f tm id, Tab.get none x.slots n.toNat = some f → f.team = some id → f.restore = false → s.team id = some tm →
      let does (a : Nat) : State := s.applyDec p (4 + a, n, w)
      Tab.get none ((does 2).getPart p).slots n.toNat = none ∧ (does 2).teams = s.teams.filter (·.id != id) ∧
      (tm.phase ≠ .saved → ∀ c ∈ tm.cores, (does 2).getCore c = (s.getCore c).freed) ∧
      (tm.phase = .running → tm.stop = none → (∃ c ∈ tm.cores, (s.getCore c).run ≠ .exited) →
        (∃ k, k < s.mg4 (stageAt tm.part tm.pipe tm.stage + 32) 4 ∧ ¬ AreaTaken s tm k) → Stops s (does 1) tm (diesOf tm.cores) ∧ Stops s (does 3) tm [] ∧
          ∀ a, a = 1 ∨ a = 3 → Tab.get none ((does a).getPart p).slots n.toNat = none) ∧
      (∀ c, tm.cores = [c] → tm.n = 1 → tm.part = p → tm.phase = .running → (∀ y ∈ s.teams, y.part = p → y.waiting = []) →
        (∀ y ∈ s.teams, y.id = id → y = tm) → (s.getCore c).run = .faulted → (s.getCore c).act.csr.code = 0x04 →
        Tab.get none ((does 0).getPart p).slots n.toNat = none ∧
        (s.walk tm.asid (s.getCore c).act.csr.faultAddr.toNat = .absent →
          (does 0).getCore c = s.getCore c ∧ ∃ u, (does 0).team id = some u ∧ u.waiting = [0]) ∧
        (∀ e lv k pa, s.walk tm.asid (s.getCore c).act.csr.faultAddr.toNat = .leaf e lv k pa →
          ((does 0).getCore c).run = .running ∧ ((does 0).getCore c).act = (s.getCore c).act ∧ ∃ u, (does 0).team id = some u ∧ u.waiting = []))) ∧
     (∀ (n w : W32) f, Tab.get none x.slots n.toNat = some f → f.team = none →
      let q := f.stage / 64
      let k := s.stInq p q (f.stage % 64)
      s.quCount p q k ≠ 0 → (s.applyDec p (6, n, w)).quHead p q k = (s.quHead p q k + 1) % 2 ^ 32 ∧
        Tab.get none ((s.applyDec p (6, n, w)).getPart p).slots n.toNat = none)) ∧
    (∀ i, x.opAt = some i → 2048 < x.used + slateCost i → Completes .budget s (fun t => EndsAbnormally s t 1))

/-- SLATE_INVOCATION starts the policy on its next event or lets the fallback decide, TICK raises TICK, SLATE_SWAP changes policies
(R188, R189, R190, R191, R195, R196, R199). -/
def Obligations.PolicyEvents : Prop :=
  ∀ (s : State), s.ready = true → (s.getPart s.pol).pstate = 2 →
    let x := s.getPart s.pol
    let only (t : State) : Prop := t = { s with parts := t.parts } ∧ ∀ p, p ≠ s.pol → t.getPart p = s.getPart p
    (∀ e rest, x.inv = none → x.swapPend = false → s.retirable s.pol = false → x.events = e :: rest → x.resync = false →
      (x.act ≠ [] → x.disabled = false → Completes .slateInvocation s (fun t => only t ∧ t.getPart s.pol = { x with
        events := rest, inv := some e, pc := 0, used := 0, loops := [], decs := [], g := (t.getPart s.pol).g, snap := (t.getPart s.pol).snap } ∧
        (∀ r, (t.getPart s.pol).rg r = if r = 0 then e.kind else if r = 1 then e.a1 else if r = 2 then e.a2 else if r = 3 then e.a3 else 0) ∧
        (t.getPart s.pol).snap = (s.modPart s.pol fun y => { y with events := rest }).snapshot s.pol ∧
        (∀ i, i < 4096 → s.pipeOn s.pol (i / 256) = true → (Tab.get 0 (t.getPart s.pol).snap (4096 * 0x20 + i)).toNat =
          min (s.mg4 (semAt s.pol (i / 256) (i % 256)) 4) 0x7FFFFFFF) ∧
        (∀ i, i < 1024 → s.pipeOn s.pol (i / 64) = true → s.stTeam s.pol (i / 64) (i % 64) ≠ 0 →
          (Tab.get 0 (t.getPart s.pol).snap i).toNat = min (s.quCount s.pol (i / 64) (s.stInq s.pol (i / 64) (i % 64))) 0x7FFFFFFF ∧
          (Tab.get 0 (t.getPart s.pol).snap (4096 * 8 + i)).toNat = min (Tab.get 0 x.faults i) 0x7FFFFFFF))) ∧
      ((x.act = [] ∨ x.disabled = true) → Completes .slateInvocation s (fun t =>
        ∃ u, only u ∧ u.getPart s.pol = { x with events := rest } ∧ t = u.fallback s.pol e))) ∧
    (∀ (u : State) (p a2 a3 : Nat), let e (kind a1 : Nat) : Event := ⟨BitVec.ofNat 32 kind, BitVec.ofNat 32 a1, BitVec.ofNat 32 a2, BitVec.ofNat 32 a3⟩
      let y := u.getPart p
      (∀ a1, a1 < 2 ^ 32 → (u.fallback p (e 2 a1) = if a1 = 1 ∨ a1 = 2 then u.applyDec p (1, BitVec.ofNat 32 a2, 0) else u) ∧
        (u.fallback p (e 3 a1) = if a1 = 0x40 then u else if a1 = 4 then u.applyDec p (4, BitVec.ofNat 32 a2, 0)
          else u.applyDec p (6, BitVec.ofNat 32 a2, 0)) ∧
        u.fallback p (e 5 a1) = u ∧ u.fallback p (e 1 a1) = State.fallbackRun p 32 u ∧ u.fallback p (e 4 a1) = State.fallbackRun p 32 u) ∧
      let share (i : Nat) : Prop := Tab.get 0 y.shares i = 0 ∨ u.stCores p (i / 64) (i % 64) < Tab.get 0 y.shares i
      let saved (i x : Nat) : Prop := ∃ m ∈ u.teams, m.phase = .saved ∧ m.part = p ∧ m.pipe = i / 64 ∧ m.stage = i % 64 ∧ m.since = x
      let head (i x : Nat) : Prop := u.headGood p (i / 64) (i % 64) = true ∧ Tab.get 0 y.headTime (256 * (i / 64) + u.stInq p (i / 64) (i % 64)) - 1 = x
      let waits (i x : Nat) : Prop := i < 1024 ∧ u.pipeOn p (i / 64) = true ∧ u.stTeam p (i / 64) (i % 64) ≠ 0 ∧ share i ∧ (saved i x ∨ head i x) ∧
        x ≤ u.now ∧ ∀ z, saved i z ∨ head i z → x ≤ z
      State.fallbackRun p 0 u = u ∧
      ((∀ i, i < 1024 → u.pipeOn p (i / 64) = true → u.stTeam p (i / 64) (i % 64) ≠ 0 → share i →
          u.headGood p (i / 64) (i % 64) = false ∧ ∀ x, ¬ saved i x) → ∀ f, State.fallbackRun p f u = u) ∧
      ∀ f i x, waits i x → (∀ j, j < 1024 → u.pipeOn p (j / 64) = true → u.stTeam p (j / 64) (j % 64) ≠ 0 → share j →
          u.headGood p (j / 64) (j % 64) = true ∨ (∃ z, saved j z) → ∃ z, waits j z ∧ (x < z ∨ (x = z ∧ i ≤ j))) →
        let v := u.applyDec p (0, BitVec.ofNat 32 i, 0xFFFF)
        let holding (w : State) : Nat := (w.teams.filter fun m => m.phase != .saved).length
        State.fallbackRun p (f + 1) u =
          if holding v = holding u ∧ (v.getPart p).slots.length = y.slots.length then v else State.fallbackRun p f v) ∧
    (x.inv = none → x.swapPend = true → Completes .slateSwap s (fun t => only t ∧ t.getPart s.pol = { x with
      act := x.sby, sby := [], m := if x.swapKeep then x.m else [], consec := 0, disabled := false, swapPend := false
      swaps := (x.swaps + 1) % 256, events := ⟨5, if x.swapKeep then 1 else 0, 0, 0⟩ :: x.events })) ∧
    (x.lastTick + 100000 ≤ s.now → Completes .tick s (fun t => only t ∧ t.getPart s.pol = { x with
      lastTick := x.lastTick + 100000
      events := if x.events.any (·.kind == 4) then x.events.map fun o => if o.kind = 4 then { o with a1 := o.a1 + 1 } else o
                else x.events ++ [⟨4, 1, 0, 0⟩] }))

/-- Strands start, quanta expire, faults are told, records retire, tasks complete, and teams are saved and restored (R157, R158, R160,
R162, R166, R170, R171, R176, R177, R179, R180, R182). -/
def Obligations.SchedulerEvents : Prop :=
  ∀ (s : State) (tm : Team), s.team (s.args.getD 0 0) = some tm → tm.part < 16 → tm.pipe < 16 →
    let stage := 64 * tm.pipe + tm.stage
    let sem (t : State) (p q : Nat) (r : List Byte) : Nat := t.readN (mgKey (semAt p q (recSigSem r))) 4
    (tm.phase = .starting → ∀ starts, starts = (if tm.timed then tm.cores else (tm.cores[s.args.getD 1 0]?).toList) →
      (∀ c ∈ starts, (s.getCore c).run = .setUp) → Completes .strandStart s (fun t => t.mem = s.mem ∧
        (∀ c, t.getCore c = let x := s.getCore c
          let tag := (tm.part, tm.pipe, s.codeGen tm.part tm.pipe)
          if c ∈ starts then { Core.zero with
            act := { x.sby with early := x.act.early }, sby := x.act, run := .running, halted := x.halted, gated := x.gated, brk := x.brk
            icache := if x.last = some tag then x.icache else [], last := some tag } else x) ∧
        (tm.timed = true → ∃ u, t.team tm.id = some u ∧ u.phase = .running))) ∧
    (let quantum := s.readN (mgKey (stageAt tm.part tm.pipe tm.stage + 20)) 4
     quantum ≠ 0 → tm.quantumTold = false → tm.absent = false → tm.started + 1000 * quantum ≤ s.now → (s.getPart tm.part).pstate = 2 →
      Completes .quantumExpiry s (fun t => t.mem = s.mem ∧ t.cores = s.cores ∧ t.team tm.id = some { tm with quantumTold := true } ∧
        (t.getPart tm.part).events = (s.getPart tm.part).events ++ [⟨2, 1, BitVec.ofNat 32 tm.id, BitVec.ofNat 32 stage⟩])) ∧
    (tm.phase = .running → (∀ c ∈ tm.cores, (s.getCore c).run = .exited ∧ (s.getCore c).outw = []) → s.msys.shoots = [] →
      Completes .taskCompletion s (fun t => t.teams = s.teams.filter (·.id != tm.id) ∧ (∀ c ∈ tm.cores, t.getCore c = (s.getCore c).freed) ∧
        (∀ c, c ∉ tm.cores → t.getCore c = s.getCore c) ∧
        sem t tm.part tm.pipe tm.record = min (sem s tm.part tm.pipe tm.record + recSigAdd tm.record) 0xFFFFFFFF)) ∧
    (tm.phase = .stopping → (∀ c ∈ tm.cores, (s.getCore c).wait = .none ∧ (∀ p ∈ (s.getCore c).pend, p.fail ≠ none) ∧
        ∀ e ∈ [1, 2, 3], ((s.getCore c).engine e).run = none ∧ ((s.getCore c).engine e).ldw = none) → Completes .teamSave s (fun t =>
      (∃ u, t.teams = s.teams.filter (·.id != tm.id) ++ [u] ∧ u.id = tm.id ∧ u.phase = .saved ∧ u.areaAt = tm.areaAt ∧ u.record = tm.record) ∧
      (∀ c ∈ tm.cores, (t.getCore c).run = .none) ∧
      (s.msys.shoots = [] → s.marks = [] → tm.cores.Nodup → tm.n = tm.cores.length → tm.n ≤ 256 → tm.record.length = 64 →
        tm.areaAt + 0x10000 + tm.n * 0x590000 ≤ 2 ^ 48 →
        (∀ c ∈ tm.cores, (s.getCore c).Fits ∧ (s.getCore c).act.err = [] ∧ Tab.wf 0 (s.getCore c).act.v) →
        let k := tm.areaAt
        t.readN k 4 = tm.id % 2 ^ 32 ∧ t.readN (k + 4) 4 = stage % 2 ^ 32 ∧ t.readN (k + 8) 4 = tm.n ∧
        (∀ i, i < 64 → t.byte (k + 0x40 + i) = tm.record.getD i 0) ∧
        ∀ r c, tm.cores[r]? = some c → let b := k + 0x10000 + r * 0x590000
          let x := s.getCore c
          t.readN (k + 0x100 + r) 1 = c % 256 ∧ t.readN (k + 0x200 + r) 1 = (if x.run = .exited then 1 else 0) ∧
          (∀ i, i < 0x400000 → t.byte (b + i) = s.byte (spadKey c i)) ∧
          (∀ i, 1 ≤ i → i < 64 → t.readN (b + 0x480000 + 8 * i) 8 = (Tab.get 0 x.act.s i).toNat) ∧
          t.readN (b + 0x480200) 1 = x.act.p.toNat / 2 * 2 + 1 ∧ t.readN (b + 0x480208) 8 = x.act.pc.toNat ∧
          (∀ i j, i < 640 → j < 512 → t.byte (b + 0x400000 + 512 * i + j) = BitVec.ofNat 8 ((Tab.get 0 x.act.v i).toNat / 2 ^ (8 * j))) ∧
          ∀ i q, x.em.q[i]? = some q → ∀ n w, encode q.op = some (n, w) → let e := b + 0x485000 + 64 * i
            t.readN e 8 = w % 2 ^ 64 ∧ t.readN (e + 8) 8 = q.a.toNat ∧ t.readN (e + 16) 8 = q.b.toNat ∧ t.readN (e + 24) 8 = q.c.toNat ∧
            t.readN (e + 32) 8 = q.d.toNat ∧ t.readN (e + 40) 2 = q.begun % 2 ^ 16))) ∧
    (tm.phase = .restoring → tm.stop = none → tm.n = tm.cores.length → tm.cores.Nodup → tm.areaAt + 0x10000 + tm.n * 0x590000 ≤ 2 ^ 48 →
      s.sound tm.areaAt (0x10000 + tm.n * 0x590000) →
      (∀ r, r < tm.n → s.readN (tm.areaAt + 0x400 + 16 * r) 8 = 0 ∧ s.readN (tm.areaAt + 0x408 + 16 * r) 8 = 0) →
      Completes .teamRestore s (fun t => (∃ u, t.team tm.id = some u ∧ u.phase = .running ∧ u.preempts = tm.preempts + 1) ∧
        ∀ r c, tm.cores[r]? = some c → let b := tm.areaAt + 0x10000 + r * 0x590000
          (t.getCore c).run = (if s.readN (tm.areaAt + 0x200 + r) 1 = 1 then .exited else .running) ∧
          (t.getCore c).act.pc = BitVec.ofNat 64 (s.readN (b + 0x480208) 8) ∧
          (∀ i, 1 ≤ i → i < 64 → Tab.get 0 (t.getCore c).act.s i = BitVec.ofNat 64 (s.readN (b + 0x480000 + 8 * i) 8)) ∧
          ∀ i, i < 0x400000 → t.byte (spadKey c i) = s.byte (b + i))) ∧
    (∀ (z : State) (c k : Nat) (f : Core), z.args = [c] → z.getCore c = f → f.run = .faulted → f.told = false →
      z.team f.act.csr.teamId.toNat = some tm → tm.timed = false → (z.getPart tm.part).pstate = 2 →
      (∀ e ∈ (z.getPart tm.part).slots, ∀ x, e.2 = some x → x.team ≠ some tm.id) → k < 2048 →
      (∀ n, n ≤ k → ((Tab.get none (z.getPart tm.part).slots n).isNone ↔ n = k)) →
      Completes .strandFault z (fun t => t.getCore c = { f with told := true } ∧ t.mem = z.mem ∧
        Tab.get none (t.getPart tm.part).slots k = some ⟨some tm.id, false, stage, f.act.csr.code.toNat, [], false⟩ ∧
        Tab.get 0 (t.getPart tm.part).faults stage = Tab.get 0 (z.getPart tm.part).faults stage + 1 ∧
        (t.getPart tm.part).events = (z.getPart tm.part).events ++ [⟨3, BitVec.ofNat 32 f.act.csr.code.toNat, BitVec.ofNat 32 k,
          BitVec.ofNat 32 (stage + f.act.csr.rank.toNat * 2 ^ 16)⟩])) ∧
    (∀ (z : State) (p q t : Nat) (r : List Byte), z.args = [p, 64 * q + t] → p < 16 → q < 16 → t < 64 → z.ready = true → z.pipeOn p q = true →
      z.stTeam p q t ≠ 0 → z.headOf p q t = some (.ok r) → recRows r = 0 → recSkip r = true → z.semOk p q r = true → z.stInq p q t < 64 →
      Completes .recordRetire z (fun u => u.quHead p q (z.stInq p q t) = (z.quHead p q (z.stInq p q t) + 1) % 2 ^ 32 ∧
        sem u p q r = min (sem z p q r + recSigAdd r) 0xFFFFFFFF ∧ u.cores = z.cores ∧ u.teams = z.teams))

/-- MODULE_RESET to READY: each step of bring-up that succeeds moves PHASE and its ready bit on, and each that fails enters FAILED
with its code (R49, R50, R51, R52, R53, R54, R56, R152, R153). -/
def Obligations.BringUpSequence : Prop :=
  ∀ (s : State),
    let zeroes (t : State) (k n : Nat) : Prop := ∀ a, k ≤ a → a < k + n → t.byte a = 0
    let bit (t : State) (b : Nat) : Prop := t.mg.modstatus.getLsbD b = true
    let fails (t : State) (unit code : Nat) : Prop := t.bootPhase = 5 ∧ t.ready = false ∧ bit t 19 ∧
      nfld t.mg.modstatus.toNat 15 8 = unit ∧ nfld t.mg.modstatus.toNat 7 0 = code
    let a := s.cfgArea 0
    let b := s.cfgArea 1
    let chosen : Option Nat :=
      if cfgValid a = true ∧ (cfgValid b = false ∨ cfgSeq b ≤ cfgSeq a) then some 0 else if cfgValid b = true then some 1 else none
    Completes .moduleReset s (fun t => t.cores = [] ∧ t.dies = [] ∧ t.parts = [] ∧ t.teams = [] ∧ t.router = Router.zero ∧
      t.gate = Gateway.zero ∧ t.msys = MemSys.zero ∧ t.mg = { Mgmt.zero with fw := s.mg.fw, fwMin := s.mg.fwMin, kaGen := s.mg.kaGen } ∧
      ∀ k, t.byte k = if flashKey 0 ≤ k then s.byte k else 0) ∧
    (s.bootPhase = 0 → s.mg.released = false → Completes .resetRelease s (fun t =>
      t = { s with mg := { s.mg with released := true, kaGen := s.mg.kaGen + 1 } })) ∧
    (s.bootPhase = 0 → s.mg.released = true →
      ((∀ i ∈ s.mg.fw, rootVerifies i.bytes i.sig = true ∧ s.mg.fwMin ≤ i.version) → Completes .firmwareVerified s (fun t =>
        t.bootPhase = 1)) ∧
      ((∃ i ∈ s.mg.fw, rootVerifies i.bytes i.sig = false ∨ i.version < s.mg.fwMin) → s.ready = false →
        Completes .firmwareVerified s (fun t => fails t 0x10 4))) ∧
    (s.bootPhase = 1 →
      (∀ n, chosen = some n → Completes .configApply s (fun t => t.bootPhase = 2 ∧ bit t 30 ∧ ∃ c, t.mg.cfg = some c ∧ c.area = n)) ∧
      (chosen = none → s.ready = false → Completes .configApply s (fun t =>
        fails t 0xF0 (if (∀ r ∈ a, r.signed = true) ∧ ∀ r ∈ b, r.signed = true then 5 else 4)))) ∧
    (s.bootPhase = 2 → s.arg 0 = 0 → Completes .calDone s (fun t => t.bootPhase = 3 ∧ bit t 29)) ∧
    (s.bootPhase = 3 → s.arg 0 = 0 →
      let last (t : State) : Prop := bit t 30 → bit t 29 → bit t 28 → bit t 27 → bit t 26 →
        t.ready = true ∧ t.bootPhase = 4 ∧ t.mg.hostOut = s.mg.hostOut ++ [.ready]
      (¬ bit s 28 → Completes .hbmReady s (fun t => bit t 28 ∧ zeroes t 0 (2 ^ 41) ∧ last t)) ∧
      (¬ bit s 27 → Completes .lpReady s (fun t => bit t 27 ∧ zeroes t (2 ^ 42) (2 ^ 42) ∧ last t)) ∧
      (¬ bit s 26 → Completes .bedrockReady s (fun t => bit t 26 ∧ zeroes t (2 ^ 43) (2 ^ 32) ∧ zeroes t (spadKey 0 0) (2 ^ 30) ∧
        zeroes t (mgKey 0x20200000) 0x40000 ∧ zeroes t (mgKey 0x30000000) 0x400000 ∧ (∀ c r, (t.getCore c).run = .none ∧ Tab.get 0 (t.getCore c).act.s r = 0) ∧ last t))) ∧
    (∀ u, s.arg 0 = u + 1 → u < 256 → s.ready = false →
      (s.bootPhase = 2 → Completes .calDone s (fun t => fails t u 1)) ∧
      (s.bootPhase = 3 → (¬ bit s 28 → Completes .hbmReady s (fun t => fails t u 2)) ∧
        (¬ bit s 27 → Completes .lpReady s (fun t => fails t u 2)) ∧ (¬ bit s 26 → Completes .bedrockReady s (fun t => fails t u 2))))

/-- RAIL_FAULT and UNIT_FAILED enter FAILED, UCIE_LINK_FAILED marks a link, CLOCK_STEP moves the clock, PORT_UP and PORT_DOWN a port
(R44, R47, R48, R52, R54, R56, R58, R69, R78). -/
def Obligations.FailuresClocksAndPorts : Prop :=
  ∀ (s : State),
    let bit (t : State) (b : Nat) : Prop := t.mg.modstatus.getLsbD b = true
    let fails (t : State) (unit code : Nat) : Prop := t.bootPhase = 5 ∧ t.ready = false ∧ bit t 19 ∧
      nfld t.mg.modstatus.toNat 15 8 = unit ∧ nfld t.mg.modstatus.toNat 7 0 = code ∧
      (s.ready = true → t.teams = [] ∧ (∀ c, (t.getCore c).run = .none) ∧ (∀ d, d < 6 → t.portUp d = false) ∧
        t.msys.moves = [] ∧ t.msys.migs = [] ∧ t.msys.flights = [] ∧ t.router.outq = [] ∧ t.router.arrivals = [])
    let r := s.arg 0
    let tells (t : State) (up : Bool) : Prop := t.mg.hostOut = s.mg.hostOut ++ if s.ready = true ∨ s.lost = true then [.fabric r up] else []
    let floor := max 350 ((s.mg.cfg.map Cfg.floor).getD 350)
    (s.bootPhase ≠ 5 → r ≤ 33 →
      Completes .railFault s (fun t => fails t (if r < 16 then r else if r < 32 then 0x20 + 2 * (r - 16) else if r = 32 then 0x10 else 0x40) 3)) ∧
    (s.bootPhase ≠ 5 → s.ready = true → (r ≤ 0x10 ∨ 0x20 ≤ r ∧ r < 0x60) → Completes .unitFailed s (fun t => fails t r 6)) ∧
    (∀ b, s.args = [r, b] → r < 16 → b ≤ 16 → r ≠ b → 17 * r + b ∉ s.mg.linksDown → Completes .ucieLinkFailed s (fun t =>
      t.mg.linksDown = s.mg.linksDown ++ [17 * r + b] ∧ t.cores = s.cores ∧ t.router = s.router)) ∧
    (r = 0 → floor + 25 ≤ s.mg.clock → Completes .clockStep s (fun t => t = { s with mg := { s.mg with clock := s.mg.clock - 25 } })) ∧
    (r ≠ 0 → s.mg.clock + 25 ≤ 700 → Completes .clockStep s (fun t => t = { s with mg := { s.mg with clock := s.mg.clock + 25 } })) ∧
    (r = 0 → s.mg.clock < floor + 25 → Completes .clockStep s (· = s)) ∧
    (r < 6 → s.portUp r = false → 2 ≤ s.bootPhase → ∀ c, s.mg.cfg = some c → c.ports.getLsbD (5 - r) = true →
      Completes .portUp s (fun t => t.portUp r = true ∧ (∀ d, d ≠ r → t.portUp d = s.portUp d) ∧
        (∀ v, v < 8 → Tab.get 0 t.router.used (chanKey r v) = 0 ∧ Tab.get 0 t.router.freed (chanKey r v) = 0) ∧
        (∀ f ∈ t.gate.flowsOut, f.syn = true) ∧ t.gate.flowsOut.length = s.gate.flowsOut.length ∧ tells t true)) ∧
    (s.portUp r = true → Completes .portDown s (fun t => t.portUp r = false ∧ (∀ d, d ≠ r → t.portUp d = s.portUp d) ∧
      (t.router.outq = s.router.outq.filter fun o => !(o.dir == r && !o.pkt.isPebble)) ∧ tells t false))

/-- Credits return and let a waiting packet leave, a core is gated or halted, bedrock refreshes as the clock passes, and an in-package
write is performed (R64, R69, R243, R266, R286, R427, R431). -/
def Obligations.CoreAndChannelEvents : Prop :=
  ∀ (s : State) (d v n : Nat) (o : OutPkt),
    let k := chanKey d v
    (s.args = [d, v, n] → d < 6 → v < 8 → let left := Tab.get 0 s.router.used k - n
      (s.router.outq = [] → Completes .creditReturn s (fun t => Tab.get 0 t.router.used k = left ∧ t.router.wire = s.router.wire ∧
        (∀ j, j ≠ k → Tab.get 0 t.router.used j = Tab.get 0 s.router.used j) ∧ ∀ a, t.byte a = s.byte a)) ∧
      (s.router.outq = [o] → o.dir = d → o.pkt.vc = v → o.sent = none → s.portUp d = true → left + o.pkt.size ≤ 32 →
        Completes .creditReturn s (fun t => Tab.get 0 t.router.used k = left + o.pkt.size ∧ t.router.outq = [] ∧
          t.router.wire = s.router.wire ++ [(d, o.pkt)]))) ∧
    (s.args = [d] → d < 256 →
      ((∀ t ∈ s.teams, t.phase ≠ .saved → d ∉ t.cores) → Completes .corePowerGate s (fun t => CoreOnly { s with core := d } { t with core := d } ∧
        t.getCore d = { s.getCore d with gated := true })) ∧
      Completes .debugHalt s (fun t => CoreOnly { s with core := d } { t with core := d } ∧ t.getCore d = { s.getCore d with halted := true })) ∧
    (let c := 512 - s.cycle % 512
      let tick (x : Core) : Core := if (x.run = .running ∨ x.run = .faulted) ∧ x.act.csr.timed = false then
        { x with act := { x.act with csr := { x.act.csr with schedCtr := x.act.csr.schedCtr + BitVec.ofNat 64 c } } } else x
      Completes .bedrockRefresh s (fun t =>
        t = { s with dies := t.dies, cores := t.cores, now := s.now + c * 1000 / s.mg.clock, cycle := s.cycle + c } ∧
        (∀ e, e < 16 → let x := Tab.get Die.zero t.dies e
          x.refGroup = (s.cycle + c) / 512 % 8 ∧ x.refAt = s.cycle + c ∧ x.refOn = true) ∧
        ∀ m, t.getCore m = tick (s.getCore m))) ∧
    (∀ (f : Flight) (m : Nat) (c : Core) (w : OutW), s.msys.flights.find? (fun g => g.acc.id == s.args.headD 0) = some f → f.arrive = none →
      f.acc.sync = false → f.dest = none → f.count = none → f.bad = [] → s.findStrand (fun c => c.outw.any fun w => w.acc.id == f.acc.id) = some (.core m, c) →
      c.mayPerform f.acc = true → c.outw.find? (fun w => w.acc.id == f.acc.id) = some w → w.obj = none →
      Completes .inPackageWrite s (fun t => t.getCore m = { c with outw := c.outw.filter fun w => w.acc.id != f.acc.id } ∧
        t.msys.flights = s.msys.flights.filter (fun g => g.acc.id != f.acc.id) ∧
        ∀ a, t.byte a = if f.acc.lo ≤ a ∧ a < f.acc.lo + f.bytes.length then f.bytes.getD (a - f.acc.lo) 0 else s.byte a))

/-- Packets are routed by their front segment, multicasts branch, combined requests are built and expire, and their replies are taken
apart (R64, R65, R66, R70, R71, R127, R128, R129, R131, R133). -/
def Obligations.PacketsRouteBranchAndCombine : Prop :=
  ∀ (s : State) (i b : Nat) (a : Arrival), s.args = [i, b] → s.router.arrivals[i]? = some a → s.lost = false → a.pkt.isPebble = false →
    let rest := s.router.arrivals.take i ++ s.router.arrivals.drop (i + 1)
    let p := a.pkt
    let d := segDir (seg0 p.turns)
    let back (z : State) (port : Nat) (q : Packet) : Tab Nat := let k := chanKey port q.vc
      if port < 6 then Tab.put 0 z.router.freed k (Tab.get 0 z.router.freed k + q.size) else z.router.freed
    let t0 : State := { s with router := { s.router with arrivals := rest, freed := back s a.port p } }
    let out (d : Nat) : Packet := (p.setF 7 0 (min 255 (p.hops + 1))).setF 57 57
      (let c := s.coordOf (d / 2)
        if (if d % 2 = 0 then c.1 + 1 = c.2 else c.1 = 0) then 1 else if a.port < 6 ∧ a.port / 2 ≠ d / 2 then 0 else p.vcb)
    let free (d : Nat) (q : Packet) : Prop := Tab.get 0 s.router.used (chanKey d q.vc) + q.size ≤ 32
    let goes (u t : State) (d : Nat) (q : Packet) : Prop := let k := chanKey d q.vc
      t = { u with router := { u.router with
        wire := s.router.wire ++ [(d, q)], sent := t.router.sent, used := Tab.put 0 s.router.used k (Tab.get 0 s.router.used k + q.size) } }
    (p.combines = false → a.mask = none →
      let q := (out d).setF 95 64
        (if p.turns / 2 ^ 18 % 64 ≠ 0 then p.turns - 2 ^ 18 else p.turns / 2 ^ 27 * 2 ^ 27 + p.turns % 2 ^ 18 * 2 ^ 9 + 0b111000000)
      (d < 6 → s.portUp d = true → s.router.outq = [] → free d q → Completes .routePacket s (fun t => goes t0 t d q)) ∧
      (d < 6 → s.portUp d = true → s.router.outq = [] → ¬ free d q → Completes .routePacket s (fun t =>
        t = { t0 with router := { t0.router with outq := [⟨q, d, a.port, s.now, 0, none⟩] } })) ∧
      (d < 6 → s.portUp d = false → Completes .routePacket s (· = t0.refuseHere p a.port 0xB)) ∧
      (d = 6 → Completes .routePacket s (· = t0.refuseHere p a.port 9)) ∧
      (d = 7 → (p.stream ≠ 2 ∨ p.kind ≠ 1) → p.dest = s.mg.node.toNat → Completes .routePacket s (fun t =>
        t = { t0 with gate := { t0.gate with inbox := s.gate.inbox ++ [(p, a.port)] } })) ∧
      (d = 7 → (p.stream ≠ 2 ∨ p.kind ≠ 1) → p.dest ≠ s.mg.node.toNat → Completes .routePacket s (· = t0.refuseHere p a.port 0xA)) ∧
      (d = 7 → p.stream = 2 → p.kind = 1 → s.boxBad p = false → Completes .routePacket s (fun t =>
        let e := coords p.mcext
        let o := s.boxOffset p
        let m := 64 + (if o.2.1 = 0 ∧ o.2.2 = 0 ∧ o.1 < e.1 then 1 else 0) + (if o.2.2 = 0 ∧ o.2.1 < e.2.1 then 4 else 0) +
          (if o.2.2 < e.2.2 then 16 else 0)
        t = { s with router := { s.router with arrivals := s.router.arrivals.set i { a with mask := some m } } }))) ∧
    (∀ m, a.mask = some m → m.testBit b = true →
      let t1 : State := if m = 2 ^ b then t0
        else { s with router := { s.router with arrivals := s.router.arrivals.set i { a with mask := some (m - 2 ^ b) } } }
      (b < 6 → s.portUp b = true → free b (out b) → Completes .multicastBranch s (fun t => goes t1 t b (out b))) ∧
      (b < 6 → s.portUp b = false → Completes .multicastBranch s (· = s)) ∧
      (b = 6 → Completes .multicastBranch s (fun t => t = { t1 with gate := { t1.gate with inbox := s.gate.inbox ++ [(p, a.port)] } }))) ∧
    (p.combines = true → p.headBad = false → p.combBad = false → (∀ m x, s.router.arrivals[m]? = some x → x.pkt.combines = true → x.pkt.key = p.key →
        a.cycle < x.cycle ∨ a.cycle = x.cycle ∧ (a.port < x.port ∨ a.port = x.port ∧ i ≤ m)) →
      let opened (x : Slot) : Prop := x.kids.length < 8 ∧ s.now < x.opened + 256
      (∀ n x, s.router.slots[n]? = some x → x.key = p.key → opened x →
        (∀ m y, m < n → s.router.slots[m]? = some y → y.key ≠ p.key ∨ ¬ opened y) → Completes .combiningArrival s (fun t =>
          t = { t0 with router := { t0.router with slots := s.router.slots.set n { x with kids := x.kids ++ [(p, a.port)] } } })) ∧
      ((∀ x ∈ s.router.slots, x.key = p.key → ¬ opened x) →
        let recent := ∃ e ∈ s.router.recents, e.1 = p.key ∧ s.now ≤ e.2 + 256
        (recent → ∀ r, r < 4096 → (s.record r).used = false → (∀ j, j < r → (s.record j).used = true) →
          Completes .combiningArrival s (fun t => t = { s with router := { s.router with
            arrivals := rest, slots := s.router.slots ++ [⟨p.key, r, [(p, a.port)], s.now⟩],
            records := Tab.put Record.zero s.router.records r
              { Record.zero with used := true, key := p.key, epoch := ((s.record r).epoch + 1) % 16 } } })) ∧
        (¬ recent ∨ (∀ j, j < 4096 → (s.record j).used = true) → Completes .combiningArrival s (fun t =>
          t = ({ t0 with router := { t0.router with recents := noteKey s.router.recents p.key a.time } } : State).routeOn p a.port)))) ∧
    (∀ (u : List (Key × Nat)) (k : Key) (n : Nat), let v := noteKey u k n
      (k, n) ∈ v ∧ (∀ e ∈ v, e = (k, n) ∨ e ∈ u ∧ e.1 ≠ k) ∧ (u.length ≤ 64 → v.length ≤ 64) ∧
      (∀ e ∈ u, e.1 ≠ k → e ∉ v → 64 ≤ u.length ∧ ∀ x ∈ u, e.2 ≤ x.2)) ∧
    (∀ (z : State) (x : Slot) (h : Packet × Nat) (kids : List (Packet × Nat)), z.args = [i] → z.router.slots[i]? = some x → z.lost = false →
      (8 ≤ x.kids.length ∨ x.opened + 256 ≤ z.now) → x.kids = h :: kids →
      let z0 : State := { z with router := { z.router with
        freed := back z h.2 h.1, slots := z.router.slots.take i ++ z.router.slots.drop (i + 1) } }
      let r := z.record x.recd
      let ks := x.kids.map (·.1)
      let ls := ks.flatMap Packet.childLeaves
      let c := z.combined x.recd r.epoch h.1 ks
      (kids = [] → Completes .combiningSlotClose z (fun t => t = (z0.setRecord x.recd { r with used := false, closed := none }).routeOn h.1 h.2)) ∧
      (kids ≠ [] → Completes .combiningSlotClose z (fun t =>
        t = (z0.setRecord x.recd { r with
          closed := some z.now, nleaf := ls.length, fsrc := (ls.headD (0, 0, 0)).1, fseq := (ls.headD (0, 0, 0)).2.1, adds := ls.map (·.2.2), groups := childGroups 0 ks }).routeOn c h.2)) ∧
      (h.1.cls = 3 → ls.length ≤ 64 → x.recd < 4096 → r.epoch < 16 → x.kids.length ≤ 8 → 2 ≤ ls.length →
        c.leaves = ls ∧ c.b 32 1 = ls.length ∧ c.level = (if ∀ k ∈ ks, k.level = 0 then 1 else 2) ∧ c.groups = childGroups 0 ks ∧
        c.b 34 2 = z.mg.node.toNat ∧ c.b 36 2 = x.recd + 4096 * r.epoch ∧ c.src = z.mg.node.toNat ∧ c.seq = 0 ∧ c.syn = false ∧
        c.tag = h.1.len ∧ c.b 40 8 = wrap 64 ((ls.map fun l => sgn 16 l.2.2).sum) ∧ c.dest = h.1.dest ∧ c.turns = h.1.turns ∧
        c.hops = h.1.hops ∧ c.vcb = h.1.vcb ∧ c.va = h.1.va ∧ c.asid = h.1.asid ∧ c.len = h.1.len ∧ c.kind = h.1.kind ∧ c.code = h.1.code) ∧
      ∀ g, g ∈ childGroups 0 ks ↔ ∃ j k, ks[j]? = some k ∧ 2 ≤ k.nleaf ∧
        g = (k.b 34 2, k.b 36 2, ((ks.take j).flatMap Packet.childLeaves).length, k.nleaf)) ∧
    (∀ (z : State) (at_ : Nat), z.args = [i] → i < 4096 → (z.record i).used = true → (z.record i).closed = some at_ → at_ + 64000 ≤ z.now →
      Completes .decombiningRecordExpiry z (fun t => t.record i = { z.record i with used := false, closed := none } ∧
        (∀ j, j ≠ i → t.record j = z.record j) ∧ t = { z with router := { z.router with records := t.router.records } })) ∧
    (∀ (z : State) (q : Packet) (port : Nat), z.args = [i] → z.gate.inbox[i]? = some (q, port) → (q.kind = 5 ∨ q.kind = 7) → q.b31 % 4 = 3 →
      2 ≤ q.b 32 1 →
      let w := q.setF 59 58 3
      let z0 : State := { z with gate := { z.gate with inbox := z.gate.inbox.take i ++ z.gate.inbox.drop (i + 1) } }
      let k := w.b 36 2 % 4096
      let r := z.record k
      let sends (u : State) (ps : List Packet) : State := ps.foldl (fun u x => u.sendResp (x.setF 59 58 1)) u
      (z.recordFits w = true → Completes .decombine z (fun t =>
        t = sends (z0.setRecord k { r with used := false, closed := none }) (w.parts r.adds r.groups (8 * r.key.len)))) ∧
      (z.recordFits w = false → Completes .decombine z (fun t =>
        t = sends z0 (w.parts (w.leaves.map (·.2.2)) w.groups (if w.tag = 4 then 32 else 64)))) ∧
      (z.recordFits w = true ↔ r.used = true ∧ r.closed.isSome = true ∧ r.epoch = w.b 36 2 / 4096 ∧ r.key.dest = w.src ∧ r.nleaf = w.nleaf ∧
        r.fsrc = (w.leaf 0).1 ∧ r.fseq = (w.leaf 0).2.1 ∧ (w.kind = 7 → r.key.asid = w.asid ∧ r.key.va = w.va)) ∧
      ∀ adds groups bits,
        let ps := w.parts adds groups bits
        let skip := leField w.data 48 8
        let value (n : Nat) : Nat := wrap bits ((w.b 40 8 : Int) +
          ((List.range n).map fun j => if skip.testBit j then 0 else sgn 16 (adds.getD j 0)).sum) % 2 ^ 64
        (∀ n, n < w.nleaf → skip.testBit n = false → (∀ g ∈ groups, n < g.2.2.1 ∨ g.2.2.1 + g.2.2.2 ≤ n) →
          ∃ y ∈ ps, y.kind = w.kind ∧ y.code = w.code ∧ y.dest = (w.leaf n).1 ∧ y.seq = (w.leaf n).2.1 ∧ y.b 32 1 = 0 ∧ y.flits = [] ∧
            (w.kind = 5 → y.b 40 8 = value n)) ∧
        (∀ g ∈ groups, ∃ y ∈ ps, y.kind = w.kind ∧ y.code = w.code ∧ y.dest = g.1 % 65536 ∧ y.seq = 0 ∧
          (g.2.2.2 < 256 → y.b 32 1 = g.2.2.2) ∧ (w.kind = 5 → y.b 40 8 = value g.2.2.1)) ∧
        ps.length ≤ w.nleaf + groups.length)

/-- Egress stores a request and sends its packet, responses end what they answer, and unanswered or refused requests go again (R63,
R68, R72, R73, R76, R77, R78, R79, R80, R82, R84, R143). -/
def Obligations.RequestsLeaveAndAreAnswered : Prop :=
  ∀ (s : State) (i : Nat), s.args = [i] →
    let dropAt {α : Type} (l : List α) : List α := l.take i ++ l.drop (i + 1)
    let event (u : State) (r : Req) (seq code : Nat) (spent : Bool) : State :=
      u.ringPut (evRing (if r.part < 16 ∧ (s.getPart r.part).pstate = 2 then 2 + r.part else 0)) (s.evBytes
        { kind := if spent then 2 else 1, code := code, peer := r.node, asid := r.asid, addr := r.va, seqtag := seq * 65536 + if r.kind = 2 ∨ r.kind = 4 then r.id % 65536 else 0 })
    let fails (u : State) (r : Req) (seq code : Nat) (spent : Bool) (t : State) : Prop :=
      (r.asker = .host → t = event { u with mg := { u.mg with hostWait := none, hostOut := s.mg.hostOut ++
        [.done (if spent then 2 else if code = 8 then 5 else if code = 0xC then 1 else 2) []] } } r seq code spent) ∧
      (∀ c id q, r.asker = .load c id → (s.getCore c).pend.find? (fun q => q.acc.id == id) = some q → q.isEarly = false →
        (s.getCore c).wait = .none → t = event (u.modCore c fun x => { x with pend := x.pend.map fun y =>
          if y.acc.id = id then { y with fail := some (0x12, w64 r.va) } else y }) r seq code spent)
    let calm (x : Stored) : Prop := ∀ f ∈ s.flowsOf x.req, f.held = none ∨ f.held = some x.seq
    (∀ r, s.gate.egress[i]? = some r → (∀ x ∈ s.gate.egress.take i, x.asker.source = r.asker.source → x.node ≠ r.node) →
      s.soReady r = true → s.behindRetry r = false → (∀ f ∈ s.flowsOf r, f.held = none ∧ (s.unacked f).length < 4096 ∧
        (r.kind = 4 → ((s.unacked f).filter fun x => x.req.kind == 4).length < 64)) → r.node < 65536 → r.kind < 16 →
      r.order < 4 → r.box = none →
      let f := s.flowOut r.node r.cls r.stream
      let p := s.packetOf r f.next f.syn
      let t0 : State := { s with gate := { s.gate with egress := dropAt s.gate.egress } }
      let here := r.node = s.mg.node.toNat
      let onList (n : Nat) : Packet := (p.setF 95 64 ((Tab.get 0 s.gate.lists (r.node * 4 + n)).toNat % 2 ^ 27)).setF 56 55 n
      let leaves (q : Packet) (t : State) : Prop :=
        t = { s with gate := t.gate, router := { s.router with arrivals := s.router.arrivals ++ [⟨q, 0xFF, none, s.now, s.cycle⟩] }, mg := t.mg } ∧
        t.gate.egress = dropAt s.gate.egress ∧ t.gate.store = s.gate.store ++ [⟨q, { r with first := some (r.first.getD f.next) }, r.node, r.cls, r.stream, f.next, s.now, 0, [], false⟩] ∧
        t.flowOut r.node r.cls r.stream = { f with next := (f.next + 1) % 65536, syn := false, held := if f.syn then some f.next else f.held }
      let plain (q : Packet) (t : State) : Prop := leaves q t ∧ t.mg = s.mg
      let sealed (n : Nat) (q : Packet) (t : State) : Prop := leaves (s.sealWith n q).2 t ∧
        (t.keySlot n).cnt = (s.keySlot n).cnt + 1 ∧ ∀ m, m ≠ n → t.keySlot m = s.keySlot m
      f.next < 65536 → s.storeUsed + 64 * (p.size + 1) ≤ 16777216 →
      let ways := s.listsFrom r.node (Tab.get 0 s.gate.rot r.node)
      let fits (n : Nat) : Prop := let d := segDir (seg0 (onList n).turns)
        d < 6 ∧ s.portUp d = true ∧
          Tab.get 0 s.router.used (chanKey d (2 * r.cls + if s.wraps d then 1 else 0)) + p.size + r.conf.toNat ≤ 32
      (here → (r.conf = false → Completes .packageGatewayEgress s (plain (p.setF 95 64 endTurns))) ∧
        ∀ n, r.conf = true → s.sealSlot r.part r.node = some n → Completes .packageGatewayEgress s (sealed n (p.setF 95 64 endTurns))) ∧
      (¬ here → ∀ n, (r.stream = 1 ∧ (s.listsTo r.node).head? = some n) ∨
          (r.stream ≠ 1 ∧ ((∃ k : Nat, ways[k]? = some n ∧ fits n ∧ ∀ m x, m < k → ways[m]? = some x → ¬ fits x) ∨
            (∀ x ∈ ways, ¬ fits x) ∧ ways.head? = some n)) →
        (r.conf = false → Completes .packageGatewayEgress s (fun t => plain (onList n) t ∧
          (r.stream ≠ 1 → Tab.get 0 t.gate.rot r.node = (n + 1) % 4))) ∧
        ∀ k, r.conf = true → s.sealSlot r.part r.node = some k → Completes .packageGatewayEgress s (sealed k (onList n))) ∧
      (¬ here → s.listsTo r.node = [] → Completes .packageGatewayEgress s (fails t0 r 0 0xB false)) ∧
      ((here ∨ s.listsTo r.node ≠ []) → r.conf = true → s.sealSlot r.part r.node = none →
        Completes .packageGatewayEgress s (fails t0 r 0 5 false))) ∧
    (∀ p port, s.gate.inbox[i]? = some (p, port) → p.headBad = false → p.cipher = false →
      let t0 : State := { s with gate := { s.gate with inbox := dropAt s.gate.inbox } }
      (∀ n, n ∈ p.acked ↔ ∃ j : Nat, j < 32 ∧ (j = 0 ∨ (p.b 32 4).testBit j = true) ∧ n = (p.seq + j) % 65536) ∧
      (p.kind = 6 → Completes .ackPacket s (fun t => t = (t0.ackAll p p.acked).getD s)) ∧
      (p.kind = 9 → Completes .flushAck s (fun t => t = (t0.ackAll p p.acked).getD s)) ∧
      (p.b 32 4 / 2 = 0 → s.matching p p.seq = none →
        (p.kind = 6 → Completes .ackPacket s (· = t0)) ∧ (p.kind = 9 → Completes .flushAck s (· = t0))) ∧
      (∀ n x, s.matching p p.seq = some n → s.gate.store[n]? = some x → x.req.box = none →
        let done (t : State) (f : State → State) : Prop := ∃ u, Unstored t0 u n x ∧ t = f u
        let told (t : State) : Prop :=
          (x.req.asker = .host → done t fun u => { u with mg := { u.mg with hostOut := s.mg.hostOut ++ [.done 0 []], hostWait := none } }) ∧
          (∀ c id m y w, x.req.asker = .store c id → s.findStrand (fun y => y.outw.any fun w => w.acc.id == id) = some (.core m, y) →
            y.outw.find? (fun w => w.acc.id == id) = some w → w.obj = none →
            done t fun u => u.setCore m { y with outw := y.outw.filter fun w => w.acc.id != id })
        x.seq = p.seq ∧ x.cls = p.b31 % 4 ∧ x.stream = p.stream ∧ x.dest = p.src ∧
        (x.acks = [] → p.b 32 4 / 2 = 0 → (p.kind = 6 → Completes .ackPacket s told) ∧ (p.kind = 9 → Completes .flushAck s told)) ∧
        (p.kind = 3 → x.req.kind = 2 → let bs := fit x.req.len (p.data.take p.len)
          Completes .readResp s (fun t => (done t fun u => u.readDone x.req bs) ∧
            (x.req.asker = .host → done t fun u => { u with mg := { u.mg with hostOut := s.mg.hostOut ++ [.done 0 bs], hostWait := none } }) ∧
            (∀ c e id, x.req.asker = .engine c e id → done t fun u => u.engineData c id x.req.va bs []) ∧
            ∀ c id y k sd, x.req.asker = .load c id → (s.getCore c).pend.find? (fun y => y.acc.id == id) = some y → y.ret = .scalar k sd →
              (s.getCore c).wait = .none → done t fun u => u.onCore c fun z => (z.dropPend id).setS sd (ldExtend k (ofLE bs)))) ∧
        (p.kind = 5 → (p.b31 % 4 ≠ 3 ∨ p.b 32 1 < 2) → x.req.kind = 4 → let old := p.b 40 8 % 2 ^ (8 * x.req.len)
          Completes .amoResp s (fun t => (done t fun u => u.amoDone x.req old) ∧
            ∀ c id y op len ext va vb sd, x.req.asker = .load c id → (s.getCore c).pend.find? (fun y => y.acc.id == id) = some y →
              y.ret = .atomic op len ext va vb sd → (s.getCore c).wait = .none →
              done t fun u => u.onCore c fun z => (z.dropPend id).setS sd (amoOld len ext old))) ∧
        (p.kind = 7 → (p.b31 % 4 ≠ 3 ∨ p.b 32 1 < 2) →
          (p.code = 2 →
            let later (y : Stored) : Bool := y.req.sameOrdered x.req && x.req.before y.req
            let doubt (u : State) : State :=
              { u with gate := { u.gate with store := u.gate.store.map fun (y : Stored) => if later y then { y with doubt := true } else y } }
            (x.req.retries < 31 → Completes .nackPacket s (fun t => done t fun u => let v := doubt u
              { v with gate := { v.gate with resend := s.gate.resend ++
                [{ x.req with retries := x.req.retries + 1, due := s.now + 1000 * min (2 ^ x.req.retries) 64 }] } })) ∧
            (31 ≤ x.req.retries → Completes .nackPacket s (fun t => ∃ u, Unstored t0 u n x ∧ fails (doubt u) x.req x.seq 2 true t))) ∧
          (1 ≤ p.code → p.code ≤ 0xA → p.code ≠ 2 → Completes .nackPacket s (fun t =>
            ∃ u, Unstored t0 u n x ∧ fails u x.req x.seq p.code false t)) ∧
          (p.code = 0xC → Completes .nackPacket s (fun t => ∃ u, Unstored t0 u n x ∧ fails { u with gate := { u.gate with
            flowsOut := u.gate.flowsOut.map fun f => if f.dest = x.dest then { f with syn := true } else f } } x.req x.seq 0xC false t)) ∧
          (p.code = 0xB → x.again < 7 → x.pkt.dest ≠ s.mg.node.toNat → calm x →
            let l := x.pkt.dest * 4 + x.pkt.f 56 55
            let u : State := { t0 with gate := { t0.gate with lists := Tab.put 0 s.gate.lists l (Tab.get 0 s.gate.lists l % 2 ^ 31) } }
            ∀ m, (u.listsFrom x.pkt.dest (x.pkt.f 56 55 + 1)).head? = some m → Completes .nackPacket s (fun t => let q := u.withList x.pkt m
              t = { u with router := { s.router with arrivals := s.router.arrivals ++ [⟨q, 0xFF, none, s.now, s.cycle⟩] }
                           gate := { u.gate with store := s.gate.store.set n { x with pkt := q, sentAt := s.now, again := x.again + 1 } } }))))) ∧
    (∀ a, s.gate.acks[i]? = some a → ackRest (ackBase a.seqs) a.seqs = [] → Completes .ackHoldExpiry s (fun t =>
      t = ({ s with gate := { s.gate with acks := dropAt s.gate.acks } } : State).sendResp (a.packet 6 (ackBase a.seqs)))) ∧
    (∀ x, s.gate.store[i]? = some x → x.again < 7 → ¬ calm x → (x.pkt.dest = s.mg.node.toNat ∨ s.listsFrom x.pkt.dest (x.pkt.f 56 55 + 1) ≠ []) →
      Completes .retransmit s (· = s)) ∧
    (∀ x, s.gate.store[i]? = some x → x.sentAt + 32000 ≤ s.now → x.req.box = none → calm x →
      let goes (q : Packet) : Prop := Completes .retransmit s (fun t =>
        t = { s with router := { s.router with arrivals := s.router.arrivals ++ [⟨q, 0xFF, none, s.now, s.cycle⟩] }
                     gate := { s.gate with store := s.gate.store.set i { x with pkt := q, sentAt := s.now, again := x.again + 1 } } })
      (x.again < 7 → x.pkt.dest = s.mg.node.toNat → goes x.pkt) ∧
      (x.again < 7 → x.pkt.dest ≠ s.mg.node.toNat → ∀ m, (s.listsFrom x.pkt.dest (x.pkt.f 56 55 + 1)).head? = some m →
        goes ((x.pkt.setF 95 64 ((Tab.get 0 s.gate.lists (x.pkt.dest * 4 + m)).toNat % 2 ^ 27)).setF 56 55 m)) ∧
      (7 ≤ x.again → Completes .retransmit s (fun t => ∃ u, Unstored s u i x ∧ fails u x.req x.seq 0 true t))) ∧
    (∀ r, s.gate.resend[i]? = some r → r.due ≤ s.now → Completes .retryBackoff s (fun t =>
      let older (x : Req) : Bool := decide (0 < x.retries) && match x.first, r.first with
        | some a, some b => let d := (b + 65536 - a) % 65536; decide (0 < d ∧ d < 32768)
        | some _, none => true
        | none, _ => false
      t = { s with gate := { s.gate with
        resend := dropAt s.gate.resend, egress := s.gate.egress.filter older ++ [r] ++ s.gate.egress.filter fun x => !older x } }))

/-- Accepted requests pass their checks, are performed at their home in their flow's order, and are answered (R63, R74, R79, R85, R86,
R131, R136, R138, R141, R142, R233). -/
def Obligations.RequestsArePerformed : Prop :=
  ∀ (s : State) (j : Job), let q := j.pkt
    let finished (t : State) : Prop := t.gate.jobs = s.gate.jobs.filter (·.id != j.id)
    let turn : Prop := s.jobSync j = true → (s.die (homeDie (homeOf j.pa))).parked = [] ∧ s.lineHeld q.asid q.va j.pa = false
    (∀ (z : State) (p : Packet) (i port : Nat) (e : W64) (lv k pa : Nat), z.args = [0, i] → z.ready = true → z.gate.inbox[i]? = some (p, port) →
      (p.kind = 1 ∨ p.kind = 2) → p.cls = 0 → p.stream ≠ 1 → p.headBad = false → p.cipher = false → p.bodyBad = false → z.marks = [] →
      let f := z.flowFor p.src 0 p.stream p.seq p.syn
      f.classify p.seq = .new → pteV (z.asidEntry p.asid) = true → pteR (z.asidEntry p.asid) = true →
      pteW (z.asidEntry p.asid) = false → z.walk p.asid p.va = .leaf e lv k pa → (p.kind = 2 → pteR e = true) →
      (p.kind = 1 → pteW e = true ∧ pteBed e = false ∧ z.isCow p.asid p.va = false) → pteOrder e ≠ 3 → pteOrder e = p.ord → pteConf e = false →
      pteNode e = z.mg.node.toNat → z.job z.nextId = none → Completes .ingressRequest z (fun t => t.mem = z.mem ∧ t.nextId = z.nextId + 1 ∧
        t.gate.inbox = z.gate.inbox.take i ++ z.gate.inbox.drop (i + 1) ∧ t.flowIn p.src 0 p.stream = some (f.accept p.seq) ∧
        t.job z.nextId = some ⟨z.nextId, p, port, 1, none, pa % 2 ^ 48, z.now, [], 0⟩)) ∧
    (∀ d : List Byte, q.cls = 0 → d.length ≤ 448 → let a := q.answer q.dest { kind := 3, len := d.length, data := d }
      a.kind = 3 ∧ a.cls = 1 ∧ a.dest = q.src ∧ a.src = q.dest ∧ a.seq = q.seq ∧ a.tag = q.tag ∧ a.b31 = 0 ∧ a.stream = q.stream ∧
      a.len = d.length ∧ a.data.take d.length = d ∧ a.nflits = a.flits.length) ∧
    (s.job (s.args.getD 0 0) = some j → j.win = none →
      (j.stage = 1 → s.mayCheck j = true → turn →
        (q.kind = 1 → q.b31 < 128 → q.moves = false → Completes .writePacket s (fun t => finished t ∧
          (∀ a, t.byte a = if j.pa ≤ a ∧ a < j.pa + q.len then q.data.getD (a - j.pa) 0 else s.byte a) ∧
          ∃ h ∈ t.gate.acks, h.dest = q.src ∧ h.cls = q.cls ∧ h.stream = q.stream ∧ q.seq ∈ h.seqs)) ∧
        (q.kind = 2 → s.sound j.pa q.len → Completes .readPacket s (fun t =>
          t = ((s.countJob j).finishJob j 1).respond q { kind := 3, len := q.len, data := s.readB j.pa q.len })) ∧
        (q.kind = 4 → q.cls = 0 → s.sound (j.pa / 64 * 64) 64 → q.cipher = false → Completes .amoPacket s (fun t => finished t ∧
            (∀ a, t.byte a = if j.pa ≤ a ∧ a < j.pa + q.len
              then BitVec.ofNat 8 (amoNew q.code q.len (s.readN j.pa q.len) (q.b 40 8) (q.b 48 8) / 2 ^ (8 * (a - j.pa))) else s.byte a) ∧
            ∀ f, s.flowIn q.src q.cls q.stream = some f → ∃ g, t.flowIn q.src q.cls q.stream = some g ∧
              g.replies = ((q.seq, w64 (s.readN j.pa q.len)) :: f.replies).take 64))) ∧
      (q.kind = 8 → (∀ x ∈ s.gate.jobs, x.sameFlow j = true → seqBefore x.pkt.seq q.seq = false) →
        (∀ f, s.flowIn q.src q.cls q.stream = some f → q.seq ∉ f.accepted) → s.gate.acks = [] → Completes .flushPacket s (fun t =>
          t = (s.finishJob j 1).sendResp ((⟨q.src, q.dest, q.cls, q.stream, [q.seq], s.now⟩ : AckHeld).packet 9 q.seq))) ∧
      (q.kind = 0xB → s.mayCheck j = true → ∀ n, s.tenantEntry q.asid = some n → (s.getPart (tenPart (s.tenWord n))).pstate = 2 →
        Completes .eventPacket s (fun t => t =
          ((s.ringPut (evRing (2 + tenPart (s.tenWord n))) (fit 64 q.data)).finishJob j 1).holdAck q)) ∧
      (j.stage = 2 → j.since + 4000 ≤ s.now → Completes .holdTimeout s (fun t =>
        t = (s.postFault q.asid q.va (16 + if q.kind = 2 then 1 else if q.kind = 1 then 2 else 4) q.src).failJob j 2)))

/-- TABLE, MAP, UNMAP, PROTECT, MPOOL, MIGCLR and CODEBUMP act, shoot-downs and moves complete, and snapshots are armed, kept and
dropped (R146, R255, R256, R260, R265, R267, R270, R271, R273, R274, R304). -/
def Obligations.PageTablesMovesAndSnapshots : Prop :=
  ∀ (s : State), s.ready = true → s.mg.hostWait = none →
    let done (t : State) : Prop := t.mg.hostOut = s.mg.hostOut ++ [.done 0 []] ∧ t.mg.hostWait = none
    let ours (p asid : Nat) : Prop := p < 16 ∧ (s.getPart p).pstate = 2 ∧ asid < 65536 ∧ pteV (s.asidEntry asid) = true ∧
      asidPart (s.asidEntry asid) = p
    let node := s.mg.node.toNat
    let entry (k : Nat) (e : W64) (a : Nat) (b : Byte) : Byte := if k ≤ a ∧ a < k + 8 then BitVec.ofNat 8 (e.toNat / 2 ^ (8 * (a - k))) else b
    (∀ p asid va level ppn k, s.args = [p, asid, va, level, ppn] → ours p asid → va < 2 ^ 55 → (level = 1 ∨ level = 2) →
      s.pteAt asid va level = some k → pteV (s.pte k) = false → ppn / 2 ^ 32 = node → s.frameOf p (ppn % 2 ^ 32) = true →
      Completes .tableCmd s (fun t => done t ∧ ∀ a, t.byte a = entry k (w64 (ppn * 65536 + 1)) a
        (if ppn % 2 ^ 32 * 65536 ≤ a ∧ a < ppn % 2 ^ 32 * 65536 + 65536 then 0 else s.byte a))) ∧
    (∀ p asid va level leaf keep k, s.args = [p, asid, va, level, leaf, keep] → ours p asid → va < 2 ^ 55 → (level = 2 ∨ level = 3) →
      leaf < 2 ^ 64 → keep ≤ 1 →
      let e := w64 leaf
      let size := if level = 2 then 2 ^ 29 else 65536
      let at_ := va / size * size
      s.pteAt asid at_ level = some k → pteV (s.pte k) = false → s.leafBad p level e = false → s.moving asid at_ = false →
      (keep = 1 → pteNode e = node ∧ ∀ i, i < size / 65536 → s.framesMapped p (pteFrame e + i) 1 = true) →
      Completes .mapCmd s (fun t => ∃ u : State, (∀ a, u.byte a = entry k e a (if pteNode e = node ∧ keep = 0 ∧ pteBed e = false ∧
          pteFrame e * 65536 ≤ a ∧ a < pteFrame e * 65536 + size then 0 else s.byte a)) ∧
        u = { s with mem := u.mem, marks := u.marks, parts := u.parts } ∧
        (∀ q, q < 16 → Tab.get 0 (u.getPart p).codegen q =
          Tab.get 0 (s.getPart p).codegen q + if pteX e = true ∧ u.pipeAsid p q = asid then 1 else 0) ∧
        t = (((u.replayHeld asid at_ size).endWaits p).noteReady p).hostOk)) ∧
    (∀ p asid va x y z k level, ours p asid → s.rangeEntries asid (va / 65536 * 65536) 1 = some [(level, k)] → isLeaf (s.pte k) = true →
      va / 65536 * 65536 + 65536 ≤ 2 ^ 55 → (∀ q, q < 16 → s.pipeOn p q = false) → pteX (s.pte k) = false →
      let shot (t : State) (e : W64) (sem : Option (Nat × Nat)) : Prop := (∀ a, t.byte a = entry k e a (s.byte a)) ∧
        t.mg.hostWait = some (true, 0) ∧ ∃ w, t.msys.shoots = s.msys.shoots ++ [⟨p, asid, va / 65536 * 65536, 1, sem, false, w⟩]
      let sem := if x = 1 then some (y % 16, z % 256) else none
      (s.args = [p, asid, va, 1, x, y, z] → Completes .unmap s (fun t => shot t (pteWith (s.pte k) 0 0 0) sem)) ∧
      (∀ bits, s.args = [p, asid, va, 1, bits, x, y, z] → s.leafBad p level (pteWith (s.pte k) 11 1 bits) = false →
        Completes .protect s (fun t => shot t (pteWith (s.pte k) 11 1 bits) sem))) ∧
    (∀ p tier ppn n, s.args = [p, tier, ppn, n] → p < 16 → (s.getPart p).pstate = 2 → tier ≤ 1 → ppn / 2 ^ 32 = node →
      (∀ i, i < n → s.frameOf p (ppn % 2 ^ 32 + i) = true ∧ frameTier (ppn % 2 ^ 32 + i) = tier) →
      s.framesMapped p (ppn % 2 ^ 32) n = false → Completes .mpool s (fun t => done t ∧ t.mem = s.mem ∧
        ∀ i, i < n → (p, tier, ppn % 2 ^ 32 + i) ∈ t.msys.pools)) ∧
    (∀ p asid va k, s.args = [p, asid, va] → ours p asid → va < 2 ^ 55 → s.pteAt asid (va / 65536 * 65536) 3 = some k →
      s.moving asid (va / 65536 * 65536) = false → s.leafBad p 3 (pteWith (s.pte k) 10 10 1) = false → pteNode (pteWith (s.pte k) 10 10 1) = node →
      Completes .migclr s (fun t => done t ∧ (∀ a, t.byte a = entry k (pteWith (s.pte k) 10 10 1) a (s.byte a)) ∧
        ∀ e ∈ t.msys.moveCnt, ¬ (e.1 = asid ∧ e.2.1 = va / 65536 * 65536))) ∧
    (∀ p q, s.args = [p, q] → p < 16 → (s.getPart p).pstate = 2 → q < 16 → Completes .codebump s (fun t => done t ∧ t.mem = s.mem ∧
      t.getPart p = { s.getPart p with codegen := Tab.put 0 (s.getPart p).codegen q (Tab.get 0 (s.getPart p).codegen q + 1) })) ∧
    (∀ (z : State) (i : Nat) (x : Shoot), z.args = [i] → z.msys.shoots[i]? = some x → x.acked = false → z.inFlight x.asid x.va x.pages = false →
      x.sem = none → z.mg.hostWait = some (true, 0) →
      let waits := x.waits.filter fun id => (z.team id).any fun t => t.phase != .saved
      Completes .shootdownComplete z (fun t => t.mg.hostWait = none ∧ t.mg.hostOut = z.mg.hostOut ++ [.done 0 []] ∧
        (waits = [] → t.mg.sdstat = 0 ∧ t.msys.shoots = z.msys.shoots.take i ++ z.msys.shoots.drop (i + 1)) ∧
        (waits ≠ [] → t.mg.sdstat = 1 ∧ t.msys.shoots = z.msys.shoots.set i { x with acked := true, waits := waits }))) ∧
    (∀ id va tm i old, s.args = [id, va] → s.team id = some tm → tm.exts.findIdx? (fun e => e.stale && e.covers va) = some i →
      tm.exts[i]? = some old → (∀ a ∈ old.unitList, s.moving tm.asid a = false) → s.marks = [] →
      let unit (l : W64) (a pa : Nat) : Extent := if old.x then { leafExtent l 0 a 1 pa with x := pteX l && pteNode l == node }
        else leafExtent l (tm.modeOf a) a 1 pa
      (∀ e : Extent, 0 < old.units → e.vbase = old.vbase → e.units = old.units →
        (∀ j, j < old.units → let a := old.vbase + 4096 * j
          ∃ l lv k, s.walk tm.asid a = .leaf l lv k (e.pbase + 4096 * j) ∧ pteBed l = old.bedrock ∧
            unit l a (e.pbase + 4096 * j) = { e with vbase := a, units := 1, pbase := e.pbase + 4096 * j }) →
        Completes .retranslation s (fun t => t = { s with teams := t.teams } ∧ t.team id = some { tm with exts := tm.exts.set i e })) ∧
      ((∃ a ∈ old.unitList, s.walk tm.asid a = .absent) → Completes .retranslation s (fun t => t = { s with teams := t.teams } ∧
        ∃ page : List Extent, t.team id = some { tm with pset :=
            (page ++ tm.pset.filter fun e => !(e.vbase / 65536 == va / 65536)).take 16 } ∧ page.length ≤ 16 ∧
          ∀ a ∈ old.unitList, a / 65536 = va / 65536 → ∃ e ∈ page, e.vbase ≤ a ∧ a < e.vbase + 4096 * e.units ∧
            (s.walk tm.asid a = .absent → e.absent = true) ∧ (s.walk tm.asid a = .malformed → (e.absent || e.r || e.w || e.x) = false) ∧
            ∀ l lv k pa, s.walk tm.asid a = .leaf l lv k pa → pteBed l = old.bedrock →
              { e with vbase := a, units := 1, pbase := e.pbase + (a - e.vbase) } = unit l a pa))) ∧
    (∀ asid va k e c, s.args = [asid, va, 0] → s.movable asid (va / 65536 * 65536) = some (k, e) →
      s.msys.migs.find? (fun m => m.asid == asid && m.va == va / 65536 * 65536) = some c → c.cnt ≠ 0 → c.loc + s.migThresh ≤ c.cnt →
      Completes .migrationMove s (fun t => (∀ a, t.byte a = entry k (pteWith e 0 0 0) a (s.byte a)) ∧
        t.msys.moves = s.msys.moves ++ [⟨asid, va / 65536 * 65536, e, some c.cand, 0, pteTier e, false, c.part, false⟩])) ∧
    (∀ asid va k e c, s.args = [asid, va, 1] → s.movable asid (va / 65536 * 65536) = some (k, e) →
      s.msys.migs.find? (fun m => m.asid == asid && m.va == va / 65536 * 65536) = some c → pteTier e = true → s.migThresh ≤ c.loc + c.rem →
      ∀ f, s.msys.pools.find? (fun f => f.1 == c.part && f.2.1 == 0) = some f →
      Completes .migrationMove s (fun t => (∀ a, t.byte a = entry k (pteWith e 0 0 0) a (s.byte a)) ∧ t.msys.pools = s.msys.pools.filter (· != f) ∧
        t.msys.moves = s.msys.moves ++ [⟨asid, va / 65536 * 65536, e, some node, f.2.2, false, false, c.part, false⟩])) ∧
    (∀ asid va m, s.moveOf asid (va / 65536 * 65536) = some m → pteNode m.pte = node →
      (s.args = [asid, va, 2] → s.marks = [] → m.copied = false → s.inFlight asid (va / 65536 * 65536) 1 = false → m.toNode = some node →
        Completes .migrationMove s (fun t => (∀ o, o < 65536 → t.byte (m.frame * 65536 + o) = s.byte (pteFrame m.pte * 65536 + o)) ∧
          ∀ x ∈ t.msys.moves, { x with copied := true } ≠ { m with copied := true } ∨ x.copied = true)) ∧
      (∀ k, s.args = [asid, va] → m.copied = true → s.pteAt asid (va / 65536 * 65536) 3 = some k → m.toNode = some node →
        s.gate.egress = [] → s.gate.resend = [] → s.gate.store = [] → s.gate.jobs = [] → (∀ q, q < 16 → s.pipeOn m.part q = false) →
        let page (x : Nat × Nat × Nat × Nat) : Bool := x.1 == asid && x.2.1 == va / 65536 * 65536
        let count : Nat := match s.msys.moveCnt.find? page with | some x => if x.2.2.2 + 10000000 ≤ s.now then 1 else x.2.2.1 + 1 | none => 1
        Completes .moveComplete s (fun t => t.moveOf asid (va / 65536 * 65536) = none ∧
          (m.part, frameTier (pteFrame m.pte), pteFrame m.pte) ∈ t.msys.pools ∧
          (t.msys.moveCnt.find? page).map (·.2.2.1) = some count ∧ ∀ a, t.byte a =
            entry k (pteWith (pteWith (pteWith m.pte 63 16 (node * 2 ^ 32 + m.frame)) 9 9 m.tier.toNat) 10 10
              (if s.migMax ≤ count then 0 else 1)) a (s.byte a)))) ∧
    (∀ p, p < 16 → (s.getPart p).pstate = 2 → s.gate.jobs = [] →
      (∀ asid h t0 root fs, s.args = [p, asid] → ours p asid → s.inFlight asid 0 (2 ^ 39) = false → (∀ m ∈ s.msys.moves, m.asid ≠ asid) →
        s.snapOf p = none → s.snapHdr p = some h →
        s.copyTables p 3 1 (fld (s.asidEntry asid) 47 16) = some (t0, root, fs) → Completes .snaparm s (fun t => done t ∧
          t.msys.snaps = s.msys.snaps ++ [⟨p, asid, root, fs, s.cowOf asid, []⟩] ∧
          t.readN (h + 8 + 8 * (1 - s.readN h 8 % 2)) 8 = (node * 2 ^ 32 + root) % 2 ^ 64)) ∧
      (∀ asid, s.args = [p, asid] → ours p asid → (∃ m ∈ s.msys.moves, m.asid = asid) → Completes .snaparm s (· = s)) ∧
      (∀ x h, s.args = [p, 0, 0, 0] → s.snapOf p = some x → s.snapHdr p = some h → Completes .snapcommit s (fun t => done t ∧
        t.msys.snaps = s.msys.snaps.filter (·.part != p) ∧
        t.readN h 8 = ((s.readN h 8 / 2 + 1) * 2 + (1 - s.readN h 8 % 2)) % 2 ^ 64)) ∧
      (∀ x, s.args = [p] → s.snapOf p = some x → Completes .snapdrop s (fun t => done t ∧ t.mem = s.mem ∧
        t.msys.snaps = s.msys.snaps.filter (·.part != p) ∧ ∀ f ∈ x.tables ++ x.copies, (p, frameTier f, f) ∈ t.msys.pools))) ∧
    (∀ asid va x k, s.args = [asid, va] → s.msys.snaps.find? (·.asid == asid) = some x → isLeaf (s.pte k) = true → s.gate.jobs = [] →
      let e := s.pte k
      let page := va / 65536 * 65536
      let block := va / 2 ^ 29 * 2 ^ 29
      let copied (t : State) (f n gone : Nat) : Prop := t.readN k 8 = (pteWith e 47 16 f).toNat ∧
        ∃ y ∈ t.msys.snaps, y.part = x.part ∧ y.cow = x.cow.filter (· != gone) ∧
          y.copies = x.copies ++ (List.range n).map (pteFrame e + ·)
      (s.pageEntry asid page = some (3, k) → s.isCow asid page = true → s.moving asid page = false → s.inFlight asid page 1 = false →
        (∀ t0 f, s.takeFrame x.part (pteTier e).toNat = some (t0, f) → s.marks = [] → Completes .copyOnWrite s (fun t =>
          (∀ o, o < 65536 → (f * 65536 + o < k ∨ k + 8 ≤ f * 65536 + o) → t.byte (f * 65536 + o) = s.byte (pteFrame e * 65536 + o)) ∧
          copied t f 1 page)) ∧
        (s.takeFrame x.part (pteTier e).toNat = none → Completes .copyOnWrite s (fun t =>
          t.msys.snaps = s.msys.snaps.filter (·.part != x.part) ∧ ∀ f ∈ x.tables ++ x.copies, (x.part, frameTier f, f) ∈ t.msys.pools))) ∧
      (s.pageEntry asid page = some (2, k) → s.isCow asid block = true → s.moving asid block = false → s.inFlight asid block 8192 = false →
        ∀ t0 f, s.takeBlock x.part (pteTier e).toNat = some (t0, f) → Completes .copyOnWrite s (fun t => copied t f 8192 (block + 1))))

/-- The host's reads, writes, doorbells, consumer counts, pipeline enables and slate loads are answered as R145 to R148, R162 and R469
give (R55, R144, R145, R146, R147, R148, R162, R166, R170, R198, R305, R469). -/
def Obligations.HostRequestsAnswer : Prop :=
  ∀ (s : State), s.mg.hostWait = none →
    let answers (t : State) (code : Nat) (data : List Byte) : Prop :=
      t.mg.hostOut = s.mg.hostOut ++ [.done code data] ∧ t.mg.hostWait = none
    let at_ (a n : Nat) : Nat := s.readN (mgKey a) n
    (∀ a w r, s.args = [a, w] → mgReg a w = some r → r ≠ .modstatus → (∀ p k, r ≠ .slate p k) →
      (∀ p, r.part? = some p → (s.getPart p).pstate ≠ 0) → Completes .mgmtrd s (fun t => answers t 0 (toLE w (at_ a w)) ∧ t.mem = s.mem)) ∧
    (s.args = [0, 4] → Completes .mgmtrd s (fun t => answers t 0 (toLE 4 s.mg.modstatus.toNat))) ∧
    (∀ a w, s.args = [a, w] → mgReg a w = none → Completes .mgmtrd s (fun t => answers t 6 [])) ∧
    (s.ready = false → ∀ i ∈ [Instr.mread, .mwrite, .mgmtwr, .pipelineEnable, .cons, .elcons, .doorbell, .sload],
      Completes i s (fun t => answers t 1 [] ∧ t.mem = s.mem)) ∧
    (s.ready = true →
      (∀ asid va n data e lv k pa, s.args = [asid, va, n, data] → asid < 65536 → va < 2 ^ 55 → s.marks = [] →
        (n = 0 ∨ 256 < n ∨ 65536 < va % 65536 + n → ∀ i ∈ [Instr.mread, .mwrite], Completes i s (fun t => answers t 6 [] ∧ t.mem = s.mem)) ∧
        (1 ≤ n → n ≤ 256 → va % 65536 + n ≤ 65536 →
          (pteV (s.asidEntry asid) = false → ∀ i ∈ [Instr.mread, .mwrite], Completes i s (fun t => answers t 2 [] ∧ t.mem = s.mem)) ∧
          (pteV (s.asidEntry asid) = true → s.walk asid va = .absent → s.moving asid va = false →
            ∀ i ∈ [Instr.mread, .mwrite], Completes i s (fun t => answers t 3 [])) ∧
          (pteV (s.asidEntry asid) = true → s.walk asid va = .leaf e lv k pa → pteConf e = true →
            (pteR e = true → Completes .mread s (fun t => answers t 4 [] ∧ t.mem = s.mem)) ∧
            (pteW e = true → pteBed e = false → Completes .mwrite s (fun t => answers t 4 [] ∧ t.mem = s.mem))) ∧
          (pteV (s.asidEntry asid) = true → s.walk asid va = .leaf e lv k pa → pteConf e = false → pteNode e ≠ s.mg.node.toNat →
            let asks (kind : Nat) (t : State) : Prop := t.mg.hostWait = some (false, 0) ∧ t.mg.hostOut = s.mg.hostOut ∧ t.mem = s.mem ∧
              ∃ r : Req, t.gate.egress = s.gate.egress ++ [r] ∧ r.kind = kind ∧ r.asker = .host ∧ r.node = pteNode e ∧ r.va = va ∧
                r.asid = asid ∧ r.len = n ∧ r.order = pteOrder e ∧ r.data = if kind = 1 then toLE n data else []
            (pteR e = true → Completes .mread s (asks 2)) ∧
            (pteW e = true → pteBed e = false → Completes .mwrite s (asks 1))) ∧
          (pteV (s.asidEntry asid) = true → s.walk asid va = .leaf e lv k pa → pteConf e = false → pteNode e = s.mg.node.toNat →
            (pteR e = true → Completes .mread s (fun t => answers t 0 (s.readB (pa % 2 ^ 48) n) ∧ t.mem = s.mem)) ∧
            (pteR e = false → Completes .mread s (fun t => answers t 2 [] ∧ t.mem = s.mem)) ∧
            (pteW e = true → pteBed e = false → s.isCow asid va = false → Completes .mwrite s (fun t => answers t 0 [] ∧
              ∀ a, t.byte a = if pa % 2 ^ 48 ≤ a ∧ a < pa % 2 ^ 48 + n then BitVec.ofNat 8 (data / 2 ^ (8 * (a - pa % 2 ^ 48))) else s.byte a)) ∧
            (pteW e = false → Completes .mwrite s (fun t => answers t 2 [] ∧ t.mem = s.mem))))) ∧
      (∀ a w v r, s.args = [a, w, v] → mgReg a w = some r →
        (r = .ring false → a % 0x20 ≠ 8 → Completes .mgmtwr s (fun t => answers t 0 [] ∧ t.readN (mgKey a) w = v % 2 ^ (8 * w) ∧
          ∀ x, (x < mgKey a ∨ mgKey a + w ≤ x) → t.byte x = s.byte x)) ∧
        (∀ p q, p < 16 → (s.getPart p).pstate = 2 →
          (r = .stage p q → s.pipeOn p q = false → Completes .mgmtwr s (fun t => answers t 0 [] ∧ t.readN (mgKey a) w = v % 2 ^ (8 * w))) ∧
          (r = .stage p q → s.pipeOn p q = true → Completes .mgmtwr s (fun t => answers t 7 [] ∧ t.mem = s.mem)) ∧
          (r = .sem p q → Completes .mgmtwr s (fun t => answers t 0 [] ∧ t.readN (mgKey a) w = v % 2 ^ (8 * w))) ∧
          (r = .pipe p q 0 → (v % 2 = 0 → Completes .pipelineEnable s (fun t => answers t 0 [] ∧ t.pipeOn p q = false)) ∧
            (v % 2 = 1 → s.pipeOn p q = false → (s.setMg a w (v % 2 ^ (8 * w))).enableBad p q = false →
              Completes .pipelineEnable s (fun t => answers t 0 [] ∧ t.pipeOn p q = true)) ∧
            (v % 2 = 1 → s.pipeOn p q = true → Completes .pipelineEnable s (fun t => answers t 7 [] ∧ t.mem = s.mem))))) ∧
      (∀ n v, s.args = [n, v] → let consumes (i : Instr) (a num : Nat) : Prop := Completes i s (fun t => t.mg.hostWait = none ∧
          t.readN (mgKey (a + 0x10)) 4 = v % 2 ^ 32 ∧ t.mg.hostOut = s.mg.hostOut ++ [.done 0 []] ++
            (if at_ (a + 0xC) 4 = v % 2 ^ 32 then [] else [.event num]))
        (n < 18 → consumes .cons (0x1000 + 0x20 * n) n) ∧ (n < 23 → consumes .elcons (0x2000 + 0x20 * n) (32 + n))) ∧
      (∀ p w, s.args = [p, w] →
        (s.bellBad p w = false → Completes .doorbell s (fun t => answers t 0 [] ∧
          t.quTail p (nfld w 43 40) (s.stInq p (nfld w 43 40) (nfld w 39 34)) = nfld w 31 0)) ∧
        (s.bellBad p w = true → Completes .doorbell s (fun t => answers t 7 [] ∧ t.mem = s.mem))) ∧
      (∀ p asid va n keep bs, s.args = [p, asid, va, n, keep] → p < 16 → (s.getPart p).pstate = 2 → s.asidOf p asid = true → 1 ≤ n → n ≤ 256 →
        va % 64 = 0 → keep < 2 → s.readVa p asid va (4 * n) = .ok bs → s.heldVa asid va (4 * n) = false →
        let word (i : Nat) : W32 := BitVec.ofNat 32 (leField bs (4 * i) 4)
        slateBad ((List.range n).map word) = false → Completes .sload s (fun t => answers t 0 [] ∧
          (∀ i, Tab.get 0 (t.getPart p).sby i = if i < n then word i else 0) ∧
          t.getPart p = { s.getPart p with sby := (t.getPart p).sby, swapPend := true, swapKeep := keep == 1 }))) ∧
    (∀ n a, s.args = [n] → ringAt n = some a → n ∉ s.mg.ringOut → at_ (a + 0xC) 4 ≠ at_ (a + 0x10) 4 →
      Completes .eventMessage s (fun t => t = { s with mg := { s.mg with ringOut := s.mg.ringOut ++ [n], hostOut := s.mg.hostOut ++ [.event n] } }))

/-- The commands of partitions, address spaces, tenants, windows, parked pebbles, teams, keys and attestation act as R470 gives (R92,
R106, R137, R140, R150, R151, R153, R154, R155, R179, R470). -/
def Obligations.ManagementCommandsAct : Prop :=
  ∀ (s : State), s.ready = true → s.mg.hostWait = none →
    let answers (t : State) (code : Nat) : Prop := t.mg.hostOut = s.mg.hostOut ++ [.done code []] ∧ t.mg.hostWait = none
    let active (p : Nat) : Prop := p < 16 ∧ (s.getPart p).pstate = 2
    let word (t : State) (a n : Nat) : Nat := t.readN (mgKey a) n
    (∀ p, s.args = [p] → p < 16 →
      ((s.getPart p).pstate = 0 → Completes .pcreate s (fun t => answers t 0 ∧ t.getPart p = { Part.zero with pstate := 1 } ∧
        ∀ q, q ≠ p → t.getPart q = s.getPart q)) ∧
      ((s.getPart p).pstate ≠ 0 → Completes .pcreate s (fun t => answers t 7 ∧ t.parts = s.parts)) ∧
      ((s.getPart p).pstate = 1 → ((s.unitsOf p).filter fun u => decide (6000 ≤ u) && decide (u < 6016)).length = 1 →
        (∃ u ∈ s.unitsOf p, u < 64) → (∃ u ∈ s.unitsOf p, 1000 ≤ u ∧ u < 1512) → Completes .pstart s (fun t => answers t 0 ∧
          t.getPart p = { Part.zero with pstate := 2, start := s.now, lastTick := s.now } ∧
          ∀ q i, q < 16 → i < 256 → word t (semAt p q i) 4 = 0)) ∧
      ((s.getPart p).pstate ≠ 1 → Completes .pstart s (fun t => answers t 7 ∧ t.parts = s.parts)) ∧
      ((s.getPart p).pstate ≠ 0 → (s.getPart p).pstate ≤ 2 → (s.stopPart p).partBusy p = false → Completes .pdestroy s (fun t => answers t 0 ∧
        t.getPart p = Part.zero ∧ (∀ m ∈ t.msys.pools, m.1 ≠ p) ∧ (∀ u, t.owner u ≠ p + 1) ∧
        (Tab.wf 0 s.mg.owners → ∀ u, s.owner u ≠ p + 1 → t.owner u = s.owner u))) ∧
      ((s.getPart p).pstate ≠ 0 → (s.getPart p).pstate ≤ 2 → (s.stopPart p).partBusy p = true → Completes .pdestroy s (fun t =>
        t.mg.hostWait = some (true, p + 1) ∧ t.mg.hostOut = s.mg.hostOut))) ∧
    (∀ p u, s.args = [p, u] → p < 16 → (s.getPart p).pstate = 1 → isUnit u = true →
      (s.owner u = 0 → Completes .passign s (fun t => answers t 0 ∧ t.owner u = p + 1 ∧ ∀ v, v ≠ u → t.owner v = s.owner v)) ∧
      (s.owner u ≠ 0 → Completes .passign s (fun t => answers t 7 ∧ t.mg.owners = s.mg.owners)) ∧
      (s.owner u = p + 1 → Completes .prelease s (fun t => answers t 0 ∧ t.owner u = 0 ∧ ∀ v, v ≠ u → t.owner v = s.owner v))) ∧
    (∀ p asid root winreq remote, s.args = [p, asid, root, winreq, remote] → active p → asid < 65536 → pteV (s.asidEntry asid) = false →
      Completes .asidset s (fun t => answers t 0 ∧ word t (0x20000000 + 8 * asid) 8 =
        1 + remote % 2 * 2 + winreq % 2 * 4 + p * 2 ^ 12 + root % 2 ^ 48 * 2 ^ 16)) ∧
    (∀ p asid, s.args = [p, asid] → active p → s.asidOf p asid = true →
      Completes .asidclr s (fun t => answers t 0 ∧ word t (0x20000000 + 8 * asid) 8 = 0)) ∧
    (∀ p i, active p → i < 64 → s.owner (5000 + i) = p + 1 →
      (∀ tenant mask, s.args = [p, i, tenant, mask] → tenant < 65536 → mask < 65536 → mask % 16 = 0 →
        (∀ k, s.tenantEntry tenant = some k → k = i) → (tenBound (s.tenWord i) = true → fld (s.tenWord i) 15 0 = tenant) →
        Completes .tenset s (fun t => answers t 0 ∧ tenBound (t.tenWord i) = true ∧ tenPart (t.tenWord i) = p ∧ tenMask (t.tenWord i) = mask ∧
          fld (t.tenWord i) 15 0 = tenant ∧ (tenBound (s.tenWord i) = false → ∀ o, o < 65536 → t.byte (mgKey (0x30000000 + 0x10000 * i) + o) = 0))) ∧
      (s.args = [p, i] → tenBound (s.tenWord i) = true → Completes .tenclr s (fun t => answers t 0 ∧ tenBound (t.tenWord i) = false ∧
        (∀ k ∈ t.router.parks, k.entry ≠ i) ∧ ∀ e ∈ t.router.visits, ∀ v, e.2 = some v → v.entry ≠ i)) ∧
      (tenBound (s.tenWord i) = true →
        (s.args = [p, i, 0] → Completes .tenzero s (fun t => answers t 0 ∧ ∀ c, c < 256 → word t (tenAt i + 0x400 + 4 * c) 4 = 0)) ∧
        (s.args = [p, i, 1] → Completes .tenzero s (fun t => answers t 0 ∧ word t (tenAt i + 8) 4 = 0)) ∧
        (∀ n k, s.parkAt i n = some k →
          let left := s.router.parks.filter fun x => !(x.entry == i && x.idx == n)
          let capped (budget : Nat) : Packet := k.pkt.setPb 39 32 (min budget (hopCap (tenMask (s.tenWord i))))
          (∀ pc budget, s.args = [p, i, n, pc, budget] → pc < 16 → budget < 256 → Completes .resumeParked s (fun t => answers t 0 ∧
            t.router.parks = left ∧ t.router.arrivals = s.router.arrivals ++ [⟨(capped budget).setPb 0 0 1, k.port, some pc, s.now, s.cycle⟩])) ∧
          (∀ d budget, s.args = [p, i, n, d, budget] → d < 6 → budget < 256 → k.entry = i → s.router.outq = [] →
            s.exitCode (capped budget) d = none → s.hasCredits d (s.exited (capped budget) d) = true → Completes .redirectParked s (fun t =>
              answers t 0 ∧ t.router.parks = left ∧ t.router.wire = s.router.wire ++ [(d, s.exited (capped budget) d)])) ∧
          (s.args = [p, i, n] → Completes .dropParked s (fun t => answers t 0 ∧ t.router.parks = left ∧ t.router.wire = s.router.wire))))) ∧
    (∀ p w, active p → w < 4096 → s.owner (10000 + w) = p + 1 →
      (∀ asid sm smk r wr am nt np ns base pages, s.args = [p, w, asid, sm, smk, r, wr, am, nt, np, ns, base, pages] → winState (s.win w) = 0 →
        s.asidOf p asid = true → 1 ≤ pages → base + pages ≤ 2 ^ 39 → pages < 2 ^ 32 → base < 2 ^ 39 → Completes .openWindow s (fun t => answers t 0 ∧
          winState (t.win w) = 1 ∧ winFlight (t.win w) = 0 ∧ nfld (t.win w) 255 240 = asid ∧ nfld (t.win w) 166 128 = base ∧
          nfld (t.win w) 127 96 = pages ∧ nfld (t.win w) 205 205 = r % 2 ∧ nfld (t.win w) 204 204 = wr % 2 ∧ nfld (t.win w) 203 203 = am % 2)) ∧
      (s.args = [p, w] → (winState (s.win w) = 1 → nfld (s.win w) 202 202 = 0 → Completes .closeWindow s (fun t => answers t 0 ∧
          winState (t.win w) = if winFlight (s.win w) = 0 then 3 else 2)) ∧
        (winState (s.win w) = 3 → Completes .freeWindow s (fun t => answers t 0 ∧ t.win w = 0)))) ∧
    (∀ p tm, s.args = [p, tm.id] → active p → s.team tm.id = some tm → tm.id / 2 ^ 28 = p → tm.part = p → tm.phase ≠ .stopping →
      tm.phase ≠ .saved → Completes .preemptreq s (fun t => answers t 0 ∧ (t.getPart p).events =
        (s.getPart p).events ++ [⟨2, 2, BitVec.ofNat 32 tm.id, BitVec.ofNat 32 (64 * tm.pipe + tm.stage)⟩])) ∧
    (∀ p i, active p → i < 4096 → s.owner (20000 + i) = p + 1 →
      (∀ peer any len blob key, s.args = [p, i, peer, any, len, blob] → peer < 65536 → any ≤ 1 → (s.keySlot i).st = 0 →
        Config.unwrapKey s.mg.kaGen i p peer (any == 1) (toLE len blob) = some key →
        Completes .keyload s (fun t => answers t 0 ∧ t.keySlot i = ⟨1, p, peer, any == 1, key, 0⟩)) ∧
      (s.args = [p, i] → ((s.keySlot i).st = 1 → Tab.wf KeySlot.zero s.mg.keys → Completes .promote s (fun t => answers t 0 ∧ t.keySlot i = { s.keySlot i with st := 2 } ∧
          ∀ j, j ≠ i → t.keySlot j = if (s.keySlot j).st = 2 ∧ (s.keySlot j).part = (s.keySlot i).part ∧
            (s.keySlot j).peer = (s.keySlot i).peer ∧ (s.keySlot j).pany = (s.keySlot i).pany then { s.keySlot j with st := 1 } else s.keySlot j)) ∧
        Completes .retire s (fun t => answers t 0 ∧ t.keySlot i = KeySlot.zero ∧ ∀ j, j ≠ i → t.keySlot j = s.keySlot j))) ∧
    (∀ nonce p, s.args = [nonce, p] → (p < 16 ∨ p = 0xFFFF) → Completes .attest s (fun t => ∃ sig : List Byte, sig.length = 132 ∧
      t.mg.hostOut = s.mg.hostOut ++ [.done 0 (s.report nonce p ++ sig)] ∧ t.mem = s.mem))

/-- Words that the spec writes out decode to the instructions that it writes beside them (08_slate_policies.md,
14_instruction_formats_and_opcode_map.md, 15_scalar_and_control_instructions.md, 16_vector_instructions.md,
17_matrix_and_plan_instructions.md, 18_copy_sync_and_fabric_instructions.md, 23_program_expert_launch.md, 04_pebbles.md). -/
def Obligations.DecodesSpecWords : Prop :=
  decodeCore 0x04011461C0000000 0 = some (.add ⟨2, false⟩ 5 6 7) ∧ decodeCore 0x104B280000000100 0 = some (.sts ⟨0, false⟩ .d 10 0 0x100) ∧
  decodeCore 0x20010000FFFFFFF8 0 = some (.br ⟨0, false⟩ 0xFFFFFFF8) ∧
  decodeCore 0x3001240000000000 0x0102000000400000 = some (.li ⟨0, false⟩ 9 0x0102000000400000) ∧
  decodeCore 0x400400C040140600 0 = some (.vfma ⟨0, false⟩ 3 4 5 6 .f32 .rne false) ∧
  decodeCore 0x5001004010000171 0 = some (.vaddScalar ⟨0, false⟩ 1 1 (.imm 1) .i32 .rne false) ∧
  decodeCore 0x6003800000100000 0 = some (.mm ⟨0, false⟩ 0 0 true ⟨true, false, false, false, 0, 0⟩ false) ∧
  decodeCore 0x7008014418003001 0 = some (.cpout ⟨0, false⟩ 5 4 6 0 ⟨false, false, false, false, 3, 1⟩) ∧
  decodeCore 0x7008810518703001 0 = some (.cpout ⟨0, false⟩ 4 5 6 7 ⟨true, false, false, false, 3, 1⟩) ∧
  decodeCore 0xCC20841840A0501E 0 = some (.pair ⟨1, true⟩ .add 1 2 3 .addF 10 20 30) ∧
  decodeCore 0x8001F1461C015008 0 = some (.amo ⟨0, false⟩ .add .rel .i64 15 5 6 7 8) ∧
  decodeCore 0x900200A2CCE00000 0 = some (.psend ⟨0, false⟩ 10 11 12 7) ∧ decodeCore 0xA00B019000000000 0 = some (.fmtpush ⟨0, false⟩ 25) ∧
  decodePebble 0x0840 = some (.pushi 0x40) ∧ decodePebble 0x8802 = some (.pebbleBnz 2) ∧
  decodeSlate 0xED000003 = some (.slateCmpeqImm 4 0 3) ∧ decodeSlate 0x25C00D04 = some (.slateLoop 7 13 4) ∧
  decodeCore 0xB000000000000000 0 = none ∧ decodeCore 0x0100000000000000 0 = none ∧ decodeCore 0x4001AF0000000000 0 = none

/-- Decoding the words of any well-formed instruction gives that instruction back (14_instruction_formats_and_opcode_map.md,
08_slate_policies.md, 04_pebbles.md). -/
def Obligations.EncodeThenDecode : Prop :=
  ∀ (i : Instr) (n w : Nat), WellFormed i = true → encode i = some (n, w) → w < 2 ^ n ∧ decodeTableWord n w = some i

/-- A step runs what the fetched words decode to, on a core, in a pebble engine and on a policy processor, and the named step of the
module (R95, R193, R238, R239, R240, R274, R328, R350, R378). -/
def Obligations.StepRunsTheDecodedInstruction : Prop :=
  ∀ (s : State) (rest : List Turn) (i : Instr) (c e p : Nat) (args : List Nat),
    let u : State := { s with turns := rest, core := c }
    let reads (z : State) (w w' : W64) (v : State) : Prop := z.mayIssueBundle = true ∧ z.ctx.pc.toNat ∉ z.cur.brk ∧
      ∃ y, z.fetchWord z.ctx.pc = .ok (y, w) ∧ (coreLength w = 8 → v = y ∧ w' = 0) ∧
        (coreLength w = 16 → y.fetchWord (y.ctx.pc + 8) = .ok (v, w'))
    (s.turns = .bundle c :: rest → (∀ t, u.myTeam = some t → t.timed = false) →
      (∀ v w w', reads u w w' v →
        (decodeCore w w' = some i → v.hold i = none → step s = exec i (v.readRegs i)) ∧
        (decodeCore w w' = none → step s = .next v.illegal)) ∧
      (u.mayIssueBundle = true → u.ctx.pc.toNat ∈ u.cur.brk → step s = .next (u.raise 0x15 u.ctx.pc))) ∧
    (∀ z : State, z.ctx.err = [] → z.readRegs i = z) ∧
    (∀ t, s.turns = .bundle c :: rest → u.myTeam = some t → t.timed = true → t.phase = .running → t.beat ≤ s.cycle → u.members t ≠ [] →
      let wire (z : State) : State := z.modTeam t.id fun x => { x with wire := true }
      let base := (u.members t).foldl (fun z m => z.modCore m fun x => { x with settled := none }) u
      let all := (u.members t).foldl State.tryMember base
      let late := (u.members t).filter fun m => !base.issued all m
      let ds := (u.members t).map base.decides
      let differ := (∃ d ∈ ds, d.isSome = true) ∧ ∃ d ∈ ds, d ≠ ds.headD none
      ((∃ m ∈ u.members t, u.cannotIssue m = true) → step s = .next (wire u)) ∧
      ((∀ m ∈ u.members t, u.cannotIssue m = false) →
        (late ≠ [] → step s = .next (wire (base.tryAlone base late))) ∧
        (late = [] → differ → step s = .next (wire
          { (u.members t).foldl (fun v m => ({ v with core := m } : State).raiseFree 0x11) base with core := c })) ∧
        (late = [] → ¬ differ → step s = .next (all.modTeam t.id fun x => { x with wire := false, beat := s.cycle + 1 })))) ∧
    (∀ (z : State) (m : Nat) (w w' : W64) (v t : State), let y : State := { z with core := m }
      reads y w w' v → decodeCore w w' = some i → v.hold i = none → exec i (v.readRegs i) = .next t → z.tryMember m = { t with core := z.core }) ∧
    (∀ (a w : W64) (q : Piece) (qs : List Piece), (s.cur.cached a.toNat = some w → s.fetchWord a = .ok (s, w)) ∧
      (s.cur.cached a.toNat = none → s.xlate .fetch a.toNat 8 = .ok (q :: qs) → s.sound q.key 8 →
        (∀ b, b < 64 → w.getLsbD b = (s.byte (q.key + b / 8)).getLsbD (b % 8)) →
        s.fetchWord a = .ok ((s.countPiece q).modCur fun x => { x with icache := ((a.toNat, w) :: x.icache).take 32768 }, w) ∧
        (q.mig = false → s.countPiece q = s))) ∧
    (∀ v, s.turns = .pebble e :: rest → Tab.get none s.router.visits e = some v → v.steps < 32 →
      decodePebble (BitVec.ofNat 16 (v.pkt.codeAt v.pc)) = some i → step s = exec i { s with turns := rest, eng := e }) ∧
    (s.turns = .slate p :: rest → (s.getPart p).inv.isSome = true → (s.getPart p).pc < 256 → Tab.get 0 (s.getPart p).act (s.getPart p).pc ≠ 0 →
      decodeSlate (Tab.get 0 (s.getPart p).act (s.getPart p).pc) = some i → (s.getPart p).used + slateCost i ≤ 2048 →
      step s = exec i { s with turns := rest, pol := p }) ∧
    (s.turns = .step i c e p args :: rest →
      (encode i = none → step s = exec i { s with turns := rest, core := c, eng := e, pol := p, args := args }) ∧
      (encode i ≠ none → step s = .fault .notAStep)) ∧
    (s.turns = [] → step s = .next (s.elapse 1 0))

/-- A bundle of classes 0x0 to 0x5 and 0x8 to 0xA, or a pair, whose guard fails, goes on to the next bundle and changes nothing else
(R330, R331, 14_instruction_formats_and_opcode_map.md). -/
def Obligations.FailedGuardOnlyAdvances : Prop :=
  ∀ (i : Instr) (g : Guard) (l : Layout) (fs : List Nat) (w2 : W64) (s : State), encodeFields i = some (l, fs, w2) → guardOf i = some g →
    l ≠ .c6 → l ≠ .c7 → s.holds g = false → Completes i s (fun t => GoesOn s t (if l = .c3 then 16 else 8))

/-- Right after reset MODSTATUS is 0, no strand, team, packet or visit exists, every partition is FREE and memory reads zero (log 1,
log 3) (R47, R52, R53, R54, R92, R150, R154, R166, R188). -/
def Obligations.ResetLeaves : Prop :=
  State.reset.bootPhase = 0 ∧ State.reset.ready = false ∧ State.reset.mg.modstatus = 0 ∧ State.reset.mg.clock = 700 ∧
    (∀ c, State.reset.getCore c = Core.zero ∧ (State.reset.getCore c).run = .none) ∧
    (∀ p, (State.reset.getPart p).pstate = 0 ∧ (State.reset.getPart p).act = [] ∧ (State.reset.getPart p).sby = [] ∧
      ∀ i, Tab.get 0 (State.reset.getPart p).m i = 0) ∧
    (∀ t, State.reset.tenantEntry t = none) ∧ (∀ i, (State.reset.keySlot i).st = 0) ∧ State.reset.teams = [] ∧
    State.reset.router = Router.zero ∧ State.reset.gate = Gateway.zero ∧ State.reset.msys = MemSys.zero ∧ (∀ a, State.reset.byte a = 0) ∧
    Memory.wf State.reset.mem

/-- Every step keeps memory in its canonical form: addresses strictly rise and no listed byte is zero (the model's form, log 1)
(10_memory_and_translation.md). -/
def Obligations.MemoryStaysCanonical : Prop :=
  ∀ s t : State, Memory.wf s.mem → step s = .next t → Memory.wf t.mem
end

