-- ==== Sys2Proof/Laws/Sparse.lean ====
section
/-!
SUPPORT. Sparse tables: what a read gives after a write, and that every operation keeps the canonical form.
-/
namespace Sys2Proof.Machine

variable {α : Type}

/-! ### Reads -/

theorem Tab.get_append (d : α) (t u : Tab α) (i : Nat) :
    Tab.get d (t ++ u) i = if (∃ e ∈ t, e.1 = i) then Tab.get d t i else Tab.get d u i := by
  induction t with
  | nil => simp
  | cons e t ih =>
    obtain ⟨k, v⟩ := e
    by_cases h : k = i
    · simp [Tab.get, h]
    · have e : (∃ e ∈ (k, v) :: t, e.1 = i) ↔ ∃ e ∈ t, e.1 = i := by simp [h]
      simp only [List.cons_append, Tab.get, if_neg h, ih, e]

theorem Tab.get_unlisted (d : α) (t : Tab α) (i : Nat) (h : ∀ e ∈ t, e.1 ≠ i) : Tab.get d t i = d := by
  induction t with
  | nil => rfl
  | cons e t ih =>
    obtain ⟨k, v⟩ := e
    have hk : k ≠ i := h (k, v) (by simp)
    simp [Tab.get, hk, ih (fun e he => h e (by simp [he]))]

theorem Tab.get_filter (d : α) (t : Tab α) (f : Nat × α → Bool) (i : Nat) (h : ∀ v, f (i, v) = true) :
    Tab.get d (t.filter f) i = Tab.get d t i := by
  induction t with
  | nil => rfl
  | cons e t ih =>
    obtain ⟨k, v⟩ := e
    by_cases hk : k = i
    · subst hk; simp [h, Tab.get]
    · by_cases hf : f (k, v) = true <;> simp [hf, Tab.get, hk, ih]

theorem Tab.get_filter_out (d : α) (t : Tab α) (f : Nat × α → Bool) (i : Nat) (h : ∀ v, f (i, v) = false) :
    Tab.get d (t.filter f) i = d := by
  refine Tab.get_unlisted d _ i fun e he hi => ?_
  obtain ⟨k, v⟩ := e
  have := (List.mem_filter.1 he).2
  simp only at hi
  subst hi
  simp [h] at this

/-- A read of the key just written gives the value written. -/
theorem Tab.get_put_same [DecidableEq α] (d : α) (t : Tab α) (i : Nat) (v : α) : Tab.get d (Tab.put d t i v) i = v := by
  unfold Tab.put
  rw [Tab.get_append, if_neg]
  · by_cases h : v = d
    · subst h; rw [if_pos rfl]; simp only [List.nil_append]
      exact Tab.get_filter_out v t _ i (by simp)
    · simp [h, Tab.get]
  · rintro ⟨e, he, rfl⟩
    simp at he

/-- A write leaves every other key alone. -/
theorem Tab.get_put_other [DecidableEq α] (d : α) (t : Tab α) (i j : Nat) (v : α) (h : j ≠ i) :
    Tab.get d (Tab.put d t i v) j = Tab.get d t j := by
  have hm : Tab.get d ((if v = d then [] else [(i, v)]) ++ t.filter fun e => decide (i < e.1)) j =
      Tab.get d (t.filter fun e => decide (i < e.1)) j := by
    by_cases hv : v = d
    · simp [hv]
    · simp [hv, Tab.get, Ne.symm h]
  unfold Tab.put
  rw [Tab.get_append, hm]
  by_cases hj : j < i
  · by_cases hx : ∃ e ∈ t.filter (fun e => decide (e.1 < i)), e.1 = j
    · rw [if_pos hx]; exact Tab.get_filter d t _ j (by simp [hj])
    · rw [if_neg hx, Tab.get_filter_out d t _ j (by intro v; simp; omega)]
      exact (Tab.get_unlisted d t j fun e he hij => hx ⟨e, by simp [he, hij, hj], hij⟩).symm
  · rw [if_neg (by rintro ⟨e, he, h2⟩; simp at he; omega)]
    exact Tab.get_filter d t _ j (by intro v; simp; omega)

theorem Tab.get_put [DecidableEq α] (d : α) (t : Tab α) (i j : Nat) (v : α) :
    Tab.get d (Tab.put d t i v) j = if j = i then v else Tab.get d t j := by
  split
  · rename_i h; subst h; exact Tab.get_put_same d t j v
  · rename_i h; exact Tab.get_put_other d t i j v h

/-! ### Runs -/

theorem Tab.cells_keys [DecidableEq α] (d : α) : ∀ (vs : List α) (i : Nat), ∀ e ∈ Tab.cells d i vs, i ≤ e.1 ∧ e.1 < i + vs.length
  | [], _, e, h => by simp [Tab.cells] at h
  | v :: vs, i, e, h => by
    unfold Tab.cells at h
    have ih := Tab.cells_keys d vs (i + 1)
    split at h
    · have := ih e h; simp; omega
    · rcases List.mem_cons.1 h with rfl | h
      · simp
      · have := ih e h; simp; omega

theorem Tab.get_cells [DecidableEq α] (d : α) : ∀ (vs : List α) (i j : Nat), i ≤ j → j < i + vs.length →
    Tab.get d (Tab.cells d i vs) j = vs.getD (j - i) d
  | [], i, j, h1, h2 => by simp at h2; omega
  | v :: vs, i, j, h1, h2 => by
    unfold Tab.cells
    by_cases hij : j = i
    · subst hij
      split
      · rename_i hv
        rw [Tab.get_unlisted]
        · simp [hv]
        · intro e he hk; have := (Tab.cells_keys d vs (j + 1) e he).1; omega
      · simp [Tab.get]
    · have ih := Tab.get_cells d vs (i + 1) j (by omega) (by simp at h2; omega)
      have e : j - i = (j - (i + 1)) + 1 := by omega
      split
      · rw [ih, e]; simp
      · rw [Tab.get, if_neg (fun h => hij h.symm), ih, e]; simp

/-- A read of one key after a run is written. -/
theorem Tab.get_putRun [DecidableEq α] (d : α) (t : Tab α) (i j : Nat) (vs : List α) :
    Tab.get d (Tab.putRun d t i vs) j = if i ≤ j ∧ j < i + vs.length then vs.getD (j - i) d else Tab.get d t j := by
  unfold Tab.putRun
  have hk := Tab.cells_keys d vs i
  rw [Tab.get_append]
  by_cases hj : j < i
  · rw [if_neg (fun h : i ≤ j ∧ j < i + vs.length => by omega)]
    split
    · exact Tab.get_filter d t _ j (by simp [hj])
    · rename_i hn
      have hu : ∀ e ∈ t, e.1 ≠ j := fun e he hij => hn ⟨e, by simp [he, hij, hj], hij⟩
      rw [Tab.get_unlisted d t j hu]
      refine Tab.get_unlisted d _ j fun e he hej => ?_
      rcases List.mem_append.1 he with h | h
      · have := hk e h; omega
      · exact hu e (List.mem_filter.1 h).1 hej
  · rw [if_neg]
    · by_cases hin : j < i + vs.length
      · rw [if_pos ⟨by omega, hin⟩, Tab.get_append]
        split
        · exact Tab.get_cells d vs i j (by omega) hin
        · rename_i hn
          rw [← Tab.get_cells d vs i j (by omega) hin, Tab.get_unlisted d (Tab.cells d i vs) j (fun e he hej => hn ⟨e, he, hej⟩)]
          exact Tab.get_filter_out d t _ j (by intro v; simp; omega)
      · rw [if_neg (fun h => hin h.2), Tab.get_append, if_neg]
        · exact Tab.get_filter d t _ j (by intro v; simp; omega)
        · rintro ⟨e, he, rfl⟩; exact hin (hk e he).2
    · rintro ⟨e, he, rfl⟩; simp at he; omega

theorem Tab.getRun_get (d : α) (t : Tab α) (i n : Nat) : Tab.getRun d t i n = (List.range n).map fun k => Tab.get d t (i + k) := by
  unfold Tab.getRun
  refine List.map_congr_left fun k hk => ?_
  have hk := List.mem_range.1 hk
  exact Tab.get_filter d t _ (i + k) (by intro v; simp; omega)

/-- A read of the run just written gives the values written. -/
theorem Tab.getRun_putRun [DecidableEq α] (d : α) (t : Tab α) (i : Nat) (vs : List α) :
    Tab.getRun d (Tab.putRun d t i vs) i vs.length = vs := by
  rw [Tab.getRun_get]
  apply List.ext_getElem (by simp)
  intro k h1 h2
  simp only [List.getElem_map, List.getElem_range, Tab.get_putRun]
  rw [if_pos ⟨by omega, by omega⟩, Nat.add_sub_cancel_left]
  simp [List.getD, h2]

/-! ### The canonical form -/

theorem Tab.wf_nil [DecidableEq α] (d : α) : Tab.wf d ([] : Tab α) := ⟨List.Pairwise.nil, by simp⟩

/-- Dropping entries keeps the canonical form. -/
theorem Tab.wf_filter [DecidableEq α] (d : α) (t : Tab α) (f : Nat × α → Bool) (h : Tab.wf d t) : Tab.wf d (t.filter f) :=
  ⟨h.1.filter f, fun e he => h.2 e (List.mem_filter.1 he).1⟩

theorem Tab.wf_append [DecidableEq α] (d : α) (t u : Tab α) (ht : Tab.wf d t) (hu : Tab.wf d u)
    (h : ∀ a ∈ t, ∀ b ∈ u, a.1 < b.1) : Tab.wf d (t ++ u) :=
  ⟨List.pairwise_append.2 ⟨ht.1, hu.1, h⟩, fun e he => (List.mem_append.1 he).elim (ht.2 e) (hu.2 e)⟩

/-- A write keeps the canonical form. -/
theorem Tab.wf_put [DecidableEq α] (d : α) (t : Tab α) (i : Nat) (v : α) (h : Tab.wf d t) : Tab.wf d (Tab.put d t i v) := by
  unfold Tab.put
  refine Tab.wf_append d _ _ (Tab.wf_filter d t _ h) (Tab.wf_append d _ _ ?_ (Tab.wf_filter d t _ h) ?_) ?_
  · split
    · exact Tab.wf_nil d
    · rename_i hv; exact ⟨by simp, by simpa using hv⟩
  · intro a ha b hb
    have hb := (List.mem_filter.1 hb).2
    split at ha <;> simp at ha
    subst ha; simpa using hb
  · intro a ha b hb
    have ha := (List.mem_filter.1 ha).2
    simp at ha
    rcases List.mem_append.1 hb with hb | hb
    · split at hb <;> simp at hb
      subst hb; exact ha
    · have hb := (List.mem_filter.1 hb).2
      simp at hb; omega

theorem Tab.wf_cells [DecidableEq α] (d : α) : ∀ (vs : List α) (i : Nat), Tab.wf d (Tab.cells d i vs)
  | [], _ => Tab.wf_nil d
  | v :: vs, i => by
    have ih := Tab.wf_cells d vs (i + 1)
    unfold Tab.cells
    split
    · exact ih
    · rename_i hv
      refine ⟨List.pairwise_cons.2 ⟨fun e he => ?_, ih.1⟩, fun e he => ?_⟩
      · have := (Tab.cells_keys d vs (i + 1) e he).1; simp; omega
      · rcases List.mem_cons.1 he with rfl | he
        · exact hv
        · exact ih.2 e he

/-- A write of a run keeps the canonical form. -/
theorem Tab.wf_putRun [DecidableEq α] (d : α) (t : Tab α) (i : Nat) (vs : List α) (h : Tab.wf d t) :
    Tab.wf d (Tab.putRun d t i vs) := by
  unfold Tab.putRun
  have hk := Tab.cells_keys d vs i
  refine Tab.wf_append d _ _ (Tab.wf_filter d t _ h) (Tab.wf_append d _ _ (Tab.wf_cells d vs i) (Tab.wf_filter d t _ h) ?_) ?_
  · intro a ha b hb
    have hb := (List.mem_filter.1 hb).2
    have := hk a ha
    simp at hb; omega
  · intro a ha b hb
    have ha := (List.mem_filter.1 ha).2
    simp at ha
    rcases List.mem_append.1 hb with hb | hb
    · have := hk b hb; omega
    · have hb := (List.mem_filter.1 hb).2
      simp at hb; omega

/-- Clearing a run keeps the canonical form. -/
theorem Tab.wf_clear [DecidableEq α] (d : α) (t : Tab α) (i n : Nat) (h : Tab.wf d t) : Tab.wf d (Tab.clear t i n) :=
  Tab.wf_filter d t _ h

/-- A copied run keeps the canonical form. -/
theorem Tab.wf_moveRun [DecidableEq α] (d : α) (t : Tab α) (src dst n : Nat) (h : Tab.wf d t) : Tab.wf d (Tab.moveRun t src dst n) := by
  unfold Tab.moveRun
  have hf := Tab.wf_filter d t (fun e => decide (src ≤ e.1) && decide (e.1 < src + n)) h
  have hm : ∀ e ∈ (t.filter fun e => decide (src ≤ e.1) && decide (e.1 < src + n)).map (fun e => (e.1 - src + dst, e.2)),
      dst ≤ e.1 ∧ e.1 < dst + n := by
    intro e he
    obtain ⟨x, hx, rfl⟩ := List.mem_map.1 he
    have hx := (List.mem_filter.1 hx).2
    simp at hx; simp; omega
  refine Tab.wf_append d _ _ (Tab.wf_filter d t _ h) (Tab.wf_append d _ _ ⟨?_, ?_⟩ (Tab.wf_filter d t _ h) ?_) ?_
  · refine List.pairwise_map.2 (List.Pairwise.imp_of_mem ?_ hf.1)
    intro a b ha hb hab
    have ha := (List.mem_filter.1 ha).2
    simp at ha ⊢; omega
  · intro e he
    obtain ⟨x, hx, rfl⟩ := List.mem_map.1 he
    exact hf.2 x hx
  · intro a ha b hb
    have hb := (List.mem_filter.1 hb).2
    have := hm a ha
    simp at hb; omega
  · intro a ha b hb
    have ha := (List.mem_filter.1 ha).2
    simp at ha
    rcases List.mem_append.1 hb with hb | hb
    · have := hm b hb; omega
    · have hb := (List.mem_filter.1 hb).2
      simp at hb; omega

/-- Two tables in canonical form that read alike at every key are the same table. -/
theorem Tab.ext_get [DecidableEq α] (d : α) : ∀ (t u : Tab α), Tab.wf d t → Tab.wf d u →
    (∀ i, Tab.get d t i = Tab.get d u i) → t = u
  | [], [], _, _, _ => rfl
  | [], (k, v) :: u, _, hu, h => by
    have := h k
    simp [Tab.get] at this
    exact absurd this.symm (hu.2 (k, v) (by simp))
  | (k, v) :: t, [], ht, _, h => by
    have := h k
    simp [Tab.get] at this
    exact absurd this (ht.2 (k, v) (by simp))
  | (k, v) :: t, (l, w) :: u, ht, hu, h => by
    have ht1 := List.pairwise_cons.1 ht.1
    have hu1 := List.pairwise_cons.1 hu.1
    have hkl : k = l := by
      rcases Nat.lt_trichotomy k l with hlt | heq | hgt
      · have hk := h k
        rw [Tab.get, if_pos rfl, Tab.get, if_neg (by omega),
          Tab.get_unlisted d u k (fun e he => by have := hu1.1 e he; simp at this; omega)] at hk
        exact absurd hk (ht.2 (k, v) (by simp))
      · exact heq
      · have hl := h l
        rw [Tab.get, if_neg (by omega), Tab.get, if_pos rfl,
          Tab.get_unlisted d t l (fun e he => by have := ht1.1 e he; simp at this; omega)] at hl
        exact absurd hl.symm (hu.2 (l, w) (by simp))
    subst hkl
    have hvw : v = w := by have := h k; simpa [Tab.get] using this
    subst hvw
    have : t = u := by
      refine Tab.ext_get d t u ⟨ht1.2, fun e he => ht.2 e (by simp [he])⟩ ⟨hu1.2, fun e he => hu.2 e (by simp [he])⟩ fun i => ?_
      by_cases hi : k = i
      · subst hi
        rw [Tab.get_unlisted d t k (fun e he => by have := ht1.1 e he; simp at this; omega),
          Tab.get_unlisted d u k (fun e he => by have := hu1.1 e he; simp at this; omega)]
      · have := h i; simpa [Tab.get, hi] using this
    rw [this]

end Sys2Proof.Machine
end

