-- ==== Sys2Proof/Laws/State.lean ====
section
/-!
SUPPORT. The named updates of the state, field by field: what each leaves alone.
-/
namespace Sys2Proof.Machine

/-! ### Updates that change only memory and its marks -/

/-- t differs from s in memory and its marks only. -/
def State.OnlyMem (s t : State) : Prop := t = { s with mem := t.mem, marks := t.marks }
theorem State.OnlyMem.trans {s t u : State} (h : s.OnlyMem t) (k : t.OnlyMem u) : s.OnlyMem u := by
  unfold State.OnlyMem at *; rw [h] at k; exact k
theorem State.ringPut_onlyMem (s : State) (a : Nat) (rec : List Byte) : s.OnlyMem (s.ringPut a rec) := by
  unfold State.ringPut; dsimp only; split <;> rfl
theorem State.logErr_onlyMem (s : State) (n : Nat) (e : LogRec) : s.OnlyMem (s.logErr n e) := by
  unfold State.logErr; dsimp only; split
  · rfl
  · exact State.ringPut_onlyMem ..
theorem State.OnlyMem.turns {s t : State} (h : s.OnlyMem t) : t.turns = s.turns := by unfold State.OnlyMem at h; rw [h]
theorem State.OnlyMem.args {s t : State} (h : s.OnlyMem t) : t.args = s.args := by unfold State.OnlyMem at h; rw [h]
theorem State.OnlyMem.core {s t : State} (h : s.OnlyMem t) : t.core = s.core := by unfold State.OnlyMem at h; rw [h]
theorem State.OnlyMem.eng {s t : State} (h : s.OnlyMem t) : t.eng = s.eng := by unfold State.OnlyMem at h; rw [h]
theorem State.OnlyMem.pol {s t : State} (h : s.OnlyMem t) : t.pol = s.pol := by unfold State.OnlyMem at h; rw [h]
theorem State.OnlyMem.fresh {s t : State} (h : s.OnlyMem t) : t.fresh = s.fresh := by unfold State.OnlyMem at h; rw [h]
theorem State.OnlyMem.nextId {s t : State} (h : s.OnlyMem t) : t.nextId = s.nextId := by unfold State.OnlyMem at h; rw [h]
theorem State.OnlyMem.now {s t : State} (h : s.OnlyMem t) : t.now = s.now := by unfold State.OnlyMem at h; rw [h]
theorem State.OnlyMem.cycle {s t : State} (h : s.OnlyMem t) : t.cycle = s.cycle := by unfold State.OnlyMem at h; rw [h]
theorem State.OnlyMem.cores {s t : State} (h : s.OnlyMem t) : t.cores = s.cores := by unfold State.OnlyMem at h; rw [h]
theorem State.OnlyMem.dies {s t : State} (h : s.OnlyMem t) : t.dies = s.dies := by unfold State.OnlyMem at h; rw [h]
theorem State.OnlyMem.parts {s t : State} (h : s.OnlyMem t) : t.parts = s.parts := by unfold State.OnlyMem at h; rw [h]
theorem State.OnlyMem.teams {s t : State} (h : s.OnlyMem t) : t.teams = s.teams := by unfold State.OnlyMem at h; rw [h]
theorem State.OnlyMem.router {s t : State} (h : s.OnlyMem t) : t.router = s.router := by unfold State.OnlyMem at h; rw [h]
theorem State.OnlyMem.gate {s t : State} (h : s.OnlyMem t) : t.gate = s.gate := by unfold State.OnlyMem at h; rw [h]
theorem State.OnlyMem.msys {s t : State} (h : s.OnlyMem t) : t.msys = s.msys := by unfold State.OnlyMem at h; rw [h]
theorem State.OnlyMem.mg {s t : State} (h : s.OnlyMem t) : t.mg = s.mg := by unfold State.OnlyMem at h; rw [h]
theorem State.OnlyMem.log {s t : State} (h : s.OnlyMem t) (n : Nat) (e : LogRec) : s.OnlyMem (t.logErr n e) :=
  h.trans (State.logErr_onlyMem t n e)
theorem State.scanWord_onlyMem (s : State) (k w mark asid : Nat) (va : Option Nat) : s.OnlyMem (s.scanWord k w mark asid va).1 := by
  have h : ∀ v, s.OnlyMem (s.setMark w v) := fun _ => rfl
  have h' : s.OnlyMem ((s.writeB (8 * w) (zeros 8)).setMark w 3) := rfl
  unfold State.scanWord; dsimp only
  by_cases h1 : mark = 1
  · rw [if_pos h1]; dsimp only; exact (h 0).log _ _
  rw [if_neg h1]
  by_cases h2 : mark = 2
  · rw [if_pos h2]; dsimp only; exact h'.log _ _
  rw [if_neg h2]
  by_cases h4 : mark = 4
  · rw [if_pos h4]; dsimp only; exact (h 0).log _ _
  rw [if_neg h4]; rfl
theorem foldl_onlyMem {α β : Type} (g : β → State) (f : β → α → β) (h : ∀ b a, (g b).OnlyMem (g (f b a))) (xs : List α) (b : β) :
    (g b).OnlyMem (g (xs.foldl f b)) := by
  induction xs generalizing b with
  | nil => exact rfl
  | cons x xs ih => exact (h b x).trans (ih (f b x))
theorem State.scan_onlyMem (s : State) (k n asid : Nat) (va : Option Nat) : s.OnlyMem (s.scan k n asid va).1 :=
  foldl_onlyMem Prod.fst _ (fun b a => by
    have h := State.scanWord_onlyMem b.1 k a.1 a.2 asid va
    by_cases hp : (b.1.scanWord k a.1 a.2 asid va).2 = true
    · simp only [hp, if_true]; exact h.log _ _
    · simp only [hp]; exact h) _ (s, none)
theorem State.carry_onlyMem (s : State) (k n asid : Nat) (va : Option Nat) : s.OnlyMem (s.carry k n asid va).1 :=
  foldl_onlyMem (fun t => t) (fun t (e : Nat × Nat) => (t.scanWord k e.1 e.2 asid va).1)
    (fun t e => State.scanWord_onlyMem t k e.1 e.2 asid va) (s.unsound k n) s
theorem State.copyMem_onlyMem (s : State) (src dst n asid : Nat) (va : Option Nat) : s.OnlyMem (s.copyMem src dst n asid va) :=
  (State.carry_onlyMem s src n asid va).trans rfl

/-! ### setCore -/

@[simp] theorem State.setCore_turns (s : State) (c : Nat) (x : Core) : (s.setCore c x).turns = s.turns := rfl
@[simp] theorem State.setCore_args (s : State) (c : Nat) (x : Core) : (s.setCore c x).args = s.args := rfl
@[simp] theorem State.setCore_core (s : State) (c : Nat) (x : Core) : (s.setCore c x).core = s.core := rfl
@[simp] theorem State.setCore_eng (s : State) (c : Nat) (x : Core) : (s.setCore c x).eng = s.eng := rfl
@[simp] theorem State.setCore_pol (s : State) (c : Nat) (x : Core) : (s.setCore c x).pol = s.pol := rfl
@[simp] theorem State.setCore_fresh (s : State) (c : Nat) (x : Core) : (s.setCore c x).fresh = s.fresh := rfl
@[simp] theorem State.setCore_nextId (s : State) (c : Nat) (x : Core) : (s.setCore c x).nextId = s.nextId := rfl
@[simp] theorem State.setCore_now (s : State) (c : Nat) (x : Core) : (s.setCore c x).now = s.now := rfl
@[simp] theorem State.setCore_cycle (s : State) (c : Nat) (x : Core) : (s.setCore c x).cycle = s.cycle := rfl
@[simp] theorem State.setCore_mem (s : State) (c : Nat) (x : Core) : (s.setCore c x).mem = s.mem := rfl
@[simp] theorem State.setCore_marks (s : State) (c : Nat) (x : Core) : (s.setCore c x).marks = s.marks := rfl
@[simp] theorem State.setCore_dies (s : State) (c : Nat) (x : Core) : (s.setCore c x).dies = s.dies := rfl
@[simp] theorem State.setCore_parts (s : State) (c : Nat) (x : Core) : (s.setCore c x).parts = s.parts := rfl
@[simp] theorem State.setCore_teams (s : State) (c : Nat) (x : Core) : (s.setCore c x).teams = s.teams := rfl
@[simp] theorem State.setCore_router (s : State) (c : Nat) (x : Core) : (s.setCore c x).router = s.router := rfl
@[simp] theorem State.setCore_gate (s : State) (c : Nat) (x : Core) : (s.setCore c x).gate = s.gate := rfl
@[simp] theorem State.setCore_msys (s : State) (c : Nat) (x : Core) : (s.setCore c x).msys = s.msys := rfl
@[simp] theorem State.setCore_mg (s : State) (c : Nat) (x : Core) : (s.setCore c x).mg = s.mg := rfl

/-! ### modCore -/

@[simp] theorem State.modCore_turns (s : State) (c : Nat) (f : Core → Core) : (s.modCore c f).turns = s.turns := rfl
@[simp] theorem State.modCore_args (s : State) (c : Nat) (f : Core → Core) : (s.modCore c f).args = s.args := rfl
@[simp] theorem State.modCore_core (s : State) (c : Nat) (f : Core → Core) : (s.modCore c f).core = s.core := rfl
@[simp] theorem State.modCore_eng (s : State) (c : Nat) (f : Core → Core) : (s.modCore c f).eng = s.eng := rfl
@[simp] theorem State.modCore_pol (s : State) (c : Nat) (f : Core → Core) : (s.modCore c f).pol = s.pol := rfl
@[simp] theorem State.modCore_fresh (s : State) (c : Nat) (f : Core → Core) : (s.modCore c f).fresh = s.fresh := rfl
@[simp] theorem State.modCore_nextId (s : State) (c : Nat) (f : Core → Core) : (s.modCore c f).nextId = s.nextId := rfl
@[simp] theorem State.modCore_now (s : State) (c : Nat) (f : Core → Core) : (s.modCore c f).now = s.now := rfl
@[simp] theorem State.modCore_cycle (s : State) (c : Nat) (f : Core → Core) : (s.modCore c f).cycle = s.cycle := rfl
@[simp] theorem State.modCore_mem (s : State) (c : Nat) (f : Core → Core) : (s.modCore c f).mem = s.mem := rfl
@[simp] theorem State.modCore_marks (s : State) (c : Nat) (f : Core → Core) : (s.modCore c f).marks = s.marks := rfl
@[simp] theorem State.modCore_dies (s : State) (c : Nat) (f : Core → Core) : (s.modCore c f).dies = s.dies := rfl
@[simp] theorem State.modCore_parts (s : State) (c : Nat) (f : Core → Core) : (s.modCore c f).parts = s.parts := rfl
@[simp] theorem State.modCore_teams (s : State) (c : Nat) (f : Core → Core) : (s.modCore c f).teams = s.teams := rfl
@[simp] theorem State.modCore_router (s : State) (c : Nat) (f : Core → Core) : (s.modCore c f).router = s.router := rfl
@[simp] theorem State.modCore_gate (s : State) (c : Nat) (f : Core → Core) : (s.modCore c f).gate = s.gate := rfl
@[simp] theorem State.modCore_msys (s : State) (c : Nat) (f : Core → Core) : (s.modCore c f).msys = s.msys := rfl
@[simp] theorem State.modCore_mg (s : State) (c : Nat) (f : Core → Core) : (s.modCore c f).mg = s.mg := rfl

/-! ### modCur -/

@[simp] theorem State.modCur_turns (s : State) (f : Core → Core) : (s.modCur f).turns = s.turns := rfl
@[simp] theorem State.modCur_args (s : State) (f : Core → Core) : (s.modCur f).args = s.args := rfl
@[simp] theorem State.modCur_core (s : State) (f : Core → Core) : (s.modCur f).core = s.core := rfl
@[simp] theorem State.modCur_eng (s : State) (f : Core → Core) : (s.modCur f).eng = s.eng := rfl
@[simp] theorem State.modCur_pol (s : State) (f : Core → Core) : (s.modCur f).pol = s.pol := rfl
@[simp] theorem State.modCur_fresh (s : State) (f : Core → Core) : (s.modCur f).fresh = s.fresh := rfl
@[simp] theorem State.modCur_nextId (s : State) (f : Core → Core) : (s.modCur f).nextId = s.nextId := rfl
@[simp] theorem State.modCur_now (s : State) (f : Core → Core) : (s.modCur f).now = s.now := rfl
@[simp] theorem State.modCur_cycle (s : State) (f : Core → Core) : (s.modCur f).cycle = s.cycle := rfl
@[simp] theorem State.modCur_mem (s : State) (f : Core → Core) : (s.modCur f).mem = s.mem := rfl
@[simp] theorem State.modCur_marks (s : State) (f : Core → Core) : (s.modCur f).marks = s.marks := rfl
@[simp] theorem State.modCur_dies (s : State) (f : Core → Core) : (s.modCur f).dies = s.dies := rfl
@[simp] theorem State.modCur_parts (s : State) (f : Core → Core) : (s.modCur f).parts = s.parts := rfl
@[simp] theorem State.modCur_teams (s : State) (f : Core → Core) : (s.modCur f).teams = s.teams := rfl
@[simp] theorem State.modCur_router (s : State) (f : Core → Core) : (s.modCur f).router = s.router := rfl
@[simp] theorem State.modCur_gate (s : State) (f : Core → Core) : (s.modCur f).gate = s.gate := rfl
@[simp] theorem State.modCur_msys (s : State) (f : Core → Core) : (s.modCur f).msys = s.msys := rfl
@[simp] theorem State.modCur_mg (s : State) (f : Core → Core) : (s.modCur f).mg = s.mg := rfl

/-! ### modCtx -/

@[simp] theorem State.modCtx_turns (s : State) (f : Ctx → Ctx) : (s.modCtx f).turns = s.turns := rfl
@[simp] theorem State.modCtx_args (s : State) (f : Ctx → Ctx) : (s.modCtx f).args = s.args := rfl
@[simp] theorem State.modCtx_core (s : State) (f : Ctx → Ctx) : (s.modCtx f).core = s.core := rfl
@[simp] theorem State.modCtx_eng (s : State) (f : Ctx → Ctx) : (s.modCtx f).eng = s.eng := rfl
@[simp] theorem State.modCtx_pol (s : State) (f : Ctx → Ctx) : (s.modCtx f).pol = s.pol := rfl
@[simp] theorem State.modCtx_fresh (s : State) (f : Ctx → Ctx) : (s.modCtx f).fresh = s.fresh := rfl
@[simp] theorem State.modCtx_nextId (s : State) (f : Ctx → Ctx) : (s.modCtx f).nextId = s.nextId := rfl
@[simp] theorem State.modCtx_now (s : State) (f : Ctx → Ctx) : (s.modCtx f).now = s.now := rfl
@[simp] theorem State.modCtx_cycle (s : State) (f : Ctx → Ctx) : (s.modCtx f).cycle = s.cycle := rfl
@[simp] theorem State.modCtx_mem (s : State) (f : Ctx → Ctx) : (s.modCtx f).mem = s.mem := rfl
@[simp] theorem State.modCtx_marks (s : State) (f : Ctx → Ctx) : (s.modCtx f).marks = s.marks := rfl
@[simp] theorem State.modCtx_dies (s : State) (f : Ctx → Ctx) : (s.modCtx f).dies = s.dies := rfl
@[simp] theorem State.modCtx_parts (s : State) (f : Ctx → Ctx) : (s.modCtx f).parts = s.parts := rfl
@[simp] theorem State.modCtx_teams (s : State) (f : Ctx → Ctx) : (s.modCtx f).teams = s.teams := rfl
@[simp] theorem State.modCtx_router (s : State) (f : Ctx → Ctx) : (s.modCtx f).router = s.router := rfl
@[simp] theorem State.modCtx_gate (s : State) (f : Ctx → Ctx) : (s.modCtx f).gate = s.gate := rfl
@[simp] theorem State.modCtx_msys (s : State) (f : Ctx → Ctx) : (s.modCtx f).msys = s.msys := rfl
@[simp] theorem State.modCtx_mg (s : State) (f : Ctx → Ctx) : (s.modCtx f).mg = s.mg := rfl

/-! ### modCsr -/

@[simp] theorem State.modCsr_turns (s : State) (f : Csr → Csr) : (s.modCsr f).turns = s.turns := rfl
@[simp] theorem State.modCsr_args (s : State) (f : Csr → Csr) : (s.modCsr f).args = s.args := rfl
@[simp] theorem State.modCsr_core (s : State) (f : Csr → Csr) : (s.modCsr f).core = s.core := rfl
@[simp] theorem State.modCsr_eng (s : State) (f : Csr → Csr) : (s.modCsr f).eng = s.eng := rfl
@[simp] theorem State.modCsr_pol (s : State) (f : Csr → Csr) : (s.modCsr f).pol = s.pol := rfl
@[simp] theorem State.modCsr_fresh (s : State) (f : Csr → Csr) : (s.modCsr f).fresh = s.fresh := rfl
@[simp] theorem State.modCsr_nextId (s : State) (f : Csr → Csr) : (s.modCsr f).nextId = s.nextId := rfl
@[simp] theorem State.modCsr_now (s : State) (f : Csr → Csr) : (s.modCsr f).now = s.now := rfl
@[simp] theorem State.modCsr_cycle (s : State) (f : Csr → Csr) : (s.modCsr f).cycle = s.cycle := rfl
@[simp] theorem State.modCsr_mem (s : State) (f : Csr → Csr) : (s.modCsr f).mem = s.mem := rfl
@[simp] theorem State.modCsr_marks (s : State) (f : Csr → Csr) : (s.modCsr f).marks = s.marks := rfl
@[simp] theorem State.modCsr_dies (s : State) (f : Csr → Csr) : (s.modCsr f).dies = s.dies := rfl
@[simp] theorem State.modCsr_parts (s : State) (f : Csr → Csr) : (s.modCsr f).parts = s.parts := rfl
@[simp] theorem State.modCsr_teams (s : State) (f : Csr → Csr) : (s.modCsr f).teams = s.teams := rfl
@[simp] theorem State.modCsr_router (s : State) (f : Csr → Csr) : (s.modCsr f).router = s.router := rfl
@[simp] theorem State.modCsr_gate (s : State) (f : Csr → Csr) : (s.modCsr f).gate = s.gate := rfl
@[simp] theorem State.modCsr_msys (s : State) (f : Csr → Csr) : (s.modCsr f).msys = s.msys := rfl
@[simp] theorem State.modCsr_mg (s : State) (f : Csr → Csr) : (s.modCsr f).mg = s.mg := rfl

/-! ### setVMask -/

@[simp] theorem State.setVMask_turns (s : State) (r : Nat) (m : BitVec 128) (x : Vec) : (s.setVMask r m x).turns = s.turns := rfl
@[simp] theorem State.setVMask_args (s : State) (r : Nat) (m : BitVec 128) (x : Vec) : (s.setVMask r m x).args = s.args := rfl
@[simp] theorem State.setVMask_core (s : State) (r : Nat) (m : BitVec 128) (x : Vec) : (s.setVMask r m x).core = s.core := rfl
@[simp] theorem State.setVMask_eng (s : State) (r : Nat) (m : BitVec 128) (x : Vec) : (s.setVMask r m x).eng = s.eng := rfl
@[simp] theorem State.setVMask_pol (s : State) (r : Nat) (m : BitVec 128) (x : Vec) : (s.setVMask r m x).pol = s.pol := rfl
@[simp] theorem State.setVMask_fresh (s : State) (r : Nat) (m : BitVec 128) (x : Vec) : (s.setVMask r m x).fresh = s.fresh := rfl
@[simp] theorem State.setVMask_nextId (s : State) (r : Nat) (m : BitVec 128) (x : Vec) : (s.setVMask r m x).nextId = s.nextId := rfl
@[simp] theorem State.setVMask_now (s : State) (r : Nat) (m : BitVec 128) (x : Vec) : (s.setVMask r m x).now = s.now := rfl
@[simp] theorem State.setVMask_cycle (s : State) (r : Nat) (m : BitVec 128) (x : Vec) : (s.setVMask r m x).cycle = s.cycle := rfl
@[simp] theorem State.setVMask_mem (s : State) (r : Nat) (m : BitVec 128) (x : Vec) : (s.setVMask r m x).mem = s.mem := rfl
@[simp] theorem State.setVMask_marks (s : State) (r : Nat) (m : BitVec 128) (x : Vec) : (s.setVMask r m x).marks = s.marks := rfl
@[simp] theorem State.setVMask_dies (s : State) (r : Nat) (m : BitVec 128) (x : Vec) : (s.setVMask r m x).dies = s.dies := rfl
@[simp] theorem State.setVMask_parts (s : State) (r : Nat) (m : BitVec 128) (x : Vec) : (s.setVMask r m x).parts = s.parts := rfl
@[simp] theorem State.setVMask_teams (s : State) (r : Nat) (m : BitVec 128) (x : Vec) : (s.setVMask r m x).teams = s.teams := rfl
@[simp] theorem State.setVMask_router (s : State) (r : Nat) (m : BitVec 128) (x : Vec) : (s.setVMask r m x).router = s.router := rfl
@[simp] theorem State.setVMask_gate (s : State) (r : Nat) (m : BitVec 128) (x : Vec) : (s.setVMask r m x).gate = s.gate := rfl
@[simp] theorem State.setVMask_msys (s : State) (r : Nat) (m : BitVec 128) (x : Vec) : (s.setVMask r m x).msys = s.msys := rfl
@[simp] theorem State.setVMask_mg (s : State) (r : Nat) (m : BitVec 128) (x : Vec) : (s.setVMask r m x).mg = s.mg := rfl

/-! ### setV -/

@[simp] theorem State.setV_turns (s : State) (r : Nat) (x : Vec) : (s.setV r x).turns = s.turns := rfl
@[simp] theorem State.setV_args (s : State) (r : Nat) (x : Vec) : (s.setV r x).args = s.args := rfl
@[simp] theorem State.setV_core (s : State) (r : Nat) (x : Vec) : (s.setV r x).core = s.core := rfl
@[simp] theorem State.setV_eng (s : State) (r : Nat) (x : Vec) : (s.setV r x).eng = s.eng := rfl
@[simp] theorem State.setV_pol (s : State) (r : Nat) (x : Vec) : (s.setV r x).pol = s.pol := rfl
@[simp] theorem State.setV_fresh (s : State) (r : Nat) (x : Vec) : (s.setV r x).fresh = s.fresh := rfl
@[simp] theorem State.setV_nextId (s : State) (r : Nat) (x : Vec) : (s.setV r x).nextId = s.nextId := rfl
@[simp] theorem State.setV_now (s : State) (r : Nat) (x : Vec) : (s.setV r x).now = s.now := rfl
@[simp] theorem State.setV_cycle (s : State) (r : Nat) (x : Vec) : (s.setV r x).cycle = s.cycle := rfl
@[simp] theorem State.setV_mem (s : State) (r : Nat) (x : Vec) : (s.setV r x).mem = s.mem := rfl
@[simp] theorem State.setV_marks (s : State) (r : Nat) (x : Vec) : (s.setV r x).marks = s.marks := rfl
@[simp] theorem State.setV_dies (s : State) (r : Nat) (x : Vec) : (s.setV r x).dies = s.dies := rfl
@[simp] theorem State.setV_parts (s : State) (r : Nat) (x : Vec) : (s.setV r x).parts = s.parts := rfl
@[simp] theorem State.setV_teams (s : State) (r : Nat) (x : Vec) : (s.setV r x).teams = s.teams := rfl
@[simp] theorem State.setV_router (s : State) (r : Nat) (x : Vec) : (s.setV r x).router = s.router := rfl
@[simp] theorem State.setV_gate (s : State) (r : Nat) (x : Vec) : (s.setV r x).gate = s.gate := rfl
@[simp] theorem State.setV_msys (s : State) (r : Nat) (x : Vec) : (s.setV r x).msys = s.msys := rfl
@[simp] theorem State.setV_mg (s : State) (r : Nat) (x : Vec) : (s.setV r x).mg = s.mg := rfl

/-! ### oob -/

@[simp] theorem State.oob_turns (s : State) (p : Nat) : (s.oob p).turns = s.turns := rfl
@[simp] theorem State.oob_args (s : State) (p : Nat) : (s.oob p).args = s.args := rfl
@[simp] theorem State.oob_core (s : State) (p : Nat) : (s.oob p).core = s.core := rfl
@[simp] theorem State.oob_eng (s : State) (p : Nat) : (s.oob p).eng = s.eng := rfl
@[simp] theorem State.oob_pol (s : State) (p : Nat) : (s.oob p).pol = s.pol := rfl
@[simp] theorem State.oob_fresh (s : State) (p : Nat) : (s.oob p).fresh = s.fresh := rfl
@[simp] theorem State.oob_nextId (s : State) (p : Nat) : (s.oob p).nextId = s.nextId := rfl
@[simp] theorem State.oob_now (s : State) (p : Nat) : (s.oob p).now = s.now := rfl
@[simp] theorem State.oob_cycle (s : State) (p : Nat) : (s.oob p).cycle = s.cycle := rfl
@[simp] theorem State.oob_mem (s : State) (p : Nat) : (s.oob p).mem = s.mem := rfl
@[simp] theorem State.oob_marks (s : State) (p : Nat) : (s.oob p).marks = s.marks := rfl
@[simp] theorem State.oob_dies (s : State) (p : Nat) : (s.oob p).dies = s.dies := rfl
@[simp] theorem State.oob_parts (s : State) (p : Nat) : (s.oob p).parts = s.parts := rfl
@[simp] theorem State.oob_teams (s : State) (p : Nat) : (s.oob p).teams = s.teams := rfl
@[simp] theorem State.oob_router (s : State) (p : Nat) : (s.oob p).router = s.router := rfl
@[simp] theorem State.oob_gate (s : State) (p : Nat) : (s.oob p).gate = s.gate := rfl
@[simp] theorem State.oob_msys (s : State) (p : Nat) : (s.oob p).msys = s.msys := rfl
@[simp] theorem State.oob_mg (s : State) (p : Nat) : (s.oob p).mg = s.mg := rfl

/-! ### retireN -/

@[simp] theorem State.retireN_turns (s : State) (n : Nat) : (s.retireN n).turns = s.turns := rfl
@[simp] theorem State.retireN_args (s : State) (n : Nat) : (s.retireN n).args = s.args := rfl
@[simp] theorem State.retireN_core (s : State) (n : Nat) : (s.retireN n).core = s.core := rfl
@[simp] theorem State.retireN_eng (s : State) (n : Nat) : (s.retireN n).eng = s.eng := rfl
@[simp] theorem State.retireN_pol (s : State) (n : Nat) : (s.retireN n).pol = s.pol := rfl
@[simp] theorem State.retireN_fresh (s : State) (n : Nat) : (s.retireN n).fresh = s.fresh := rfl
@[simp] theorem State.retireN_nextId (s : State) (n : Nat) : (s.retireN n).nextId = s.nextId := rfl
@[simp] theorem State.retireN_now (s : State) (n : Nat) : (s.retireN n).now = s.now := rfl
@[simp] theorem State.retireN_cycle (s : State) (n : Nat) : (s.retireN n).cycle = s.cycle := rfl
@[simp] theorem State.retireN_mem (s : State) (n : Nat) : (s.retireN n).mem = s.mem := rfl
@[simp] theorem State.retireN_marks (s : State) (n : Nat) : (s.retireN n).marks = s.marks := rfl
@[simp] theorem State.retireN_dies (s : State) (n : Nat) : (s.retireN n).dies = s.dies := rfl
@[simp] theorem State.retireN_parts (s : State) (n : Nat) : (s.retireN n).parts = s.parts := rfl
@[simp] theorem State.retireN_teams (s : State) (n : Nat) : (s.retireN n).teams = s.teams := rfl
@[simp] theorem State.retireN_router (s : State) (n : Nat) : (s.retireN n).router = s.router := rfl
@[simp] theorem State.retireN_gate (s : State) (n : Nat) : (s.retireN n).gate = s.gate := rfl
@[simp] theorem State.retireN_msys (s : State) (n : Nat) : (s.retireN n).msys = s.msys := rfl
@[simp] theorem State.retireN_mg (s : State) (n : Nat) : (s.retireN n).mg = s.mg := rfl

/-! ### retire -/

@[simp] theorem State.retire_turns (s : State) : (s.retire).turns = s.turns := rfl
@[simp] theorem State.retire_args (s : State) : (s.retire).args = s.args := rfl
@[simp] theorem State.retire_core (s : State) : (s.retire).core = s.core := rfl
@[simp] theorem State.retire_eng (s : State) : (s.retire).eng = s.eng := rfl
@[simp] theorem State.retire_pol (s : State) : (s.retire).pol = s.pol := rfl
@[simp] theorem State.retire_fresh (s : State) : (s.retire).fresh = s.fresh := rfl
@[simp] theorem State.retire_nextId (s : State) : (s.retire).nextId = s.nextId := rfl
@[simp] theorem State.retire_now (s : State) : (s.retire).now = s.now := rfl
@[simp] theorem State.retire_cycle (s : State) : (s.retire).cycle = s.cycle := rfl
@[simp] theorem State.retire_mem (s : State) : (s.retire).mem = s.mem := rfl
@[simp] theorem State.retire_marks (s : State) : (s.retire).marks = s.marks := rfl
@[simp] theorem State.retire_dies (s : State) : (s.retire).dies = s.dies := rfl
@[simp] theorem State.retire_parts (s : State) : (s.retire).parts = s.parts := rfl
@[simp] theorem State.retire_teams (s : State) : (s.retire).teams = s.teams := rfl
@[simp] theorem State.retire_router (s : State) : (s.retire).router = s.router := rfl
@[simp] theorem State.retire_gate (s : State) : (s.retire).gate = s.gate := rfl
@[simp] theorem State.retire_msys (s : State) : (s.retire).msys = s.msys := rfl
@[simp] theorem State.retire_mg (s : State) : (s.retire).mg = s.mg := rfl

/-! ### jump -/

@[simp] theorem State.jump_turns (s : State) (t : W64) : (s.jump t).turns = s.turns := rfl
@[simp] theorem State.jump_args (s : State) (t : W64) : (s.jump t).args = s.args := rfl
@[simp] theorem State.jump_core (s : State) (t : W64) : (s.jump t).core = s.core := rfl
@[simp] theorem State.jump_eng (s : State) (t : W64) : (s.jump t).eng = s.eng := rfl
@[simp] theorem State.jump_pol (s : State) (t : W64) : (s.jump t).pol = s.pol := rfl
@[simp] theorem State.jump_fresh (s : State) (t : W64) : (s.jump t).fresh = s.fresh := rfl
@[simp] theorem State.jump_nextId (s : State) (t : W64) : (s.jump t).nextId = s.nextId := rfl
@[simp] theorem State.jump_now (s : State) (t : W64) : (s.jump t).now = s.now := rfl
@[simp] theorem State.jump_cycle (s : State) (t : W64) : (s.jump t).cycle = s.cycle := rfl
@[simp] theorem State.jump_mem (s : State) (t : W64) : (s.jump t).mem = s.mem := rfl
@[simp] theorem State.jump_marks (s : State) (t : W64) : (s.jump t).marks = s.marks := rfl
@[simp] theorem State.jump_dies (s : State) (t : W64) : (s.jump t).dies = s.dies := rfl
@[simp] theorem State.jump_parts (s : State) (t : W64) : (s.jump t).parts = s.parts := rfl
@[simp] theorem State.jump_teams (s : State) (t : W64) : (s.jump t).teams = s.teams := rfl
@[simp] theorem State.jump_router (s : State) (t : W64) : (s.jump t).router = s.router := rfl
@[simp] theorem State.jump_gate (s : State) (t : W64) : (s.jump t).gate = s.gate := rfl
@[simp] theorem State.jump_msys (s : State) (t : W64) : (s.jump t).msys = s.msys := rfl
@[simp] theorem State.jump_mg (s : State) (t : W64) : (s.jump t).mg = s.mg := rfl

/-! ### writeB -/

@[simp] theorem State.writeB_turns (s : State) (k : Nat) (bs : List Byte) : (s.writeB k bs).turns = s.turns := rfl
@[simp] theorem State.writeB_args (s : State) (k : Nat) (bs : List Byte) : (s.writeB k bs).args = s.args := rfl
@[simp] theorem State.writeB_core (s : State) (k : Nat) (bs : List Byte) : (s.writeB k bs).core = s.core := rfl
@[simp] theorem State.writeB_eng (s : State) (k : Nat) (bs : List Byte) : (s.writeB k bs).eng = s.eng := rfl
@[simp] theorem State.writeB_pol (s : State) (k : Nat) (bs : List Byte) : (s.writeB k bs).pol = s.pol := rfl
@[simp] theorem State.writeB_fresh (s : State) (k : Nat) (bs : List Byte) : (s.writeB k bs).fresh = s.fresh := rfl
@[simp] theorem State.writeB_nextId (s : State) (k : Nat) (bs : List Byte) : (s.writeB k bs).nextId = s.nextId := rfl
@[simp] theorem State.writeB_now (s : State) (k : Nat) (bs : List Byte) : (s.writeB k bs).now = s.now := rfl
@[simp] theorem State.writeB_cycle (s : State) (k : Nat) (bs : List Byte) : (s.writeB k bs).cycle = s.cycle := rfl
@[simp] theorem State.writeB_cores (s : State) (k : Nat) (bs : List Byte) : (s.writeB k bs).cores = s.cores := rfl
@[simp] theorem State.writeB_dies (s : State) (k : Nat) (bs : List Byte) : (s.writeB k bs).dies = s.dies := rfl
@[simp] theorem State.writeB_parts (s : State) (k : Nat) (bs : List Byte) : (s.writeB k bs).parts = s.parts := rfl
@[simp] theorem State.writeB_teams (s : State) (k : Nat) (bs : List Byte) : (s.writeB k bs).teams = s.teams := rfl
@[simp] theorem State.writeB_router (s : State) (k : Nat) (bs : List Byte) : (s.writeB k bs).router = s.router := rfl
@[simp] theorem State.writeB_gate (s : State) (k : Nat) (bs : List Byte) : (s.writeB k bs).gate = s.gate := rfl
@[simp] theorem State.writeB_msys (s : State) (k : Nat) (bs : List Byte) : (s.writeB k bs).msys = s.msys := rfl
@[simp] theorem State.writeB_mg (s : State) (k : Nat) (bs : List Byte) : (s.writeB k bs).mg = s.mg := rfl

/-! ### writeN -/

@[simp] theorem State.writeN_turns (s : State) (k n v : Nat) : (s.writeN k n v).turns = s.turns := rfl
@[simp] theorem State.writeN_args (s : State) (k n v : Nat) : (s.writeN k n v).args = s.args := rfl
@[simp] theorem State.writeN_core (s : State) (k n v : Nat) : (s.writeN k n v).core = s.core := rfl
@[simp] theorem State.writeN_eng (s : State) (k n v : Nat) : (s.writeN k n v).eng = s.eng := rfl
@[simp] theorem State.writeN_pol (s : State) (k n v : Nat) : (s.writeN k n v).pol = s.pol := rfl
@[simp] theorem State.writeN_fresh (s : State) (k n v : Nat) : (s.writeN k n v).fresh = s.fresh := rfl
@[simp] theorem State.writeN_nextId (s : State) (k n v : Nat) : (s.writeN k n v).nextId = s.nextId := rfl
@[simp] theorem State.writeN_now (s : State) (k n v : Nat) : (s.writeN k n v).now = s.now := rfl
@[simp] theorem State.writeN_cycle (s : State) (k n v : Nat) : (s.writeN k n v).cycle = s.cycle := rfl
@[simp] theorem State.writeN_cores (s : State) (k n v : Nat) : (s.writeN k n v).cores = s.cores := rfl
@[simp] theorem State.writeN_dies (s : State) (k n v : Nat) : (s.writeN k n v).dies = s.dies := rfl
@[simp] theorem State.writeN_parts (s : State) (k n v : Nat) : (s.writeN k n v).parts = s.parts := rfl
@[simp] theorem State.writeN_teams (s : State) (k n v : Nat) : (s.writeN k n v).teams = s.teams := rfl
@[simp] theorem State.writeN_router (s : State) (k n v : Nat) : (s.writeN k n v).router = s.router := rfl
@[simp] theorem State.writeN_gate (s : State) (k n v : Nat) : (s.writeN k n v).gate = s.gate := rfl
@[simp] theorem State.writeN_msys (s : State) (k n v : Nat) : (s.writeN k n v).msys = s.msys := rfl
@[simp] theorem State.writeN_mg (s : State) (k n v : Nat) : (s.writeN k n v).mg = s.mg := rfl

/-! ### setMg -/

@[simp] theorem State.setMg_turns (s : State) (a n v : Nat) : (s.setMg a n v).turns = s.turns := rfl
@[simp] theorem State.setMg_args (s : State) (a n v : Nat) : (s.setMg a n v).args = s.args := rfl
@[simp] theorem State.setMg_core (s : State) (a n v : Nat) : (s.setMg a n v).core = s.core := rfl
@[simp] theorem State.setMg_eng (s : State) (a n v : Nat) : (s.setMg a n v).eng = s.eng := rfl
@[simp] theorem State.setMg_pol (s : State) (a n v : Nat) : (s.setMg a n v).pol = s.pol := rfl
@[simp] theorem State.setMg_fresh (s : State) (a n v : Nat) : (s.setMg a n v).fresh = s.fresh := rfl
@[simp] theorem State.setMg_nextId (s : State) (a n v : Nat) : (s.setMg a n v).nextId = s.nextId := rfl
@[simp] theorem State.setMg_now (s : State) (a n v : Nat) : (s.setMg a n v).now = s.now := rfl
@[simp] theorem State.setMg_cycle (s : State) (a n v : Nat) : (s.setMg a n v).cycle = s.cycle := rfl
@[simp] theorem State.setMg_cores (s : State) (a n v : Nat) : (s.setMg a n v).cores = s.cores := rfl
@[simp] theorem State.setMg_dies (s : State) (a n v : Nat) : (s.setMg a n v).dies = s.dies := rfl
@[simp] theorem State.setMg_parts (s : State) (a n v : Nat) : (s.setMg a n v).parts = s.parts := rfl
@[simp] theorem State.setMg_teams (s : State) (a n v : Nat) : (s.setMg a n v).teams = s.teams := rfl
@[simp] theorem State.setMg_router (s : State) (a n v : Nat) : (s.setMg a n v).router = s.router := rfl
@[simp] theorem State.setMg_gate (s : State) (a n v : Nat) : (s.setMg a n v).gate = s.gate := rfl
@[simp] theorem State.setMg_msys (s : State) (a n v : Nat) : (s.setMg a n v).msys = s.msys := rfl
@[simp] theorem State.setMg_mg (s : State) (a n v : Nat) : (s.setMg a n v).mg = s.mg := rfl

/-! ### spoilB -/

@[simp] theorem State.spoilB_turns (s : State) (k : Nat) (bad : List Nat) : (s.spoilB k bad).turns = s.turns := rfl
@[simp] theorem State.spoilB_args (s : State) (k : Nat) (bad : List Nat) : (s.spoilB k bad).args = s.args := rfl
@[simp] theorem State.spoilB_core (s : State) (k : Nat) (bad : List Nat) : (s.spoilB k bad).core = s.core := rfl
@[simp] theorem State.spoilB_eng (s : State) (k : Nat) (bad : List Nat) : (s.spoilB k bad).eng = s.eng := rfl
@[simp] theorem State.spoilB_pol (s : State) (k : Nat) (bad : List Nat) : (s.spoilB k bad).pol = s.pol := rfl
@[simp] theorem State.spoilB_fresh (s : State) (k : Nat) (bad : List Nat) : (s.spoilB k bad).fresh = s.fresh := rfl
@[simp] theorem State.spoilB_nextId (s : State) (k : Nat) (bad : List Nat) : (s.spoilB k bad).nextId = s.nextId := rfl
@[simp] theorem State.spoilB_now (s : State) (k : Nat) (bad : List Nat) : (s.spoilB k bad).now = s.now := rfl
@[simp] theorem State.spoilB_cycle (s : State) (k : Nat) (bad : List Nat) : (s.spoilB k bad).cycle = s.cycle := rfl
@[simp] theorem State.spoilB_mem (s : State) (k : Nat) (bad : List Nat) : (s.spoilB k bad).mem = s.mem := rfl
@[simp] theorem State.spoilB_cores (s : State) (k : Nat) (bad : List Nat) : (s.spoilB k bad).cores = s.cores := rfl
@[simp] theorem State.spoilB_dies (s : State) (k : Nat) (bad : List Nat) : (s.spoilB k bad).dies = s.dies := rfl
@[simp] theorem State.spoilB_parts (s : State) (k : Nat) (bad : List Nat) : (s.spoilB k bad).parts = s.parts := rfl
@[simp] theorem State.spoilB_teams (s : State) (k : Nat) (bad : List Nat) : (s.spoilB k bad).teams = s.teams := rfl
@[simp] theorem State.spoilB_router (s : State) (k : Nat) (bad : List Nat) : (s.spoilB k bad).router = s.router := rfl
@[simp] theorem State.spoilB_gate (s : State) (k : Nat) (bad : List Nat) : (s.spoilB k bad).gate = s.gate := rfl
@[simp] theorem State.spoilB_msys (s : State) (k : Nat) (bad : List Nat) : (s.spoilB k bad).msys = s.msys := rfl
@[simp] theorem State.spoilB_mg (s : State) (k : Nat) (bad : List Nat) : (s.spoilB k bad).mg = s.mg := rfl

/-! ### copyB -/

@[simp] theorem State.copyB_turns (s : State) (k : Nat) (bs : List Byte) (bad : List Nat) : (s.copyB k bs bad).turns = s.turns := rfl
@[simp] theorem State.copyB_args (s : State) (k : Nat) (bs : List Byte) (bad : List Nat) : (s.copyB k bs bad).args = s.args := rfl
@[simp] theorem State.copyB_core (s : State) (k : Nat) (bs : List Byte) (bad : List Nat) : (s.copyB k bs bad).core = s.core := rfl
@[simp] theorem State.copyB_eng (s : State) (k : Nat) (bs : List Byte) (bad : List Nat) : (s.copyB k bs bad).eng = s.eng := rfl
@[simp] theorem State.copyB_pol (s : State) (k : Nat) (bs : List Byte) (bad : List Nat) : (s.copyB k bs bad).pol = s.pol := rfl
@[simp] theorem State.copyB_fresh (s : State) (k : Nat) (bs : List Byte) (bad : List Nat) : (s.copyB k bs bad).fresh = s.fresh := rfl
@[simp] theorem State.copyB_nextId (s : State) (k : Nat) (bs : List Byte) (bad : List Nat) : (s.copyB k bs bad).nextId = s.nextId := rfl
@[simp] theorem State.copyB_now (s : State) (k : Nat) (bs : List Byte) (bad : List Nat) : (s.copyB k bs bad).now = s.now := rfl
@[simp] theorem State.copyB_cycle (s : State) (k : Nat) (bs : List Byte) (bad : List Nat) : (s.copyB k bs bad).cycle = s.cycle := rfl
@[simp] theorem State.copyB_cores (s : State) (k : Nat) (bs : List Byte) (bad : List Nat) : (s.copyB k bs bad).cores = s.cores := rfl
@[simp] theorem State.copyB_dies (s : State) (k : Nat) (bs : List Byte) (bad : List Nat) : (s.copyB k bs bad).dies = s.dies := rfl
@[simp] theorem State.copyB_parts (s : State) (k : Nat) (bs : List Byte) (bad : List Nat) : (s.copyB k bs bad).parts = s.parts := rfl
@[simp] theorem State.copyB_teams (s : State) (k : Nat) (bs : List Byte) (bad : List Nat) : (s.copyB k bs bad).teams = s.teams := rfl
@[simp] theorem State.copyB_router (s : State) (k : Nat) (bs : List Byte) (bad : List Nat) : (s.copyB k bs bad).router = s.router := rfl
@[simp] theorem State.copyB_gate (s : State) (k : Nat) (bs : List Byte) (bad : List Nat) : (s.copyB k bs bad).gate = s.gate := rfl
@[simp] theorem State.copyB_msys (s : State) (k : Nat) (bs : List Byte) (bad : List Nat) : (s.copyB k bs bad).msys = s.msys := rfl
@[simp] theorem State.copyB_mg (s : State) (k : Nat) (bs : List Byte) (bad : List Nat) : (s.copyB k bs bad).mg = s.mg := rfl

/-! ### ringPut -/

@[simp] theorem State.ringPut_turns (s : State) (a : Nat) (rec : List Byte) : (s.ringPut a rec).turns = s.turns := (State.ringPut_onlyMem s a rec).turns
@[simp] theorem State.ringPut_args (s : State) (a : Nat) (rec : List Byte) : (s.ringPut a rec).args = s.args := (State.ringPut_onlyMem s a rec).args
@[simp] theorem State.ringPut_core (s : State) (a : Nat) (rec : List Byte) : (s.ringPut a rec).core = s.core := (State.ringPut_onlyMem s a rec).core
@[simp] theorem State.ringPut_eng (s : State) (a : Nat) (rec : List Byte) : (s.ringPut a rec).eng = s.eng := (State.ringPut_onlyMem s a rec).eng
@[simp] theorem State.ringPut_pol (s : State) (a : Nat) (rec : List Byte) : (s.ringPut a rec).pol = s.pol := (State.ringPut_onlyMem s a rec).pol
@[simp] theorem State.ringPut_fresh (s : State) (a : Nat) (rec : List Byte) : (s.ringPut a rec).fresh = s.fresh := (State.ringPut_onlyMem s a rec).fresh
@[simp] theorem State.ringPut_nextId (s : State) (a : Nat) (rec : List Byte) : (s.ringPut a rec).nextId = s.nextId := (State.ringPut_onlyMem s a rec).nextId
@[simp] theorem State.ringPut_now (s : State) (a : Nat) (rec : List Byte) : (s.ringPut a rec).now = s.now := (State.ringPut_onlyMem s a rec).now
@[simp] theorem State.ringPut_cycle (s : State) (a : Nat) (rec : List Byte) : (s.ringPut a rec).cycle = s.cycle := (State.ringPut_onlyMem s a rec).cycle
@[simp] theorem State.ringPut_cores (s : State) (a : Nat) (rec : List Byte) : (s.ringPut a rec).cores = s.cores := (State.ringPut_onlyMem s a rec).cores
@[simp] theorem State.ringPut_dies (s : State) (a : Nat) (rec : List Byte) : (s.ringPut a rec).dies = s.dies := (State.ringPut_onlyMem s a rec).dies
@[simp] theorem State.ringPut_parts (s : State) (a : Nat) (rec : List Byte) : (s.ringPut a rec).parts = s.parts := (State.ringPut_onlyMem s a rec).parts
@[simp] theorem State.ringPut_teams (s : State) (a : Nat) (rec : List Byte) : (s.ringPut a rec).teams = s.teams := (State.ringPut_onlyMem s a rec).teams
@[simp] theorem State.ringPut_router (s : State) (a : Nat) (rec : List Byte) : (s.ringPut a rec).router = s.router := (State.ringPut_onlyMem s a rec).router
@[simp] theorem State.ringPut_gate (s : State) (a : Nat) (rec : List Byte) : (s.ringPut a rec).gate = s.gate := (State.ringPut_onlyMem s a rec).gate
@[simp] theorem State.ringPut_msys (s : State) (a : Nat) (rec : List Byte) : (s.ringPut a rec).msys = s.msys := (State.ringPut_onlyMem s a rec).msys
@[simp] theorem State.ringPut_mg (s : State) (a : Nat) (rec : List Byte) : (s.ringPut a rec).mg = s.mg := (State.ringPut_onlyMem s a rec).mg

/-! ### logErr -/

@[simp] theorem State.logErr_turns (s : State) (n : Nat) (e : LogRec) : (s.logErr n e).turns = s.turns := (State.logErr_onlyMem s n e).turns
@[simp] theorem State.logErr_args (s : State) (n : Nat) (e : LogRec) : (s.logErr n e).args = s.args := (State.logErr_onlyMem s n e).args
@[simp] theorem State.logErr_core (s : State) (n : Nat) (e : LogRec) : (s.logErr n e).core = s.core := (State.logErr_onlyMem s n e).core
@[simp] theorem State.logErr_eng (s : State) (n : Nat) (e : LogRec) : (s.logErr n e).eng = s.eng := (State.logErr_onlyMem s n e).eng
@[simp] theorem State.logErr_pol (s : State) (n : Nat) (e : LogRec) : (s.logErr n e).pol = s.pol := (State.logErr_onlyMem s n e).pol
@[simp] theorem State.logErr_fresh (s : State) (n : Nat) (e : LogRec) : (s.logErr n e).fresh = s.fresh := (State.logErr_onlyMem s n e).fresh
@[simp] theorem State.logErr_nextId (s : State) (n : Nat) (e : LogRec) : (s.logErr n e).nextId = s.nextId := (State.logErr_onlyMem s n e).nextId
@[simp] theorem State.logErr_now (s : State) (n : Nat) (e : LogRec) : (s.logErr n e).now = s.now := (State.logErr_onlyMem s n e).now
@[simp] theorem State.logErr_cycle (s : State) (n : Nat) (e : LogRec) : (s.logErr n e).cycle = s.cycle := (State.logErr_onlyMem s n e).cycle
@[simp] theorem State.logErr_cores (s : State) (n : Nat) (e : LogRec) : (s.logErr n e).cores = s.cores := (State.logErr_onlyMem s n e).cores
@[simp] theorem State.logErr_dies (s : State) (n : Nat) (e : LogRec) : (s.logErr n e).dies = s.dies := (State.logErr_onlyMem s n e).dies
@[simp] theorem State.logErr_parts (s : State) (n : Nat) (e : LogRec) : (s.logErr n e).parts = s.parts := (State.logErr_onlyMem s n e).parts
@[simp] theorem State.logErr_teams (s : State) (n : Nat) (e : LogRec) : (s.logErr n e).teams = s.teams := (State.logErr_onlyMem s n e).teams
@[simp] theorem State.logErr_router (s : State) (n : Nat) (e : LogRec) : (s.logErr n e).router = s.router := (State.logErr_onlyMem s n e).router
@[simp] theorem State.logErr_gate (s : State) (n : Nat) (e : LogRec) : (s.logErr n e).gate = s.gate := (State.logErr_onlyMem s n e).gate
@[simp] theorem State.logErr_msys (s : State) (n : Nat) (e : LogRec) : (s.logErr n e).msys = s.msys := (State.logErr_onlyMem s n e).msys
@[simp] theorem State.logErr_mg (s : State) (n : Nat) (e : LogRec) : (s.logErr n e).mg = s.mg := (State.logErr_onlyMem s n e).mg

/-! ### scan -/

@[simp] theorem State.scan_turns (s : State) (k n asid : Nat) (va : Option Nat) : (s.scan k n asid va).1.turns = s.turns := (State.scan_onlyMem s k n asid va).turns
@[simp] theorem State.scan_args (s : State) (k n asid : Nat) (va : Option Nat) : (s.scan k n asid va).1.args = s.args := (State.scan_onlyMem s k n asid va).args
@[simp] theorem State.scan_core (s : State) (k n asid : Nat) (va : Option Nat) : (s.scan k n asid va).1.core = s.core := (State.scan_onlyMem s k n asid va).core
@[simp] theorem State.scan_eng (s : State) (k n asid : Nat) (va : Option Nat) : (s.scan k n asid va).1.eng = s.eng := (State.scan_onlyMem s k n asid va).eng
@[simp] theorem State.scan_pol (s : State) (k n asid : Nat) (va : Option Nat) : (s.scan k n asid va).1.pol = s.pol := (State.scan_onlyMem s k n asid va).pol
@[simp] theorem State.scan_fresh (s : State) (k n asid : Nat) (va : Option Nat) : (s.scan k n asid va).1.fresh = s.fresh := (State.scan_onlyMem s k n asid va).fresh
@[simp] theorem State.scan_nextId (s : State) (k n asid : Nat) (va : Option Nat) : (s.scan k n asid va).1.nextId = s.nextId := (State.scan_onlyMem s k n asid va).nextId
@[simp] theorem State.scan_now (s : State) (k n asid : Nat) (va : Option Nat) : (s.scan k n asid va).1.now = s.now := (State.scan_onlyMem s k n asid va).now
@[simp] theorem State.scan_cycle (s : State) (k n asid : Nat) (va : Option Nat) : (s.scan k n asid va).1.cycle = s.cycle := (State.scan_onlyMem s k n asid va).cycle
@[simp] theorem State.scan_cores (s : State) (k n asid : Nat) (va : Option Nat) : (s.scan k n asid va).1.cores = s.cores := (State.scan_onlyMem s k n asid va).cores
@[simp] theorem State.scan_dies (s : State) (k n asid : Nat) (va : Option Nat) : (s.scan k n asid va).1.dies = s.dies := (State.scan_onlyMem s k n asid va).dies
@[simp] theorem State.scan_parts (s : State) (k n asid : Nat) (va : Option Nat) : (s.scan k n asid va).1.parts = s.parts := (State.scan_onlyMem s k n asid va).parts
@[simp] theorem State.scan_teams (s : State) (k n asid : Nat) (va : Option Nat) : (s.scan k n asid va).1.teams = s.teams := (State.scan_onlyMem s k n asid va).teams
@[simp] theorem State.scan_router (s : State) (k n asid : Nat) (va : Option Nat) : (s.scan k n asid va).1.router = s.router := (State.scan_onlyMem s k n asid va).router
@[simp] theorem State.scan_gate (s : State) (k n asid : Nat) (va : Option Nat) : (s.scan k n asid va).1.gate = s.gate := (State.scan_onlyMem s k n asid va).gate
@[simp] theorem State.scan_msys (s : State) (k n asid : Nat) (va : Option Nat) : (s.scan k n asid va).1.msys = s.msys := (State.scan_onlyMem s k n asid va).msys
@[simp] theorem State.scan_mg (s : State) (k n asid : Nat) (va : Option Nat) : (s.scan k n asid va).1.mg = s.mg := (State.scan_onlyMem s k n asid va).mg

/-! ### carry -/

@[simp] theorem State.carry_turns (s : State) (k n asid : Nat) (va : Option Nat) : (s.carry k n asid va).1.turns = s.turns := (State.carry_onlyMem s k n asid va).turns
@[simp] theorem State.carry_args (s : State) (k n asid : Nat) (va : Option Nat) : (s.carry k n asid va).1.args = s.args := (State.carry_onlyMem s k n asid va).args
@[simp] theorem State.carry_core (s : State) (k n asid : Nat) (va : Option Nat) : (s.carry k n asid va).1.core = s.core := (State.carry_onlyMem s k n asid va).core
@[simp] theorem State.carry_eng (s : State) (k n asid : Nat) (va : Option Nat) : (s.carry k n asid va).1.eng = s.eng := (State.carry_onlyMem s k n asid va).eng
@[simp] theorem State.carry_pol (s : State) (k n asid : Nat) (va : Option Nat) : (s.carry k n asid va).1.pol = s.pol := (State.carry_onlyMem s k n asid va).pol
@[simp] theorem State.carry_fresh (s : State) (k n asid : Nat) (va : Option Nat) : (s.carry k n asid va).1.fresh = s.fresh := (State.carry_onlyMem s k n asid va).fresh
@[simp] theorem State.carry_nextId (s : State) (k n asid : Nat) (va : Option Nat) : (s.carry k n asid va).1.nextId = s.nextId := (State.carry_onlyMem s k n asid va).nextId
@[simp] theorem State.carry_now (s : State) (k n asid : Nat) (va : Option Nat) : (s.carry k n asid va).1.now = s.now := (State.carry_onlyMem s k n asid va).now
@[simp] theorem State.carry_cycle (s : State) (k n asid : Nat) (va : Option Nat) : (s.carry k n asid va).1.cycle = s.cycle := (State.carry_onlyMem s k n asid va).cycle
@[simp] theorem State.carry_cores (s : State) (k n asid : Nat) (va : Option Nat) : (s.carry k n asid va).1.cores = s.cores := (State.carry_onlyMem s k n asid va).cores
@[simp] theorem State.carry_dies (s : State) (k n asid : Nat) (va : Option Nat) : (s.carry k n asid va).1.dies = s.dies := (State.carry_onlyMem s k n asid va).dies
@[simp] theorem State.carry_parts (s : State) (k n asid : Nat) (va : Option Nat) : (s.carry k n asid va).1.parts = s.parts := (State.carry_onlyMem s k n asid va).parts
@[simp] theorem State.carry_teams (s : State) (k n asid : Nat) (va : Option Nat) : (s.carry k n asid va).1.teams = s.teams := (State.carry_onlyMem s k n asid va).teams
@[simp] theorem State.carry_router (s : State) (k n asid : Nat) (va : Option Nat) : (s.carry k n asid va).1.router = s.router := (State.carry_onlyMem s k n asid va).router
@[simp] theorem State.carry_gate (s : State) (k n asid : Nat) (va : Option Nat) : (s.carry k n asid va).1.gate = s.gate := (State.carry_onlyMem s k n asid va).gate
@[simp] theorem State.carry_msys (s : State) (k n asid : Nat) (va : Option Nat) : (s.carry k n asid va).1.msys = s.msys := (State.carry_onlyMem s k n asid va).msys
@[simp] theorem State.carry_mg (s : State) (k n asid : Nat) (va : Option Nat) : (s.carry k n asid va).1.mg = s.mg := (State.carry_onlyMem s k n asid va).mg

/-! ### copyMem -/

@[simp] theorem State.copyMem_turns (s : State) (src dst n asid : Nat) (va : Option Nat) : (s.copyMem src dst n asid va).turns = s.turns := (State.copyMem_onlyMem s src dst n asid va).turns
@[simp] theorem State.copyMem_args (s : State) (src dst n asid : Nat) (va : Option Nat) : (s.copyMem src dst n asid va).args = s.args := (State.copyMem_onlyMem s src dst n asid va).args
@[simp] theorem State.copyMem_core (s : State) (src dst n asid : Nat) (va : Option Nat) : (s.copyMem src dst n asid va).core = s.core := (State.copyMem_onlyMem s src dst n asid va).core
@[simp] theorem State.copyMem_eng (s : State) (src dst n asid : Nat) (va : Option Nat) : (s.copyMem src dst n asid va).eng = s.eng := (State.copyMem_onlyMem s src dst n asid va).eng
@[simp] theorem State.copyMem_pol (s : State) (src dst n asid : Nat) (va : Option Nat) : (s.copyMem src dst n asid va).pol = s.pol := (State.copyMem_onlyMem s src dst n asid va).pol
@[simp] theorem State.copyMem_fresh (s : State) (src dst n asid : Nat) (va : Option Nat) : (s.copyMem src dst n asid va).fresh = s.fresh := (State.copyMem_onlyMem s src dst n asid va).fresh
@[simp] theorem State.copyMem_nextId (s : State) (src dst n asid : Nat) (va : Option Nat) : (s.copyMem src dst n asid va).nextId = s.nextId := (State.copyMem_onlyMem s src dst n asid va).nextId
@[simp] theorem State.copyMem_now (s : State) (src dst n asid : Nat) (va : Option Nat) : (s.copyMem src dst n asid va).now = s.now := (State.copyMem_onlyMem s src dst n asid va).now
@[simp] theorem State.copyMem_cycle (s : State) (src dst n asid : Nat) (va : Option Nat) : (s.copyMem src dst n asid va).cycle = s.cycle := (State.copyMem_onlyMem s src dst n asid va).cycle
@[simp] theorem State.copyMem_cores (s : State) (src dst n asid : Nat) (va : Option Nat) : (s.copyMem src dst n asid va).cores = s.cores := (State.copyMem_onlyMem s src dst n asid va).cores
@[simp] theorem State.copyMem_dies (s : State) (src dst n asid : Nat) (va : Option Nat) : (s.copyMem src dst n asid va).dies = s.dies := (State.copyMem_onlyMem s src dst n asid va).dies
@[simp] theorem State.copyMem_parts (s : State) (src dst n asid : Nat) (va : Option Nat) : (s.copyMem src dst n asid va).parts = s.parts := (State.copyMem_onlyMem s src dst n asid va).parts
@[simp] theorem State.copyMem_teams (s : State) (src dst n asid : Nat) (va : Option Nat) : (s.copyMem src dst n asid va).teams = s.teams := (State.copyMem_onlyMem s src dst n asid va).teams
@[simp] theorem State.copyMem_router (s : State) (src dst n asid : Nat) (va : Option Nat) : (s.copyMem src dst n asid va).router = s.router := (State.copyMem_onlyMem s src dst n asid va).router
@[simp] theorem State.copyMem_gate (s : State) (src dst n asid : Nat) (va : Option Nat) : (s.copyMem src dst n asid va).gate = s.gate := (State.copyMem_onlyMem s src dst n asid va).gate
@[simp] theorem State.copyMem_msys (s : State) (src dst n asid : Nat) (va : Option Nat) : (s.copyMem src dst n asid va).msys = s.msys := (State.copyMem_onlyMem s src dst n asid va).msys
@[simp] theorem State.copyMem_mg (s : State) (src dst n asid : Nat) (va : Option Nat) : (s.copyMem src dst n asid va).mg = s.mg := (State.copyMem_onlyMem s src dst n asid va).mg

/-! ### zeroMem -/

@[simp] theorem State.zeroMem_turns (s : State) (k n : Nat) : (s.zeroMem k n).turns = s.turns := rfl
@[simp] theorem State.zeroMem_args (s : State) (k n : Nat) : (s.zeroMem k n).args = s.args := rfl
@[simp] theorem State.zeroMem_core (s : State) (k n : Nat) : (s.zeroMem k n).core = s.core := rfl
@[simp] theorem State.zeroMem_eng (s : State) (k n : Nat) : (s.zeroMem k n).eng = s.eng := rfl
@[simp] theorem State.zeroMem_pol (s : State) (k n : Nat) : (s.zeroMem k n).pol = s.pol := rfl
@[simp] theorem State.zeroMem_fresh (s : State) (k n : Nat) : (s.zeroMem k n).fresh = s.fresh := rfl
@[simp] theorem State.zeroMem_nextId (s : State) (k n : Nat) : (s.zeroMem k n).nextId = s.nextId := rfl
@[simp] theorem State.zeroMem_now (s : State) (k n : Nat) : (s.zeroMem k n).now = s.now := rfl
@[simp] theorem State.zeroMem_cycle (s : State) (k n : Nat) : (s.zeroMem k n).cycle = s.cycle := rfl
@[simp] theorem State.zeroMem_cores (s : State) (k n : Nat) : (s.zeroMem k n).cores = s.cores := rfl
@[simp] theorem State.zeroMem_dies (s : State) (k n : Nat) : (s.zeroMem k n).dies = s.dies := rfl
@[simp] theorem State.zeroMem_parts (s : State) (k n : Nat) : (s.zeroMem k n).parts = s.parts := rfl
@[simp] theorem State.zeroMem_teams (s : State) (k n : Nat) : (s.zeroMem k n).teams = s.teams := rfl
@[simp] theorem State.zeroMem_router (s : State) (k n : Nat) : (s.zeroMem k n).router = s.router := rfl
@[simp] theorem State.zeroMem_gate (s : State) (k n : Nat) : (s.zeroMem k n).gate = s.gate := rfl
@[simp] theorem State.zeroMem_msys (s : State) (k n : Nat) : (s.zeroMem k n).msys = s.msys := rfl
@[simp] theorem State.zeroMem_mg (s : State) (k n : Nat) : (s.zeroMem k n).mg = s.mg := rfl

/-! ### modPart -/

@[simp] theorem State.modPart_turns (s : State) (p : Nat) (f : Part → Part) : (s.modPart p f).turns = s.turns := rfl
@[simp] theorem State.modPart_args (s : State) (p : Nat) (f : Part → Part) : (s.modPart p f).args = s.args := rfl
@[simp] theorem State.modPart_core (s : State) (p : Nat) (f : Part → Part) : (s.modPart p f).core = s.core := rfl
@[simp] theorem State.modPart_eng (s : State) (p : Nat) (f : Part → Part) : (s.modPart p f).eng = s.eng := rfl
@[simp] theorem State.modPart_pol (s : State) (p : Nat) (f : Part → Part) : (s.modPart p f).pol = s.pol := rfl
@[simp] theorem State.modPart_fresh (s : State) (p : Nat) (f : Part → Part) : (s.modPart p f).fresh = s.fresh := rfl
@[simp] theorem State.modPart_nextId (s : State) (p : Nat) (f : Part → Part) : (s.modPart p f).nextId = s.nextId := rfl
@[simp] theorem State.modPart_now (s : State) (p : Nat) (f : Part → Part) : (s.modPart p f).now = s.now := rfl
@[simp] theorem State.modPart_cycle (s : State) (p : Nat) (f : Part → Part) : (s.modPart p f).cycle = s.cycle := rfl
@[simp] theorem State.modPart_mem (s : State) (p : Nat) (f : Part → Part) : (s.modPart p f).mem = s.mem := rfl
@[simp] theorem State.modPart_marks (s : State) (p : Nat) (f : Part → Part) : (s.modPart p f).marks = s.marks := rfl
@[simp] theorem State.modPart_cores (s : State) (p : Nat) (f : Part → Part) : (s.modPart p f).cores = s.cores := rfl
@[simp] theorem State.modPart_dies (s : State) (p : Nat) (f : Part → Part) : (s.modPart p f).dies = s.dies := rfl
@[simp] theorem State.modPart_teams (s : State) (p : Nat) (f : Part → Part) : (s.modPart p f).teams = s.teams := rfl
@[simp] theorem State.modPart_router (s : State) (p : Nat) (f : Part → Part) : (s.modPart p f).router = s.router := rfl
@[simp] theorem State.modPart_gate (s : State) (p : Nat) (f : Part → Part) : (s.modPart p f).gate = s.gate := rfl
@[simp] theorem State.modPart_msys (s : State) (p : Nat) (f : Part → Part) : (s.modPart p f).msys = s.msys := rfl
@[simp] theorem State.modPart_mg (s : State) (p : Nat) (f : Part → Part) : (s.modPart p f).mg = s.mg := rfl

/-! ### modTeam -/

@[simp] theorem State.modTeam_turns (s : State) (id : Nat) (f : Team → Team) : (s.modTeam id f).turns = s.turns := rfl
@[simp] theorem State.modTeam_args (s : State) (id : Nat) (f : Team → Team) : (s.modTeam id f).args = s.args := rfl
@[simp] theorem State.modTeam_core (s : State) (id : Nat) (f : Team → Team) : (s.modTeam id f).core = s.core := rfl
@[simp] theorem State.modTeam_eng (s : State) (id : Nat) (f : Team → Team) : (s.modTeam id f).eng = s.eng := rfl
@[simp] theorem State.modTeam_pol (s : State) (id : Nat) (f : Team → Team) : (s.modTeam id f).pol = s.pol := rfl
@[simp] theorem State.modTeam_fresh (s : State) (id : Nat) (f : Team → Team) : (s.modTeam id f).fresh = s.fresh := rfl
@[simp] theorem State.modTeam_nextId (s : State) (id : Nat) (f : Team → Team) : (s.modTeam id f).nextId = s.nextId := rfl
@[simp] theorem State.modTeam_now (s : State) (id : Nat) (f : Team → Team) : (s.modTeam id f).now = s.now := rfl
@[simp] theorem State.modTeam_cycle (s : State) (id : Nat) (f : Team → Team) : (s.modTeam id f).cycle = s.cycle := rfl
@[simp] theorem State.modTeam_mem (s : State) (id : Nat) (f : Team → Team) : (s.modTeam id f).mem = s.mem := rfl
@[simp] theorem State.modTeam_marks (s : State) (id : Nat) (f : Team → Team) : (s.modTeam id f).marks = s.marks := rfl
@[simp] theorem State.modTeam_cores (s : State) (id : Nat) (f : Team → Team) : (s.modTeam id f).cores = s.cores := rfl
@[simp] theorem State.modTeam_dies (s : State) (id : Nat) (f : Team → Team) : (s.modTeam id f).dies = s.dies := rfl
@[simp] theorem State.modTeam_parts (s : State) (id : Nat) (f : Team → Team) : (s.modTeam id f).parts = s.parts := rfl
@[simp] theorem State.modTeam_router (s : State) (id : Nat) (f : Team → Team) : (s.modTeam id f).router = s.router := rfl
@[simp] theorem State.modTeam_gate (s : State) (id : Nat) (f : Team → Team) : (s.modTeam id f).gate = s.gate := rfl
@[simp] theorem State.modTeam_msys (s : State) (id : Nat) (f : Team → Team) : (s.modTeam id f).msys = s.msys := rfl
@[simp] theorem State.modTeam_mg (s : State) (id : Nat) (f : Team → Team) : (s.modTeam id f).mg = s.mg := rfl

/-! ### post -/

@[simp] theorem State.post_turns (s : State) (r : Req) : (s.post r).turns = s.turns := rfl
@[simp] theorem State.post_args (s : State) (r : Req) : (s.post r).args = s.args := rfl
@[simp] theorem State.post_core (s : State) (r : Req) : (s.post r).core = s.core := rfl
@[simp] theorem State.post_eng (s : State) (r : Req) : (s.post r).eng = s.eng := rfl
@[simp] theorem State.post_pol (s : State) (r : Req) : (s.post r).pol = s.pol := rfl
@[simp] theorem State.post_fresh (s : State) (r : Req) : (s.post r).fresh = s.fresh := rfl
@[simp] theorem State.post_nextId (s : State) (r : Req) : (s.post r).nextId = s.nextId := rfl
@[simp] theorem State.post_now (s : State) (r : Req) : (s.post r).now = s.now := rfl
@[simp] theorem State.post_cycle (s : State) (r : Req) : (s.post r).cycle = s.cycle := rfl
@[simp] theorem State.post_mem (s : State) (r : Req) : (s.post r).mem = s.mem := rfl
@[simp] theorem State.post_marks (s : State) (r : Req) : (s.post r).marks = s.marks := rfl
@[simp] theorem State.post_cores (s : State) (r : Req) : (s.post r).cores = s.cores := rfl
@[simp] theorem State.post_dies (s : State) (r : Req) : (s.post r).dies = s.dies := rfl
@[simp] theorem State.post_parts (s : State) (r : Req) : (s.post r).parts = s.parts := rfl
@[simp] theorem State.post_teams (s : State) (r : Req) : (s.post r).teams = s.teams := rfl
@[simp] theorem State.post_router (s : State) (r : Req) : (s.post r).router = s.router := rfl
@[simp] theorem State.post_msys (s : State) (r : Req) : (s.post r).msys = s.msys := rfl
@[simp] theorem State.post_mg (s : State) (r : Req) : (s.post r).mg = s.mg := rfl

/-! ### setS -/

@[simp] theorem State.setS_turns (s : State) (r : Nat) (v : W64) : (s.setS r v).turns = s.turns := by unfold State.setS; split <;> rfl
@[simp] theorem State.setS_args (s : State) (r : Nat) (v : W64) : (s.setS r v).args = s.args := by unfold State.setS; split <;> rfl
@[simp] theorem State.setS_core (s : State) (r : Nat) (v : W64) : (s.setS r v).core = s.core := by unfold State.setS; split <;> rfl
@[simp] theorem State.setS_eng (s : State) (r : Nat) (v : W64) : (s.setS r v).eng = s.eng := by unfold State.setS; split <;> rfl
@[simp] theorem State.setS_pol (s : State) (r : Nat) (v : W64) : (s.setS r v).pol = s.pol := by unfold State.setS; split <;> rfl
@[simp] theorem State.setS_fresh (s : State) (r : Nat) (v : W64) : (s.setS r v).fresh = s.fresh := by unfold State.setS; split <;> rfl
@[simp] theorem State.setS_nextId (s : State) (r : Nat) (v : W64) : (s.setS r v).nextId = s.nextId := by unfold State.setS; split <;> rfl
@[simp] theorem State.setS_now (s : State) (r : Nat) (v : W64) : (s.setS r v).now = s.now := by unfold State.setS; split <;> rfl
@[simp] theorem State.setS_cycle (s : State) (r : Nat) (v : W64) : (s.setS r v).cycle = s.cycle := by unfold State.setS; split <;> rfl
@[simp] theorem State.setS_mem (s : State) (r : Nat) (v : W64) : (s.setS r v).mem = s.mem := by unfold State.setS; split <;> rfl
@[simp] theorem State.setS_marks (s : State) (r : Nat) (v : W64) : (s.setS r v).marks = s.marks := by unfold State.setS; split <;> rfl
@[simp] theorem State.setS_dies (s : State) (r : Nat) (v : W64) : (s.setS r v).dies = s.dies := by unfold State.setS; split <;> rfl
@[simp] theorem State.setS_parts (s : State) (r : Nat) (v : W64) : (s.setS r v).parts = s.parts := by unfold State.setS; split <;> rfl
@[simp] theorem State.setS_teams (s : State) (r : Nat) (v : W64) : (s.setS r v).teams = s.teams := by unfold State.setS; split <;> rfl
@[simp] theorem State.setS_router (s : State) (r : Nat) (v : W64) : (s.setS r v).router = s.router := by unfold State.setS; split <;> rfl
@[simp] theorem State.setS_gate (s : State) (r : Nat) (v : W64) : (s.setS r v).gate = s.gate := by unfold State.setS; split <;> rfl
@[simp] theorem State.setS_msys (s : State) (r : Nat) (v : W64) : (s.setS r v).msys = s.msys := by unfold State.setS; split <;> rfl
@[simp] theorem State.setS_mg (s : State) (r : Nat) (v : W64) : (s.setS r v).mg = s.mg := by unfold State.setS; split <;> rfl

/-! ### setP -/

@[simp] theorem State.setP_turns (s : State) (r : Nat) (b : Bool) : (s.setP r b).turns = s.turns := by unfold State.setP; split <;> rfl
@[simp] theorem State.setP_args (s : State) (r : Nat) (b : Bool) : (s.setP r b).args = s.args := by unfold State.setP; split <;> rfl
@[simp] theorem State.setP_core (s : State) (r : Nat) (b : Bool) : (s.setP r b).core = s.core := by unfold State.setP; split <;> rfl
@[simp] theorem State.setP_eng (s : State) (r : Nat) (b : Bool) : (s.setP r b).eng = s.eng := by unfold State.setP; split <;> rfl
@[simp] theorem State.setP_pol (s : State) (r : Nat) (b : Bool) : (s.setP r b).pol = s.pol := by unfold State.setP; split <;> rfl
@[simp] theorem State.setP_fresh (s : State) (r : Nat) (b : Bool) : (s.setP r b).fresh = s.fresh := by unfold State.setP; split <;> rfl
@[simp] theorem State.setP_nextId (s : State) (r : Nat) (b : Bool) : (s.setP r b).nextId = s.nextId := by unfold State.setP; split <;> rfl
@[simp] theorem State.setP_now (s : State) (r : Nat) (b : Bool) : (s.setP r b).now = s.now := by unfold State.setP; split <;> rfl
@[simp] theorem State.setP_cycle (s : State) (r : Nat) (b : Bool) : (s.setP r b).cycle = s.cycle := by unfold State.setP; split <;> rfl
@[simp] theorem State.setP_mem (s : State) (r : Nat) (b : Bool) : (s.setP r b).mem = s.mem := by unfold State.setP; split <;> rfl
@[simp] theorem State.setP_marks (s : State) (r : Nat) (b : Bool) : (s.setP r b).marks = s.marks := by unfold State.setP; split <;> rfl
@[simp] theorem State.setP_dies (s : State) (r : Nat) (b : Bool) : (s.setP r b).dies = s.dies := by unfold State.setP; split <;> rfl
@[simp] theorem State.setP_parts (s : State) (r : Nat) (b : Bool) : (s.setP r b).parts = s.parts := by unfold State.setP; split <;> rfl
@[simp] theorem State.setP_teams (s : State) (r : Nat) (b : Bool) : (s.setP r b).teams = s.teams := by unfold State.setP; split <;> rfl
@[simp] theorem State.setP_router (s : State) (r : Nat) (b : Bool) : (s.setP r b).router = s.router := by unfold State.setP; split <;> rfl
@[simp] theorem State.setP_gate (s : State) (r : Nat) (b : Bool) : (s.setP r b).gate = s.gate := by unfold State.setP; split <;> rfl
@[simp] theorem State.setP_msys (s : State) (r : Nat) (b : Bool) : (s.setP r b).msys = s.msys := by unfold State.setP; split <;> rfl
@[simp] theorem State.setP_mg (s : State) (r : Nat) (b : Bool) : (s.setP r b).mg = s.mg := by unfold State.setP; split <;> rfl

/-! ### raiseAt -/

@[simp] theorem State.raiseAt_turns (s : State) (cause : Nat) (addr pc : W64) (srcq : Nat) : (s.raiseAt cause addr pc srcq).turns = s.turns := by unfold State.raiseAt; split <;> rfl
@[simp] theorem State.raiseAt_args (s : State) (cause : Nat) (addr pc : W64) (srcq : Nat) : (s.raiseAt cause addr pc srcq).args = s.args := by unfold State.raiseAt; split <;> rfl
@[simp] theorem State.raiseAt_core (s : State) (cause : Nat) (addr pc : W64) (srcq : Nat) : (s.raiseAt cause addr pc srcq).core = s.core := by unfold State.raiseAt; split <;> rfl
@[simp] theorem State.raiseAt_eng (s : State) (cause : Nat) (addr pc : W64) (srcq : Nat) : (s.raiseAt cause addr pc srcq).eng = s.eng := by unfold State.raiseAt; split <;> rfl
@[simp] theorem State.raiseAt_pol (s : State) (cause : Nat) (addr pc : W64) (srcq : Nat) : (s.raiseAt cause addr pc srcq).pol = s.pol := by unfold State.raiseAt; split <;> rfl
@[simp] theorem State.raiseAt_fresh (s : State) (cause : Nat) (addr pc : W64) (srcq : Nat) : (s.raiseAt cause addr pc srcq).fresh = s.fresh := by unfold State.raiseAt; split <;> rfl
@[simp] theorem State.raiseAt_nextId (s : State) (cause : Nat) (addr pc : W64) (srcq : Nat) : (s.raiseAt cause addr pc srcq).nextId = s.nextId := by unfold State.raiseAt; split <;> rfl
@[simp] theorem State.raiseAt_now (s : State) (cause : Nat) (addr pc : W64) (srcq : Nat) : (s.raiseAt cause addr pc srcq).now = s.now := by unfold State.raiseAt; split <;> rfl
@[simp] theorem State.raiseAt_cycle (s : State) (cause : Nat) (addr pc : W64) (srcq : Nat) : (s.raiseAt cause addr pc srcq).cycle = s.cycle := by unfold State.raiseAt; split <;> rfl
@[simp] theorem State.raiseAt_mem (s : State) (cause : Nat) (addr pc : W64) (srcq : Nat) : (s.raiseAt cause addr pc srcq).mem = s.mem := by unfold State.raiseAt; split <;> rfl
@[simp] theorem State.raiseAt_marks (s : State) (cause : Nat) (addr pc : W64) (srcq : Nat) : (s.raiseAt cause addr pc srcq).marks = s.marks := by unfold State.raiseAt; split <;> rfl
@[simp] theorem State.raiseAt_dies (s : State) (cause : Nat) (addr pc : W64) (srcq : Nat) : (s.raiseAt cause addr pc srcq).dies = s.dies := by unfold State.raiseAt; split <;> rfl
@[simp] theorem State.raiseAt_parts (s : State) (cause : Nat) (addr pc : W64) (srcq : Nat) : (s.raiseAt cause addr pc srcq).parts = s.parts := by unfold State.raiseAt; split <;> rfl
@[simp] theorem State.raiseAt_teams (s : State) (cause : Nat) (addr pc : W64) (srcq : Nat) : (s.raiseAt cause addr pc srcq).teams = s.teams := by unfold State.raiseAt; split <;> rfl
@[simp] theorem State.raiseAt_router (s : State) (cause : Nat) (addr pc : W64) (srcq : Nat) : (s.raiseAt cause addr pc srcq).router = s.router := by unfold State.raiseAt; split <;> rfl
@[simp] theorem State.raiseAt_gate (s : State) (cause : Nat) (addr pc : W64) (srcq : Nat) : (s.raiseAt cause addr pc srcq).gate = s.gate := by unfold State.raiseAt; split <;> rfl
@[simp] theorem State.raiseAt_msys (s : State) (cause : Nat) (addr pc : W64) (srcq : Nat) : (s.raiseAt cause addr pc srcq).msys = s.msys := by unfold State.raiseAt; split <;> rfl
@[simp] theorem State.raiseAt_mg (s : State) (cause : Nat) (addr pc : W64) (srcq : Nat) : (s.raiseAt cause addr pc srcq).mg = s.mg := by unfold State.raiseAt; split <;> rfl

/-! ### raise -/

@[simp] theorem State.raise_turns (s : State) (cause : Nat) (addr : W64) : (s.raise cause addr).turns = s.turns := State.raiseAt_turns s cause addr _ 0
@[simp] theorem State.raise_args (s : State) (cause : Nat) (addr : W64) : (s.raise cause addr).args = s.args := State.raiseAt_args s cause addr _ 0
@[simp] theorem State.raise_core (s : State) (cause : Nat) (addr : W64) : (s.raise cause addr).core = s.core := State.raiseAt_core s cause addr _ 0
@[simp] theorem State.raise_eng (s : State) (cause : Nat) (addr : W64) : (s.raise cause addr).eng = s.eng := State.raiseAt_eng s cause addr _ 0
@[simp] theorem State.raise_pol (s : State) (cause : Nat) (addr : W64) : (s.raise cause addr).pol = s.pol := State.raiseAt_pol s cause addr _ 0
@[simp] theorem State.raise_fresh (s : State) (cause : Nat) (addr : W64) : (s.raise cause addr).fresh = s.fresh := State.raiseAt_fresh s cause addr _ 0
@[simp] theorem State.raise_nextId (s : State) (cause : Nat) (addr : W64) : (s.raise cause addr).nextId = s.nextId := State.raiseAt_nextId s cause addr _ 0
@[simp] theorem State.raise_now (s : State) (cause : Nat) (addr : W64) : (s.raise cause addr).now = s.now := State.raiseAt_now s cause addr _ 0
@[simp] theorem State.raise_cycle (s : State) (cause : Nat) (addr : W64) : (s.raise cause addr).cycle = s.cycle := State.raiseAt_cycle s cause addr _ 0
@[simp] theorem State.raise_mem (s : State) (cause : Nat) (addr : W64) : (s.raise cause addr).mem = s.mem := State.raiseAt_mem s cause addr _ 0
@[simp] theorem State.raise_marks (s : State) (cause : Nat) (addr : W64) : (s.raise cause addr).marks = s.marks := State.raiseAt_marks s cause addr _ 0
@[simp] theorem State.raise_dies (s : State) (cause : Nat) (addr : W64) : (s.raise cause addr).dies = s.dies := State.raiseAt_dies s cause addr _ 0
@[simp] theorem State.raise_parts (s : State) (cause : Nat) (addr : W64) : (s.raise cause addr).parts = s.parts := State.raiseAt_parts s cause addr _ 0
@[simp] theorem State.raise_teams (s : State) (cause : Nat) (addr : W64) : (s.raise cause addr).teams = s.teams := State.raiseAt_teams s cause addr _ 0
@[simp] theorem State.raise_router (s : State) (cause : Nat) (addr : W64) : (s.raise cause addr).router = s.router := State.raiseAt_router s cause addr _ 0
@[simp] theorem State.raise_gate (s : State) (cause : Nat) (addr : W64) : (s.raise cause addr).gate = s.gate := State.raiseAt_gate s cause addr _ 0
@[simp] theorem State.raise_msys (s : State) (cause : Nat) (addr : W64) : (s.raise cause addr).msys = s.msys := State.raiseAt_msys s cause addr _ 0
@[simp] theorem State.raise_mg (s : State) (cause : Nat) (addr : W64) : (s.raise cause addr).mg = s.mg := State.raiseAt_mg s cause addr _ 0

/-! ### illegal -/

@[simp] theorem State.illegal_turns (s : State) : (s.illegal).turns = s.turns := State.raise_turns s _ _
@[simp] theorem State.illegal_args (s : State) : (s.illegal).args = s.args := State.raise_args s _ _
@[simp] theorem State.illegal_core (s : State) : (s.illegal).core = s.core := State.raise_core s _ _
@[simp] theorem State.illegal_eng (s : State) : (s.illegal).eng = s.eng := State.raise_eng s _ _
@[simp] theorem State.illegal_pol (s : State) : (s.illegal).pol = s.pol := State.raise_pol s _ _
@[simp] theorem State.illegal_fresh (s : State) : (s.illegal).fresh = s.fresh := State.raise_fresh s _ _
@[simp] theorem State.illegal_nextId (s : State) : (s.illegal).nextId = s.nextId := State.raise_nextId s _ _
@[simp] theorem State.illegal_now (s : State) : (s.illegal).now = s.now := State.raise_now s _ _
@[simp] theorem State.illegal_cycle (s : State) : (s.illegal).cycle = s.cycle := State.raise_cycle s _ _
@[simp] theorem State.illegal_mem (s : State) : (s.illegal).mem = s.mem := State.raise_mem s _ _
@[simp] theorem State.illegal_marks (s : State) : (s.illegal).marks = s.marks := State.raise_marks s _ _
@[simp] theorem State.illegal_dies (s : State) : (s.illegal).dies = s.dies := State.raise_dies s _ _
@[simp] theorem State.illegal_parts (s : State) : (s.illegal).parts = s.parts := State.raise_parts s _ _
@[simp] theorem State.illegal_teams (s : State) : (s.illegal).teams = s.teams := State.raise_teams s _ _
@[simp] theorem State.illegal_router (s : State) : (s.illegal).router = s.router := State.raise_router s _ _
@[simp] theorem State.illegal_gate (s : State) : (s.illegal).gate = s.gate := State.raise_gate s _ _
@[simp] theorem State.illegal_msys (s : State) : (s.illegal).msys = s.msys := State.raise_msys s _ _
@[simp] theorem State.illegal_mg (s : State) : (s.illegal).mg = s.mg := State.raise_mg s _ _

/-! ### raiseFree -/

@[simp] theorem State.raiseFree_turns (s : State) (cause : Nat) : (s.raiseFree cause).turns = s.turns := State.raise_turns s cause _
@[simp] theorem State.raiseFree_args (s : State) (cause : Nat) : (s.raiseFree cause).args = s.args := State.raise_args s cause _
@[simp] theorem State.raiseFree_core (s : State) (cause : Nat) : (s.raiseFree cause).core = s.core := State.raise_core s cause _
@[simp] theorem State.raiseFree_eng (s : State) (cause : Nat) : (s.raiseFree cause).eng = s.eng := State.raise_eng s cause _
@[simp] theorem State.raiseFree_pol (s : State) (cause : Nat) : (s.raiseFree cause).pol = s.pol := State.raise_pol s cause _
@[simp] theorem State.raiseFree_nextId (s : State) (cause : Nat) : (s.raiseFree cause).nextId = s.nextId := State.raise_nextId s cause _
@[simp] theorem State.raiseFree_now (s : State) (cause : Nat) : (s.raiseFree cause).now = s.now := State.raise_now s cause _
@[simp] theorem State.raiseFree_cycle (s : State) (cause : Nat) : (s.raiseFree cause).cycle = s.cycle := State.raise_cycle s cause _
@[simp] theorem State.raiseFree_mem (s : State) (cause : Nat) : (s.raiseFree cause).mem = s.mem := State.raise_mem s cause _
@[simp] theorem State.raiseFree_marks (s : State) (cause : Nat) : (s.raiseFree cause).marks = s.marks := State.raise_marks s cause _
@[simp] theorem State.raiseFree_dies (s : State) (cause : Nat) : (s.raiseFree cause).dies = s.dies := State.raise_dies s cause _
@[simp] theorem State.raiseFree_parts (s : State) (cause : Nat) : (s.raiseFree cause).parts = s.parts := State.raise_parts s cause _
@[simp] theorem State.raiseFree_teams (s : State) (cause : Nat) : (s.raiseFree cause).teams = s.teams := State.raise_teams s cause _
@[simp] theorem State.raiseFree_router (s : State) (cause : Nat) : (s.raiseFree cause).router = s.router := State.raise_router s cause _
@[simp] theorem State.raiseFree_gate (s : State) (cause : Nat) : (s.raiseFree cause).gate = s.gate := State.raise_gate s cause _
@[simp] theorem State.raiseFree_msys (s : State) (cause : Nat) : (s.raiseFree cause).msys = s.msys := State.raise_msys s cause _
@[simp] theorem State.raiseFree_mg (s : State) (cause : Nat) : (s.raiseFree cause).mg = s.mg := State.raise_mg s cause _

/-! ### unfault -/

@[simp] theorem State.unfault_turns (s : State) (c : Nat) : (s.unfault c).turns = s.turns := rfl
@[simp] theorem State.unfault_args (s : State) (c : Nat) : (s.unfault c).args = s.args := rfl
@[simp] theorem State.unfault_core (s : State) (c : Nat) : (s.unfault c).core = s.core := rfl
@[simp] theorem State.unfault_eng (s : State) (c : Nat) : (s.unfault c).eng = s.eng := rfl
@[simp] theorem State.unfault_pol (s : State) (c : Nat) : (s.unfault c).pol = s.pol := rfl
@[simp] theorem State.unfault_fresh (s : State) (c : Nat) : (s.unfault c).fresh = s.fresh := rfl
@[simp] theorem State.unfault_nextId (s : State) (c : Nat) : (s.unfault c).nextId = s.nextId := rfl
@[simp] theorem State.unfault_now (s : State) (c : Nat) : (s.unfault c).now = s.now := rfl
@[simp] theorem State.unfault_cycle (s : State) (c : Nat) : (s.unfault c).cycle = s.cycle := rfl
@[simp] theorem State.unfault_mem (s : State) (c : Nat) : (s.unfault c).mem = s.mem := rfl
@[simp] theorem State.unfault_marks (s : State) (c : Nat) : (s.unfault c).marks = s.marks := rfl
@[simp] theorem State.unfault_dies (s : State) (c : Nat) : (s.unfault c).dies = s.dies := rfl
@[simp] theorem State.unfault_parts (s : State) (c : Nat) : (s.unfault c).parts = s.parts := rfl
@[simp] theorem State.unfault_teams (s : State) (c : Nat) : (s.unfault c).teams = s.teams := rfl
@[simp] theorem State.unfault_router (s : State) (c : Nat) : (s.unfault c).router = s.router := rfl
@[simp] theorem State.unfault_gate (s : State) (c : Nat) : (s.unfault c).gate = s.gate := rfl
@[simp] theorem State.unfault_msys (s : State) (c : Nat) : (s.unfault c).msys = s.msys := rfl
@[simp] theorem State.unfault_mg (s : State) (c : Nat) : (s.unfault c).mg = s.mg := rfl

/-! ### What an update writes -/

@[simp] theorem State.writeB_mem (s : State) (k : Nat) (bs : List Byte) : (s.writeB k bs).mem = Tab.putRun 0 s.mem k bs := rfl
@[simp] theorem State.raiseFree_fresh (s : State) (cause : Nat) : (s.raiseFree cause).fresh = s.fresh + 1 := rfl
@[simp] theorem State.modTeam_teams (s : State) (id : Nat) (f : Team → Team) :
    (s.modTeam id f).teams = s.teams.map fun t => if t.id = id then f t else t := rfl
@[simp] theorem State.post_egress (s : State) (r : Req) : (s.post r).gate.egress = s.gate.egress ++ [r] := rfl

end Sys2Proof.Machine
end

