-- ==== Sys2Proof/Laws/Ops.lean ====
section
/-!
SUPPORT. The shared operations: what a register, a core or a byte of memory reads after each, and what taking a fault and going on do.
-/
namespace Sys2Proof.Machine

/-! ### Cores and contexts -/

theorem State.getCore_setCore (s : State) (c d : Nat) (x : Core) : (s.setCore c x).getCore d = if d = c then x else s.getCore d :=
  Tab.get_put Core.zero s.cores c d x

/-- An update of the running core leaves the other cores alone. -/
theorem State.getCore_modCur_other (s : State) (f : Core → Core) (d : Nat) (h : d ≠ s.core) :
    (s.modCur f).getCore d = s.getCore d := by
  unfold State.modCur State.modCore; rw [State.getCore_setCore, if_neg h]

@[simp] theorem State.cur_modCur (s : State) (f : Core → Core) : (s.modCur f).cur = f s.cur := by
  show (s.setCore s.core (f s.cur)).getCore s.core = f s.cur
  rw [State.getCore_setCore, if_pos rfl]

@[simp] theorem State.ctx_modCtx (s : State) (f : Ctx → Ctx) : (s.modCtx f).ctx = f s.ctx := by
  unfold State.modCtx State.ctx; rw [State.cur_modCur]

@[simp] theorem State.csr_modCtx (s : State) (f : Ctx → Ctx) : (s.modCtx f).csr = (f s.ctx).csr := by
  unfold State.csr; rw [State.ctx_modCtx]

/-- An update of the running context leaves the rest of its core alone. -/
theorem State.cur_modCtx (s : State) (f : Ctx → Ctx) : (s.modCtx f).cur = { s.cur with act := f s.ctx } := by
  unfold State.modCtx; rw [State.cur_modCur]; rfl

theorem State.getCore_modCtx_other (s : State) (f : Ctx → Ctx) (d : Nat) (h : d ≠ s.core) :
    (s.modCtx f).getCore d = s.getCore d := State.getCore_modCur_other s _ d h

/-! ### Registers -/

@[simp] theorem State.rs_zero (s : State) : s.rs 0 = 0 := rfl
@[simp] theorem State.rp_zero (s : State) : s.rp 0 = true := rfl

/-- A write of a scalar register, whole: s0 keeps nothing; any other register takes the value and loses its poison. -/
theorem State.ctx_setS (s : State) (r : Nat) (v : W64) :
    (s.setS r v).ctx = if r = 0 then s.ctx else { s.ctx with
      s := Tab.put 0 s.ctx.s r v, poisS := s.ctx.poisS.filter (· != r), err := s.ctx.err.filter fun e => e.1 != r } := by
  unfold State.setS; split
  · rfl
  · rw [State.ctx_modCtx]

/-- What a scalar register reads after a write of a scalar register. -/
theorem State.rs_setS (s : State) (r q : Nat) (v : W64) :
    (s.setS r v).rs q = if q = 0 then 0 else if q = r then v else s.rs q := by
  unfold State.rs
  by_cases hq : q = 0
  · simp [hq]
  · simp only [hq, if_false]
    rw [State.ctx_setS]
    by_cases hr : r = 0
    · subst hr; simp [hq]
    · simp only [hr, if_false, Tab.get_put]

theorem State.rs_setS_same (s : State) (r : Nat) (v : W64) (h : r ≠ 0) : (s.setS r v).rs r = v := by
  rw [State.rs_setS]; simp [h]

theorem State.rs_setS_other (s : State) (r q : Nat) (v : W64) (h : q ≠ r) : (s.setS r v).rs q = s.rs q := by
  rw [State.rs_setS]; simp only [h, if_false]; split
  · rename_i h0; subst h0; rfl
  · rfl

/-- A write of s0 is discarded. -/
@[simp] theorem State.setS_zero (s : State) (v : W64) : s.setS 0 v = s := rfl

theorem setFld_testBit (n r : Nat) (b : Bool) (q : Nat) :
    (setFld n r r b.toNat).testBit q = if q = r then b else n.testBit q := by
  have h2 : r + 1 - r = 1 := by omega
  have e : setFld n r r b.toNat = 2 ^ r * (2 ^ 1 * (n / 2 ^ (r + 1)) + b.toNat) + n % 2 ^ r := by
    unfold setFld
    have hb : b.toNat % 2 ^ 1 = b.toNat := by cases b <;> rfl
    rw [h2, hb, Nat.pow_succ, Nat.mul_add, Nat.mul_comm (n / _), Nat.mul_assoc, Nat.mul_comm b.toNat, Nat.pow_one]
    omega
  rw [e, Nat.testBit_two_pow_mul_add _ (Nat.mod_lt _ (Nat.two_pow_pos r))]
  by_cases hq : q < r
  · rw [if_pos hq, if_neg (by omega), Nat.testBit_mod_two_pow]; simp [hq]
  · rw [if_neg hq, Nat.testBit_two_pow_mul_add _ (by cases b <;> decide)]
    by_cases hr : q = r
    · subst hr; simp; cases b <;> rfl
    · rw [if_neg hr, if_neg (by omega), Nat.testBit_div_two_pow]
      congr 1; omega

theorem predWith_getLsbD (p : BitVec 8) (r q : Nat) (b : Bool) (h : r < 8) :
    (predWith p r b).getLsbD q = if q = r then b else p.getLsbD q := by
  unfold predWith
  rw [BitVec.getLsbD_ofNat, setFld_testBit]
  by_cases hq : q = r
  · subst hq; simp [h]
  · rw [if_neg hq, if_neg hq, BitVec.testBit_toNat]
    by_cases h8 : q < 8
    · simp [h8]
    · simp [h8, BitVec.getLsbD_of_ge p q (by omega)]

theorem State.ctx_setP (s : State) (r : Nat) (b : Bool) :
    (s.setP r b).ctx = if r = 0 then s.ctx else { s.ctx with p := predWith s.ctx.p r b } := by
  unfold State.setP; split
  · rfl
  · rw [State.ctx_modCtx]

/-- What a predicate reads after a write of a predicate; p0 is never written. -/
theorem State.rp_setP (s : State) (r q : Nat) (b : Bool) (h : r < 8) :
    (s.setP r b).rp q = if q = 0 then true else if q = r then b else s.rp q := by
  unfold State.rp
  by_cases hq : q = 0
  · simp [hq]
  · simp only [hq, if_false]
    rw [State.ctx_setP]
    by_cases hr : r = 0
    · subst hr; simp [hq]
    · simp only [hr, if_false, predWith_getLsbD _ _ _ _ h]

theorem State.ctx_setVMask (s : State) (r : Nat) (m : BitVec 128) (x : Vec) :
    (s.setVMask r m x).ctx = { s.ctx with
      v := Tab.put 0 s.ctx.v r (mergeLanes m x (Tab.get 0 s.ctx.v r)),
      poisV := s.ctx.poisV.filter fun k => !wholeWord r m k,
      err := s.ctx.err.filter fun e => !(decide (64 ≤ e.1) && wholeWord r m (e.1 - 64)) } := by
  unfold State.setVMask; rw [State.ctx_modCtx]

/-- What a vector register reads after a masked write of a vector register. -/
theorem State.rv_setVMask (s : State) (r q : Nat) (m : BitVec 128) (x : Vec) :
    (s.setVMask r m x).rv q = if q = r then mergeLanes m x (s.rv r) else s.rv q := by
  unfold State.rv; rw [State.ctx_setVMask, Tab.get_put]

theorem State.rv_setV (s : State) (r q : Nat) (x : Vec) :
    (s.setV r x).rv q = if q = r then mergeLanes s.top x (s.rv r) else s.rv q := State.rv_setVMask s r q s.top x

/-! ### Memory -/

/-- What a byte reads after a write of bytes: the byte written there, or what it read before. -/
theorem State.byte_writeB (s : State) (k a : Nat) (bs : List Byte) :
    (s.writeB k bs).byte a = if k ≤ a ∧ a < k + bs.length then bs.getD (a - k) 0 else s.byte a :=
  Tab.get_putRun 0 s.mem k a bs

/-- A read of the bytes just written gives them. -/
theorem State.readB_writeB (s : State) (k : Nat) (bs : List Byte) : (s.writeB k bs).readB k bs.length = bs :=
  Tab.getRun_putRun 0 s.mem k bs

theorem State.readB_byte (s : State) (k n : Nat) : s.readB k n = (List.range n).map fun i => s.byte (k + i) :=
  Tab.getRun_get 0 s.mem k n

/-- A step that keeps a property keeps it over a fold. -/
theorem foldl_keeps {σ β : Type} (P : σ → Prop) (f : σ → β → σ) (h : ∀ s b, P s → P (f s b)) :
    ∀ (l : List β) (s : σ), P s → P (l.foldl f s)
  | [], _, hs => hs
  | b :: l, s, hs => foldl_keeps P f h l (f s b) (h s b hs)

/-! ### Taking a fault (R213) -/

/-- Taking a fault, whole: a core that has not faulted takes the cause, the two addresses and SRCQ, and stops; a faulted one stays as it is. -/
theorem State.cur_raiseAt (s : State) (cause : Nat) (addr pc : W64) (srcq : Nat) :
    (s.raiseAt cause addr pc srcq).cur = if s.cur.run = .faulted then s.cur else { s.cur with
      run := .faulted, told := false,
      act := { s.ctx with csr := { s.csr with code := BitVec.ofNat 8 cause, srcq := BitVec.ofNat 2 srcq,
                                              faultPc := pc, faultAddr := addr } } } := by
  unfold State.raiseAt; split
  · rfl
  · rw [State.cur_modCur]; rfl

theorem State.getCore_raiseAt_other (s : State) (cause : Nat) (addr pc : W64) (srcq d : Nat) (h : d ≠ s.core) :
    (s.raiseAt cause addr pc srcq).getCore d = s.getCore d := by
  unfold State.raiseAt; split
  · rfl
  · exact State.getCore_modCur_other s _ d h

/-- A fault writes no scalar register. -/
theorem State.rs_raiseAt (s : State) (cause : Nat) (addr pc : W64) (srcq r : Nat) :
    (s.raiseAt cause addr pc srcq).rs r = s.rs r := by
  have h : (s.raiseAt cause addr pc srcq).ctx.s = s.ctx.s := by
    unfold State.ctx; rw [State.cur_raiseAt]; split <;> rfl
  unfold State.rs; rw [h]

/-! ### Going on (R369, R370, R237) -/

/-- The loop end changes the loop levels alone. -/
theorem loopEnd_frame : ∀ (f : Nat) (x : Ctx) (n : W64),
    (loopEnd f x n).1 = { x with lpDepth := (loopEnd f x n).1.lpDepth, levels := (loopEnd f x n).1.levels }
  | 0, _, _ => rfl
  | f + 1, x, n => by
    unfold loopEnd; split
    · rfl
    · dsimp only; split
      · split
        · rfl
        · exact loopEnd_frame f { x with lpDepth := x.lpDepth - 1 } n
      · rfl

/-- Going on changes the PC, BRANCHPC's source, the schedule counter and the loop levels alone. -/
theorem Ctx.advance_frame (x : Ctx) (n : Nat) :
    x.advance n = { x with pc := (x.advance n).pc, via := (x.advance n).via, lpDepth := (x.advance n).lpDepth,
                           levels := (x.advance n).levels, csr := { x.csr with schedCtr := x.csr.tick } } := by
  unfold Ctx.advance; dsimp only; rw [loopEnd_frame]

theorem closeLevels_frame : ∀ (f : Nat) (x : Ctx) (t : W64), closeLevels f x t = { x with lpDepth := (closeLevels f x t).lpDepth }
  | 0, _, _ => rfl
  | f + 1, x, t => by
    unfold closeLevels; split
    · rfl
    · dsimp only; split
      · exact closeLevels_frame f { x with lpDepth := x.lpDepth - 1 } t
      · rfl

theorem State.ctx_retireN (s : State) (n : Nat) : (s.retireN n).ctx = s.ctx.advance n := State.ctx_modCtx s _
theorem State.ctx_retire (s : State) : s.retire.ctx = s.ctx.advance 8 := State.ctx_modCtx s _
theorem State.ctx_jump (s : State) (t : W64) : (s.jump t).ctx = (closeLevels 4 s.ctx t).goto t := State.ctx_modCtx s _

@[simp] theorem Ctx.advance_s (x : Ctx) (n : Nat) : (x.advance n).s = x.s := by rw [Ctx.advance_frame]
@[simp] theorem Ctx.advance_p (x : Ctx) (n : Nat) : (x.advance n).p = x.p := by rw [Ctx.advance_frame]
@[simp] theorem Ctx.advance_v (x : Ctx) (n : Nat) : (x.advance n).v = x.v := by rw [Ctx.advance_frame]
@[simp] theorem Ctx.advance_masks (x : Ctx) (n : Nat) : (x.advance n).masks = x.masks := by rw [Ctx.advance_frame]
@[simp] theorem Ctx.advance_ras (x : Ctx) (n : Nat) : (x.advance n).ras = x.ras := by rw [Ctx.advance_frame]
@[simp] theorem Ctx.advance_toks (x : Ctx) (n : Nat) : (x.advance n).toks = x.toks := by rw [Ctx.advance_frame]
@[simp] theorem Ctx.advance_rng (x : Ctx) (n : Nat) : (x.advance n).rng = x.rng := by rw [Ctx.advance_frame]
@[simp] theorem Ctx.advance_callDepth (x : Ctx) (n : Nat) : (x.advance n).callDepth = x.callDepth := by rw [Ctx.advance_frame]
@[simp] theorem Ctx.advance_early (x : Ctx) (n : Nat) : (x.advance n).early = x.early := by rw [Ctx.advance_frame]
@[simp] theorem Ctx.advance_poisS (x : Ctx) (n : Nat) : (x.advance n).poisS = x.poisS := by rw [Ctx.advance_frame]
@[simp] theorem Ctx.advance_poisV (x : Ctx) (n : Nat) : (x.advance n).poisV = x.poisV := by rw [Ctx.advance_frame]
@[simp] theorem Ctx.advance_csr (x : Ctx) (n : Nat) : (x.advance n).csr = { x.csr with schedCtr := x.csr.tick } := by
  rw [Ctx.advance_frame]

/-- Outside a loop, going on adds the bundle's length to the PC. -/
theorem Ctx.advance_pc (x : Ctx) (n : Nat) (h : x.lpDepth = 0) : (x.advance n).pc = x.pc + BitVec.ofNat 64 n := by
  unfold Ctx.advance; simp [loopEnd, h]

@[simp] theorem State.rs_retireN (s : State) (n r : Nat) : (s.retireN n).rs r = s.rs r := by
  unfold State.rs; rw [State.ctx_retireN, Ctx.advance_s]
@[simp] theorem State.rp_retireN (s : State) (n r : Nat) : (s.retireN n).rp r = s.rp r := by
  unfold State.rp; rw [State.ctx_retireN, Ctx.advance_p]
@[simp] theorem State.rv_retireN (s : State) (n r : Nat) : (s.retireN n).rv r = s.rv r := by
  unfold State.rv; rw [State.ctx_retireN, Ctx.advance_v]
@[simp] theorem State.rs_retire (s : State) (r : Nat) : s.retire.rs r = s.rs r := State.rs_retireN s 8 r
@[simp] theorem State.rp_retire (s : State) (r : Nat) : s.retire.rp r = s.rp r := State.rp_retireN s 8 r
@[simp] theorem State.rv_retire (s : State) (r : Nat) : s.retire.rv r = s.rv r := State.rv_retireN s 8 r

/-- Going on changes nothing of the running core but its context. -/
theorem State.cur_retireN (s : State) (n : Nat) : (s.retireN n).cur = { s.cur with act := s.ctx.advance n } :=
  State.cur_modCtx s _

/-! ### Guards (R330, R331) -/

/-- A guarded bundle: a next state always, that of the bundle's effect when the guard holds, and only the advance when it fails. -/
theorem State.guardedN_next (s : State) (n : Nat) (g : Guard) (f : State → State) :
    s.guardedN n g f = .next (if s.holds g then f s else s.retireN n) := rfl
theorem State.guarded_true (s : State) (g : Guard) (f : State → State) (h : s.holds g = true) : s.guarded g f = .next (f s) := by
  unfold State.guarded; rw [State.guardedN_next, if_pos h]
theorem State.guarded_false (s : State) (g : Guard) (f : State → State) (h : s.holds g = false) : s.guarded g f = .next s.retire := by
  unfold State.guarded; rw [State.guardedN_next, if_neg (by simp [h])]; rfl
/-- A bundle without a guard acts. -/
@[simp] theorem State.holds_always (s : State) : s.holds ⟨0, false⟩ = true := rfl

end Sys2Proof.Machine
end

