-- ==== Sys2Proof/Laws/Claims.lean ====
section
/-!
SUPPORT. The frames of Safety.lean, for the shared operations: what a register write, a jump, a fault and going on leave alone.
-/
namespace Sys2Proof.Machine

theorem Completes.intro {i : Instr} {s t : State} {P : State → Prop} (h : exec i s = .next t) (p : P t) : Completes i s P := ⟨t, h, p⟩

/-- A composition of core-only changes. -/
theorem CoreOnly.trans {s t u : State} (h : CoreOnly s t) (k : CoreOnly t u) : CoreOnly s u := by
  have hc : t.core = s.core := by rw [h.outside]
  exact ⟨by rw [k.outside, h.outside], fun c hn => by rw [k.others c (by rw [hc]; exact hn), h.others c hn],
    fun a => by rw [k.bytes, h.bytes]⟩
theorem CoreOnly.refl (s : State) : CoreOnly s s := ⟨rfl, fun _ _ => rfl, fun _ => rfl⟩
theorem CoreOnly.modCur (s : State) (f : Core → Core) : CoreOnly s (s.modCur f) :=
  ⟨rfl, fun c h => State.getCore_modCur_other s f c h, fun _ => rfl⟩

theorem CtxOnly.trans {s t u : State} (h : CtxOnly s t) (k : CtxOnly t u) : CtxOnly s u :=
  ⟨h.toCoreOnly.trans k.toCoreOnly, by rw [k.core, h.core]⟩
theorem CtxOnly.refl (s : State) : CtxOnly s s := ⟨CoreOnly.refl s, rfl⟩
theorem CtxOnly.modCtx (s : State) (f : Ctx → Ctx) : CtxOnly s (s.modCtx f) :=
  ⟨CoreOnly.modCur s _, by rw [State.cur_modCtx, State.ctx_modCtx]⟩
theorem CtxOnly.setS (s : State) (r : Nat) (v : W64) : CtxOnly s (s.setS r v) := by
  unfold State.setS; split
  · exact CtxOnly.refl s
  · exact CtxOnly.modCtx s _
theorem CtxOnly.setP (s : State) (r : Nat) (b : Bool) : CtxOnly s (s.setP r b) := by
  unfold State.setP; split
  · exact CtxOnly.refl s
  · exact CtxOnly.modCtx s _
theorem CtxOnly.retireN (s : State) (n : Nat) : CtxOnly s (s.retireN n) := CtxOnly.modCtx s _

/-! ### Going on depends on the PC and the loops alone -/

/-- The loop end of a context depends on its PC, its call depth and its loop levels alone. -/
theorem loopEnd_congr : ∀ (f : Nat) (x y : Ctx) (t : W64), y.pc = x.pc → y.callDepth = x.callDepth → y.lpDepth = x.lpDepth →
    y.levels = x.levels → (loopEnd f y t).2 = (loopEnd f x t).2 ∧ (loopEnd f y t).1.lpDepth = (loopEnd f x t).1.lpDepth ∧
      (loopEnd f y t).1.levels = (loopEnd f x t).1.levels
  | 0, _, _, _, _, _, h3, h4 => ⟨rfl, h3, h4⟩
  | f + 1, x, y, t, h1, h2, h3, h4 => by
    cases x with | mk s p v pc via csr cd lp levels ras masks toks early rng poisS poisV err =>
    cases y with | mk s' p' v' pc' via' csr' cd' lp' levels' ras' masks' toks' early' rng' poisS' poisV' err' =>
    dsimp only at h1 h2 h3 h4
    subst h1 h2 h3 h4
    unfold loopEnd
    dsimp only [Ctx.level, Ctx.setLevel]
    split
    · exact ⟨rfl, rfl, rfl⟩
    · split
      · split
        · exact ⟨rfl, rfl, rfl⟩
        · exact loopEnd_congr f _ _ t rfl rfl rfl rfl
      · exact ⟨rfl, rfl, rfl⟩
/-- Going on of two contexts that agree on the PC, the call depth and the loops. -/
theorem Ctx.advance_congr (x y : Ctx) (n : Nat) (h1 : y.pc = x.pc) (h2 : y.callDepth = x.callDepth) (h3 : y.lpDepth = x.lpDepth)
    (h4 : y.levels = x.levels) :
    y.advance n = { y with
      pc := (x.advance n).pc, via := (x.advance n).via, lpDepth := (x.advance n).lpDepth, levels := (x.advance n).levels,
      csr := { y.csr with schedCtr := y.csr.tick } } := by
  have k := loopEnd_congr 4 x y (x.pc + BitVec.ofNat 64 n) h1 h2 h3 h4
  have p : (y.advance n).pc = (x.advance n).pc := by
    show (loopEnd 4 y (y.pc + _)).2.1 = _; rw [h1, k.1]; rfl
  have v : (y.advance n).via = (x.advance n).via := by
    show (if (loopEnd 4 y (y.pc + _)).2.2 then some y.pc else none) = _; rw [h1, k.1]; rfl
  have d : (y.advance n).lpDepth = (x.advance n).lpDepth := by
    show (loopEnd 4 y (y.pc + _)).1.lpDepth = _; rw [h1, k.2.1]; rfl
  have l : (y.advance n).levels = (x.advance n).levels := by
    show (loopEnd 4 y (y.pc + _)).1.levels = _; rw [h1, k.2.2]; rfl
  rw [Ctx.advance_frame y n, p, v, d, l]

/-- Going on leaves what was written to the registers. -/
theorem Ctx.advance_s_poisS (x : Ctx) (n : Nat) (a : Tab W64) (p : List Nat) (e : Tab Nat) :
    ({ x with s := a, poisS := p, err := e } : Ctx).advance n = { x.advance n with s := a, poisS := p, err := e } := by
  refine (Ctx.advance_congr x { x with s := a, poisS := p, err := e } n rfl rfl rfl rfl).trans ?_
  rw [Ctx.advance_frame x n]
theorem Ctx.advance_withP (x : Ctx) (n : Nat) (p : BitVec 8) :
    ({ x with p := p } : Ctx).advance n = { x.advance n with p := p } := by
  refine (Ctx.advance_congr x { x with p := p } n rfl rfl rfl rfl).trans ?_
  rw [Ctx.advance_frame x n]
theorem Ctx.advance_v_poisV (x : Ctx) (n : Nat) (a : Tab Vec) (p : List Nat) (e : Tab Nat) :
    ({ x with v := a, poisV := p, err := e } : Ctx).advance n = { x.advance n with v := a, poisV := p, err := e } := by
  refine (Ctx.advance_congr x { x with v := a, poisV := p, err := e } n rfl rfl rfl rfl).trans ?_
  rw [Ctx.advance_frame x n]

/-- The context after a write of a scalar register and the advance. -/
theorem State.ctx_setS_retireN (s : State) (r : Nat) (v : W64) (n : Nat) : ((s.setS r v).retireN n).ctx =
    { s.ctx.advance n with s := (s.setS r v).ctx.s, poisS := (s.setS r v).ctx.poisS, err := (s.setS r v).ctx.err } := by
  rw [State.ctx_retireN, State.ctx_setS]
  split
  · rw [Ctx.advance_frame]
  · exact Ctx.advance_s_poisS s.ctx n _ _ _
/-- A write of a scalar register changes the scalar registers and their poison alone. -/
theorem State.ctx_setS_frame (s : State) (r : Nat) (v : W64) :
    (s.setS r v).ctx = { s.ctx with s := (s.setS r v).ctx.s, poisS := (s.setS r v).ctx.poisS, err := (s.setS r v).ctx.err } := by
  rw [State.ctx_setS]; split <;> rfl
/-- The context after a write of a predicate and the advance. -/
theorem State.ctx_setP_retireN (s : State) (r : Nat) (b : Bool) (n : Nat) : ((s.setP r b).retireN n).ctx =
    { s.ctx.advance n with p := (s.setP r b).ctx.p } := by
  rw [State.ctx_retireN, State.ctx_setP]
  split
  · rw [Ctx.advance_frame]
  · exact Ctx.advance_withP s.ctx n _
/-- The context after a masked write of a vector register and the advance. -/
theorem State.ctx_setVMask_retireN (s : State) (r : Nat) (m : BitVec 128) (x : Vec) (n : Nat) :
    ((s.setVMask r m x).retireN n).ctx =
      { s.ctx.advance n with v := (s.setVMask r m x).ctx.v, poisV := (s.setVMask r m x).ctx.poisV, err := (s.setVMask r m x).ctx.err } := by
  rw [State.ctx_retireN, State.ctx_setVMask]
  exact Ctx.advance_v_poisV s.ctx n _ _ _

/-! ### The frames -/

/-- A bundle that only goes on. -/
theorem State.goesOn (s : State) (n : Nat) : GoesOn s (s.retireN n) n := ⟨CtxOnly.retireN s n, State.ctx_retireN s n⟩
/-- A bundle that writes a scalar register and goes on. -/
theorem State.writesS (s : State) (n r : Nat) (v : W64) : WritesS s ((s.setS r v).retireN n) n r v := by
  refine ⟨(CtxOnly.setS s r v).trans (CtxOnly.retireN _ n), ?_, ?_, ?_, ?_⟩
  · rw [State.ctx_setS_retireN]
  · intro q; rw [State.rs_retireN, State.rs_setS]
  · intro q
    rw [State.ctx_setS_retireN, State.ctx_setS]
    split
    · rename_i h; simp [h]
    · rename_i h; simp [h]
  · intro e
    rw [State.ctx_setS_retireN, State.ctx_setS]
    split
    · rename_i h; simp [h]
    · rename_i h; simp [h]
/-- A bundle that writes a predicate and goes on. -/
theorem State.writesP (s : State) (r : Nat) (b : Bool) (h : r < 8) : WritesP s ((s.setP r b).retire) r b := by
  refine ⟨(CtxOnly.setP s r b).trans (CtxOnly.retireN _ 8), ?_, ?_⟩
  · exact State.ctx_setP_retireN s r b 8 ▸ rfl
  · intro q _; rw [State.rp_retire, State.rp_setP s r q b h]
/-- A taken branch. -/
theorem State.jumpsTo (s : State) (a : W64) : JumpsTo s (s.jump a) a := by
  refine ⟨CtxOnly.modCtx s _, ?_⟩
  rw [State.ctx_jump, closeLevels_frame]; rfl
/-- A precise fault of a strand that has not faulted. -/
theorem State.faultsAt (s : State) (cause : Nat) (addr pc : W64) (srcq : Nat) (h : s.cur.run ≠ .faulted) :
    FaultsAt s (s.raiseAt cause addr pc srcq) (BitVec.ofNat 8 cause) (BitVec.ofNat 2 srcq) pc := by
  have e : (s.raiseAt cause addr pc srcq).ctx = { s.ctx with
      csr := { s.csr with code := BitVec.ofNat 8 cause, srcq := BitVec.ofNat 2 srcq, faultPc := pc, faultAddr := addr } } := by
    show (s.raiseAt cause addr pc srcq).cur.act = _
    rw [State.cur_raiseAt, if_neg h]
  refine ⟨?_, fun c hc => State.getCore_raiseAt_other s _ _ _ _ c hc, ?_, ?_, ?_⟩
  · unfold State.raiseAt; rw [if_neg h]; rfl
  · rw [State.cur_raiseAt, if_neg h, e]
  · unfold State.csr; rw [e]; rfl
  · intro a; unfold State.raiseAt; rw [if_neg h]; rfl

/-! ### Reads of sound words, stores, and accesses out of range -/

/-- Sound bytes hold no unsound word. -/
theorem State.unsound_nil (s : State) (k n : Nat) (h : s.sound k n) : s.unsound k n = [] := by
  unfold State.unsound
  rw [List.filter_eq_nil_iff]
  intro e he
  have := h e he
  simp only [Bool.and_eq_true, decide_eq_true_eq, not_and, Nat.not_lt]
  intro h1
  omega
/-- A read of sound words takes no effect and finds no poison. -/
theorem State.scan_sound (s : State) (k n asid va : Nat) (h : s.sound k n) : s.scan k n asid va = (s, none) := by
  unfold State.scan
  rw [State.unsound_nil s k n h]; rfl
/-- A bundle that stores bytes and goes on. -/
theorem State.storesB (s : State) (k : Nat) (bs : List Byte) : StoresB s (s.writeB k bs).retire k bs := by
  refine ⟨rfl, fun c h => State.getCore_modCtx_other (s.writeB k bs) _ c h, State.cur_retireN (s.writeB k bs) 8, fun a => ?_⟩
  exact State.byte_writeB s k a bs
/-- An access out of range. -/
theorem State.outOfRange (s : State) (p : Nat) : OutOfRange s (s.oob p).retire (BitVec.ofNat 32 p) none := by
  have e : (s.oob p).retire.ctx = { s.ctx.advance 8 with csr := { s.csr with
      schedCtr := s.csr.tick, oobFlag := true,
      oobAddr := if s.csr.oobFlag then s.csr.oobAddr else BitVec.ofNat 32 p } } := by
    unfold State.retire State.oob
    rw [State.ctx_retireN, State.ctx_modCtx]
    exact Ctx.advance_congr s.ctx (s.ctx.oob p) 8 rfl rfl rfl rfl |>.trans (by rw [Ctx.advance_frame s.ctx 8]; rfl)
  refine ⟨(CtxOnly.modCtx s _).trans (CtxOnly.retireN _ 8), ?_, ?_⟩
  · rw [e, Ctx.advance_frame]
  · intro q
    unfold State.rs; rw [e]; by_cases h : q = 0 <;> simp [h]
/-- A load of s[r] out of range: it reads zero. -/
theorem State.outOfRange_load (s : State) (p r : Nat) :
    OutOfRange s (((s.oob p).setS r 0).retire) (BitVec.ofNat 32 p) (some (r, 0)) := by
  have e : (((s.oob p).setS r 0).retire).ctx = { s.ctx.advance 8 with
      s := ((s.oob p).setS r 0).ctx.s, poisS := ((s.oob p).setS r 0).ctx.poisS, err := ((s.oob p).setS r 0).ctx.err
      csr := { s.csr with schedCtr := s.csr.tick, oobFlag := true,
                          oobAddr := if s.csr.oobFlag then s.csr.oobAddr else BitVec.ofNat 32 p } } := by
    unfold State.retire
    rw [State.ctx_setS_retireN]
    have h : (s.oob p).ctx.advance 8 = _ := (congrArg (fun x => x.advance 8) (State.ctx_modCtx s _)).trans
      (Ctx.advance_congr s.ctx (s.ctx.oob p) 8 rfl rfl rfl rfl)
    rw [h, Ctx.advance_frame s.ctx 8]; rfl
  refine ⟨(CtxOnly.modCtx s _).trans ((CtxOnly.setS _ r 0).trans (CtxOnly.retireN _ 8)), ?_, ?_⟩
  · rw [e]
  · intro q
    rw [State.rs_retire, State.rs_setS]
    have h : (s.oob p).rs q = s.rs q := by unfold State.rs State.oob; rw [State.ctx_modCtx]; rfl
    rw [h]
end Sys2Proof.Machine
end

