-- ==== Sys2Proof/Laws/Bytes.lean ====
section
/-!
SUPPORT. Byte order (R3): what the bytes of a number are, and what number bytes make; the value of a load and the bytes of a store.
-/
namespace Sys2Proof

@[simp] theorem toLE_length : ∀ n w, (toLE n w).length = n
  | 0, _ => rfl
  | n + 1, w => by show (toLE n (w / 256)).length + 1 = n + 1; rw [toLE_length]
/-- Byte i of a number. -/
theorem toLE_getD : ∀ n w i, i < n → (toLE n w).getD i 0 = BitVec.ofNat 8 (w / 2 ^ (8 * i))
  | 0, _, _, h => absurd h (Nat.not_lt_zero _)
  | n + 1, w, 0, _ => by simp [toLE]
  | n + 1, w, i + 1, h => by
    show (toLE n (w / 256)).getD i 0 = _
    rw [toLE_getD n _ i (by omega), Nat.div_div_eq_div_mul, show (256 : Nat) = 2 ^ 8 from rfl, ← Nat.pow_add]
    congr 3; omega
/-- Bytes make a number below 256 to their count. -/
theorem ofLE_lt : ∀ bs : List Byte, ofLE bs < 256 ^ bs.length
  | [] => by decide
  | b :: bs => by
    have := ofLE_lt bs; have hb := b.isLt
    show b.toNat + 256 * ofLE bs < 256 ^ (bs.length + 1)
    rw [Nat.pow_succ]; omega
/-- A bit of the number that bytes make. -/
theorem ofLE_testBit : ∀ (bs : List Byte) (i : Nat), (ofLE bs).testBit i = (bs.getD (i / 8) 0).getLsbD (i % 8)
  | [], i => by simp [ofLE]
  | b :: bs, i => by
    show (b.toNat + 256 * ofLE bs).testBit i = _
    rw [Nat.add_comm, show (256 : Nat) = 2 ^ 8 from rfl, Nat.testBit_two_pow_mul_add _ b.isLt]
    by_cases h : i < 8
    · rw [if_pos h, Nat.div_eq_of_lt h, Nat.mod_eq_of_lt h]; rfl
    · rw [if_neg h, ofLE_testBit bs (i - 8)]
      obtain ⟨j, rfl⟩ : ∃ j, i = j + 8 := ⟨i - 8, by omega⟩
      rw [Nat.add_sub_cancel, Nat.add_mod_right, Nat.add_div_right _ (by decide)]; rfl
/-- The bytes of a number make it again. -/
theorem ofLE_toLE : ∀ n w, ofLE (toLE n w) = w % 256 ^ n
  | 0, w => by simp [toLE, ofLE, Nat.mod_one]
  | n + 1, w => by
    show (BitVec.ofNat 8 w).toNat + 256 * ofLE (toLE n (w / 256)) = _
    rw [ofLE_toLE n, Nat.pow_succ, Nat.mul_comm (256 ^ n), Nat.mod_mul, BitVec.toNat_ofNat]

end Sys2Proof

namespace Sys2Proof.Machine

/-- A bit of a number read from memory is a bit of the byte that it falls in (R3). -/
theorem State.readN_testBit (s : State) (k n i : Nat) :
    (s.readN k n).testBit i = (decide (i < 8 * n) && (s.byte (k + i / 8)).getLsbD (i % 8)) := by
  unfold State.readN
  rw [ofLE_testBit, State.readB_byte]
  by_cases h : i < 8 * n
  · have hi : i / 8 < n := by omega
    simp [h, List.getD_eq_getElem?_getD, hi]
  · have hi : ¬ i / 8 < n := by omega
    simp [h, List.getD_eq_getElem?_getD, hi]
theorem State.readN_lt (s : State) (k n : Nat) : s.readN k n < 256 ^ n := by
  have h := ofLE_lt (s.readB k n)
  rw [State.readB_byte, List.length_map, List.length_range] at h
  rw [← State.readB_byte] at h; exact h
/-- A number read from where it was written. -/
theorem State.readN_writeN (s : State) (k n v : Nat) : (s.writeN k n v).readN k n = v % 256 ^ n := by
  have h := State.readB_writeB s k (toLE n v)
  rw [toLE_length] at h
  show ofLE ((s.writeB k (toLE n v)).readB k n) = _
  rw [h, ofLE_toLE]

/-- The value that a load writes (R363). -/
theorem State.loads_ldExtend (s : State) (key : Nat) (k : LdKind) : s.loads key k (ldExtend k (s.readN key (ldSize k))) := by
  have tb := s.readN_testBit key (ldSize k)
  have ext : ∀ (w n i : Nat), 0 < w → w < 64 → i < 64 →
      (w64 (wrap 64 (sgn w n))).getLsbD i = if i < w then n.testBit i else n.testBit (w - 1) := by
    intro w n i h0 hw hi
    have e : w64 (wrap 64 (sgn w n)) = (BitVec.ofNat w n).signExtend 64 := by
      apply BitVec.eq_of_toInt_eq
      rw [BitVec.toInt_signExtend_of_le (by omega)]
      have e1 : w64 (wrap 64 (sgn w n)) = BitVec.ofInt 64 (sgn w n) := by
        apply BitVec.eq_of_toNat_eq; rw [BitVec.toNat_ofInt]; simp [w64, wrap]; omega
      have e2 : (BitVec.ofNat w n).toInt = sgn w n := by
        obtain ⟨v, rfl⟩ : ∃ v, w = v + 1 := ⟨w - 1, by omega⟩
        rw [BitVec.toInt_eq_toNat_cond, BitVec.toNat_ofNat]; unfold sgn
        have : (2 : Nat) ^ (v + 1) = 2 * 2 ^ v := by rw [Nat.pow_succ, Nat.mul_comm]
        rw [this, Nat.add_sub_cancel]
        split <;> split <;> first | rfl | omega
      rw [e1, ← e2, BitVec.toInt_ofInt]
      have h1 := (BitVec.ofNat w n).toInt_lt
      have h2 := (BitVec.ofNat w n).le_toInt
      have hp : (2 : Int) ^ (w - 1) ≤ 2 ^ 62 := by
        have : (2 : Nat) ^ (w - 1) ≤ 2 ^ 62 := Nat.pow_le_pow_right (by decide) (by omega)
        exact_mod_cast this
      rw [Int.bmod_def]; omega
    rw [e, BitVec.getLsbD_signExtend, BitVec.getLsbD_ofNat, BitVec.msb_eq_getLsbD_last, BitVec.getLsbD_ofNat]
    simp only [hi, decide_true, Bool.true_and]
    split
    · rename_i h; simp [h]
    · simp; omega
  have zext : ∀ (w n i : Nat), w < 64 → i < 64 → (w64 (n % 2 ^ w)).getLsbD i = (decide (i < w) && n.testBit i) := by
    intro w n i hw hi
    simp only [w64, BitVec.getLsbD_ofNat, hi, decide_true, Bool.true_and, Nat.testBit_mod_two_pow]
  have hb : ∀ i, i < 64 → (w64 (s.readN key 8)).getLsbD i = (s.readN key 8).testBit i := by
    intro i hi; simp only [w64, BitVec.getLsbD_ofNat, hi, decide_true, Bool.true_and]
  intro i hi
  cases k <;> simp only [ldExtend, ldSize] at tb ⊢
  case b => rw [ext 8 _ i (by decide) (by decide) hi, tb, tb]; by_cases h : i < 8 <;> simp [h]
  case bu => rw [zext 8 _ i (by decide) hi, tb]; by_cases h : i < 8 <;> simp [h]
  case h => rw [ext 16 _ i (by decide) (by decide) hi, tb, tb]; by_cases h : i < 16 <;> simp [h]
  case hu => rw [zext 16 _ i (by decide) hi, tb]; by_cases h : i < 16 <;> simp [h]
  case w => rw [ext 32 _ i (by decide) (by decide) hi, tb, tb]; by_cases h : i < 32 <;> simp [h]
  case wu => rw [zext 32 _ i (by decide) hi, tb]; by_cases h : i < 32 <;> simp [h]
  case d => rw [hb i hi, tb]; simp [hi]
/-- The bytes that a store stores (R363). -/
theorem storedBytes_toLE (k : StKind) (v : W64) : storedBytes k v (toLE (stSize k) v.toNat) :=
  ⟨toLE_length _ _, fun i h => toLE_getD _ _ i h⟩

end Sys2Proof.Machine
end

