-- ==== Sys2Proof/Laws/Access.lean ====
section
/-!
SUPPORT. The checks of scratchpad and memory accesses (R246, R247, R363, R364), one lemma for each outcome, and the faults they raise.
-/
namespace Sys2Proof.Machine

/-! ### Faults at the bundle -/

/-- A precise fault with an address. -/
theorem State.raise_faults (s : State) (cause : Nat) (addr : W64) (h : s.cur.run ≠ .faulted) :
    FaultsAt s (s.raise cause addr) (BitVec.ofNat 8 cause) 0 s.ctx.pc ∧ (s.raise cause addr).csr.faultAddr = addr := by
  refine ⟨State.faultsAt s cause addr s.ctx.pc 0 h, ?_⟩
  show (s.raiseAt cause addr s.ctx.pc 0).cur.act.csr.faultAddr = addr
  rw [State.cur_raiseAt, if_neg h]
/-- A precise fault whose address the spec leaves open. -/
theorem State.raiseFree_faults (s : State) (cause : Nat) (h : s.cur.run ≠ .faulted) :
    FaultsAt s (s.raiseFree cause) (BitVec.ofNat 8 cause) 0 s.ctx.pc := by
  have k := (State.raise_faults s cause (Config.freeFaultAddr s.fresh) h).1
  refine ⟨?_, fun c hc => k.others c hc, k.core, k.ctx, fun a => k.bytes a⟩
  show { s.raise cause (Config.freeFaultAddr s.fresh) with fresh := s.fresh + 1 } = _
  rw [k.outside]; rfl
/-- ILLEGAL_OP names its own bundle in FAULTPC and FAULTADDR (R350). -/
theorem State.illegal_faults (s : State) (h : s.cur.run ≠ .faulted) :
    FaultsAt s s.illegal 0x01 0 s.ctx.pc ∧ s.illegal.csr.faultAddr = s.ctx.pc := State.raise_faults s 0x01 s.ctx.pc h

/-! ### Scratchpad accesses -/

variable (s : State) (p : Nat) (off : Int) (n al : Nat) (out ok : State → State)

/-- A pointer of a reserved space faults. -/
theorem State.spadAccess_bad (h : ptrBad p = true) : s.spadAccess p off n al out ok = s.raise 0x03 (w64 p) := by
  unfold State.spadAccess; rw [if_pos h]
/-- A misaligned access faults. -/
theorem State.spadAccess_misaligned (h : ptrBad p = false) (ha : off % (al : Int) ≠ 0) :
    s.spadAccess p off n al out ok = s.raiseFree 0x05 := by
  unfold State.spadAccess; rw [if_neg (by simp [h]), if_pos ha]
/-- An access out of range does what out says and goes on. -/
theorem State.spadAccess_out (h : ptrBad p = false) (ha : off % (al : Int) = 0) (hr : inSpad off n = false ∨ s.ctx.rankOk p = false) :
    s.spadAccess p off n al out ok = (out (s.oob (ptrAt p off))).retire := by
  unfold State.spadAccess
  rw [if_neg (by simp [h]), if_neg (by simp [ha]), if_pos (by rcases hr with h | h <;> simp [h])]
/-- An access in range acts. -/
theorem State.spadAccess_ok (h : ptrBad p = false) (ha : off % (al : Int) = 0) (hi : inSpad off n = true) (hr : s.ctx.rankOk p = true) :
    s.spadAccess p off n al out ok = ok s := by
  unfold State.spadAccess
  rw [if_neg (by simp [h]), if_neg (by simp [ha]), if_neg (by simp [hi, hr])]
theorem inSpad_true (h0 : 0 ≤ off) (h1 : off + n ≤ 4194304) : inSpad off n = true := by unfold inSpad; simp; omega
theorem inSpad_false (h : off < 0 ∨ 4194304 < off + n) : inSpad off n = false := by unfold inSpad; simp; omega
theorem ptrBad_false (h : p < 2 ^ 31) : ptrBad p = false := by unfold ptrBad; simp; omega
theorem ptrBad_true (h : 2 ^ 31 ≤ p) : ptrBad p = true := by unfold ptrBad; simp; omega
theorem ptrOf_eq (w : W64) : ptrOf w = w.toNat % 2 ^ 32 := by simp [ptrOf, fld]
theorem sgn_toInt32 (i : BitVec 32) : sgn 32 i.toNat = i.toInt := by
  have := i.isLt
  rw [BitVec.toInt_eq_toNat_cond]; unfold sgn
  rw [Nat.mod_eq_of_lt this]
  split <;> split <;> first | rfl | omega
theorem sx12_toInt (i : BitVec 12) : sx12 i = i.toInt := by
  have := i.isLt
  rw [BitVec.toInt_eq_toNat_cond]; unfold sx12 sgn
  rw [Nat.mod_eq_of_lt this]
  split <;> split <;> first | rfl | omega
theorem ptrOff_eq : ptrOff p = p % 2 ^ 22 := by simp [ptrOff, nfld]

/-! ### Accesses by virtual address (R364) -/

variable (k : AKind) (va : W64) (act : State → Piece → State)

theorem State.memAccess_wide (h : 2 ^ 55 ≤ va.toNat) : s.memAccess k va n act = s.raise 0x03 va := by
  unfold State.memAccess; rw [if_pos h]
theorem State.memAccess_misaligned (h : va.toNat < 2 ^ 55) (ha : va.toNat % n ≠ 0) : s.memAccess k va n act = s.raise 0x05 va := by
  unfold State.memAccess; rw [if_neg (by omega), if_pos ha]
theorem State.memAccess_ok (h : va.toNat < 2 ^ 55) (ha : va.toNat % n = 0) (q : Piece) (qs : List Piece)
    (hx : s.xlate k va.toNat n = .ok (q :: qs)) : s.memAccess k va n act = act s q := by
  unfold State.memAccess; rw [if_neg (by omega), if_neg (by omega), hx]
theorem State.memAccess_fault (h : va.toNat < 2 ^ 55) (ha : va.toNat % n = 0) (c a : Nat)
    (hx : s.xlate k va.toNat n = .fault c a) : s.memAccess k va n act = s.raiseT k c a := by
  unfold State.memAccess; rw [if_neg (by omega), if_neg (by omega), hx]
theorem State.memAccess_held (h : va.toNat < 2 ^ 55) (ha : va.toNat % n = 0) (hx : s.xlate k va.toNat n = .held) :
    s.memAccess k va n act = s := by
  unfold State.memAccess; rw [if_neg (by omega), if_neg (by omega), hx]

/-! ### Outstanding accesses -/

theorem State.cur_addPend (q : Pend) : (s.addPend q).cur = { s.cur with pend := s.cur.pend ++ [q] } := State.cur_modCur s _
theorem State.ctx_addPend (q : Pend) : (s.addPend q).ctx = s.ctx := by unfold State.ctx; rw [State.cur_addPend]
theorem State.cur_addOut (w : OutW) : (s.addOut w).cur = { s.cur with outw := s.cur.outw ++ [w] } := State.cur_modCur s _
theorem State.ctx_addOut (w : OutW) : (s.addOut w).ctx = s.ctx := by unfold State.ctx; rw [State.cur_addOut]

end Sys2Proof.Machine
end

