-- ==== Sys2Proof/Laws/Canonical.lean ====
section
/-!
SUPPORT. Memory stays in its canonical form: what the answers of the shared operations say of it, and the first half of those operations, in
the order in which they are built up.
-/
namespace Sys2Proof.Machine
/-- The memory of a state is in its canonical form. -/
structure State.memOk (s : State) : Prop where
  wf : Memory.wf s.mem
def Keeps (o : Host.Outcome State Fault Refusal) : Prop := ∀ t, o = .next t → t.memOk
theorem Keeps.next {t : State} (h : t.memOk) : Keeps (.next t) := by intro u e; cases e; exact h
theorem Keeps.fault {x : Fault} : Keeps (.fault x) := by intro u e; cases e
/-- The states that an iteration of M answers have their memory in canonical form. -/
inductive MRes.memOk : MRes → Prop
  | ok_mk {t : State} (h : t.memOk) : MRes.memOk (.ok t)
  | spoilt_mk {t : State} {a : Option W64} (h : t.memOk) : MRes.memOk (.spoilt t a)
  | fault_mk {c : Nat} {a : Option W64} : MRes.memOk (.fault c a)
  | held_mk : MRes.memOk .held
theorem MRes.of_ok {m : MRes} {t : State} (e : m = .ok t) (h : m.memOk) : t.memOk := by subst e; cases h; assumption
theorem MRes.of_spoilt {m : MRes} {t : State} {a : Option W64} (e : m = .spoilt t a) (h : m.memOk) : t.memOk := by subst e; cases h; assumption
/-- The state in which a copy iteration begins has its memory in canonical form. -/
inductive CRes.memOk : CRes → Prop
  | ok_mk {t : State} {it : Iter} (h : t.memOk) : CRes.memOk (.ok t it)
  | fault_mk {c : Nat} {a : Option W64} : CRes.memOk (.fault c a)
  | held_mk : CRes.memOk .held
theorem CRes.of_ok {m : CRes} {t : State} {it : Iter} (e : m = .ok t it) (h : m.memOk) : t.memOk := by subst e; cases h; assumption
/-- What a turn comes to has its memory in canonical form. -/
inductive Fetched.memOk : Fetched → Prop
  | done_mk {t : State} (h : t.memOk) : Fetched.memOk (.done t)
  | run_mk {i : Instr} {t : State} (h : t.memOk) : Fetched.memOk (.run i t)
theorem memOk_wf {s : State} (h : s.memOk) : Memory.wf s.mem := h.wf
theorem fst_memOk {β : Type} {s : State} {x : β} (h : s.memOk) : (s, x).1.memOk := h
theorem ite_fst {c : Prop} [Decidable c] {β : Type} {a b : State × β} (ha : a.1.memOk) (hb : b.1.memOk) : (if c then a else b).1.memOk := by split <;> assumption
theorem ite_ok {c : Prop} [Decidable c] {a b : State} (ha : a.memOk) (hb : b.memOk) : (if c then a else b).memOk := by split <;> assumption
theorem MRes.ite_ok {c : Prop} [Decidable c] {a b : MRes} (ha : a.memOk) (hb : b.memOk) : (if c then a else b).memOk := by split <;> assumption
theorem foldl_memOk {β : Type} {f : State → β → State} {l : List β} {s : State} (hf : ∀ u b, u.memOk → State.memOk (f u b)) (h : s.memOk) : State.memOk (l.foldl f s) :=
  foldl_keeps (fun u : State => u.memOk) f hf l s h
theorem foldl_mem_eq {β : Type} {f : State → β → State} {l : List β} {s : State} (hf : ∀ u b, (f u b).mem = u.mem) : (l.foldl f s).mem = s.mem := by
  induction l generalizing s with
  | nil => rfl
  | cons b l ih => exact ih.trans (hf s b)
theorem foldl_memOk_fst {β γ : Type} {f : State × γ → β → State × γ} {l : List β} {r : State × γ} (hf : ∀ u b, State.memOk u.1 → State.memOk (f u b).1)
    (h : State.memOk r.1) : State.memOk (l.foldl f r).1 :=
  foldl_keeps (fun u : State × γ => State.memOk u.1) f hf l r h
theorem foldl_mem_eq_fst {β γ : Type} {f : State × γ → β → State × γ} {l : List β} {r : State × γ} (hf : ∀ u b, (f u b).1.mem = u.1.mem) :
    (l.foldl f r).1.mem = r.1.mem := by
  induction l generalizing r with
  | nil => rfl
  | cons b l ih => exact ih.trans (hf r b)
theorem getD_memOk {o : Option State} {s : State} (ho : ∀ t, o = some t → t.memOk) (h : s.memOk) : State.memOk (o.getD s) := by
  cases o with
  | none => exact h
  | some t => exact ho t rfl
theorem getD_mem_eq {o : Option State} {s u : State} (ho : ∀ t, o = some t → t.mem = u.mem) (h : s.mem = u.mem) : (o.getD s).mem = u.mem := by
  cases o with
  | none => exact h
  | some t => exact ho t rfl
theorem memOk_of_eq {s t : State} (e : t.mem = s.mem) (h : s.memOk) : State.memOk t := ⟨by rw [e]; exact h.wf⟩
section
set_option simprocs false

@[simp] theorem State.openWindows_mem {s : State}  : (State.openWindows s).mem = s.mem := by
  unfold State.openWindows
  repeat' with_reducible rfl
@[simp] theorem State.elapse_mem {s : State} {ns cycles : Nat}  : (State.elapse s ns cycles).mem = s.mem := by
  unfold State.elapse
  repeat' (first | simp only [State.openWindows_mem] | split)
@[simp] theorem State.modDie_mem {s : State} {d : Nat} {f : Die → Die}  : (State.modDie s d f).mem = s.mem := by
  unfold State.modDie
  repeat' with_reducible rfl
theorem State.writeB_memOk {s : State} {k : Nat} {bs : List Byte} (h : s.memOk)
    : State.memOk (State.writeB s k bs) := ⟨Tab.wf_putRun 0 s.mem k bs h.wf⟩
theorem State.writeN_memOk {s : State} {k n v : Nat} (h : s.memOk) : State.memOk (State.writeN s k n v) := by
  unfold State.writeN
  repeat' (first | with_reducible assumption | with_reducible refine State.writeB_memOk ?_)
theorem State.setMg_memOk {s : State} {a n v : Nat} (h : s.memOk) : State.memOk (State.setMg s a n v) := by
  unfold State.setMg
  repeat' (first | with_reducible assumption | with_reducible refine State.writeN_memOk ?_)
theorem State.ringPut_memOk {s : State} {a : Nat} {rec : List Byte} (h : s.memOk) : State.memOk (State.ringPut s a rec) := by
  unfold State.ringPut
  repeat' (first
    | with_reducible assumption | with_reducible refine State.setMg_memOk ?_ | with_reducible refine State.writeB_memOk ?_ | dsimp only
    | split)
theorem State.logErr_memOk {s : State} {n : Nat} {e : LogRec} (h : s.memOk) : State.memOk (State.logErr s n e) := by
  unfold State.logErr
  repeat' (first
    | with_reducible assumption | with_reducible refine State.writeN_memOk ?_ | with_reducible refine State.ringPut_memOk ?_ | dsimp only
    | split)
@[simp] theorem State.setMark_mem {s : State} {w v : Nat}  : (State.setMark s w v).mem = s.mem := by
  unfold State.setMark
  repeat' with_reducible rfl
theorem State.scanWord_memOk {s : State} {k w mark asid : Nat} {va : Option Nat} {t : State} {x : Bool} (h : s.memOk) (he
    : State.scanWord s k w mark asid va = (t, x)) : State.memOk t := by
  unfold State.scanWord at he
  repeat' (first | (cases he; done) | cases he | dsimp only at he | split at he)
  all_goals (try (simp only [Option.map_eq_some_iff, Option.bind_eq_some_iff] at he; obtain ⟨_, e1, e2⟩ := he; try cases e2))
  all_goals (try simp only [Option.some.injEq] at he)
  all_goals (try (have e3 := congrArg Prod.fst he; dsimp only at e3; subst e3))
  all_goals repeat' (first
    | with_reducible assumption | with_reducible refine State.logErr_memOk ?_ | with_reducible refine State.writeB_memOk ?_
    | (with_reducible refine memOk_of_eq (State.setMark_mem ..) ?_))
theorem State.scan_memOk {s : State} {k n asid : Nat} {va : Option Nat} {t : State} {x : Option Nat} (h : s.memOk) (he
    : State.scan s k n asid va = (t, x)) : State.memOk t := by
  have H := foldl_memOk_fst (r := (s, (none : Option Nat))) (l := s.unsound k n) (f := fun (r : State × Option Nat) (e : Nat × Nat) =>
      let t := r.1.scanWord k e.1 e.2 asid va
      if t.2 then (t.1.logErr (ringOf (homeOf k)) (r.1.wordRec k e.1 asid va 3), r.2.or (some (8 * e.1)))
      else (t.1, r.2)) (by
        intro u b hu
        have hw := State.scanWord_memOk (k := k) (w := b.1) (mark := b.2) (asid := asid) (va := va) hu (Prod.eta _).symm
        dsimp only; split
        · exact fst_memOk (State.logErr_memOk hw)
        · exact hw) h
  unfold State.scan at he
  rw [he] at H; exact H
theorem State.take_memOk {s : State} {k n : Nat} {a : Int} {t : State} {x : List Byte × Option W64} (h : s.memOk) (he
    : State.take s k n a = (t, x)) : State.memOk t := by
  unfold State.take at he
  repeat' (first | (cases he; done) | cases he | dsimp only at he | split at he)
  all_goals (try (simp only [Option.map_eq_some_iff, Option.bind_eq_some_iff] at he; obtain ⟨_, e1, e2⟩ := he; try cases e2))
  all_goals (try simp only [Option.some.injEq] at he)
  all_goals (try (have e3 := congrArg Prod.fst he; dsimp only at e3; subst e3))
  all_goals repeat' (first
    | with_reducible assumption
    | (with_reducible refine State.scan_memOk (he := by first | assumption | exact (Prod.eta _).symm | rfl) ?_))
theorem State.takeBed_ok {s : State} {va : W64} {n : Nat} {k : State → List Byte → Option W64 → MRes} (h : s.memOk) (h_k : ∀ (u0
    : State) (u1 : List Byte) (u2 : Option W64), u0.memOk → MRes.memOk (k u0 u1 u2)) : MRes.memOk (State.takeBed s va n k) := by
  unfold State.takeBed
  repeat' (first
    | with_reducible assumption | with_reducible exact MRes.memOk.fault_mk | with_reducible exact MRes.memOk.held_mk
    | with_reducible apply h_k | with_reducible apply foldl_memOk_fst | split
    | (with_reducible refine State.take_memOk (he := by first | assumption | exact (Prod.eta _).symm | rfl) ?_) | intro e)
theorem State.mPtr_ok {s : State} {w : W64} {o : Int} {al : Nat} {k : MRes} (h : s.memOk) (h_k : MRes.memOk k)
    : MRes.memOk (State.mPtr s w o al k) := by
  unfold State.mPtr
  repeat' (first | with_reducible assumption | with_reducible exact MRes.memOk.fault_mk | split)
theorem State.takeSpad_memOk {s : State} {w : W64} {o : Int} {n : Nat} {t : State} {x : List Byte × Option W64} (h : s.memOk) (he
    : State.takeSpad s w o n = (t, x)) : State.memOk t := by
  have H : (State.takeSpad s w o n).1.memOk := by
    clear he
    unfold State.takeSpad
    dsimp only
    split
    · exact State.take_memOk h (Prod.eta _).symm
    · exact memOk_of_eq (State.oob_mem ..) h
  rw [he] at H; exact H
theorem State.takePlane_ok {s : State} {bed : Bool} {w : W64} {o : Int} {n : Nat} {k : State → List Byte → Option W64 → MRes} (h
    : s.memOk) (h_k : ∀ (u0 : State) (u1 : List Byte) (u2 : Option W64), u0.memOk → MRes.memOk (k u0 u1 u2))
    : MRes.memOk (State.takePlane s bed w o n k) := by
  unfold State.takePlane
  repeat' (first
    | with_reducible assumption | with_reducible apply State.takeBed_ok | with_reducible apply State.mPtr_ok | with_reducible apply h_k
    | split | (with_reducible refine State.takeSpad_memOk (he := by first | assumption | exact (Prod.eta _).symm | rfl) ?_))
@[simp] theorem State.modMat_mem {s : State} {f : Mat → Mat}  : (State.modMat s f).mem = s.mem := by
  unfold State.modMat
  repeat' simp only [State.modCur_mem]
theorem State.runLdw_ok {s : State} {bed : Bool} {w : W64} {o : Int} {i : Nat} (h : s.memOk) : MRes.memOk (State.runLdw s bed w o i) := by
  unfold State.runLdw
  repeat' (first
    | with_reducible assumption | with_reducible refine MRes.memOk.ok_mk ?_ | with_reducible refine MRes.memOk.spoilt_mk ?_
    | with_reducible apply State.takePlane_ok | (with_reducible refine memOk_of_eq (State.modMat_mem ..) ?_) | split | intro e)
theorem State.runWswap_ok {s : State} (h : s.memOk) : MRes.memOk (State.runWswap s) := by
  unfold State.runWswap
  repeat' (first
    | with_reducible assumption | with_reducible refine MRes.memOk.ok_mk ?_ | (with_reducible refine memOk_of_eq (State.modMat_mem ..) ?_))
theorem State.logPoison_memOk {s : State} {a : W64} (h : s.memOk) : State.memOk (State.logPoison s a) := State.logErr_memOk h
theorem State.usedScales_memOk {s : State} {sc : List (W32 × Option W64)} (h : s.memOk) : State.memOk (State.usedScales s sc) :=
  foldl_memOk (fun _ _ hu => State.logPoison_memOk hu) h
theorem MRes.undo_ok {r : MRes} {m : Mat} (h : MRes.memOk r) : MRes.memOk (r.undo m) := by
  cases r with
  | spoilt u x => cases h with | spoilt_mk h => exact MRes.memOk.spoilt_mk (memOk_of_eq (State.modCur_mem ..) h)
  | _ => exact h
theorem State.runMm_ok {s : State} {tt : Nat} {w : W64} {o : Int} {clr : Bool} {f : W32} {sc : List (W32 × Option W64)} (h : s.memOk)
    : MRes.memOk (State.runMm s tt w o clr f sc) := by
  unfold State.runMm
  repeat' (first
    | with_reducible assumption | with_reducible refine MRes.memOk.ok_mk ?_ | with_reducible refine MRes.memOk.spoilt_mk ?_
    | with_reducible exact MRes.memOk.fault_mk | with_reducible apply State.mPtr_ok | with_reducible refine State.usedScales_memOk ?_
    | (with_reducible refine memOk_of_eq (State.modMat_mem ..) ?_) | dsimp only | split
    | (with_reducible refine State.takeSpad_memOk (he := by first | assumption | exact (Prod.eta _).symm | rfl) ?_))
theorem State.probeGroups_ok {s : State} {fs : List W32} {k : MRes} {a3 : List GroupEnt} {a4 : Nat} (h : s.memOk) (h_k : MRes.memOk k)
    : MRes.memOk (State.probeGroups s fs k a3 a4) := by
  induction a3 generalizing a4 with
  | nil => exact h_k
  | cons e es ih =>
    unfold State.probeGroups
    split
    · exact ih
    · split
      · exact MRes.memOk.fault_mk
      · exact MRes.memOk.held_mk
      · exact ih
theorem State.runGroups_ok {s : State} {tt : Nat} {w : W64} {fs : List W32} {sc : List (W32 × Option W64)} {a5 : List GroupEnt} {a6 a7 a8
    : Nat} (h : s.memOk) : MRes.memOk (State.runGroups s tt w fs sc a5 a6 a7 a8) := by
  induction a5 generalizing s a6 a7 a8 with
  | nil => exact MRes.memOk.ok_mk h
  | cons e es ih =>
    unfold State.runGroups
    split
    · exact ih h
    · try dsimp only
      refine State.takePlane_ok h ?_
      intro u bs bad hu
      have hr : (u.takeSpad w a8 (128 * atBytes (wordAt fs a6) * e.rows)).1.memOk := State.takeSpad_memOk hu (Prod.eta _).symm
      try dsimp only
      split
      · exact MRes.memOk.spoilt_mk hr
      · exact ih (memOk_of_eq (State.modMat_mem ..) (memOk_of_eq (State.modMat_mem ..) hr))
theorem State.runMgroup_ok {s : State} {tt : Nat} {a b c : W64} {fs : List W32} {sc : List (W32 × Option W64)} (h : s.memOk)
    : MRes.memOk (State.runMgroup s tt a b c fs sc) := by
  unfold State.runMgroup
  repeat' (first
    | with_reducible assumption | with_reducible refine MRes.memOk.ok_mk ?_ | with_reducible refine MRes.memOk.spoilt_mk ?_
    | with_reducible exact MRes.memOk.fault_mk | with_reducible apply State.mPtr_ok | with_reducible apply State.probeGroups_ok
    | with_reducible refine State.usedScales_memOk ?_ | with_reducible apply MRes.undo_ok
    | with_reducible apply State.runGroups_ok | (with_reducible refine memOk_of_eq (State.oob_mem ..) ?_) | dsimp only | split
    | (with_reducible refine State.takeSpad_memOk (he := by first | assumption | exact (Prod.eta _).symm | rfl) ?_))
theorem State.runAccz_ok {s : State} {tt : Nat} (h : s.memOk) : MRes.memOk (State.runAccz s tt) := by
  unfold State.runAccz
  repeat' (first
    | with_reducible assumption | with_reducible refine MRes.memOk.ok_mk ?_ | with_reducible exact MRes.memOk.fault_mk
    | (with_reducible refine memOk_of_eq (State.modMat_mem ..) ?_) | split)
theorem State.runAccld_ok {s : State} {tt : Nat} {w : W64} {o : Int} (h : s.memOk) : MRes.memOk (State.runAccld s tt w o) := by
  unfold State.runAccld
  repeat' (first
    | with_reducible assumption | with_reducible refine MRes.memOk.ok_mk ?_ | with_reducible refine MRes.memOk.spoilt_mk ?_
    | with_reducible exact MRes.memOk.fault_mk | with_reducible apply State.mPtr_ok
    | (with_reducible refine memOk_of_eq (State.modMat_mem ..) ?_) | dsimp only | split
    | (with_reducible refine State.takeSpad_memOk (he := by first | assumption | exact (Prod.eta _).symm | rfl) ?_))
theorem State.putSpad_memOk {s : State} {w : W64} {o : Int} {bs : List Byte} (h : s.memOk) : State.memOk (State.putSpad s w o bs) := by
  unfold State.putSpad
  repeat' (first
    | with_reducible assumption | with_reducible refine State.writeB_memOk ?_ | (with_reducible refine memOk_of_eq (State.oob_mem ..) ?_)
    | dsimp only | split)
theorem State.runAccwr_ok {s : State} {tt : Nat} {w : W64} {o : Int} {dw : W64} {desc : List Byte} {drew : Option (Tab W32)} (h
    : s.memOk) : MRes.memOk (State.runAccwr s tt w o dw desc drew) := by
  unfold State.runAccwr
  refine State.mPtr_ok h (State.mPtr_ok h ?_)
  split
  · exact MRes.memOk.fault_mk
  · have tk : ∀ (x : State × List Byte × Option W64) (u : State) (w : W64) (o : Int) (n
      : Nat), x = u.takeSpad w o n → u.memOk → x.1.memOk :=
      fun x u w o n hx hu => State.takeSpad_memOk hu (hx.symm.trans (Prod.eta _).symm)
    have it : ∀ (x : State × List Byte × Option W64) (c : Prop) [Decidable c] (a b : State × List Byte × Option W64),
        x = (if c then a else b) → a.1.memOk → b.1.memOk → x.1.memOk := fun x c _ a b hx ha hb => hx ▸ ite_fst ha hb
    extract_lets +onlyGivenNames d s1 own
    have hd : d.1.memOk := it d _ _ _ rfl (tk _ _ _ _ _ rfl h) (fst_memOk h)
    have h1 : s1.memOk := hd
    clear_value d s1 own
    refine MRes.ite_ok (MRes.memOk.spoilt_mk h1) (MRes.ite_ok MRes.memOk.fault_mk ?_)
    extract_lets +onlyGivenNames ty mode rows sh stride rnd sat rq mp zq wd drawn
    have hdr : ∀ u : State, u.memOk → (drawn u).memOk := fun u hu => ite_ok (memOk_of_eq (State.modCtx_mem ..) hu) hu
    clear_value drawn wd rq sat rnd
    refine MRes.ite_ok (MRes.memOk.spoilt_mk h1) (MRes.ite_ok (MRes.memOk.ok_mk (hdr _ (memOk_of_eq (State.oob_mem ..) h1)))
      (MRes.ite_ok (MRes.memOk.ok_mk (memOk_of_eq (State.oob_mem ..) h1)) (MRes.ite_ok (MRes.memOk.ok_mk (memOk_of_eq (State.oob_mem ..)
          h1)) ?_)))
    extract_lets +onlyGivenNames mu zp s2 m rng out
    have hmu : mu.1.memOk := it mu _ _ _ rfl (tk _ _ _ _ _ rfl h1) (fst_memOk h1)
    have hzp : zp.1.memOk := it zp _ _ _ rfl (tk _ _ _ _ _ rfl hmu) (fst_memOk hmu)
    have h2 : s2.memOk := hzp
    clear_value out m rng s2 zp mu
    exact MRes.ite_ok (MRes.memOk.spoilt_mk h2) (MRes.memOk.ok_mk (hdr _ (foldl_memOk (fun _ _ hx => State.putSpad_memOk hx) h2)))
theorem State.runPlnset_ok {s : State} {td : Nat} {a : W64} {f : W32} (h : s.memOk) : MRes.memOk (State.runPlnset s td a f) := by
  unfold State.runPlnset
  repeat' (first
    | with_reducible assumption | with_reducible refine MRes.memOk.ok_mk ?_ | with_reducible exact MRes.memOk.fault_mk
    | (with_reducible refine memOk_of_eq (State.modMat_mem ..) ?_) | split)
theorem State.withPlan_ok {s : State} {f : W32} {k : Plan → MRes} (h : s.memOk) (h_k : ∀ (u0 : Plan), MRes.memOk (k u0))
    : MRes.memOk (State.withPlan s f k) := by
  unfold State.withPlan
  repeat' (first | with_reducible exact MRes.memOk.fault_mk | with_reducible apply h_k | split)
theorem State.runPlnld_ok {s : State} {td i : Nat} {w : W64} {o : Int} {f : W32} (h : s.memOk)
    : MRes.memOk (State.runPlnld s td i w o f) := by
  unfold State.runPlnld
  repeat' (first
    | with_reducible assumption | with_reducible refine MRes.memOk.ok_mk ?_ | with_reducible refine MRes.memOk.spoilt_mk ?_
    | with_reducible exact MRes.memOk.fault_mk | with_reducible apply State.withPlan_ok | with_reducible apply State.mPtr_ok
    | (with_reducible refine memOk_of_eq (State.modMat_mem ..) ?_) | dsimp only | split
    | (with_reducible refine State.takeSpad_memOk (he := by first | assumption | exact (Prod.eta _).symm | rfl) ?_) | intro e)
theorem State.runMargset_ok {s : State} {a b : W64} {f : W32} (h : s.memOk) : MRes.memOk (State.runMargset s a b f) := by
  unfold State.runMargset
  repeat' (first
    | with_reducible assumption | with_reducible refine MRes.memOk.ok_mk ?_ | with_reducible refine MRes.memOk.spoilt_mk ?_
    | with_reducible exact MRes.memOk.fault_mk | with_reducible apply State.withPlan_ok | with_reducible apply State.mPtr_ok
    | (with_reducible refine memOk_of_eq (State.oob_mem ..) ?_) | (with_reducible refine memOk_of_eq (State.modMat_mem ..) ?_) | dsimp only | split
    | (with_reducible refine State.takeSpad_memOk (he := by first | assumption | exact (Prod.eta _).symm | rfl) ?_) | intro e)
theorem State.runBalance_ok {s : State} {a : W64} {f : W32} (h : s.memOk) : MRes.memOk (State.runBalance s a f) := by
  unfold State.runBalance
  repeat' (first
    | with_reducible assumption | with_reducible refine MRes.memOk.ok_mk ?_ | with_reducible refine MRes.memOk.spoilt_mk ?_
    | with_reducible exact MRes.memOk.fault_mk | (with_reducible refine memOk_of_eq (State.modMat_mem ..) ?_) | dsimp only | split)
theorem State.runPlnrd_ok {s : State} {td i : Nat} {w : W64} {o : Int} {f : W32} (h : s.memOk)
    : MRes.memOk (State.runPlnrd s td i w o f) := by
  unfold State.runPlnrd
  repeat' (first
    | with_reducible assumption | with_reducible refine MRes.memOk.ok_mk ?_ | with_reducible refine MRes.memOk.spoilt_mk ?_
    | with_reducible exact MRes.memOk.fault_mk | with_reducible apply State.withPlan_ok | with_reducible apply State.mPtr_ok
    | with_reducible refine State.putSpad_memOk ?_ | dsimp only | split | intro e)
theorem State.runPlnscl_ok {s : State} {a b : W64} {f : W32} (h : s.memOk) : MRes.memOk (State.runPlnscl s a b f) := by
  unfold State.runPlnscl
  repeat' (first
    | with_reducible assumption | with_reducible refine MRes.memOk.ok_mk ?_ | with_reducible apply State.withPlan_ok
    | with_reducible apply State.mPtr_ok | with_reducible refine State.putSpad_memOk ?_
    | (with_reducible refine memOk_of_eq (State.oob_mem ..) ?_) | split | intro e)
theorem State.runM_ok {s : State} {it : Iter} (h : s.memOk) : MRes.memOk (State.runM s it) := by
  unfold State.runM
  repeat' (first
    | with_reducible assumption | with_reducible refine MRes.memOk.ok_mk ?_ | with_reducible apply State.runLdw_ok
    | with_reducible apply State.runWswap_ok | with_reducible apply State.runMm_ok | with_reducible apply State.runMgroup_ok
    | with_reducible apply State.runAccz_ok | with_reducible apply State.runAccld_ok | with_reducible apply State.runAccwr_ok
    | with_reducible apply State.runPlnset_ok | with_reducible apply State.runPlnld_ok | with_reducible apply State.runMargset_ok
    | with_reducible apply State.runBalance_ok | with_reducible apply State.runPlnrd_ok | with_reducible apply State.runPlnscl_ok
    | dsimp only | split)
theorem State.newId_mem {s t : State} {x : Nat}  (he : State.newId s = (t, x)) : t.mem = s.mem := by
  unfold State.newId at he
  repeat' (first | (cases he; done) | cases he | dsimp only at he | split at he)
  all_goals (try (simp only [Option.map_eq_some_iff, Option.bind_eq_some_iff] at he; obtain ⟨_, e1, e2⟩ := he; try cases e2))
  all_goals (try simp only [Option.some.injEq] at he)
  all_goals (try (have e3 := congrArg Prod.fst he; dsimp only at e3; subst e3))
  all_goals repeat' with_reducible rfl
theorem State.sendReads_mem {s : State} {e : Nat} {ps : List Piece} {t : State} {x : List Nat}  (he : State.sendReads s e ps = (t, x))
    : t.mem = s.mem := by
  unfold State.sendReads at he
  repeat' (first | (cases he; done) | cases he | dsimp only at he | split at he)
  all_goals (try (simp only [Option.map_eq_some_iff, Option.bind_eq_some_iff] at he; obtain ⟨_, e1, e2⟩ := he; try cases e2))
  all_goals (try simp only [Option.some.injEq] at he)
  all_goals (try (have e3 := congrArg Prod.fst he; dsimp only at e3; subst e3))
  all_goals repeat' (first
    | simp only [State.post_mem] | with_reducible apply foldl_mem_eq_fst | split
    | (with_reducible refine (State.newId_mem (he := by first | assumption | exact (Prod.eta _).symm | rfl)).trans ?_) | intro e)
theorem State.carry_memOk {s : State} {k n asid : Nat} {va : Option Nat} {t : State} {x : List Nat} (h : s.memOk) (he
    : State.carry s k n asid va = (t, x)) : State.memOk t := by
  unfold State.carry at he
  have e3 := congrArg Prod.fst he
  dsimp only at e3
  subst e3
  exact foldl_memOk (fun u b hu => State.scanWord_memOk hu (Prod.eta _).symm) h
theorem State.handleAt_memOk {s : State} {b : Nat} {t : State} {x : W64} (h : s.memOk) (he : State.handleAt s b = (t, x))
    : State.memOk t := by
  unfold State.handleAt at he
  repeat' (first | (cases he; done) | cases he | dsimp only at he | split at he)
  all_goals (try (simp only [Option.map_eq_some_iff, Option.bind_eq_some_iff] at he; obtain ⟨_, e1, e2⟩ := he; try cases e2))
  all_goals (try simp only [Option.some.injEq] at he)
  all_goals (try (have e3 := congrArg Prod.fst he; dsimp only at e3; subst e3))
  all_goals repeat' (first
    | with_reducible assumption | (with_reducible refine memOk_of_eq (State.oob_mem ..) ?_)
    | (with_reducible refine State.carry_memOk (he := by first | assumption | exact (Prod.eta _).symm | rfl) ?_))
theorem State.copySpad_memOk {s : State} {core ptr : Nat} {off : Int} {n : Nat} {t : State} {x : List Byte × List Nat} (h : s.memOk) (he
    : State.copySpad s core ptr off n = (t, x)) : State.memOk t := by
  unfold State.copySpad at he
  repeat' (first | (cases he; done) | cases he | dsimp only at he | split at he)
  all_goals (try (simp only [Option.map_eq_some_iff, Option.bind_eq_some_iff] at he; obtain ⟨_, e1, e2⟩ := he; try cases e2))
  all_goals (try simp only [Option.some.injEq] at he)
  all_goals (try (have e3 := congrArg Prod.fst he; dsimp only at e3; subst e3))
  all_goals repeat' (first
    | with_reducible assumption | (with_reducible refine memOk_of_eq (State.oob_mem ..) ?_)
    | (with_reducible refine State.carry_memOk (he := by first | assumption | exact (Prod.eta _).symm | rfl) ?_))
theorem State.rowEntries_memOk {s : State} {tab : Int} {rows : Nat} {t : State} {x : List (Nat × Nat)} (h : s.memOk) (he
    : State.rowEntries s tab rows = (t, x)) : State.memOk t := by
  unfold State.rowEntries at he
  repeat' (first | (cases he; done) | cases he | dsimp only at he | split at he)
  all_goals (try (simp only [Option.map_eq_some_iff, Option.bind_eq_some_iff] at he; obtain ⟨_, e1, e2⟩ := he; try cases e2))
  all_goals (try simp only [Option.some.injEq] at he)
  all_goals (try (have e3 := congrArg Prod.fst he; dsimp only at e3; subst e3))
  all_goals repeat' (first
    | with_reducible assumption | with_reducible apply foldl_memOk_fst | (with_reducible refine memOk_of_eq (State.oob_mem ..) ?_) | split
    | (with_reducible refine State.carry_memOk (he := by first | assumption | exact (Prod.eta _).symm | rfl) ?_) | intro e)
theorem State.setObjBits_memOk {s : State} {core off bits : Nat} (h : s.memOk) : State.memOk (State.setObjBits s core off bits) := by
  unfold State.setObjBits
  repeat' (first | with_reducible assumption | with_reducible refine State.writeN_memOk ?_)
theorem State.sentAt_memOk {s : State} {core off n : Nat} {fail : Option W64} (h : s.memOk)
    : State.memOk (State.sentAt s core off n fail) := by
  unfold State.sentAt
  repeat' (first
    | with_reducible assumption | with_reducible refine State.writeN_memOk ?_ | with_reducible refine State.setObjBits_memOk ?_
    | (with_reducible refine memOk_of_eq (State.modCore_mem ..) ?_) | split)
theorem State.unsent_memOk {s : State} {it : Iter} {n : Nat} (h : s.memOk) : State.memOk (State.unsent s it n) := by
  unfold State.unsent
  repeat' (first
    | with_reducible assumption | with_reducible refine State.sentAt_memOk ?_
    | (with_reducible refine memOk_of_eq (State.modCur_mem ..) ?_) | split)
@[simp] theorem State.addOut_mem {s : State} {w : OutW}  : (State.addOut s w).mem = s.mem := by
  unfold State.addOut
  repeat' simp only [State.modCur_mem]
@[simp] theorem State.launch_mem {s : State} {it : Iter} {acc : Acc} {dest : Option (Nat × Nat × Nat)} {bs : List Byte} {bad
    : List Nat} {cnt : Option (Nat × W64)}  : (State.launch s it acc dest bs bad cnt).mem = s.mem := by
  unfold State.launch
  repeat' simp only [State.addOut_mem]
theorem State.sendPeer_memOk {s : State} {it : Iter} (h : s.memOk) : State.memOk (State.sendPeer s it) := by
  unfold State.sendPeer
  repeat' (first
    | with_reducible assumption | with_reducible refine State.unsent_memOk ?_ | with_reducible apply foldl_memOk
    | (with_reducible refine memOk_of_eq (State.oob_mem ..) ?_) | (with_reducible refine memOk_of_eq (State.launch_mem ..) ?_)
    | dsimp only | split | (with_reducible refine State.copySpad_memOk (he := by first | assumption | exact (Prod.eta _).symm | rfl) ?_)
    | (with_reducible refine memOk_of_eq (State.newId_mem (he := by first | assumption | exact (Prod.eta _).symm | rfl)) ?_) | intro e)
theorem State.beginCopy_ok {s : State} {e : Nat} {it : Iter} (h : s.memOk) : CRes.memOk (State.beginCopy s e it) := by
  unfold State.beginCopy
  extract_lets +onlyGivenNames c o len reads writes
  have hr : ∀ (k : State) r it (next : State → Iter → CRes), k.memOk → (∀ u it, u.memOk → (next u it).memOk) → (reads k r it next).memOk :=
      by
    intro k r it next hk hn
    dsimp only [reads]
    split
    · exact CRes.memOk.fault_mk
    · exact CRes.memOk.held_mk
    · exact hn _ _ (memOk_of_eq (State.sendReads_mem (he := (Prod.eta _).symm)) hk)
  have hw : ∀ (k : State) r it, k.memOk → (writes k r it).memOk := by
    intro k r it hk
    dsimp only [writes]
    split
    · exact CRes.memOk.fault_mk
    · exact CRes.memOk.held_mk
    · split
      · exact CRes.memOk.ok_mk (State.handleAt_memOk hk (Prod.eta _).symm)
      · exact CRes.memOk.ok_mk hk
  clear_value reads writes
  split
  · exact CRes.memOk.ok_mk h
  split
  · exact CRes.memOk.held_mk
  · split
    · exact hr _ _ _ _ h fun _ _ hu => CRes.memOk.ok_mk hu
    · exact hr _ _ _ _ h fun _ _ hu => CRes.memOk.ok_mk hu
    · split
      · exact CRes.memOk.fault_mk
      · exact CRes.memOk.ok_mk <| memOk_of_eq (State.modCur_mem ..) (State.copySpad_memOk h (Prod.eta _).symm)
    · exact hr _ _ _ _ (State.rowEntries_memOk h (Prod.eta _).symm) fun _ _ hu => CRes.memOk.ok_mk hu
    · exact hw _ _ _ h
    · extract_lets +onlyGivenNames r
      have h1 : r.1.memOk := State.rowEntries_memOk h (Prod.eta _).symm
      have h2 := hw r.1 (r.1.xlateAll .write (rowLen c.b) (r.2.map fun x => rowAddr c.d o x.2 (rowLen c.b)))
        { it with rows := r.2.map (·.1) } h1
      split
      · rename_i t it2 ht
        have h2 := CRes.of_ok ht h2
        exact CRes.memOk.ok_mk (State.unsent_memOk h2)
      · rename_i x hx; exact h2
    · split
      · split <;> exact CRes.memOk.fault_mk
      · exact hr _ _ _ _ h fun _ _ hu => hw _ _ _ hu
    · split
      · split
        · exact CRes.memOk.fault_mk
        · exact CRes.memOk.ok_mk h
      · exact CRes.memOk.fault_mk
      · exact CRes.memOk.held_mk
    · split
      · exact CRes.memOk.ok_mk (State.sendPeer_memOk h)
      · exact CRes.memOk.held_mk
    · exact CRes.memOk.ok_mk h
@[simp] theorem State.setStatus_mem {s : State} {hi lo v : Nat}  : (State.setStatus s hi lo v).mem = s.mem := by
  unfold State.setStatus
  repeat' with_reducible rfl
theorem State.raiseRing_memOk {s : State} {n : Nat} {e : EvRec} (h : s.memOk) : State.memOk (State.raiseRing s n e) := by
  unfold State.raiseRing
  repeat' (first | with_reducible assumption | with_reducible refine State.ringPut_memOk ?_)
theorem State.portBit_memOk {s : State} {d : Nat} {up : Bool} {e : EvRec} (h : s.memOk) : State.memOk (State.portBit s d up e) := by
  unfold State.portBit
  repeat' (first
    | with_reducible assumption | with_reducible refine State.raiseRing_memOk ?_
    | (with_reducible refine memOk_of_eq (State.setStatus_mem ..) ?_) | split
    | (refine ⟨?_⟩; dsimp only; with_reducible refine memOk_wf ?_))
theorem State.takePortDown_memOk {s : State} {d : Nat} (h : s.memOk) : State.memOk (State.takePortDown s d) := by
  unfold State.takePortDown
  repeat' (first
    | with_reducible assumption | with_reducible refine State.logErr_memOk ?_ | with_reducible refine State.portBit_memOk ?_
    | (refine ⟨?_⟩; dsimp only; with_reducible refine memOk_wf ?_))
@[simp] theorem State.hostDone_mem {s : State} {code : Nat} {data : List Byte}  : (State.hostDone s code data).mem = s.mem := by
  unfold State.hostDone
  repeat' with_reducible rfl
theorem State.stopAll_memOk {s : State} (h : s.memOk) : State.memOk (State.stopAll s) := by
  unfold State.stopAll
  repeat' (first
    | with_reducible assumption | with_reducible refine State.takePortDown_memOk ?_ | with_reducible apply foldl_memOk
    | (with_reducible refine memOk_of_eq (State.hostDone_mem ..) ?_) | split
    | (refine ⟨?_⟩; dsimp only; with_reducible refine memOk_wf ?_) | intro e)
theorem State.enterFailed_memOk {s : State} {unit code : Nat} (h : s.memOk) : State.memOk (State.enterFailed s unit code) := by
  unfold State.enterFailed
  repeat' (first
    | with_reducible assumption | with_reducible refine State.stopAll_memOk ?_
    | (with_reducible refine memOk_of_eq (State.setStatus_mem ..) ?_) | split)
@[simp] theorem State.applyCfg_mem {s : State} {area : Nat} {rs : List CfgRec}  : (State.applyCfg s area rs).mem = s.mem := by
  unfold State.applyCfg
  repeat' simp only [State.setStatus_mem]
theorem State.logCfg_memOk {s : State} {area : Nat} (h : s.memOk) : State.memOk (State.logCfg s area) := by
  unfold State.logCfg
  repeat' (first | with_reducible assumption | with_reducible refine State.logErr_memOk ?_)
theorem State.bootStep_memOk {s : State} {code : Nat} {done : State → State} (h : s.memOk) (h_done : ∀ (u0
    : State), u0.memOk → State.memOk (done u0)) : State.memOk (State.bootStep s code done) := by
  unfold State.bootStep
  repeat' (first
    | with_reducible assumption | with_reducible refine State.enterFailed_memOk ?_ | with_reducible apply h_done | dsimp only | split)
@[simp] theorem State.tryReady_mem {s : State}  : (State.tryReady s).mem = s.mem := by
  unfold State.tryReady
  repeat' (first | simp only [State.setStatus_mem] | dsimp only | split)
theorem State.zeroMem_memOk {s : State} {k n : Nat} (h : s.memOk) : State.memOk (State.zeroMem s k n) := ⟨Tab.wf_clear 0 s.mem k n h.wf⟩
@[simp] theorem State.dropEgress_mem {s : State} {i : Nat}  : (State.dropEgress s i).mem = s.mem := by
  unfold State.dropEgress
  repeat' with_reducible rfl
theorem State.rotated_mem {s : State} {p : Packet} {t : State} {x : Packet}  (he : State.rotated s p = some (t, x)) : t.mem = s.mem := by
  unfold State.rotated at he
  repeat' (first | (cases he; done) | cases he | dsimp only at he | split at he)
  all_goals (try (simp only [Option.map_eq_some_iff, Option.bind_eq_some_iff] at he; obtain ⟨_, e1, e2⟩ := he; try cases e2))
  all_goals (try simp only [Option.some.injEq] at he)
  all_goals (try (have e3 := congrArg Prod.fst he; dsimp only at e3; subst e3))
  all_goals repeat' with_reducible rfl
theorem State.listed_mem {s : State} {p : Packet} {t : State} {x : Packet}  (he : State.listed s p = some (t, x)) : t.mem = s.mem := by
  unfold State.listed at he
  repeat' (first | (cases he; done) | cases he | dsimp only at he | split at he)
  all_goals (try (simp only [Option.map_eq_some_iff, Option.bind_eq_some_iff] at he; obtain ⟨_, e1, e2⟩ := he; try cases e2))
  all_goals (try simp only [Option.some.injEq] at he)
  all_goals (try (have e3 := congrArg Prod.fst he; dsimp only at e3; subst e3))
  all_goals repeat' (first
    | with_reducible rfl
    | (with_reducible refine (State.rotated_mem (he := by first | assumption | exact (Prod.eta _).symm | rfl)).trans ?_))
theorem State.raisePart_memOk {s : State} {p : Nat} {e : EvRec} (h : s.memOk) : State.memOk (State.raisePart s p e) := by
  unfold State.raisePart
  repeat' (first | with_reducible assumption | with_reducible refine State.ringPut_memOk ?_)
theorem State.failEvent_memOk {s : State} {part asid va peer code : Nat} {exhausted : Bool} {seqtag : Nat} (h : s.memOk)
    : State.memOk (State.failEvent s part asid va peer code exhausted seqtag) := by
  unfold State.failEvent
  repeat' (first | with_reducible assumption | with_reducible refine State.raisePart_memOk ?_)
theorem State.onCore_mem {s : State} {c : Nat} {f : State → State} (h_f : ∀ (u0 : State), (f u0).mem = u0.mem)
    : (State.onCore s c f).mem = s.mem := by
  unfold State.onCore
  repeat' (first | with_reducible rfl | (with_reducible refine (h_f _).trans ?_))
theorem State.onCore_memOk {s : State} {c : Nat} {f : State → State} (h : s.memOk) (h_f : ∀ (u0 : State), u0.memOk → State.memOk (f u0))
    : State.memOk (State.onCore s c f) := by
  unfold State.onCore
  repeat' (first
    | with_reducible assumption | with_reducible apply h_f | (refine ⟨?_⟩; dsimp only; with_reducible refine memOk_wf ?_))
@[simp] theorem State.dropPend_mem {s : State} {id : Nat}  : (State.dropPend s id).mem = s.mem := by
  unfold State.dropPend
  repeat' simp only [State.modCur_mem]
theorem State.reportLoad_mem {s : State} {sel : Pend → Bool} {t : State}  (he : State.reportLoad s sel = some t) : t.mem = s.mem := by
  unfold State.reportLoad at he
  repeat' (first | (cases he; done) | cases he | dsimp only at he | split at he)
  all_goals (try (simp only [Option.map_eq_some_iff, Option.bind_eq_some_iff] at he; obtain ⟨_, e1, e2⟩ := he; try cases e2))
  all_goals (try simp only [Option.some.injEq] at he)
  all_goals (try (have e3 := congrArg Prod.fst he; dsimp only at e3; subst e3))
  all_goals repeat' simp only [State.raise_mem, State.modCur_mem]
@[simp] theorem State.endWait_mem {s : State}  : (State.endWait s).mem = s.mem := by
  unfold State.endWait
  repeat' simp only [State.retire_mem, State.modCur_mem]
theorem State.reportWrites_mem {s : State} {all : Bool} {lv : Nat} {t : State}  (he : State.reportWrites s all lv = some t)
    : t.mem = s.mem := by
  unfold State.reportWrites at he
  repeat' (first | (cases he; done) | cases he | dsimp only at he | split at he)
  all_goals (try (simp only [Option.map_eq_some_iff, Option.bind_eq_some_iff] at he; obtain ⟨_, e1, e2⟩ := he; try cases e2))
  all_goals (try simp only [Option.some.injEq] at he)
  all_goals (try (have e3 := congrArg Prod.fst he; dsimp only at e3; subst e3))
  all_goals repeat' simp only [State.raise_mem, State.modCur_mem]
@[simp] theorem State.endStrand_mem {s : State}  : (State.endStrand s).mem = s.mem := by
  unfold State.endStrand
  repeat' simp only [State.modCur_mem]
@[simp] theorem State.finishWait_mem {s : State}  : (State.finishWait s).mem = s.mem := by
  unfold State.finishWait
  repeat' (first
    | with_reducible rfl | simp only [State.endWait_mem, State.modCur_mem, State.endStrand_mem] | with_reducible apply getD_mem_eq | split
    | (with_reducible refine (State.reportLoad_mem (he := by first | assumption | exact (Prod.eta _).symm | rfl)).trans ?_)
    | (with_reducible refine (State.reportWrites_mem (he := by first | assumption | exact (Prod.eta _).symm | rfl)).trans ?_) | intro e)
@[simp] theorem State.settleWait_mem {s : State}  : (State.settleWait s).mem = s.mem := by
  unfold State.settleWait
  repeat' (first | simp only [State.finishWait_mem] | split)
@[simp] theorem State.failAt_mem {s : State} {id cause : Nat} {addr : W64}  : (State.failAt s id cause addr).mem = s.mem := by
  unfold State.failAt
  repeat' simp only [State.modCur_mem]
@[simp] theorem State.loadFailed_mem {s : State} {id : Nat} {va : W64}  : (State.loadFailed s id va).mem = s.mem := by
  unfold State.loadFailed
  repeat' (first | simp only [State.dropPend_mem, State.settleWait_mem, State.failAt_mem] | split)
@[simp] theorem State.setStrand_mem {s : State} {w : Where} {c : Core}  : (State.setStrand s w c).mem = s.mem := by
  unfold State.setStrand
  repeat' (first | simp only [State.setCore_mem, State.modTeam_mem] | split)
theorem State.copyB_memOk {s : State} {k : Nat} {bs : List Byte} {bad : List Nat} (h : s.memOk) : State.memOk (State.copyB s k bs bad) := by
  unfold State.copyB
  repeat' (first
    | with_reducible assumption | with_reducible refine State.writeB_memOk ?_
    | (with_reducible refine memOk_of_eq (State.spoilB_mem ..) ?_))
theorem State.putLog_memOk {s : State} {tt : Team} {rank : Nat} {l : List LogEntry} {i : Nat} (h : s.memOk)
    : State.memOk (State.putLog s tt rank l i) := by
  unfold State.putLog
  repeat' (first
    | with_reducible assumption | with_reducible refine State.writeB_memOk ?_ | with_reducible refine State.copyB_memOk ?_ | split)
theorem State.logFor_memOk {s : State} {team rank : Nat} {x : LogEntry} {t : State} (h : s.memOk) (he
    : State.logFor s team rank x = some t) : State.memOk t := by
  unfold State.logFor at he
  repeat' (first | (cases he; done) | cases he | dsimp only at he | split at he)
  all_goals (try (simp only [Option.map_eq_some_iff, Option.bind_eq_some_iff] at he; obtain ⟨_, e1, e2⟩ := he; try cases e2))
  all_goals (try simp only [Option.some.injEq] at he)
  all_goals (try (have e3 := congrArg Prod.fst he; dsimp only at e3; subst e3))
  all_goals repeat' (first
    | with_reducible assumption | with_reducible refine State.putLog_memOk ?_
    | (with_reducible refine memOk_of_eq (State.modTeam_mem ..) ?_))
theorem State.endWrite_memOk {s : State} {id : Nat} {fail : Option W64} {t : State} (h : s.memOk) (he
    : State.endWrite s id fail = some t) : State.memOk t := by
  unfold State.endWrite at he
  repeat' (first | (cases he; done) | cases he | dsimp only at he | split at he)
  all_goals (try (simp only [Option.map_eq_some_iff, Option.bind_eq_some_iff] at he; obtain ⟨_, e1, e2⟩ := he; try cases e2))
  all_goals (try simp only [Option.some.injEq] at he)
  all_goals (try (have e3 := congrArg Prod.fst he; dsimp only at e3; subst e3))
  all_goals repeat' (first
    | with_reducible assumption | with_reducible refine State.sentAt_memOk ?_
    | (with_reducible refine memOk_of_eq (State.setStrand_mem ..) ?_)
    | (with_reducible refine State.logFor_memOk (he := by first | assumption | exact (Prod.eta _).symm | rfl) ?_))
theorem State.endAll_memOk {s : State} {va : W64} {a2 : List Nat} {t : State} (h : s.memOk) (he : State.endAll s va a2 = some t)
    : State.memOk t := by
  induction a2 generalizing s with
  | nil => unfold State.endAll at he; cases he; exact h
  | cons i is ih =>
    unfold State.endAll at he
    obtain ⟨u, e1, e2⟩ := Option.bind_eq_some_iff.mp he
    exact ih (State.endWrite_memOk (he := e1) h) e2
@[simp] theorem State.engineFault_mem {s : State} {e : Nat} {cmd : Cmd} {cause : Nat} {addr : Option W64} 
    : (State.engineFault s e cmd cause addr).mem = s.mem := by
  unfold State.engineFault
  repeat' (first | simp only [State.raiseAt_mem] | split)
@[simp] theorem State.stopCopy_mem {s : State} {core e : Nat} {it : Iter} {va : Nat} : (State.stopCopy s core e it va).mem = s.mem := by
  unfold State.stopCopy
  simp only [State.engineFault_mem, State.modCore_mem]
@[simp] theorem State.engineReadFailed_mem {s : State} {core id va : Nat}  : (State.engineReadFailed s core id va).mem = s.mem := by
  unfold State.engineReadFailed
  repeat' (first | simp only [State.stopCopy_mem] | split)
@[simp] theorem State.setJob_mem {s : State} {j : Job}  : (State.setJob s j).mem = s.mem := by
  unfold State.setJob
  repeat' with_reducible rfl
theorem State.tellAsker_memOk {s : State} {r : Req} {code : Nat} {exhausted : Bool} {t : State} (h : s.memOk) (he
    : State.tellAsker s r code exhausted = some t) : State.memOk t := by
  unfold State.tellAsker at he
  repeat' (first | (cases he; done) | cases he | dsimp only at he | split at he)
  all_goals (try (simp only [Option.map_eq_some_iff, Option.bind_eq_some_iff] at he; obtain ⟨_, e1, e2⟩ := he; try cases e2))
  all_goals (try simp only [Option.some.injEq] at he)
  all_goals (try (have e3 := congrArg Prod.fst he; dsimp only at e3; subst e3))
  all_goals repeat' (first
    | with_reducible assumption | with_reducible apply State.onCore_memOk
    | (with_reducible refine memOk_of_eq (State.loadFailed_mem ..) ?_)
    | (with_reducible refine memOk_of_eq (State.engineReadFailed_mem ..) ?_)
    | (with_reducible refine memOk_of_eq (State.hostDone_mem ..) ?_) | (with_reducible refine memOk_of_eq (State.setJob_mem ..) ?_)
    | split | (refine ⟨?_⟩; dsimp only; with_reducible refine memOk_wf ?_)
    | (with_reducible refine State.endAll_memOk (he := by first | assumption | exact (Prod.eta _).symm | rfl) ?_) | intro e)
theorem State.failReq_memOk {s : State} {r : Req} {seq code : Nat} {exhausted : Bool} {t : State} (h : s.memOk) (he
    : State.failReq s r seq code exhausted = some t) : State.memOk t := by
  unfold State.failReq at he
  repeat' (first | (cases he; done) | cases he | dsimp only at he | split at he)
  all_goals (try (simp only [Option.map_eq_some_iff, Option.bind_eq_some_iff] at he; obtain ⟨_, e1, e2⟩ := he; try cases e2))
  all_goals (try simp only [Option.some.injEq] at he)
  all_goals (try (have e3 := congrArg Prod.fst he; dsimp only at e3; subst e3))
  all_goals repeat' (first
    | with_reducible assumption | with_reducible refine State.failEvent_memOk ?_
    | (with_reducible refine State.tellAsker_memOk (he := by first | assumption | exact (Prod.eta _).symm | rfl) ?_))
@[simp] theorem State.setKey_mem {s : State} {i : Nat} {k : KeySlot}  : (State.setKey s i k).mem = s.mem := by
  unfold State.setKey
  repeat' with_reducible rfl
theorem State.sealWith_mem {s : State} {slot : Nat} {p : Packet} {t : State} {x : Packet}  (he : State.sealWith s slot p = (t, x))
    : t.mem = s.mem := by
  unfold State.sealWith at he
  repeat' (first | (cases he; done) | cases he | dsimp only at he | split at he)
  all_goals (try (simp only [Option.map_eq_some_iff, Option.bind_eq_some_iff] at he; obtain ⟨_, e1, e2⟩ := he; try cases e2))
  all_goals (try simp only [Option.some.injEq] at he)
  all_goals (try (have e3 := congrArg Prod.fst he; dsimp only at e3; subst e3))
  all_goals repeat' simp only [State.setKey_mem]
@[simp] theorem State.setFlowOut_mem {s : State} {f : FlowOut}  : (State.setFlowOut s f).mem = s.mem := by
  unfold State.setFlowOut
  repeat' with_reducible rfl
@[simp] theorem State.enter_mem {s : State} {p : Packet}  : (State.enter s p).mem = s.mem := by
  unfold State.enter
  repeat' with_reducible rfl
@[simp] theorem State.sendStored_mem {s : State} {r : Req} {p : Packet} {seq : Nat} {syn : Bool} 
    : (State.sendStored s r p seq syn).mem = s.mem := by
  unfold State.sendStored
  repeat' (first | simp only [State.setFlowOut_mem, State.enter_mem] | with_reducible apply foldl_mem_eq | intro e)
@[simp] theorem State.sendResp_mem {s : State} {p : Packet}  : (State.sendResp s p).mem = s.mem := by
  unfold State.sendResp
  repeat' (first
    | simp only [State.enter_mem] | split
    | (with_reducible refine (State.rotated_mem (he := by first | assumption | exact (Prod.eta _).symm | rfl)).trans ?_))
@[simp] theorem State.nack_mem {s : State} {q : Packet} {code : Nat}  : (State.nack s q code).mem = s.mem := by
  unfold State.nack
  repeat' simp only [State.sendResp_mem]
theorem State.nackRecord_memOk {s : State} {port src asid va code : Nat} (h : s.memOk)
    : State.memOk (State.nackRecord s port src asid va code) := by
  unfold State.nackRecord
  repeat' (first | with_reducible assumption | with_reducible refine State.logErr_memOk ?_)
theorem State.logNack_memOk {s : State} {port src asid va code seqtag : Nat} (h : s.memOk)
    : State.memOk (State.logNack s port src asid va code seqtag) := by
  unfold State.logNack
  repeat' (first
    | with_reducible assumption | with_reducible refine State.raisePart_memOk ?_ | with_reducible refine State.nackRecord_memOk ?_)
theorem State.logFor81_memOk {s : State} {q : Packet} {port code skip : Nat} (h : s.memOk)
    : State.memOk (State.logFor81 s q port code skip) := by
  unfold State.logFor81
  repeat' (first
    | with_reducible assumption | with_reducible refine State.logNack_memOk ?_ | with_reducible apply foldl_memOk
    | with_reducible apply getD_memOk | split | intro e)
theorem State.refuse_memOk {s : State} {q : Packet} {port code : Nat} (h : s.memOk) : State.memOk (State.refuse s q port code) := by
  unfold State.refuse
  repeat' (first
    | with_reducible assumption | with_reducible refine State.logFor81_memOk ?_
    | (with_reducible refine memOk_of_eq (State.nack_mem ..) ?_))
@[simp] theorem State.sendEvent_mem {s : State} {dest tenant : Nat} {e : EvRec}  : (State.sendEvent s dest tenant e).mem = s.mem := by
  unfold State.sendEvent
  repeat' simp only [State.post_mem]
theorem State.logNackAway_memOk {s : State} {dest port src asid va code seqtag : Nat} (h : s.memOk)
    : State.memOk (State.logNackAway s dest port src asid va code seqtag) := by
  unfold State.logNackAway
  repeat' (first
    | with_reducible assumption | with_reducible refine State.nackRecord_memOk ?_
    | (with_reducible refine memOk_of_eq (State.sendEvent_mem ..) ?_))
theorem State.refuseHere_memOk {s : State} {q : Packet} {port code : Nat} (h : s.memOk) : State.memOk (State.refuseHere s q port code) := by
  unfold State.refuseHere
  repeat' (first
    | with_reducible assumption | with_reducible refine State.refuse_memOk ?_ | with_reducible refine State.logNackAway_memOk ?_
    | with_reducible apply foldl_memOk | (with_reducible refine memOk_of_eq (State.nack_mem ..) ?_) | split | intro e)
@[simp] theorem State.returnCredits_mem {s : State} {port : Nat} {p : Packet}  : (State.returnCredits s port p).mem = s.mem := by
  unfold State.returnCredits
  repeat' (first | with_reducible rfl | split)
@[simp] theorem State.takeArrival_mem {s : State} {i : Nat}  : (State.takeArrival s i).mem = s.mem := by
  unfold State.takeArrival
  repeat' (first | simp only [State.returnCredits_mem] | split)
@[simp] theorem State.eject_mem {s : State} {p : Packet} {port : Nat}  : (State.eject s p port).mem = s.mem := by
  unfold State.eject
  repeat' with_reducible rfl
@[simp] theorem State.sendNow_mem {s : State} {d : Nat} {p : Packet}  : (State.sendNow s d p).mem = s.mem := by
  unfold State.sendNow
  repeat' with_reducible rfl
theorem State.endSend_memOk {s : State} {x : Option Nat} {t : State} (h : s.memOk) (he : State.endSend s x = some t) : State.memOk t := by
  unfold State.endSend at he
  split at he
  · cases he; exact h
  · exact State.endWrite_memOk (he := he) h
theorem State.tryOut_memOk {s : State} {o : OutPkt} {t : State} (h : s.memOk) (he : State.tryOut s o = some t) : State.memOk t := by
  unfold State.tryOut at he
  repeat' (first | (cases he; done) | cases he | dsimp only at he | split at he)
  all_goals (try (simp only [Option.map_eq_some_iff, Option.bind_eq_some_iff] at he; obtain ⟨_, e1, e2⟩ := he; try cases e2))
  all_goals (try simp only [Option.some.injEq] at he)
  all_goals (try (have e3 := congrArg Prod.fst he; dsimp only at e3; subst e3))
  all_goals repeat' (first
    | with_reducible assumption | (with_reducible refine memOk_of_eq (State.sendNow_mem ..) ?_)
    | (with_reducible refine State.endSend_memOk (he := by first | assumption | exact (Prod.eta _).symm | rfl) ?_))
theorem State.flushOut_memOk {s : State} {k : Nat} {a2 : List OutPkt} {t : State} {x : List OutPkt} (h : s.memOk) (he
    : State.flushOut s k a2 = (t, x)) : State.memOk t := by
  have H : (State.flushOut s k a2).1.memOk := by
    clear he
    induction a2 generalizing s with
    | nil => exact h
    | cons o os ih =>
      unfold State.flushOut
      split
      · split
        · exact ih (State.tryOut_memOk (he := by assumption) h)
        · exact h
      · exact ih h
  rw [he] at H; exact H
theorem State.drainOut_memOk {s : State} {k : Nat} (h : s.memOk) : State.memOk (State.drainOut s k) := by
  unfold State.drainOut
  repeat' (first
    | with_reducible assumption | (refine ⟨?_⟩; dsimp only; with_reducible refine memOk_wf ?_)
    | (with_reducible refine State.flushOut_memOk (he := by first | assumption | exact (Prod.eta _).symm | rfl) ?_))
theorem State.putOut_memOk {s : State} {o : OutPkt} (h : s.memOk) : State.memOk (State.putOut s o) := by
  unfold State.putOut
  repeat' (first
    | with_reducible assumption | with_reducible refine State.drainOut_memOk ?_
    | (refine ⟨?_⟩; dsimp only; with_reducible refine memOk_wf ?_))
theorem State.routeOn_memOk {s : State} {p : Packet} {port : Nat} (h : s.memOk) : State.memOk (State.routeOn s p port) := by
  unfold State.routeOn
  repeat' (first
    | with_reducible assumption | with_reducible refine State.refuseHere_memOk ?_ | with_reducible refine State.putOut_memOk ?_
    | (with_reducible refine memOk_of_eq (State.eject_mem ..) ?_) | dsimp only | split)
@[simp] theorem State.setFlowIn_mem {s : State} {f : FlowIn}  : (State.setFlowIn s f).mem = s.mem := by
  unfold State.setFlowIn
  repeat' with_reducible rfl
theorem State.ancientDup_memOk {s : State} {src seq tag asid va port : Nat} (h : s.memOk)
    : State.memOk (State.ancientDup s src seq tag asid va port) := by
  unfold State.ancientDup
  repeat' (first
    | with_reducible assumption | with_reducible refine State.raiseRing_memOk ?_ | with_reducible refine State.logErr_memOk ?_
    | (refine ⟨?_⟩; dsimp only; with_reducible refine memOk_wf ?_))
theorem State.takeLeaf_memOk {s : State} {q : Packet} {port i : Nat} {t : State} {x : Bool} (h : s.memOk) (he
    : State.takeLeaf s q port i = (t, x)) : State.memOk t := by
  have H : (State.takeLeaf s q port i).1.memOk := by
    clear he
    unfold State.takeLeaf
    extract_lets +onlyGivenNames l f
    clear_value f
    split
    · exact fst_memOk (memOk_of_eq (State.setFlowIn_mem ..) h)
    · refine fst_memOk ?_
      split
      · exact memOk_of_eq (State.sendResp_mem ..) h
      · exact h
    · exact fst_memOk (State.ancientDup_memOk h)
    · exact fst_memOk (memOk_of_eq (State.sendResp_mem ..) h)
    · exact h
  rw [he] at H; exact H
theorem State.addJob_mem {s : State} {q : Packet} {port stage : Nat} {apply : List Nat} {skip : Nat} {t : State} {x : Job}  (he
    : State.addJob s q port stage apply skip = (t, x)) : t.mem = s.mem := by
  unfold State.addJob at he
  repeat' (first | (cases he; done) | cases he | dsimp only at he | split at he)
  all_goals (try (simp only [Option.map_eq_some_iff, Option.bind_eq_some_iff] at he; obtain ⟨_, e1, e2⟩ := he; try cases e2))
  all_goals (try simp only [Option.some.injEq] at he)
  all_goals (try (have e3 := congrArg Prod.fst he; dsimp only at e3; subst e3))
  all_goals repeat' with_reducible rfl
@[simp] theorem State.setOutcome_mem {s : State} {src cls stream seq outc : Nat} 
    : (State.setOutcome s src cls stream seq outc).mem = s.mem := by
  unfold State.setOutcome
  repeat' (first | simp only [State.setFlowIn_mem] | split)
@[simp] theorem State.slateEvent_mem {s : State} {p kind a1 a2 a3 : Nat}  : (State.slateEvent s p kind a1 a2 a3).mem = s.mem := by
  unfold State.slateEvent
  repeat' (first | simp only [State.modPart_mem] | split)
theorem State.postFault_memOk {s : State} {asid va kinds node : Nat} (h : s.memOk)
    : State.memOk (State.postFault s asid va kinds node) := by
  unfold State.postFault
  extract_lets +onlyGivenNames p b size base prod cons block bit n
  clear_value n bit block cons prod base size
  split
  · exact h
  split
  · exact State.setMg_memOk h
  · split
    · exact State.writeN_memOk (State.writeN_memOk (State.writeN_memOk (State.writeN_memOk (State.writeN_memOk h))))
    · split
      · exact State.setMg_memOk h
      · exact State.raisePart_memOk (State.setMg_memOk (State.writeB_memOk h))
theorem State.noteReady_memOk {s : State} {p : Nat} (h : s.memOk) : State.memOk (State.noteReady s p) := by
  unfold State.noteReady
  repeat' (first
    | with_reducible assumption | with_reducible refine State.postFault_memOk ?_ | with_reducible apply foldl_memOk
    | (with_reducible refine memOk_of_eq (State.slateEvent_mem ..) ?_) | (with_reducible refine memOk_of_eq (State.modPart_mem ..) ?_)
    | dsimp only | split | intro e)
theorem State.semAdd_memOk {s : State} {p q i n : Nat} (h : s.memOk) : State.memOk (State.semAdd s p q i n) := by
  unfold State.semAdd
  repeat' (first
    | with_reducible assumption | with_reducible refine State.noteReady_memOk ?_ | with_reducible refine State.setMg_memOk ?_)
theorem State.winSettle_memOk {s : State} {w : Nat} (h : s.memOk) : State.memOk (State.winSettle s w) := by
  unfold State.winSettle
  repeat' (first
    | with_reducible assumption | with_reducible refine State.setMg_memOk ?_ | with_reducible refine State.semAdd_memOk ?_ | dsimp only
    | split)
theorem State.winLeave_memOk {s : State} {w n : Nat} (h : s.memOk) : State.memOk (State.winLeave s w n) := by
  unfold State.winLeave
  repeat' (first
    | with_reducible assumption | with_reducible refine State.winSettle_memOk ?_ | with_reducible refine State.setMg_memOk ?_)
theorem State.finishJob_memOk {s : State} {j : Job} {outc : Nat} (h : s.memOk) : State.memOk (State.finishJob s j outc) := by
  unfold State.finishJob
  repeat' (first
    | with_reducible assumption | with_reducible refine State.winLeave_memOk ?_ | with_reducible apply foldl_memOk
    | (with_reducible refine memOk_of_eq (State.setOutcome_mem ..) ?_) | split
    | (refine ⟨?_⟩; dsimp only; with_reducible refine memOk_wf ?_) | intro e)
theorem State.failJob_memOk {s : State} {j : Job} {code : Nat} (h : s.memOk) : State.memOk (State.failJob s j code) := by
  unfold State.failJob
  repeat' (first
    | with_reducible assumption | with_reducible refine State.logFor81_memOk ?_ | with_reducible refine State.finishJob_memOk ?_
    | with_reducible apply foldl_memOk | (with_reducible refine memOk_of_eq (State.nack_mem ..) ?_) | split | intro e)
@[simp] theorem State.setMove_mem {s : State} {asid va cnt start : Nat}  : (State.setMove s asid va cnt start).mem = s.mem := by
  unfold State.setMove
  repeat' with_reducible rfl
theorem State.takeFrame_mem {s : State} {p tier : Nat} {t : State} {x : Nat}  (he : State.takeFrame s p tier = some (t, x))
    : t.mem = s.mem := by
  unfold State.takeFrame at he
  repeat' (first | (cases he; done) | cases he | dsimp only at he | split at he)
  all_goals (try (simp only [Option.map_eq_some_iff, Option.bind_eq_some_iff] at he; obtain ⟨_, e1, e2⟩ := he; try cases e2))
  all_goals (try simp only [Option.some.injEq] at he)
  all_goals (try (have e3 := congrArg Prod.fst he; dsimp only at e3; subst e3))
  all_goals repeat' with_reducible rfl
theorem State.landOpen_mem {s : State} {q : Packet} {k : Nat} {t : State}  (he : State.landOpen s q k = some t) : t.mem = s.mem := by
  unfold State.landOpen at he
  repeat' (first | (cases he; done) | cases he | dsimp only at he | split at he)
  all_goals (try (simp only [Option.map_eq_some_iff, Option.bind_eq_some_iff] at he; obtain ⟨_, e1, e2⟩ := he; try cases e2))
  all_goals (try simp only [Option.some.injEq] at he)
  all_goals (try (have e3 := congrArg Prod.fst he; dsimp only at e3; subst e3))
  all_goals repeat' (first
    | simp only [State.setMove_mem]
    | (with_reducible refine (State.takeFrame_mem (he := by first | assumption | exact (Prod.eta _).symm | rfl)).trans ?_))
theorem State.landJob_memOk {s : State} {j : Job} (h : s.memOk) : State.memOk (State.landJob s j) := by
  unfold State.landJob
  repeat' (first
    | with_reducible assumption | with_reducible refine State.failJob_memOk ?_
    | (with_reducible refine memOk_of_eq (State.setJob_mem ..) ?_) | dsimp only | split
    | (with_reducible refine memOk_of_eq (State.landOpen_mem (he := by first | assumption | exact (Prod.eta _).symm | rfl)) ?_))
theorem State.walked_memOk {s : State} {asid va : Nat} (h : s.memOk) : State.memOk (State.walked s asid va) := by
  unfold State.walked
  repeat' (first
    | with_reducible assumption | with_reducible apply foldl_memOk | dsimp only | split
    | (with_reducible refine State.scan_memOk (he := by first | assumption | exact (Prod.eta _).symm | rfl) ?_) | intro e)
theorem State.retryJob_memOk {s : State} {j : Job} (h : s.memOk) : State.memOk (State.retryJob s j) := by
  unfold State.retryJob
  repeat' (first
    | with_reducible assumption | with_reducible refine State.failJob_memOk ?_ | with_reducible refine State.postFault_memOk ?_)
theorem State.holdJob_memOk {s : State} {j : Job} (h : s.memOk) : State.memOk (State.holdJob s j) := by
  unfold State.holdJob
  repeat' (first
    | with_reducible assumption | with_reducible refine State.retryJob_memOk ?_
    | (with_reducible refine memOk_of_eq (State.setJob_mem ..) ?_) | split)
theorem State.walkJob_memOk {s : State} {j : Job} (h : s.memOk) : State.memOk (State.walkJob s j) := by
  unfold State.walkJob
  repeat' (first
    | with_reducible assumption | with_reducible refine State.walked_memOk ?_ | with_reducible refine State.holdJob_memOk ?_
    | with_reducible refine State.retryJob_memOk ?_ | with_reducible refine State.failJob_memOk ?_
    | (with_reducible refine memOk_of_eq (State.setJob_mem ..) ?_) | (with_reducible refine memOk_of_eq (State.post_mem ..) ?_)
    | dsimp only | split)
theorem State.winEnter_memOk {s : State} {w n : Nat} (h : s.memOk) : State.memOk (State.winEnter s w n) := by
  unfold State.winEnter
  repeat' (first | with_reducible assumption | with_reducible refine State.setMg_memOk ?_)
theorem State.checkJob_memOk {s : State} {j : Job} (h : s.memOk) : State.memOk (State.checkJob s j) := by
  unfold State.checkJob
  dsimp only
  split
  · exact State.failJob_memOk h
  · split
    · exact State.landJob_memOk h
    · split
      · split
        · exact State.failJob_memOk h
        · exact State.walkJob_memOk (memOk_of_eq (State.setJob_mem ..) (State.winEnter_memOk h))
      · exact State.walkJob_memOk h
theorem State.tryCheck_memOk {s : State} {id : Nat} (h : s.memOk) : State.memOk (State.tryCheck s id) := by
  unfold State.tryCheck
  repeat' (first | with_reducible assumption | with_reducible refine State.checkJob_memOk ?_ | split)
theorem State.takeCombined_memOk {s : State} {q : Packet} {port : Nat} (h : s.memOk) : State.memOk (State.takeCombined s q port) := by
  unfold State.takeCombined
  repeat' (first
    | with_reducible assumption | with_reducible refine State.tryCheck_memOk ?_ | with_reducible apply foldl_memOk_fst
    | (with_reducible refine State.takeLeaf_memOk (he := by first | assumption | exact (Prod.eta _).symm | rfl) ?_)
    | (with_reducible refine memOk_of_eq (State.addJob_mem (he := by first | assumption | exact (Prod.eta _).symm | rfl)) ?_) | intro e)
theorem State.takeNew_memOk {s : State} {q : Packet} {port : Nat} (h : s.memOk) : State.memOk (State.takeNew s q port) := by
  unfold State.takeNew
  repeat' (first
    | with_reducible assumption | with_reducible refine State.failJob_memOk ?_ | with_reducible refine State.tryCheck_memOk ?_
    | dsimp only | split
    | (with_reducible refine memOk_of_eq (State.addJob_mem (he := by first | assumption | exact (Prod.eta _).symm | rfl)) ?_))
@[simp] theorem State.respond_mem {s : State} {q : Packet} {a : Answer}  : (State.respond s q a).mem = s.mem := by
  unfold State.respond
  repeat' (first
    | simp only [State.sendResp_mem] | split
    | (with_reducible refine (State.sealWith_mem (he := by first | assumption | exact (Prod.eta _).symm | rfl)).trans ?_))
@[simp] theorem State.holdAck_mem {s : State} {q : Packet}  : (State.holdAck s q).mem = s.mem := by
  unfold State.holdAck
  repeat' with_reducible rfl
theorem State.answerAgain_memOk {s : State} {f : FlowIn} {q : Packet} {port : Nat} (h : s.memOk)
    : State.memOk (State.answerAgain s f q port) := by
  unfold State.answerAgain
  repeat' (first
    | with_reducible assumption | with_reducible refine State.takeNew_memOk ?_
    | (with_reducible refine memOk_of_eq (State.respond_mem ..) ?_) | (with_reducible refine memOk_of_eq (State.sendResp_mem ..) ?_)
    | (with_reducible refine memOk_of_eq (State.holdAck_mem ..) ?_) | dsimp only | split)
theorem State.takeRequest_memOk {s : State} {q : Packet} {port : Nat} (h : s.memOk) : State.memOk (State.takeRequest s q port) := by
  unfold State.takeRequest
  repeat' (first
    | with_reducible assumption | with_reducible refine State.refuse_memOk ?_ | with_reducible refine State.takeCombined_memOk ?_
    | with_reducible refine State.takeNew_memOk ?_ | with_reducible refine State.answerAgain_memOk ?_
    | with_reducible refine State.ancientDup_memOk ?_ | (with_reducible refine memOk_of_eq (State.nack_mem ..) ?_)
    | (with_reducible refine memOk_of_eq (State.setFlowIn_mem ..) ?_) | dsimp only | split)
theorem State.withJob_keeps {s : State} {kind : Nat} {f : Job → State} (h : s.memOk) (h_f : ∀ (u0 : Job), State.memOk (f u0))
    : Keeps (State.withJob s kind f) := by
  unfold State.withJob
  repeat' (first | with_reducible assumption | with_reducible apply Keeps.next | with_reducible apply h_f | split)
theorem State.answerJob_memOk {s : State} {j : Job} {proxied local_ : State → State} (h : s.memOk) (h_proxied : ∀ (u0
    : State), u0.memOk → State.memOk (proxied u0)) (h_local_ : ∀ (u0 : State), u0.memOk → State.memOk (local_ u0))
    : State.memOk (State.answerJob s j proxied local_) := by
  unfold State.answerJob
  repeat' (first
    | with_reducible assumption | with_reducible refine State.failJob_memOk ?_ | with_reducible apply h_proxied
    | with_reducible apply h_local_ | split)
theorem State.replayHeld_memOk {s : State} {asid va n : Nat} (h : s.memOk) : State.memOk (State.replayHeld s asid va n) := by
  unfold State.replayHeld
  repeat' (first
    | with_reducible assumption | with_reducible refine State.walkJob_memOk ?_ | with_reducible apply foldl_memOk | split | intro e)
@[simp] theorem State.markStale_mem {s : State} {asid va pages : Nat}  : (State.markStale s asid va pages).mem = s.mem := by
  unfold State.markStale
  repeat' with_reducible rfl
@[simp] theorem State.dropMove_mem {s : State} {asid va : Nat}  : (State.dropMove s asid va).mem = s.mem := by
  unfold State.dropMove
  repeat' with_reducible rfl
theorem State.setPte_memOk {s : State} {k : Nat} {e : W64} (h : s.memOk) : State.memOk (State.setPte s k e) := by
  unfold State.setPte
  repeat' (first | with_reducible assumption | with_reducible refine State.writeN_memOk ?_)
theorem State.landed_memOk {s : State} {q : Packet} (h : s.memOk) : State.memOk (State.landed s q) := by
  unfold State.landed
  repeat' (first
    | with_reducible assumption | with_reducible refine State.noteReady_memOk ?_ | with_reducible refine State.replayHeld_memOk ?_
    | with_reducible refine State.setPte_memOk ?_ | (with_reducible refine memOk_of_eq (State.markStale_mem ..) ?_)
    | (with_reducible refine memOk_of_eq (State.dropMove_mem ..) ?_) | split)
theorem State.land_memOk {s : State} {j : Job} (h : s.memOk) : State.memOk (State.land s j) := by
  unfold State.land
  repeat' (first
    | with_reducible assumption | with_reducible refine State.landed_memOk ?_ | with_reducible refine State.copyB_memOk ?_ | dsimp only
    | split)
theorem State.syncTurn_mem {s : State} {d id line : Nat} {held : Bool} {t : State} {x : Bool}  (he
    : State.syncTurn s d id line held = (t, x)) : t.mem = s.mem := by
  unfold State.syncTurn at he
  repeat' (first | (cases he; done) | cases he | dsimp only at he | split at he)
  all_goals (try (simp only [Option.map_eq_some_iff, Option.bind_eq_some_iff] at he; obtain ⟨_, e1, e2⟩ := he; try cases e2))
  all_goals (try simp only [Option.some.injEq] at he)
  all_goals (try (have e3 := congrArg Prod.fst he; dsimp only at e3; subst e3))
  all_goals repeat' simp only [State.modDie_mem]
theorem State.jobTurn_memOk {s : State} {j : Job} {ok : State → Job → State} (h : s.memOk) (h_ok : ∀ (u0 : State) (u1
    : Job), u0.memOk → State.memOk (ok u0 u1)) : State.memOk (State.jobTurn s j ok) := by
  unfold State.jobTurn
  repeat' (first
    | with_reducible assumption | with_reducible refine State.walkJob_memOk ?_ | with_reducible apply h_ok | dsimp only | split
    | (with_reducible refine memOk_of_eq (State.syncTurn_mem (he := by first | assumption | exact (Prod.eta _).symm | rfl)) ?_))
@[simp] theorem State.countAccess_mem {s : State} {asid part va frame node : Nat} {tier : Bool} 
    : (State.countAccess s asid part va frame node tier).mem = s.mem := by
  unfold State.countAccess
  repeat' with_reducible rfl
@[simp] theorem State.countJob_mem {s : State} {j : Job}  : (State.countJob s j).mem = s.mem := by
  unfold State.countJob
  repeat' (first | simp only [State.countAccess_mem] | split)
theorem State.setObj_memOk {s : State} {core off : Nat} {o : Obj} (h : s.memOk) : State.memOk (State.setObj s core off o) := by
  unfold State.setObj
  repeat' (first | with_reducible assumption | with_reducible refine State.writeN_memOk ?_)
theorem State.countAt_memOk {s : State} {core off : Nat} {c : Cnt} {t : State} {x : Verdict} (h : s.memOk) (he
    : State.countAt s core off c = (t, x)) : State.memOk t := by
  unfold State.countAt at he
  repeat' (first | (cases he; done) | cases he | dsimp only at he | split at he)
  all_goals (try (simp only [Option.map_eq_some_iff, Option.bind_eq_some_iff] at he; obtain ⟨_, e1, e2⟩ := he; try cases e2))
  all_goals (try simp only [Option.some.injEq] at he)
  all_goals (try (have e3 := congrArg Prod.fst he; dsimp only at e3; subst e3))
  all_goals repeat' (first
    | with_reducible assumption | with_reducible refine State.setObjBits_memOk ?_ | with_reducible refine State.setObj_memOk ?_
    | (with_reducible refine memOk_of_eq (State.modCore_mem ..) ?_)
    | (with_reducible refine State.scan_memOk (he := by first | assumption | exact (Prod.eta _).symm | rfl) ?_))
theorem State.countFor_memOk {s : State} {team rank off stamp n : Nat} {t : State} {x : Verdict} (h : s.memOk) (he
    : State.countFor s team rank off stamp n = some (t, x)) : State.memOk t := by
  unfold State.countFor at he
  repeat' (first | (cases he; done) | cases he | dsimp only at he | split at he)
  all_goals (try (simp only [Option.map_eq_some_iff, Option.bind_eq_some_iff] at he; obtain ⟨_, e1, e2⟩ := he; try cases e2))
  all_goals (try simp only [Option.some.injEq] at he)
  all_goals (try (have e3 := congrArg Prod.fst he; dsimp only at e3; subst e3))
  all_goals repeat' (first
    | with_reducible assumption
    | (with_reducible refine State.logFor_memOk (he := by first | assumption | exact (Prod.eta _).symm | rfl) ?_)
    | (with_reducible refine State.countAt_memOk (he := by first | assumption | exact (Prod.eta _).symm | rfl) ?_))
@[simp] theorem State.setReply_mem {s : State} {src cls stream seq : Nat} {old : W64} 
    : (State.setReply s src cls stream seq old).mem = s.mem := by
  unfold State.setReply
  repeat' (first | with_reducible rfl | simp only [State.setFlowIn_mem] | split)
theorem State.amoAnswer_memOk {s : State} {j : Job} {old : Nat} (h : s.memOk) : State.memOk (State.amoAnswer s j old) := by
  unfold State.amoAnswer
  repeat' (first
    | with_reducible assumption | with_reducible refine State.finishJob_memOk ?_ | with_reducible apply foldl_memOk
    | (with_reducible refine memOk_of_eq (State.setReply_mem ..) ?_) | (with_reducible refine memOk_of_eq (State.respond_mem ..) ?_)
    | split | intro e)
theorem State.atomicAt_memOk {s : State} {k aop n a b asid va : Nat} {t : State} {x : Nat × Option Nat} (h : s.memOk) (he
    : State.atomicAt s k aop n a b asid va = (t, x)) : State.memOk t := by
  unfold State.atomicAt at he
  repeat' (first | (cases he; done) | cases he | dsimp only at he | split at he)
  all_goals (try (simp only [Option.map_eq_some_iff, Option.bind_eq_some_iff] at he; obtain ⟨_, e1, e2⟩ := he; try cases e2))
  all_goals (try simp only [Option.some.injEq] at he)
  all_goals (try (have e3 := congrArg Prod.fst he; dsimp only at e3; subst e3))
  all_goals repeat' (first
    | with_reducible assumption | with_reducible refine State.writeN_memOk ?_
    | (with_reducible refine State.scan_memOk (he := by first | assumption | exact (Prod.eta _).symm | rfl) ?_))
theorem State.amoPerform_memOk {s : State} {j : Job} (h : s.memOk) : State.memOk (State.amoPerform s j) := by
  unfold State.amoPerform
  repeat' (first
    | with_reducible assumption | with_reducible refine State.failJob_memOk ?_ | with_reducible refine State.amoAnswer_memOk ?_
    | (with_reducible refine memOk_of_eq (State.countJob_mem ..) ?_) | dsimp only | split
    | (with_reducible refine State.atomicAt_memOk (he := by first | assumption | exact (Prod.eta _).symm | rfl) ?_))
theorem State.takeResp_mem {s : State} {i kind : Nat} {f : State → Packet → Option State} (h_f : ∀ (u0 : State) (u1 : Packet) (t
    : State), f u0 u1 = some t → t.mem = u0.mem) : (State.takeResp s i kind f).mem = s.mem := by
  unfold State.takeResp
  split
  · rfl
  · split
    · rfl
    · dsimp only
      split
      · rfl
      · split
        · split
          · exact getD_mem_eq (fun t e => (h_f _ _ t e).trans rfl) rfl
          · rfl
        · exact getD_mem_eq (fun t e => (h_f _ _ t e).trans rfl) rfl
theorem State.takeResp_memOk {s : State} {i kind : Nat} {f : State → Packet → Option State} (h : s.memOk) (h_f : ∀ (u0 : State) (u1
    : Packet), u0.memOk → ∀ t, f u0 u1 = some t → t.memOk) : State.memOk (State.takeResp s i kind f) := by
  unfold State.takeResp
  split
  · exact h
  · split
    · exact h
    · dsimp only
      split
      · exact ⟨h.wf⟩
      · split
        · split
          · refine getD_memOk (fun t e => h_f _ _ ?_ t e) h; exact ⟨h.wf⟩
          · exact ⟨h.wf⟩
        · refine getD_memOk (fun t e => h_f _ _ ?_ t e) h; exact ⟨h.wf⟩
@[simp] theorem State.fillLoad_mem {s : State} {r : Ret} {bs : List Byte}  : (State.fillLoad s r bs).mem = s.mem := by
  unfold State.fillLoad
  repeat' (first | simp only [State.setS_mem, State.setVMask_mem] | split)
@[simp] theorem State.loadDone_mem {s : State} {id : Nat} {bs : List Byte}  : (State.loadDone s id bs).mem = s.mem := by
  unfold State.loadDone
  repeat' (first | simp only [State.modCur_mem, State.dropPend_mem, State.settleWait_mem, State.fillLoad_mem] | split)
@[simp] theorem State.engineData_mem {s : State} {core id va : Nat} {bs : List Byte} {bad : List Nat} 
    : (State.engineData s core id va bs bad).mem = s.mem := by
  unfold State.engineData
  repeat' simp only [State.modCore_mem]
@[simp] theorem State.readDone_mem {s : State} {r : Req} {bs : List Byte}  : (State.readDone s r bs).mem = s.mem := by
  unfold State.readDone
  repeat' (first
    | simp only [State.loadDone_mem, State.engineData_mem, State.hostDone_mem, State.setJob_mem] | split
    | (with_reducible refine (State.onCore_mem ?_).trans ?_) | intro e)
@[simp] theorem State.setStored_mem {s : State} {i : Nat} {x : Option Stored}  : (State.setStored s i x).mem = s.mem := by
  unfold State.setStored
  repeat' with_reducible rfl
@[simp] theorem State.dropStored_mem {s : State} {i : Nat}  : (State.dropStored s i).mem = s.mem := by
  unfold State.dropStored
  split
  · rfl
  · refine (foldl_mem_eq ?_).trans (State.setStored_mem ..)
    intro u b
    split
    · exact State.setFlowOut_mem ..
    · rfl
@[simp] theorem State.amoDone_mem {s : State} {r : Req} {old : Nat}  : (State.amoDone s r old).mem = s.mem := by
  unfold State.amoDone
  repeat' (first
    | simp only [State.settleWait_mem, State.setS_mem, State.dropPend_mem, State.setJob_mem] | split
    | (with_reducible refine (State.onCore_mem ?_).trans ?_) | intro e)
theorem State.ackStored_memOk {s : State} {i node : Nat} {t : State} (h : s.memOk) (he : State.ackStored s i node = some t)
    : State.memOk t := by
  unfold State.ackStored at he
  repeat' (first | (cases he; done) | cases he | dsimp only at he | split at he)
  all_goals (try (simp only [Option.map_eq_some_iff, Option.bind_eq_some_iff] at he; obtain ⟨_, e1, e2⟩ := he; try cases e2))
  all_goals (try simp only [Option.some.injEq] at he)
  all_goals (try (have e3 := congrArg Prod.fst he; dsimp only at e3; subst e3))
  all_goals repeat' (first
    | with_reducible assumption | (with_reducible refine memOk_of_eq (State.hostDone_mem ..) ?_)
    | (with_reducible refine memOk_of_eq (State.setJob_mem ..) ?_) | (with_reducible refine memOk_of_eq (State.setStored_mem ..) ?_)
    | (with_reducible refine memOk_of_eq (State.dropStored_mem ..) ?_) | split
    | (with_reducible refine State.endWrite_memOk (he := by first | assumption | exact (Prod.eta _).symm | rfl) ?_))
theorem State.ackAll_memOk {s : State} {p : Packet} {a2 : List Nat} {t : State} (h : s.memOk) (he : State.ackAll s p a2 = some t)
    : State.memOk t := by
  induction a2 generalizing s with
  | nil => unfold State.ackAll at he; cases he; exact h
  | cons i is ih =>
    unfold State.ackAll at he
    split at he
    · exact ih h he
    · obtain ⟨u, e1, e2⟩ := Option.bind_eq_some_iff.mp he
      exact ih (State.ackStored_memOk (he := e1) h) e2
theorem State.sendAgain_memOk {s : State} {i : Nat} (h : s.memOk) : State.memOk (State.sendAgain s i) := by
  unfold State.sendAgain
  repeat' (first
    | with_reducible assumption | with_reducible apply getD_memOk | (with_reducible refine memOk_of_eq (State.dropStored_mem ..) ?_)
    | (with_reducible refine memOk_of_eq (State.enter_mem ..) ?_) | (with_reducible refine memOk_of_eq (State.setStored_mem ..) ?_)
    | split | (with_reducible refine State.failReq_memOk (he := by first | assumption | exact (Prod.eta _).symm | rfl) ?_) | intro e)
@[simp] theorem State.doubtAfter_mem {s : State} {r : Req} : (State.doubtAfter s r).mem = s.mem := rfl
theorem State.nacked_memOk {s : State} {i code : Nat} {t : State} (h : s.memOk) (he : State.nacked s i code = some t) : State.memOk t := by
  unfold State.nacked at he
  repeat' (first | (cases he; done) | cases he | dsimp only at he | split at he)
  all_goals (try (simp only [Option.map_eq_some_iff, Option.bind_eq_some_iff] at he; obtain ⟨_, e1, e2⟩ := he; try cases e2))
  all_goals (try simp only [Option.some.injEq] at he)
  all_goals (try (have e3 := congrArg Prod.fst he; dsimp only at e3; subst e3))
  all_goals repeat' (first
    | with_reducible assumption | with_reducible refine State.sendAgain_memOk ?_
    | (with_reducible refine memOk_of_eq (State.doubtAfter_mem ..) ?_)
    | (with_reducible refine memOk_of_eq (State.dropStored_mem ..) ?_) | (refine ⟨?_⟩; dsimp only; with_reducible refine memOk_wf ?_)
    | (with_reducible refine State.failReq_memOk (he := by first | assumption | exact (Prod.eta _).symm | rfl) ?_))
@[simp] theorem State.setRecord_mem {s : State} {i : Nat} {r : Record}  : (State.setRecord s i r).mem = s.mem := by
  unfold State.setRecord
  repeat' with_reducible rfl
theorem State.parkUnknown_memOk {s : State} {p : Packet} {port : Nat} (h : s.memOk) : State.memOk (State.parkUnknown s p port) := by
  unfold State.parkUnknown
  repeat' (first
    | with_reducible assumption | with_reducible refine State.logErr_memOk ?_ | with_reducible refine State.raiseRing_memOk ?_ | split
    | (refine ⟨?_⟩; dsimp only; with_reducible refine memOk_wf ?_))
theorem State.park_memOk {s : State} {e : Nat} {p : Packet} {code index port : Nat} {addr : W64} (h : s.memOk)
    : State.memOk (State.park s e p code index port addr) := by
  unfold State.park
  repeat' (first
    | with_reducible assumption | with_reducible refine State.raisePart_memOk ?_ | with_reducible refine State.setMg_memOk ?_ | split
    | (refine ⟨?_⟩; dsimp only; with_reducible refine memOk_wf ?_))

end
end Sys2Proof.Machine
end

