-- ==== Sys2Proof/Laws/CanonicalShared.lean ====
section
/-!
SUPPORT. Memory stays in its canonical form: the rest of the shared operations.
-/
namespace Sys2Proof.Machine
section
set_option simprocs false

@[simp] theorem State.setVisit_mem {s : State} {v : Option Visit}  : (State.setVisit s v).mem = s.mem := by
  unfold State.setVisit
  repeat' with_reducible rfl
theorem State.parkVisit_memOk {s : State} {v : Visit} {p : Packet} {code index : Nat} {addr : W64} (h : s.memOk)
    : State.memOk (State.parkVisit s v p code index addr) := by
  unfold State.parkVisit
  repeat' (first
    | with_reducible assumption | with_reducible refine State.park_memOk ?_
    | (with_reducible refine memOk_of_eq (State.setVisit_mem ..) ?_))
theorem State.pebble_keeps {s : State} {perm : Nat → Bool} {lo hi : Nat} {f : Visit → State} (h : s.memOk) (h_f : ∀ (u0
    : Visit), State.memOk (f u0)) : Keeps (State.pebble s perm lo hi f) := by
  unfold State.pebble
  repeat' (first
    | with_reducible assumption | with_reducible apply Keeps.next | with_reducible refine State.parkVisit_memOk ?_
    | with_reducible apply h_f | split)
theorem State.goVisit_memOk {s : State} {v : Visit} {p : Packet} {next : Nat} (h : s.memOk) : State.memOk (State.goVisit s v p next) := by
  unfold State.goVisit
  repeat' (first
    | with_reducible assumption | with_reducible refine State.parkVisit_memOk ?_
    | (with_reducible refine memOk_of_eq (State.setVisit_mem ..) ?_) | split)
theorem State.pebbleMap_keeps {s : State} {lo hi : Nat} {f : Packet → Packet} (h : s.memOk) : Keeps (State.pebbleMap s lo hi f) := by
  unfold State.pebbleMap
  repeat' (first
    | with_reducible assumption | with_reducible apply State.pebble_keeps | with_reducible refine State.goVisit_memOk ?_ | intro e)
theorem State.pebbleAlu_keeps {s : State} {f : W64 → W64 → W64} (h : s.memOk) : Keeps (State.pebbleAlu s f) := by
  unfold State.pebbleAlu
  repeat' (first | with_reducible assumption | with_reducible apply State.pebbleMap_keeps)
theorem State.pebbleBranch_keeps {s : State} {d : BitVec 11} {taken : W64 → Bool} (h : s.memOk) : Keeps (State.pebbleBranch s d taken) := by
  unfold State.pebbleBranch
  repeat' (first
    | with_reducible assumption | with_reducible apply Keeps.next | with_reducible refine State.parkVisit_memOk ?_
    | with_reducible refine State.goVisit_memOk ?_ | dsimp only | split)
theorem State.routerRead_memOk {s : State} {v : Visit} {k n : Nat} {f : State → W64 → State} (h : s.memOk) (h_f : ∀ (u0 : State) (u1
    : W64), u0.memOk → State.memOk (f u0 u1)) : State.memOk (State.routerRead s v k n f) := by
  unfold State.routerRead
  repeat' (first
    | with_reducible assumption | with_reducible refine State.logErr_memOk ?_ | with_reducible apply h_f
    | (with_reducible refine memOk_of_eq (State.setVisit_mem ..) ?_) | dsimp only | split
    | (with_reducible refine State.scan_memOk (he := by first | assumption | exact (Prod.eta _).symm | rfl) ?_))
theorem State.parkSent_memOk {s : State} {e : Nat} {p : Packet} {code index port : Nat} {sent : Option Nat} (h : s.memOk)
    : State.memOk (State.parkSent s e p code index port sent) := by
  unfold State.parkSent
  exact getD_memOk (fun _ e => State.endSend_memOk (he := e) (State.park_memOk h)) (State.park_memOk h)
theorem State.takeExit_memOk {s : State} {e : Nat} {p q : Packet} {d index port : Nat} {sent : Option Nat} (h : s.memOk)
    : State.memOk (State.takeExit s e p q d index port sent) := by
  unfold State.takeExit
  repeat' (first
    | with_reducible assumption | with_reducible refine State.parkSent_memOk ?_ | with_reducible refine State.putOut_memOk ?_
    | split)
theorem State.leaveBy_memOk {s : State} {e : Nat} {p : Packet} {dir index port : Nat} {sent : Option Nat} (h : s.memOk)
    : State.memOk (State.leaveBy s e p dir index port sent) := by
  unfold State.leaveBy
  repeat' (first
    | with_reducible assumption | with_reducible refine State.takeExit_memOk ?_ | with_reducible refine State.parkSent_memOk ?_
    | split)
theorem State.putCounted_memOk {s : State} {core off : Nat} {bs : List Byte} {bad : List Nat} {obj stamp : Nat} {t : State} {x : Verdict}
    (h : s.memOk) (he : State.putCounted s core off bs bad obj stamp = (t, x)) : State.memOk t := by
  have H : (State.putCounted s core off bs bad obj stamp).1.memOk := by
    unfold State.putCounted
    dsimp only
    split
    · exact State.countAt_memOk (State.copyB_memOk h) (Prod.eta _).symm
    · exact State.countAt_memOk h (Prod.eta _).symm
  rw [he] at H; exact H
theorem State.deliver_memOk {s : State} {team rank off : Nat} {bs : List Byte} {bad : List Nat} {cnt : Option (Nat × Nat)} {t : State} {x
    : Verdict} (h : s.memOk) (he : State.deliver s team rank off bs bad cnt = some (t, x)) : State.memOk t := by
  unfold State.deliver at he
  repeat' (first | (cases he; done) | cases he | dsimp only at he | split at he)
  all_goals (try (simp only [Option.map_eq_some_iff, Option.bind_eq_some_iff] at he; obtain ⟨_, e1, e2⟩ := he; try cases e2))
  all_goals (try simp only [Option.some.injEq] at he)
  all_goals (try (have e3 := congrArg Prod.fst he; dsimp only at e3; subst e3))
  all_goals repeat' (first
    | with_reducible assumption | with_reducible refine State.copyB_memOk ?_
    | (with_reducible refine State.logFor_memOk (he := by first | assumption | exact (Prod.eta _).symm | rfl) ?_)
    | (with_reducible refine State.putCounted_memOk (he := by first | assumption | exact (Prod.eta _).symm | rfl) ?_))
theorem State.walkedAll_memOk {s : State} {asid : Nat} {vas : List Nat} (h : s.memOk) : State.memOk (State.walkedAll s asid vas) := by
  unfold State.walkedAll
  repeat' (first
    | with_reducible assumption | with_reducible refine State.walked_memOk ?_ | with_reducible apply foldl_memOk | intro e)
theorem State.taskWalks_memOk {s : State} {asid entry : Nat} {rec_ : List Byte} (h : s.memOk)
    : State.memOk (State.taskWalks s asid entry rec_) := by
  unfold State.taskWalks
  repeat' (first
    | with_reducible assumption | with_reducible refine State.walkedAll_memOk ?_ | with_reducible apply foldl_memOk | split | intro e)
@[simp] theorem State.addFault_mem {s : State} {p : Nat} {f : FaultSlot} {rank : Nat}  : (State.addFault s p f rank).mem = s.mem := by
  unfold State.addFault
  repeat' simp only [State.modPart_mem, State.slateEvent_mem]
theorem State.dispatchFail_memOk {s : State} {p i : Nat} {team : Option Nat} {f : TFail} (h : s.memOk)
    : State.memOk (State.dispatchFail s p i team f) := by
  unfold State.dispatchFail
  repeat' (first
    | with_reducible assumption | with_reducible refine State.postFault_memOk ?_ | with_reducible apply foldl_memOk
    | (with_reducible refine memOk_of_eq (State.addFault_mem ..) ?_) | intro e)
theorem State.copyMem_memOk {s : State} {src dst n asid : Nat} {va : Option Nat} (h : s.memOk) : State.memOk (State.copyMem s src dst n asid va) := by
  unfold State.copyMem
  have hc : (s.carry src n asid va).1.memOk := State.carry_memOk h (Prod.eta _).symm
  dsimp only
  first
  | exact State.spoilB_memOk ⟨Tab.wf_moveRun 0 _ src dst n hc.wf⟩
  | exact memOk_of_eq (State.spoilB_mem ..) ⟨Tab.wf_moveRun 0 _ src dst n hc.wf⟩
theorem State.bedLoad_memOk {s : State} {p die asid va : Nat} {frames : List Nat} (h : s.memOk)
    : State.memOk (State.bedLoad s p die asid va frames) := by
  unfold State.bedLoad
  repeat' (first
    | with_reducible assumption | with_reducible refine State.copyMem_memOk ?_ | with_reducible apply foldl_memOk
    | (with_reducible refine memOk_of_eq (State.modPart_mem ..) ?_) | dsimp only | split | intro e)
theorem State.touchVa_memOk {s : State} {asid va n : Nat} (h : s.memOk) : State.memOk (State.touchVa s asid va n) := by
  unfold State.touchVa
  repeat' (first
    | with_reducible assumption | with_reducible refine State.walked_memOk ?_ | with_reducible apply foldl_memOk | dsimp only | split
    | (with_reducible refine State.carry_memOk (he := by first | assumption | exact (Prod.eta _).symm | rfl) ?_) | intro e)
theorem State.loadTeam_memOk {s : State} {tt : Team} {im : Nat × List Nat} {tab : List W32} {t : State} {x : List Extent} (h
    : s.memOk) (he : State.loadTeam s tt im tab = (t, x)) : State.memOk t := by
  unfold State.loadTeam at he
  repeat' (first | (cases he; done) | cases he | dsimp only at he | split at he)
  all_goals (try (simp only [Option.map_eq_some_iff, Option.bind_eq_some_iff] at he; obtain ⟨_, e1, e2⟩ := he; try cases e2))
  all_goals (try simp only [Option.some.injEq] at he)
  all_goals (try (have e3 := congrArg Prod.fst he; dsimp only at e3; subst e3))
  all_goals repeat' (first
    | with_reducible assumption | with_reducible refine State.bedLoad_memOk ?_ | with_reducible refine State.touchVa_memOk ?_
    | with_reducible apply foldl_memOk | (with_reducible refine memOk_of_eq (State.modDie_mem ..) ?_) | split | intro e)
theorem State.resumeTeam_memOk {s : State} {m : Team} {mask : Nat} (h : s.memOk) : State.memOk (State.resumeTeam s m mask) := by
  unfold State.resumeTeam
  repeat' (first
    | with_reducible assumption | with_reducible refine State.taskWalks_memOk ?_ | with_reducible refine State.dispatchFail_memOk ?_
    | with_reducible apply foldl_memOk | (with_reducible refine memOk_of_eq (State.modCore_mem ..) ?_)
    | (with_reducible refine memOk_of_eq (State.modTeam_mem ..) ?_) | dsimp only | split
    | (with_reducible refine State.carry_memOk (he := by first | assumption | exact (Prod.eta _).symm | rfl) ?_)
    | (with_reducible refine State.loadTeam_memOk (he := by first | assumption | exact (Prod.eta _).symm | rfl) ?_) | intro e)
theorem State.readHead_memOk {s : State} {p q tt : Nat} (h : s.memOk) : State.memOk (State.readHead s p q tt) := by
  unfold State.readHead
  repeat' (first
    | with_reducible assumption | with_reducible refine State.walked_memOk ?_ | dsimp only | split
    | (with_reducible refine State.scan_memOk (he := by first | assumption | exact (Prod.eta _).symm | rfl) ?_))
@[simp] theorem State.newHead_mem {s : State} {p q k : Nat}  : (State.newHead s p q k).mem = s.mem := by
  unfold State.newHead
  repeat' (first | simp only [State.modPart_mem] | with_reducible apply foldl_mem_eq | intro e)
theorem State.popHead_memOk {s : State} {p q k : Nat} (h : s.memOk) : State.memOk (State.popHead s p q k) := by
  unfold State.popHead
  repeat' (first
    | with_reducible assumption | with_reducible refine State.setMg_memOk ?_
    | (with_reducible refine memOk_of_eq (State.newHead_mem ..) ?_))
theorem State.setUpTeam_memOk {s : State} {p q st : Nat} {rec_ : List Byte} {cores : List Nat} {es : List Extent} {tab : List W32} (h
    : s.memOk) : State.memOk (State.setUpTeam s p q st rec_ cores es tab) := by
  unfold State.setUpTeam
  repeat' (first
    | with_reducible assumption | with_reducible refine State.popHead_memOk ?_ | with_reducible refine State.writeB_memOk ?_
    | with_reducible refine State.noteReady_memOk ?_ | with_reducible apply foldl_memOk
    | (with_reducible refine memOk_of_eq (State.modPart_mem ..) ?_) | (with_reducible refine memOk_of_eq (State.setCore_mem ..) ?_)
    | (refine ⟨?_⟩; dsimp only; with_reducible refine memOk_wf ?_)
    | (with_reducible refine State.loadTeam_memOk (he := by first | assumption | exact (Prod.eta _).symm | rfl) ?_) | intro e)
theorem State.launchTask_memOk {s : State} {p i mask : Nat} (h : s.memOk) : State.memOk (State.launchTask s p i mask) := by
  unfold State.launchTask
  extract_lets +onlyGivenNames q st asid place
  clear_value place asid st q
  split
  · exact h
  · split
    · extract_lets +onlyGivenNames m n
      split
      · exact State.dispatchFail_memOk (State.readHead_memOk h)
      · exact h
    · extract_lets +onlyGivenNames n
      split
      · exact h
      · split
        · exact h
        · extract_lets +onlyGivenNames u
          have hu : u.memOk := State.taskWalks_memOk (State.readHead_memOk h)
          clear_value u
          split
          · exact State.dispatchFail_memOk hu
          · split
            · exact hu
            · split
              · exact hu
              · split
                · exact State.dispatchFail_memOk hu
                · exact State.setUpTeam_memOk hu
    · exact h
theorem State.dispatch_memOk {s : State} {p i mask : Nat} (h : s.memOk) : State.memOk (State.dispatch s p i mask) := by
  unfold State.dispatch
  repeat' (first
    | with_reducible assumption | with_reducible refine State.resumeTeam_memOk ?_ | with_reducible refine State.launchTask_memOk ?_
    | dsimp only | split)
theorem State.fallbackRun_memOk {p a1 : Nat} {a2 : State} (h : a2.memOk) : State.memOk (State.fallbackRun p a1 a2) := by
  induction a1 generalizing a2 with
  | zero => exact h
  | succ f ih =>
    unfold State.fallbackRun
    split
    · exact h
    · dsimp only
      split
      · exact State.dispatch_memOk h
      · exact ih (State.dispatch_memOk h)
theorem State.issueStop_memOk {s : State} {tt : Team} {area at_ : Nat} {not : List Nat} (h : s.memOk)
    : State.memOk (State.issueStop s tt area at_ not) := by
  unfold State.issueStop
  repeat' (first
    | with_reducible assumption | with_reducible refine State.writeB_memOk ?_ | with_reducible apply foldl_memOk
    | (with_reducible refine memOk_of_eq (State.modTeam_mem ..) ?_) | (with_reducible refine memOk_of_eq (State.modCore_mem ..) ?_)
    | intro e)
theorem State.preempt_memOk {s : State} {tt : Team} {not : List Nat} (h : s.memOk) : State.memOk (State.preempt s tt not) := by
  unfold State.preempt
  repeat' (first
    | with_reducible assumption | with_reducible refine State.issueStop_memOk ?_
    | (with_reducible refine memOk_of_eq (State.slateEvent_mem ..) ?_) | (with_reducible refine memOk_of_eq (State.modTeam_mem ..) ?_)
    | dsimp only | split)
@[simp] theorem State.replayAt_mem {s : State} {id core va : Nat}  : (State.replayAt s id core va).mem = s.mem := by
  unfold State.replayAt
  repeat' simp only [State.modTeam_mem, State.unfault_mem]
@[simp] theorem State.endWaits_mem {s : State} {p : Nat}  : (State.endWaits s p).mem = s.mem := by
  unfold State.endWaits
  repeat' (first
    | simp only [State.modTeam_mem, State.replayAt_mem, State.modPart_mem] | with_reducible apply foldl_mem_eq | split | intro e)
theorem State.boundary_memOk {s : State} {p id : Nat} (h : s.memOk) : State.memOk (State.boundary s p id) := by
  unfold State.boundary
  repeat' (first
    | with_reducible assumption | with_reducible refine State.semAdd_memOk ?_ | with_reducible apply foldl_memOk
    | (with_reducible refine memOk_of_eq (State.modPart_mem ..) ?_) | split | (refine ⟨?_⟩; dsimp only; with_reducible refine memOk_wf ?_)
    | intro e)
@[simp] theorem State.freeCores_mem {s : State} {p : Nat} {cores : List Nat}  : (State.freeCores s p cores).mem = s.mem := by
  unfold State.freeCores
  refine (foldl_mem_eq fun u d => State.slateEvent_mem ..).trans ?_
  refine (State.modPart_mem ..).trans ?_
  refine (foldl_mem_eq fun u d => State.modDie_mem ..).trans ?_
  exact foldl_mem_eq fun u c => State.modCore_mem ..
theorem State.endTeam_memOk {s : State} {tt : Team} (h : s.memOk) : State.memOk (State.endTeam s tt) := by
  unfold State.endTeam
  repeat' (first
    | with_reducible assumption | with_reducible refine State.boundary_memOk ?_
    | (with_reducible refine memOk_of_eq (State.freeCores_mem ..) ?_) | split
    | (refine ⟨?_⟩; dsimp only; with_reducible refine memOk_wf ?_))
theorem State.faultAct_memOk {s : State} {p act slot : Nat} (h : s.memOk) : State.memOk (State.faultAct s p act slot) := by
  unfold State.faultAct
  repeat' (first
    | with_reducible assumption | with_reducible refine State.noteReady_memOk ?_ | with_reducible refine State.endTeam_memOk ?_
    | with_reducible refine State.preempt_memOk ?_ | with_reducible refine State.popHead_memOk ?_
    | (with_reducible refine memOk_of_eq (State.modPart_mem ..) ?_) | (with_reducible refine memOk_of_eq (State.endWaits_mem ..) ?_)
    | (with_reducible refine memOk_of_eq (State.modTeam_mem ..) ?_) | dsimp only | split)
theorem State.applyDec_memOk {s : State} {p : Nat} {d : Nat × W32 × W32} (h : s.memOk) : State.memOk (State.applyDec s p d) := by
  unfold State.applyDec
  repeat' (first
    | with_reducible assumption | with_reducible refine State.dispatch_memOk ?_ | with_reducible refine State.preempt_memOk ?_
    | with_reducible refine State.faultAct_memOk ?_ | (with_reducible refine memOk_of_eq (State.modPart_mem ..) ?_) | split)
theorem State.fallback_memOk {s : State} {p : Nat} {e : Event} (h : s.memOk) : State.memOk (State.fallback s p e) := by
  unfold State.fallback
  repeat' (first
    | with_reducible assumption | with_reducible refine State.fallbackRun_memOk ?_ | with_reducible refine State.applyDec_memOk ?_ | split)
theorem State.showM_memOk {s : State} {p : Nat} (h : s.memOk) : State.memOk (State.showM s p) := by
  unfold State.showM
  repeat' (first | with_reducible assumption | with_reducible refine State.writeB_memOk ?_)
theorem State.abend_memOk {s : State} {p cause : Nat} (h : s.memOk) : State.memOk (State.abend s p cause) := by
  unfold State.abend
  repeat' (first
    | with_reducible assumption | with_reducible refine State.fallback_memOk ?_ | with_reducible refine State.showM_memOk ?_
    | (with_reducible refine memOk_of_eq (State.modPart_mem ..) ?_) | (with_reducible refine memOk_of_eq (State.slateEvent_mem ..) ?_)
    | dsimp only | split)
theorem State.slateOp_keeps {s : State} {cost : Nat} {f : Part → Except Nat Part} (h : s.memOk) : Keeps (State.slateOp s cost f) := by
  unfold State.slateOp
  repeat' (first
    | with_reducible assumption | with_reducible apply Keeps.next | with_reducible refine State.abend_memOk ?_
    | (with_reducible refine memOk_of_eq (State.modPart_mem ..) ?_) | dsimp only | split)
theorem State.emit_keeps {s : State} {bad : Part → Bool} {dec : Part → Nat × W32 × W32} (h : s.memOk) : Keeps (State.emit s bad dec) := by
  unfold State.emit
  repeat' (first | with_reducible assumption | with_reducible apply State.slateOp_keeps)
theorem State.slateAlu_keeps {s : State} {cost d a : Nat} {b : Part → W32} {f : W32 → W32 → W32} (h : s.memOk)
    : Keeps (State.slateAlu s cost d a b f) := by
  unfold State.slateAlu
  repeat' (first | with_reducible assumption | with_reducible apply State.slateOp_keeps)
theorem State.slateSelect_keeps {s : State} {d a : Nat} {b : Part → W32} (h : s.memOk) : Keeps (State.slateSelect s d a b) := by
  unfold State.slateSelect
  repeat' (first | with_reducible assumption | with_reducible apply State.slateOp_keeps)
theorem State.fixReg_memOk {s : State} {r kind : Nat} (h : s.memOk) : State.memOk (State.fixReg s r kind) := by
  unfold State.fixReg
  repeat' (first
    | with_reducible assumption | with_reducible refine State.ringPut_memOk ?_
    | (with_reducible refine memOk_of_eq (State.modCtx_mem ..) ?_))
theorem State.fixRegs_memOk {s : State} {sel : Nat → Bool} (h : s.memOk) : State.memOk (State.fixRegs s sel) := by
  unfold State.fixRegs
  repeat' (first
    | with_reducible assumption | with_reducible refine State.fixReg_memOk ?_ | with_reducible apply foldl_memOk | intro e)
theorem State.yieldCore_memOk {s : State} {c : Nat} (h : s.memOk) : State.memOk (State.yieldCore s c) := by
  unfold State.yieldCore
  repeat' (first
    | with_reducible assumption | with_reducible refine State.fixRegs_memOk ?_
    | (with_reducible refine memOk_of_eq (State.modCur_mem ..) ?_) | (refine ⟨?_⟩; dsimp only; with_reducible refine memOk_wf ?_))
theorem State.putNums_memOk {s : State} {k n : Nat} {ws : List Nat} (h : s.memOk) : State.memOk (State.putNums s k n ws) := by
  unfold State.putNums
  repeat' (first | with_reducible assumption | with_reducible refine State.writeB_memOk ?_)
theorem State.saveQueue_memOk {s : State} {k : Nat} {q : List Cmd} (h : s.memOk) : State.memOk (State.saveQueue s k q) := by
  unfold State.saveQueue
  repeat' (first
    | with_reducible assumption | with_reducible refine State.putNums_memOk ?_ | with_reducible apply foldl_memOk | split | intro e)
theorem State.saveControl_memOk {s : State} {core k : Nat} (h : s.memOk) : State.memOk (State.saveControl s core k) := by
  unfold State.saveControl
  repeat' (first
    | with_reducible assumption | with_reducible refine State.putNums_memOk ?_ | with_reducible refine State.saveQueue_memOk ?_
    | (with_reducible refine memOk_of_eq (State.spoilB_mem ..) ?_) | split)
theorem State.saveRank_memOk {s : State} {core k : Nat} (h : s.memOk) : State.memOk (State.saveRank s core k) := by
  unfold State.saveRank
  repeat' (first
    | with_reducible assumption | with_reducible refine State.zeroMem_memOk ?_ | with_reducible refine State.copyMem_memOk ?_
    | with_reducible refine State.writeB_memOk ?_
    | with_reducible refine State.saveControl_memOk ?_ | with_reducible apply foldl_memOk
    | (with_reducible refine memOk_of_eq (State.spoilB_mem ..) ?_) | dsimp only | split | intro e)
theorem State.saveHeader_memOk {s : State} {tt : Team} (h : s.memOk) : State.memOk (State.saveHeader s tt) := by
  unfold State.saveHeader
  repeat' (first
    | with_reducible assumption | with_reducible refine State.zeroMem_memOk ?_ | with_reducible refine State.putNums_memOk ?_
    | with_reducible refine State.writeB_memOk ?_)
theorem State.applyLog_memOk {s : State} {core : Nat} {e : LogEntry} (h : s.memOk) : State.memOk (State.applyLog s core e) := by
  unfold State.applyLog
  repeat' (first
    | with_reducible assumption | with_reducible refine State.copyB_memOk ?_ | with_reducible refine State.setObjBits_memOk ?_
    | with_reducible refine State.sentAt_memOk ?_ | with_reducible apply foldl_memOk | dsimp only | split
    | (with_reducible refine State.countAt_memOk (he := by first | assumption | exact (Prod.eta _).symm | rfl) ?_) | intro e)
@[simp] theorem State.moveFlights_mem {s : State} {tt : Team}  : (State.moveFlights s tt).mem = s.mem := by
  unfold State.moveFlights
  repeat' with_reducible rfl
theorem State.readDesc_memOk {s : State} {it : Iter} {t : State} {x : List Byte} (h : s.memOk) (he : State.readDesc s it = (t, x))
    : State.memOk t := by
  have key : ∀ n d, s.takeSpad it.cmd.b 0 n = d → d.1.memOk := fun n d hd => State.takeSpad_memOk h (hd.trans (Prod.eta _).symm)
  unfold State.readDesc at he
  generalize hd : s.takeSpad it.cmd.b 0 64 = d at he
  have hk := key _ _ hd
  clear hd key
  split at he
  · cases he; exact hk
  · cases he; exact h
@[simp] theorem State.doneM_mem {s : State} {it : Iter} {path : Nat} {drew : Tab W32}  : (State.doneM s it path drew).mem = s.mem := by
  unfold State.doneM
  repeat' simp only [State.modCur_mem]
@[simp] theorem State.failIter_mem {s : State} {it : Iter} {cause : Nat} {addr : Option W64} {zero : List Nat} 
    : (State.failIter s it cause addr zero).mem = s.mem := by
  unfold State.failIter
  repeat' simp only [State.modCur_mem, State.engineFault_mem]
@[simp] theorem State.spoilt_mem {s : State} {it : Iter} {path : Nat} {addr : Option W64}  : (State.spoilt s it path addr).mem = s.mem := by
  unfold State.spoilt
  repeat' (first | simp only [State.modCur_mem, State.failIter_mem] | split)
theorem State.putOwn_memOk {s : State} {it : Iter} {off : Nat} {bs : List Byte} {bad : List Nat} (h : s.memOk)
    : State.memOk (State.putOwn s it off bs bad) := by
  unfold State.putOwn
  repeat' (first
    | with_reducible assumption | with_reducible refine State.copyB_memOk ?_ | with_reducible refine State.failEvent_memOk ?_
    | with_reducible apply foldl_memOk | (with_reducible refine memOk_of_eq (State.modCur_mem ..) ?_) | dsimp only | split
    | (with_reducible refine State.putCounted_memOk (he := by first | assumption | exact (Prod.eta _).symm | rfl) ?_)
    | (with_reducible refine memOk_of_eq (State.newId_mem (he := by first | assumption | exact (Prod.eta _).symm | rfl)) ?_) | intro e)
@[simp] theorem State.countPiece_mem {s : State} {p : Piece}  : (State.countPiece s p).mem = s.mem := by
  unfold State.countPiece
  repeat' (first | simp only [State.countAccess_mem] | split)
theorem State.takePieces_memOk {s : State} {it : Iter} {t : State} {x : List Byte × List Nat} (h : s.memOk) (he
    : State.takePieces s it = (t, x)) : State.memOk t := by
  unfold State.takePieces at he
  repeat' (first | (cases he; done) | cases he | dsimp only at he | split at he)
  all_goals (try (simp only [Option.map_eq_some_iff, Option.bind_eq_some_iff] at he; obtain ⟨_, e1, e2⟩ := he; try cases e2))
  all_goals (try simp only [Option.some.injEq] at he)
  all_goals (try (have e3 := congrArg Prod.fst he; dsimp only at e3; subst e3))
  all_goals repeat' (first
    | with_reducible assumption | with_reducible apply foldl_memOk_fst | (with_reducible refine memOk_of_eq (State.countPiece_mem ..) ?_)
    | split | (with_reducible refine State.carry_memOk (he := by first | assumption | exact (Prod.eta _).symm | rfl) ?_) | intro e)
@[simp] theorem State.writePiece_mem {s : State} {it : Iter} {p : Piece} {bs : List Byte} {bad : List Nat} 
    : (State.writePiece s it p bs bad).mem = s.mem := by
  unfold State.writePiece
  repeat' (first
    | simp only [State.launch_mem, State.countPiece_mem, State.post_mem, State.addOut_mem] | with_reducible apply foldl_mem_eq | split
    | (with_reducible refine (State.newId_mem (he := by first | assumption | exact (Prod.eta _).symm | rfl)).trans ?_) | intro e)
@[simp] theorem State.writePieces_mem {s : State} {it : Iter} {a2 : List Piece} {a3 : List Byte} {a4 : List Nat} 
    : (State.writePieces s it a2 a3 a4).mem = s.mem := by
  induction a2 generalizing s a3 a4 with
  | nil => rfl
  | cons p ps ih => unfold State.writePieces; exact ih.trans (State.writePiece_mem ..)
@[simp] theorem State.writeBox_mem {s : State} {it : Iter} {va : W64} {bs : List Byte} {bad : List Nat} 
    : (State.writeBox s it va bs bad).mem = s.mem := by
  unfold State.writeBox
  repeat' (first
    | simp only [State.addOut_mem, State.post_mem] | with_reducible apply foldl_mem_eq
    | (with_reducible refine (State.newId_mem (he := by first | assumption | exact (Prod.eta _).symm | rfl)).trans ?_) | intro e)
theorem State.endCopy_memOk {s : State} {it : Iter} {t : State} {x : Option Iter} (h : s.memOk) (he : State.endCopy s it = (t, x))
    : State.memOk t := by
  unfold State.endCopy at he
  repeat' (first | (cases he; done) | cases he | dsimp only at he | split at he)
  all_goals (try (simp only [Option.map_eq_some_iff, Option.bind_eq_some_iff] at he; obtain ⟨_, e1, e2⟩ := he; try cases e2))
  all_goals (try simp only [Option.some.injEq] at he)
  all_goals (try (have e3 := congrArg Prod.fst he; dsimp only at e3; subst e3))
  all_goals repeat' (first
    | with_reducible assumption | with_reducible refine State.putOwn_memOk ?_ | with_reducible refine State.sentAt_memOk ?_
    | with_reducible apply foldl_memOk | with_reducible apply foldl_memOk_fst | (with_reducible refine memOk_of_eq (State.oob_mem ..) ?_)
    | (with_reducible refine memOk_of_eq (State.modCur_mem ..) ?_) | (with_reducible refine memOk_of_eq (State.writePieces_mem ..) ?_)
    | (with_reducible refine memOk_of_eq (State.launch_mem ..) ?_) | (with_reducible refine memOk_of_eq (State.writeBox_mem ..) ?_)
    | split | (with_reducible refine State.takePieces_memOk (he := by first | assumption | exact (Prod.eta _).symm | rfl) ?_)
    | (with_reducible refine State.copySpad_memOk (he := by first | assumption | exact (Prod.eta _).symm | rfl) ?_)
    | (with_reducible refine memOk_of_eq (State.newId_mem (he := by first | assumption | exact (Prod.eta _).symm | rfl)) ?_) | intro e)
theorem State.rerun_memOk {s : State} {a1 : List Iter} {t : State} {x : Option (Iter × Option W64)} (h : s.memOk) (he
    : State.rerun s a1 = some (t, x)) : State.memOk t := by
  induction a1 generalizing s with
  | nil => unfold State.rerun at he; cases he; exact h
  | cons it its ih =>
    unfold State.rerun at he
    split at he
    · exact ih (MRes.of_ok (e := by assumption) (State.runM_ok h)) he
    · cases he; exact MRes.of_spoilt (e := by assumption) (State.runM_ok h)
    · cases he; exact h
    · cases he
@[simp] theorem State.hostOk_mem {s : State}  : (State.hostOk s).mem = s.mem := by
  unfold State.hostOk
  repeat' simp only [State.hostDone_mem]
@[simp] theorem State.postMove_mem {s : State} {m : Move} {node va : Nat} {bs : List Byte} {bad : List Nat} 
    : (State.postMove s m node va bs bad).mem = s.mem := by
  unfold State.postMove
  repeat' (first
    | simp only [State.post_mem]
    | (with_reducible refine (State.newId_mem (he := by first | assumption | exact (Prod.eta _).symm | rfl)).trans ?_))
theorem State.sendPage_memOk {s : State} {m : Move} {node : Nat} (h : s.memOk) : State.memOk (State.sendPage s m node) := by
  unfold State.sendPage
  repeat' (first
    | with_reducible assumption | with_reducible apply foldl_memOk | (with_reducible refine memOk_of_eq (State.postMove_mem ..) ?_)
    | (with_reducible refine State.carry_memOk (he := by first | assumption | exact (Prod.eta _).symm | rfl) ?_) | intro e)
theorem State.startMove_memOk {s : State} {k : Nat} {e : W64} {m : Move} (h : s.memOk) : State.memOk (State.startMove s k e m) := by
  unfold State.startMove
  repeat' (first
    | with_reducible assumption | with_reducible refine State.setPte_memOk ?_
    | (with_reducible refine memOk_of_eq (State.markStale_mem ..) ?_))
theorem State.startTier_memOk {s : State} {part asid va tier : Nat} (h : s.memOk) : State.memOk (State.startTier s part asid va tier) := by
  unfold State.startTier
  split
  · exact h
  · split
    · exact h
    · rename_i he
      split at he
      · cases he
      · exact State.startMove_memOk (memOk_of_eq (State.takeFrame_mem he) h)
@[simp] theorem State.putFrame_mem {s : State} {p frame : Nat}  : (State.putFrame s p frame).mem = s.mem := by
  unfold State.putFrame
  repeat' (first | dsimp only | split)
@[simp] theorem State.resetMove_mem {s : State} {asid va : Nat}  : (State.resetMove s asid va).mem = s.mem := by
  unfold State.resetMove
  repeat' with_reducible rfl
theorem State.takeBlock_mem {s : State} {p tier : Nat} {t : State} {x : Nat}  (he : State.takeBlock s p tier = some (t, x))
    : t.mem = s.mem := by
  unfold State.takeBlock at he
  repeat' (first | (cases he; done) | cases he | dsimp only at he | split at he)
  all_goals (try (simp only [Option.map_eq_some_iff, Option.bind_eq_some_iff] at he; obtain ⟨_, e1, e2⟩ := he; try cases e2))
  all_goals (try simp only [Option.some.injEq] at he)
  all_goals (try (have e3 := congrArg Prod.fst he; dsimp only at e3; subst e3))
  all_goals repeat' with_reducible rfl
theorem State.disarm_memOk {s : State} {x : Snap} (h : s.memOk) : State.memOk (State.disarm s x) := by
  unfold State.disarm
  repeat' (first
    | with_reducible assumption | with_reducible refine State.replayHeld_memOk ?_
    | (refine ⟨?_⟩; dsimp only; with_reducible refine memOk_wf ?_))
@[simp] theorem State.putFrames_mem {s : State} {p : Nat} {fs : List Nat}  : (State.putFrames s p fs).mem = s.mem := by
  unfold State.putFrames
  repeat' (first | simp only [State.putFrame_mem] | with_reducible apply foldl_mem_eq | intro e)
theorem State.snapDrop_memOk {s : State} {x : Snap} (h : s.memOk) : State.memOk (State.snapDrop s x) := by
  unfold State.snapDrop
  repeat' (first
    | with_reducible assumption | with_reducible refine State.disarm_memOk ?_
    | (with_reducible refine memOk_of_eq (State.putFrames_mem ..) ?_))
theorem State.hostReq_keeps {s : State} {f : State → State} (h : s.memOk) (h_f : ∀ (u0 : State), u0.memOk → State.memOk (f u0))
    : Keeps (State.hostReq s f) := by
  unfold State.hostReq
  repeat' (first
    | with_reducible assumption | with_reducible apply Keeps.next | with_reducible apply h_f
    | (with_reducible refine memOk_of_eq (State.hostDone_mem ..) ?_) | split)
@[simp] theorem State.hostProxy_mem {s : State} {kind asid va len : Nat} {e : W64} {data : List Byte} 
    : (State.hostProxy s kind asid va len e data).mem = s.mem := by
  unfold State.hostProxy
  repeat' simp only [State.post_mem]
theorem State.hostAccess_memOk {s : State} {kind asid va len : Nat} {data : List Byte} {ok : State → W64 → Nat → State} (h
    : s.memOk) (h_ok : ∀ (u0 : State) (u1 : W64) (u2 : Nat), u0.memOk → State.memOk (ok u0 u1 u2))
    : State.memOk (State.hostAccess s kind asid va len data ok) := by
  unfold State.hostAccess
  repeat' (first
    | with_reducible assumption | with_reducible refine State.walked_memOk ?_ | with_reducible refine State.postFault_memOk ?_
    | with_reducible apply h_ok | (with_reducible refine memOk_of_eq (State.hostDone_mem ..) ?_)
    | (with_reducible refine memOk_of_eq (State.hostProxy_mem ..) ?_) | dsimp only | split)
@[simp] theorem State.hostCount_mem {s : State} {asid va pa : Nat} {e : W64}  : (State.hostCount s asid va pa e).mem = s.mem := by
  unfold State.hostCount
  repeat' (first | simp only [State.countAccess_mem] | split)
@[simp] theorem State.refused_mem {s : State}  : (State.refused s).mem = s.mem := by
  unfold State.refused
  repeat' simp only [State.hostDone_mem]
theorem State.mgWrite_memOk {s : State} {a w v : Nat} {r : MgReg} (h : s.memOk) : State.memOk (State.mgWrite s a w v r) := by
  unfold State.mgWrite
  repeat' (first
    | with_reducible assumption | with_reducible refine State.setMg_memOk ?_ | with_reducible refine State.writeB_memOk ?_
    | with_reducible refine State.noteReady_memOk ?_ | (with_reducible refine memOk_of_eq (State.hostOk_mem ..) ?_)
    | (with_reducible refine memOk_of_eq (State.refused_mem ..) ?_) | dsimp only | split)
@[simp] theorem State.tellRing_mem {s : State} {n a : Nat}  : (State.tellRing s n a).mem = s.mem := by
  unfold State.tellRing
  repeat' (first | with_reducible rfl | split)
theorem State.consume_keeps {s : State} {n value : Nat} (h : s.memOk) : Keeps (State.consume s n value) := by
  unfold State.consume
  repeat' (first
    | with_reducible assumption | with_reducible apply State.hostReq_keeps | with_reducible refine State.setMg_memOk ?_
    | (with_reducible refine memOk_of_eq (State.hostDone_mem ..) ?_) | (with_reducible refine memOk_of_eq (State.tellRing_mem ..) ?_)
    | (with_reducible refine memOk_of_eq (State.hostOk_mem ..) ?_) | split | (refine ⟨?_⟩; dsimp only; with_reducible refine memOk_wf ?_)
    | intro e)
theorem State.command_keeps {s : State} {ok : Bool} {f : State → State} (h : s.memOk) (h_f : ∀ (u0
    : State), u0.memOk → State.memOk (f u0)) : Keeps (State.command s ok f) := by
  unfold State.command
  repeat' (first
    | with_reducible assumption | with_reducible apply State.hostReq_keeps | with_reducible apply h_f
    | (with_reducible refine memOk_of_eq (State.hostOk_mem ..) ?_) | (with_reducible refine memOk_of_eq (State.refused_mem ..) ?_) | split
    | intro e)
@[simp] theorem State.setOwner_mem {s : State} {u holder : Nat}  : (State.setOwner s u holder).mem = s.mem := by
  unfold State.setOwner
  repeat' with_reducible rfl
theorem State.clearCore_memOk {s : State} {c : Nat} (h : s.memOk) : State.memOk (State.clearCore s c) := by
  unfold State.clearCore
  repeat' (first
    | with_reducible assumption | with_reducible refine State.zeroMem_memOk ?_
    | (with_reducible refine memOk_of_eq (State.setCore_mem ..) ?_))
@[simp] theorem State.dropParks_mem {s : State} {i : Nat}  : (State.dropParks s i).mem = s.mem := by
  unfold State.dropParks
  repeat' with_reducible rfl
theorem State.zeroTenant_memOk {s : State} {i : Nat} (h : s.memOk) : State.memOk (State.zeroTenant s i) := by
  unfold State.zeroTenant
  repeat' (first
    | with_reducible assumption | with_reducible refine State.setMg_memOk ?_ | with_reducible refine State.zeroMem_memOk ?_
    | (with_reducible refine memOk_of_eq (State.dropParks_mem ..) ?_))
theorem State.clearUnit_memOk {s : State} {u : Nat} (h : s.memOk) : State.memOk (State.clearUnit s u) := by
  unfold State.clearUnit
  repeat' (first
    | with_reducible assumption | with_reducible refine State.clearCore_memOk ?_ | with_reducible refine State.zeroMem_memOk ?_
    | with_reducible refine State.setMg_memOk ?_ | with_reducible refine State.zeroTenant_memOk ?_ | with_reducible apply foldl_memOk
    | (with_reducible refine memOk_of_eq (State.setKey_mem ..) ?_) | split | intro e)
theorem State.freeUnit_memOk {s : State} {u : Nat} (h : s.memOk) : State.memOk (State.freeUnit s u) := by
  unfold State.freeUnit
  repeat' (first
    | with_reducible assumption | with_reducible refine State.clearUnit_memOk ?_
    | (with_reducible refine memOk_of_eq (State.setOwner_mem ..) ?_))
theorem State.zeroBlocks_memOk {s : State} {p : Nat} (h : s.memOk) : State.memOk (State.zeroBlocks s p) := by
  unfold State.zeroBlocks
  repeat' (first | with_reducible assumption | with_reducible refine State.zeroMem_memOk ?_)
@[simp] theorem State.forgetCounts_mem {s : State} {asid : Nat}  : (State.forgetCounts s asid).mem = s.mem := by
  unfold State.forgetCounts
  repeat' with_reducible rfl
theorem State.clearAsid_memOk {s : State} {asid : Nat} (h : s.memOk) : State.memOk (State.clearAsid s asid) := by
  unfold State.clearAsid
  repeat' (first
    | with_reducible assumption | with_reducible refine State.setMg_memOk ?_
    | (with_reducible refine memOk_of_eq (State.forgetCounts_mem ..) ?_))
theorem State.stopPart_memOk {s : State} {p : Nat} (h : s.memOk) : State.memOk (State.stopPart s p) := by
  unfold State.stopPart
  repeat' (first
    | with_reducible assumption | with_reducible refine State.clearAsid_memOk ?_ | with_reducible refine State.endTeam_memOk ?_
    | with_reducible refine State.zeroMem_memOk ?_ | with_reducible refine State.winSettle_memOk ?_
    | with_reducible refine State.setMg_memOk ?_ | with_reducible apply foldl_memOk
    | (with_reducible refine memOk_of_eq (State.modPart_mem ..) ?_) | (refine ⟨?_⟩; dsimp only; with_reducible refine memOk_wf ?_)
    | intro e)
theorem State.clearPart_memOk {s : State} {p : Nat} (h : s.memOk) : State.memOk (State.clearPart s p) := by
  unfold State.clearPart
  repeat' (first
    | with_reducible assumption | with_reducible refine State.freeUnit_memOk ?_ | with_reducible refine State.zeroBlocks_memOk ?_
    | with_reducible apply foldl_memOk | (with_reducible refine memOk_of_eq (State.modPart_mem ..) ?_)
    | (refine ⟨?_⟩; dsimp only; with_reducible refine memOk_wf ?_) | intro e)
theorem State.releaseTenant_memOk {s : State} {i w : Nat} (h : s.memOk) : State.memOk (State.releaseTenant s i w) := by
  unfold State.releaseTenant
  repeat' (first
    | with_reducible assumption | with_reducible refine State.setMg_memOk ?_
    | (with_reducible refine memOk_of_eq (State.dropParks_mem ..) ?_))
theorem State.parkCommand_keeps {s : State} {ok : Bool} {f : State → Park → State} (h : s.memOk) (h_f : ∀ (u0 : State) (u1
    : Park), u0.memOk → State.memOk (f u0 u1)) : Keeps (State.parkCommand s ok f) := by
  unfold State.parkCommand
  repeat' (first
    | with_reducible assumption | with_reducible apply State.command_keeps | with_reducible apply h_f | dsimp only | split
    | (refine ⟨?_⟩; dsimp only; with_reducible refine memOk_wf ?_) | intro e)
@[simp] theorem State.bumpCode_mem {s : State} {p asid n : Nat}  : (State.bumpCode s p asid n).mem = s.mem := by
  unfold State.bumpCode
  repeat' (first | simp only [State.modPart_mem] | with_reducible apply foldl_mem_eq | intro e)
@[simp] theorem State.dropImages_mem {s : State} {p asid va pages : Nat}  : (State.dropImages s p asid va pages).mem = s.mem := by
  unfold State.dropImages
  repeat' simp only [State.modPart_mem]
@[simp] theorem State.shoot_mem {s : State} {p asid va pages : Nat} {sem : Option (Nat × Nat)} 
    : (State.shoot s p asid va pages sem).mem = s.mem := by
  unfold State.shoot
  repeat' simp only [State.dropImages_mem, State.markStale_mem]
theorem State.changePages_keeps {s : State} {p asid va pages : Nat} {sem : Option (Nat × Nat)} {new : W64 → W64} {legal
    : Nat → W64 → Bool} (h : s.memOk) : Keeps (State.changePages s p asid va pages sem new legal) := by
  unfold State.changePages
  repeat' (first
    | with_reducible assumption | with_reducible apply State.hostReq_keeps | with_reducible refine State.setPte_memOk ?_
    | with_reducible refine State.noteReady_memOk ?_ | with_reducible apply foldl_memOk
    | (with_reducible refine memOk_of_eq (State.refused_mem ..) ?_) | (with_reducible refine memOk_of_eq (State.shoot_mem ..) ?_)
    | (with_reducible refine memOk_of_eq (State.bumpCode_mem ..) ?_) | split
    | (refine ⟨?_⟩; dsimp only; with_reducible refine memOk_wf ?_) | intro e)
theorem State.copyTables_memOk {s : State} {p a2 a3 a4 : Nat} {t : State} {x : Nat × List Nat} (h : s.memOk) (he
    : State.copyTables s p a2 a3 a4 = some (t, x)) : State.memOk t := by
  induction a2 generalizing s a3 a4 t x with
  | zero => unfold State.copyTables at he; cases he
  | succ f ih =>
    unfold State.copyTables at he
    split at he
    · cases he
    · rename_i u new hf
      have hu : u.memOk := by
        cases h0 : s.takeFrame p 0 with
        | none => rw [h0] at hf; exact memOk_of_eq (State.takeFrame_mem (he := hf)) h
        | some y => rw [h0] at hf; cases hf; exact memOk_of_eq (State.takeFrame_mem (he := h0)) h
      dsimp only at he
      split at he
      · cases he; exact State.copyMem_memOk hu
      · have H := foldl_keeps (fun o : Option (State × Nat × List Nat) => ∀ v, o = some v → v.1.memOk) _ (fun o i ho => by
          intro v hv
          split at hv
          · cases hv
          · split at hv
            · cases hv; exact ho _ rfl
            · split at hv
              · cases hv
              · rename_i hw
                cases hv
                exact State.setPte_memOk (ih (ho _ rfl) hw)) _ _ (fun v hv => by cases hv; exact State.copyMem_memOk hu) _ he
        exact H
theorem State.guardedN_keeps {s : State} {n : Nat} {g : Guard} {f : State → State} (h : s.memOk) (h_f : ∀ (u0
    : State), u0.memOk → State.memOk (f u0)) : Keeps (State.guardedN s n g f) := by
  unfold State.guardedN
  repeat' (first
    | with_reducible assumption | with_reducible apply Keeps.next | with_reducible apply h_f
    | (with_reducible refine memOk_of_eq (State.retireN_mem ..) ?_) | split)
theorem State.guarded_keeps {s : State} {g : Guard} {f : State → State} (h : s.memOk) (h_f : ∀ (u0
    : State), u0.memOk → State.memOk (f u0)) : Keeps (State.guarded s g f) := by
  unfold State.guarded
  repeat' (first | with_reducible assumption | with_reducible apply State.guardedN_keeps)
theorem State.spadAccess_mem {s : State} {p : Nat} {off : Int} {n al : Nat} {out ok : State → State} (h_out : ∀ (u0
    : State), (out u0).mem = u0.mem) (h_ok : ∀ (u0 : State), (ok u0).mem = u0.mem)
    : (State.spadAccess s p off n al out ok).mem = s.mem := by
  unfold State.spadAccess
  repeat' (first
    | (with_reducible refine (h_out _).trans ?_) | (with_reducible refine (h_ok _).trans ?_)
    | simp only [State.raise_mem, State.raiseFree_mem, State.retire_mem, State.oob_mem] | split)
theorem State.spadAccess_memOk {s : State} {p : Nat} {off : Int} {n al : Nat} {out ok : State → State} (h : s.memOk) (h_out : ∀ (u0
    : State), u0.memOk → State.memOk (out u0)) (h_ok : ∀ (u0 : State), u0.memOk → State.memOk (ok u0))
    : State.memOk (State.spadAccess s p off n al out ok) := by
  unfold State.spadAccess
  repeat' (first
    | with_reducible assumption | with_reducible apply h_out | with_reducible apply h_ok
    | (with_reducible refine memOk_of_eq (State.raise_mem ..) ?_) | (with_reducible refine memOk_of_eq (State.raiseFree_mem ..) ?_)
    | (with_reducible refine memOk_of_eq (State.retire_mem ..) ?_) | (with_reducible refine memOk_of_eq (State.oob_mem ..) ?_) | split)
@[simp] theorem State.addPend_mem {s : State} {p : Pend}  : (State.addPend s p).mem = s.mem := by
  unfold State.addPend
  repeat' simp only [State.modCur_mem]
@[simp] theorem State.failPend_mem {s : State} {acc : Acc} {ret : Ret} {cause : Nat} {addr : W64} 
    : (State.failPend s acc ret cause addr).mem = s.mem := by
  unfold State.failPend
  repeat' simp only [State.addPend_mem]
@[simp] theorem State.storeOut_mem {s : State} {acc : Acc} {dest : Option (Nat × Nat × Nat)} {bs : List Byte}
    : (State.storeOut s acc dest bs).mem = s.mem := by
  unfold State.storeOut
  simp only [State.addOut_mem]
  exact State.newId_mem (Prod.eta _).symm
@[simp] theorem State.sendOn_mem {s : State} {p : Pend} {q : Piece} {r : Req} : (State.sendOn s p q r).mem = s.mem := by
  unfold State.sendOn
  simp only [State.post_mem, State.modCur_mem]
@[simp] theorem State.peerStore_mem {s : State} {p o : Nat} {bs : List Byte}  : (State.peerStore s p o bs).mem = s.mem := by
  unfold State.peerStore
  exact State.storeOut_mem
theorem State.raiseT_memOk {s : State} {k : AKind} {cause addr : Nat} (h : s.memOk) : State.memOk (State.raiseT s k cause addr) := by
  unfold State.raiseT
  repeat' (first
    | with_reducible assumption | with_reducible refine State.postFault_memOk ?_
    | (with_reducible refine memOk_of_eq (State.raise_mem ..) ?_) | split)
theorem State.memAccess_memOk {s : State} {k : AKind} {va : W64} {n : Nat} {ok : State → Piece → State} (h : s.memOk) (h_ok : ∀ (u0
    : State) (u1 : Piece), u0.memOk → State.memOk (ok u0 u1)) : State.memOk (State.memAccess s k va n ok) := by
  unfold State.memAccess
  repeat' (first
    | with_reducible assumption | with_reducible refine State.raiseT_memOk ?_ | with_reducible apply h_ok
    | (with_reducible refine memOk_of_eq (State.raise_mem ..) ?_) | split)
theorem State.syncAt_mem {s : State} {asid : Nat} {a : Acc} {t : State} {x : SyncRes}  (he : State.syncAt s asid a = (t, x))
    : t.mem = s.mem := by
  unfold State.syncAt at he
  have e3 := congrArg Prod.fst he
  dsimp only at e3
  subst e3
  exact State.syncTurn_mem (Prod.eta _).symm
theorem State.atSync_mem {s : State} {asid : Nat} {a : Acc} {t : State} {x : SyncRes}  (he : State.atSync s asid a = (t, x))
    : t.mem = s.mem := by
  unfold State.atSync at he
  split at he
  · exact State.syncAt_mem he
  · cases he; rfl
theorem State.stackStore_memOk {s : State} {a v : W64} (h : s.memOk) : State.memOk (State.stackStore s a v) := by
  unfold State.stackStore
  repeat' (first
    | with_reducible assumption | with_reducible refine State.writeB_memOk ?_ | (with_reducible refine memOk_of_eq (State.oob_mem ..) ?_)
    | split)
theorem State.call_memOk {s : State} {tt : W64} (h : s.memOk) : State.memOk (State.call s tt) := by
  unfold State.call
  repeat' (first
    | with_reducible assumption | with_reducible refine State.stackStore_memOk ?_
    | (with_reducible refine memOk_of_eq (State.modCtx_mem ..) ?_) | (with_reducible refine memOk_of_eq (State.raiseFree_mem ..) ?_)
    | (with_reducible refine memOk_of_eq (State.setS_mem ..) ?_) | dsimp only | split)
@[simp] theorem State.retTo_mem {s : State} {tt : W64}  : (State.retTo s tt).mem = s.mem := by
  unfold State.retTo
  repeat' simp only [State.modCtx_mem]
@[simp] theorem State.openLoop_mem {s : State} {disp : BitVec 32} {n : W64}  : (State.openLoop s disp n).mem = s.mem := by
  unfold State.openLoop
  repeat' (first | simp only [State.modCtx_mem] | split)
@[simp] theorem State.startWait_mem {s : State} {w : Wait}  : (State.startWait s w).mem = s.mem := by
  unfold State.startWait
  repeat' simp only [State.finishWait_mem, State.modCur_mem]
@[simp] theorem State.vMap2_mem {s : State} {vd va vb w : Nat} {f : Nat → Nat → Nat}  : (State.vMap2 s vd va vb w f).mem = s.mem := by
  unfold State.vMap2
  repeat' simp only [State.setV_mem]
@[simp] theorem State.vMap3_mem {s : State} {vd va vb vc w : Nat} {f : Nat → Nat → Nat → Nat} 
    : (State.vMap3 s vd va vb vc w f).mem = s.mem := by
  unfold State.vMap3
  repeat' simp only [State.setV_mem]
@[simp] theorem State.pairV_mem {s : State} {o : VOp} {vd va vb : Nat}  : (State.pairV s o vd va vb).mem = s.mem := by
  unfold State.pairV
  repeat' (first | simp only [State.vMap2_mem, State.setV_mem, State.vMap3_mem] | split)
@[simp] theorem State.vMap1_mem {s : State} {vd va w : Nat} {f : Nat → Nat}  : (State.vMap1 s vd va w f).mem = s.mem := by
  unfold State.vMap1
  repeat' simp only [State.setV_mem]
@[simp] theorem State.vReduce_mem {s : State} {vd va w : Nat} {f : List Nat → Nat}  : (State.vReduce s vd va w f).mem = s.mem := by
  unfold State.vReduce
  repeat' (first | simp only [State.setV_mem] | split)
@[simp] theorem State.vMapS_mem {s : State} {vd va : Nat} {b : SOperand} {w : Nat} {f : Nat → Nat → Nat} 
    : (State.vMapS s vd va b w f).mem = s.mem := by
  unfold State.vMapS
  repeat' simp only [State.vMap1_mem]
theorem State.scanRuns_memOk {s : State} {core : Nat} {runs : List (Nat × Nat × Nat)} {t : State} {x : Option Nat} (h : s.memOk) (he
    : State.scanRuns s core runs = (t, x)) : State.memOk t := by
  unfold State.scanRuns at he
  repeat' (first | (cases he; done) | cases he | dsimp only at he | split at he)
  all_goals (try (simp only [Option.map_eq_some_iff, Option.bind_eq_some_iff] at he; obtain ⟨_, e1, e2⟩ := he; try cases e2))
  all_goals (try simp only [Option.some.injEq] at he)
  all_goals (try (have e3 := congrArg Prod.fst he; dsimp only at e3; subst e3))
  all_goals repeat' (first
    | with_reducible assumption | with_reducible apply foldl_memOk_fst
    | (with_reducible refine State.scan_memOk (he := by first | assumption | exact (Prod.eta _).symm | rfl) ?_) | intro e)
theorem State.loadRuns_memOk {s : State} {vd p lo len : Nat} {off : Int} {offs : List Nat} {runs : List (Nat × Nat × Nat)} (h : s.memOk)
    : State.memOk (State.loadRuns s vd p lo len off offs runs) := by
  unfold State.loadRuns
  repeat' (first
    | with_reducible assumption | (with_reducible refine memOk_of_eq (State.failPend_mem ..) ?_)
    | (with_reducible refine memOk_of_eq (State.setV_mem ..) ?_) | (with_reducible refine memOk_of_eq (State.addPend_mem ..) ?_)
    | dsimp only | split
    | (with_reducible refine memOk_of_eq (State.newId_mem (he := by first | assumption | exact (Prod.eta _).symm | rfl)) ?_)
    | (with_reducible refine State.scanRuns_memOk (he := by first | assumption | exact (Prod.eta _).symm | rfl) ?_))
theorem State.storeRuns_memOk {s : State} {p : Nat} {v : Vec} {runs : List (Nat × Nat × Nat)} (h : s.memOk)
    : State.memOk (State.storeRuns s p v runs) := by
  unfold State.storeRuns
  repeat' (first
    | with_reducible assumption | with_reducible refine State.writeB_memOk ?_ | with_reducible apply foldl_memOk
    | (with_reducible refine memOk_of_eq (State.peerStore_mem ..) ?_) | split | intro e)
theorem State.gatherAccess_mem {s : State} {va sb : Nat} {imm : BitVec 12} {out : State → State} {ok
    : State → Nat → Int → List Nat → State} (h_out : ∀ (u0 : State), (out u0).mem = u0.mem) (h_ok : ∀ (u0 : State) (u1 : Nat) (u2
    : Int) (u3 : List Nat), (ok u0 u1 u2 u3).mem = u0.mem) : (State.gatherAccess s va sb imm out ok).mem = s.mem := by
  unfold State.gatherAccess
  dsimp only
  split
  · exact State.raise_mem ..
  · split
    · exact State.raiseFree_mem ..
    · split
      · exact (State.retire_mem ..).trans ((h_out _).trans (State.oob_mem ..))
      · exact h_ok _ _ _ _
theorem State.gatherAccess_memOk {s : State} {va sb : Nat} {imm : BitVec 12} {out : State → State} {ok
    : State → Nat → Int → List Nat → State} (h : s.memOk) (h_out : ∀ (u0 : State), u0.memOk → State.memOk (out u0)) (h_ok : ∀ (u0
    : State) (u1 : Nat) (u2 : Int) (u3 : List Nat), u0.memOk → State.memOk (ok u0 u1 u2 u3))
    : State.memOk (State.gatherAccess s va sb imm out ok) := by
  unfold State.gatherAccess
  repeat' (first
    | with_reducible assumption | with_reducible apply h_out | with_reducible apply h_ok
    | (with_reducible refine memOk_of_eq (State.raise_mem ..) ?_) | (with_reducible refine memOk_of_eq (State.raiseFree_mem ..) ?_)
    | (with_reducible refine memOk_of_eq (State.retire_mem ..) ?_) | (with_reducible refine memOk_of_eq (State.oob_mem ..) ?_)
    | dsimp only | split)
theorem State.enqueue_mem {s : State} {e : Nat} {op : Instr} {a b c d : W64} {nullified : Bool} {also : State → State} (h_also : ∀ (u0
    : State), (also u0).mem = u0.mem) : (State.enqueue s e op a b c d nullified also).mem = s.mem := by
  unfold State.enqueue
  repeat' (first
    | (with_reducible refine (h_also _).trans ?_) | simp only [State.retire_mem, State.modCur_mem] | split
    | (with_reducible refine (State.newId_mem (he := by first | assumption | exact (Prod.eta _).symm | rfl)).trans ?_))
theorem State.enqueue_memOk {s : State} {e : Nat} {op : Instr} {a b c d : W64} {nullified : Bool} {also : State → State} (h
    : s.memOk) (h_also : ∀ (u0 : State), u0.memOk → State.memOk (also u0)) : State.memOk (State.enqueue s e op a b c d nullified also) := by
  unfold State.enqueue
  repeat' (first
    | with_reducible assumption | with_reducible apply h_also | (with_reducible refine memOk_of_eq (State.retire_mem ..) ?_)
    | (with_reducible refine memOk_of_eq (State.modCur_mem ..) ?_) | split
    | (with_reducible refine memOk_of_eq (State.newId_mem (he := by first | assumption | exact (Prod.eta _).symm | rfl)) ?_))
theorem State.engineCmd_keeps {s : State} {g : Guard} {e : Nat} {op : Instr} {ok : State → State} (h : s.memOk) (h_ok : ∀ (u0
    : State), u0.memOk → State.memOk (ok u0)) : Keeps (State.engineCmd s g e op ok) := by
  unfold State.engineCmd
  repeat' (first
    | with_reducible assumption | with_reducible apply Keeps.next | with_reducible apply State.enqueue_memOk | with_reducible apply h_ok
    | split | intro e)
theorem State.issueM_keeps {s : State} {g : Guard} {op : Instr} {a b c : W64} (h : s.memOk) : Keeps (State.issueM s g op a b c) := by
  unfold State.issueM
  repeat' (first
    | with_reducible assumption | with_reducible apply State.engineCmd_keeps | with_reducible apply State.enqueue_memOk
    | (with_reducible refine memOk_of_eq (State.raiseFree_mem ..) ?_) | (with_reducible refine memOk_of_eq (State.modCur_mem ..) ?_)
    | dsimp only | split | intro e)
@[simp] theorem State.raiseChk_mem {s : State} {c : Nat × Option W64}  : (State.raiseChk s c).mem = s.mem := by
  unfold State.raiseChk
  repeat' (first | simp only [State.raise_mem, State.illegal_mem, State.raiseFree_mem] | split)
theorem State.sendObj_memOk {s : State} {off : Nat} {ok : State → Obj → State} (h : s.memOk) (h_ok : ∀ (u0 : State) (u1
    : Obj), u0.memOk → State.memOk (ok u0 u1)) : State.memOk (State.sendObj s off ok) := by
  unfold State.sendObj
  repeat' (first
    | with_reducible assumption | with_reducible apply h_ok | (with_reducible refine memOk_of_eq (State.raise_mem ..) ?_)
    | (with_reducible refine memOk_of_eq (State.raiseFree_mem ..) ?_) | dsimp only | split
    | (with_reducible refine State.scan_memOk (he := by first | assumption | exact (Prod.eta _).symm | rfl) ?_))
theorem State.issueCopy_keeps {s : State} {g : Guard} {e : Nat} {op : Instr} {d a b c : W64} {checks : State → Chk} {total : Nat} {also
    : State → State} (h : s.memOk) (h_also : ∀ (u0 : State), u0.memOk → State.memOk (also u0))
    : Keeps (State.issueCopy s g e op d a b c checks total also) := by
  unfold State.issueCopy
  repeat' (first
    | with_reducible assumption | with_reducible apply State.engineCmd_keeps | with_reducible apply State.sendObj_memOk
    | with_reducible apply State.enqueue_memOk | with_reducible refine State.setObj_memOk ?_ | with_reducible apply h_also
    | (with_reducible refine memOk_of_eq (State.raiseChk_mem ..) ?_) | (with_reducible refine memOk_of_eq (State.raiseFree_mem ..) ?_)
    | split | intro e)
theorem State.issueAtomic_memOk {s : State} {ord : Ord} {scope : Nat} {va : W64} {n aop : Nat} {ext : Bool} {a b : W64} {sd : Nat} (h
    : s.memOk) : State.memOk (State.issueAtomic s ord scope va n aop ext a b sd) := by
  unfold State.issueAtomic
  repeat' (first
    | with_reducible assumption | with_reducible apply State.memAccess_memOk | (with_reducible refine memOk_of_eq (State.raise_mem ..) ?_)
    | (with_reducible refine memOk_of_eq (State.addPend_mem ..) ?_) | (with_reducible refine memOk_of_eq (State.countPiece_mem ..) ?_)
    | (with_reducible refine memOk_of_eq (State.retire_mem ..) ?_) | (with_reducible refine memOk_of_eq (State.post_mem ..) ?_)
    | (with_reducible refine memOk_of_eq (State.startWait_mem ..) ?_) | dsimp only | split
    | (with_reducible refine memOk_of_eq (State.newId_mem (he := by first | assumption | exact (Prod.eta _).symm | rfl)) ?_) | intro e)
theorem State.fillAtomic_memOk {s : State} {p : Pend} {k aop n : Nat} {ext : Bool} {a b : W64} {sd : Nat} (h : s.memOk)
    : State.memOk (State.fillAtomic s p k aop n ext a b sd) := by
  unfold State.fillAtomic
  repeat' (first
    | with_reducible assumption | (with_reducible refine memOk_of_eq (State.settleWait_mem ..) ?_)
    | (with_reducible refine memOk_of_eq (State.failAt_mem ..) ?_) | (with_reducible refine memOk_of_eq (State.setS_mem ..) ?_)
    | (with_reducible refine memOk_of_eq (State.dropPend_mem ..) ?_) | split
    | (with_reducible refine State.atomicAt_memOk (he := by first | assumption | exact (Prod.eta _).symm | rfl) ?_))
theorem State.wakeIf_keeps {s : State} {which : Wait → Bool} (h : s.memOk) : Keeps (State.wakeIf s which) := by
  unfold State.wakeIf
  repeat' (first
    | with_reducible assumption | with_reducible apply Keeps.next | (with_reducible refine memOk_of_eq (State.settleWait_mem ..) ?_)
    | split)
@[simp] theorem State.finishTkpop_mem {s : State}  : (State.finishTkpop s).mem = s.mem := by
  unfold State.finishTkpop
  repeat' (first | simp only [State.endWait_mem, State.modCur_mem] | split)
theorem State.withObj_memOk {s : State} {w : W64} {peer bad : Bool} {ok : State → State} (h : s.memOk) (h_ok : ∀ (u0
    : State), u0.memOk → State.memOk (ok u0)) : State.memOk (State.withObj s w peer bad ok) := by
  unfold State.withObj
  repeat' (first
    | with_reducible assumption | with_reducible apply h_ok | (with_reducible refine memOk_of_eq (State.raiseChk_mem ..) ?_)
    | (with_reducible refine memOk_of_eq (State.raise_mem ..) ?_) | dsimp only | split
    | (with_reducible refine State.scan_memOk (he := by first | assumption | exact (Prod.eta _).symm | rfl) ?_))
theorem State.tryBarrive_memOk {s : State} (h : s.memOk) : State.memOk (State.tryBarrive s) := by
  unfold State.tryBarrive
  repeat' (first
    | with_reducible assumption | with_reducible apply getD_memOk | (with_reducible refine memOk_of_eq (State.endWait_mem ..) ?_)
    | (with_reducible refine memOk_of_eq (State.raiseFree_mem ..) ?_) | (with_reducible refine memOk_of_eq (State.modCur_mem ..) ?_)
    | dsimp only | split | (with_reducible refine State.countAt_memOk (he := by first | assumption | exact (Prod.eta _).symm | rfl) ?_)
    | (with_reducible refine State.logFor_memOk (he := by first | assumption | exact (Prod.eta _).symm | rfl) ?_) | intro e
    | (simp only [Option.map_eq_some_iff, Option.bind_eq_some_iff] at e; obtain ⟨_, e, rfl⟩ := e))
theorem State.startBwait_memOk {s : State} (h : s.memOk) : State.memOk (State.startBwait s) := by
  unfold State.startBwait
  repeat' (first
    | with_reducible assumption | (with_reducible refine memOk_of_eq (State.modCur_mem ..) ?_)
    | (with_reducible refine memOk_of_eq (State.raise_mem ..) ?_) | (with_reducible refine memOk_of_eq (State.raiseFree_mem ..) ?_)
    | (with_reducible refine memOk_of_eq (State.retire_mem ..) ?_) | (with_reducible refine memOk_of_eq (State.setP_mem ..) ?_)
    | dsimp only | split | (with_reducible refine State.scan_memOk (he := by first | assumption | exact (Prod.eta _).symm | rfl) ?_))
theorem State.tryBwait_memOk {s : State} (h : s.memOk) : State.memOk (State.tryBwait s) := by
  unfold State.tryBwait
  repeat' (first | with_reducible assumption | with_reducible refine State.startBwait_memOk ?_ | split)
theorem State.tryBwaitout_memOk {s : State} (h : s.memOk) : State.memOk (State.tryBwaitout s) := by
  unfold State.tryBwaitout
  repeat' (first
    | with_reducible assumption | (with_reducible refine memOk_of_eq (State.modCur_mem ..) ?_)
    | (with_reducible refine memOk_of_eq (State.raise_mem ..) ?_) | (with_reducible refine memOk_of_eq (State.raiseFree_mem ..) ?_)
    | (with_reducible refine memOk_of_eq (State.endWait_mem ..) ?_) | dsimp only | split
    | (with_reducible refine State.scan_memOk (he := by first | assumption | exact (Prod.eta _).symm | rfl) ?_))
theorem State.tryReserve_memOk {s : State} (h : s.memOk) : State.memOk (State.tryReserve s) := by
  unfold State.tryReserve
  repeat' (first
    | with_reducible assumption | with_reducible refine State.walked_memOk ?_ | with_reducible refine State.postFault_memOk ?_
    | with_reducible refine State.setMg_memOk ?_ | with_reducible refine State.copyB_memOk ?_
    | (with_reducible refine memOk_of_eq (State.modPart_mem ..) ?_) | (with_reducible refine memOk_of_eq (State.raise_mem ..) ?_)
    | (with_reducible refine memOk_of_eq (State.modCur_mem ..) ?_) | dsimp only | split
    | (with_reducible refine State.carry_memOk (he := by first | assumption | exact (Prod.eta _).symm | rfl) ?_))
theorem State.tryPublish_memOk {s : State} (h : s.memOk) : State.memOk (State.tryPublish s) := by
  unfold State.tryPublish
  repeat' (first
    | with_reducible assumption | with_reducible refine State.setMg_memOk ?_ | with_reducible refine State.noteReady_memOk ?_
    | with_reducible apply foldl_memOk | (with_reducible refine memOk_of_eq (State.newHead_mem ..) ?_)
    | (with_reducible refine memOk_of_eq (State.slateEvent_mem ..) ?_) | (with_reducible refine memOk_of_eq (State.endWait_mem ..) ?_)
    | dsimp only | split | intro e)
theorem State.inject_memOk {s : State} {e : Nat} {p : Packet} {dir : Nat} {sent : Option Nat} (h : s.memOk)
    : State.memOk (State.inject s e p dir sent) := by
  unfold State.inject
  repeat' (first
    | with_reducible assumption | with_reducible refine State.parkSent_memOk ?_ | with_reducible refine State.leaveBy_memOk ?_
    | dsimp only | split)
theorem State.sendImage_memOk {s : State} {w : W64} {dest dir : Nat} {obj : Option (Nat × Obj)} (h : s.memOk)
    : State.memOk (State.sendImage s w dest dir obj) := by
  unfold State.sendImage
  repeat' (first
    | with_reducible assumption | with_reducible refine State.setObj_memOk ?_ | with_reducible refine State.inject_memOk ?_
    | (with_reducible refine memOk_of_eq (State.raise_mem ..) ?_) | (with_reducible refine memOk_of_eq (State.raiseFree_mem ..) ?_)
    | (with_reducible refine memOk_of_eq (State.retire_mem ..) ?_) | (with_reducible refine memOk_of_eq (State.addOut_mem ..) ?_)
    | dsimp only | split | (with_reducible refine State.carry_memOk (he := by first | assumption | exact (Prod.eta _).symm | rfl) ?_)
    | (with_reducible refine State.scan_memOk (he := by first | assumption | exact (Prod.eta _).symm | rfl) ?_)
    | (with_reducible refine memOk_of_eq (State.newId_mem (he := by first | assumption | exact (Prod.eta _).symm | rfl)) ?_))
theorem State.window_mem {s : State} {w : W64} {imm : BitVec 12} {ok : Nat → Nat → State} (h_ok : ∀ (u0 : Nat) (u1
    : Nat), (ok u0 u1).mem = s.mem) : (State.window s w imm ok).mem = s.mem := by
  unfold State.window
  repeat' (first | (with_reducible refine (h_ok _ _).trans ?_) | simp only [State.raise_mem] | split)
theorem State.window_memOk {s : State} {w : W64} {imm : BitVec 12} {ok : Nat → Nat → State} (h : s.memOk) (h_ok : ∀ (u0 : Nat) (u1
    : Nat), State.memOk (ok u0 u1)) : State.memOk (State.window s w imm ok) := by
  unfold State.window
  repeat' (first
    | with_reducible assumption | with_reducible apply h_ok | (with_reducible refine memOk_of_eq (State.raise_mem ..) ?_) | dsimp only
    | split)
@[simp] theorem State.dropFlight_mem {s : State} {id : Nat}  : (State.dropFlight s id).mem = s.mem := by
  unfold State.dropFlight
  repeat' with_reducible rfl
theorem State.flightFailed_memOk {s : State} {f : Flight} {code : Nat} {self : Bool} (h : s.memOk)
    : State.memOk (State.flightFailed s f code self) := by
  unfold State.flightFailed
  repeat' (first
    | with_reducible assumption | with_reducible refine State.failEvent_memOk ?_ | with_reducible refine State.logNack_memOk ?_
    | (with_reducible refine memOk_of_eq (State.dropFlight_mem ..) ?_) | split
    | (with_reducible refine State.endWrite_memOk (he := by first | assumption | exact (Prod.eta _).symm | rfl) ?_))
@[simp] theorem State.flightOn_mem {s : State} {f : Flight} {p : Piece} : (State.flightOn s f p).mem = s.mem := by
  unfold State.flightOn
  simp only [State.post_mem, State.dropFlight_mem]
  split
  · exact State.setStrand_mem
  · rfl
@[simp] theorem State.noteCount_mem {s : State} {f : Flight} {team rank off stamp : Nat}  : (State.noteCount s f team rank off stamp).mem = s.mem := by
  unfold State.noteCount
  repeat' (first | simp only [State.setStrand_mem] | split)
theorem State.flightDone_memOk {before s : State} {f : Flight} {cnt : Option (Nat × Nat × Nat)} (h : before.memOk) (hs : s.memOk)
    : State.memOk (State.flightDone before s f cnt) := by
  unfold State.flightDone
  repeat' (first
    | with_reducible assumption | with_reducible apply getD_memOk | (with_reducible refine memOk_of_eq (State.noteCount_mem ..) ?_)
    | (with_reducible refine memOk_of_eq (State.dropFlight_mem ..) ?_)
    | (with_reducible refine State.endWrite_memOk (he := by first | assumption | exact (Prod.eta _).symm | rfl) ?_) | intro e
    | (simp only [Option.map_eq_some_iff, Option.bind_eq_some_iff] at e; obtain ⟨_, e, rfl⟩ := e) | split at e)
theorem State.trySemsig_memOk {s : State} (h : s.memOk) : State.memOk (State.trySemsig s) := by
  unfold State.trySemsig
  repeat' (first
    | with_reducible assumption | with_reducible refine State.semAdd_memOk ?_
    | (with_reducible refine memOk_of_eq (State.endWait_mem ..) ?_) | split)
@[simp] theorem State.setBranch_mem {s : State}  : (State.setBranch s).mem = s.mem := by
  unfold State.setBranch
  repeat' (first | simp only [State.modCsr_mem] | split)
theorem State.fetchWord_memOk {s : State} {a : W64} {t : State} {x : W64} (h : s.memOk) (he : State.fetchWord s a = .ok (t, x))
    : State.memOk t := by
  unfold State.fetchWord at he
  repeat' (first | (cases he; done) | cases he | dsimp only at he | split at he)
  all_goals (try (simp only [Option.map_eq_some_iff, Option.bind_eq_some_iff] at he; obtain ⟨_, e1, e2⟩ := he; try cases e2))
  all_goals (try simp only [Option.some.injEq] at he)
  all_goals (try (have e3 := congrArg Prod.fst he; dsimp only at e3; subst e3))
  all_goals repeat' (first
    | with_reducible assumption | (with_reducible refine memOk_of_eq (State.countPiece_mem ..) ?_)
    | (with_reducible refine memOk_of_eq (State.modCur_mem ..) ?_)
    | (with_reducible refine State.scan_memOk (he := by first | assumption | exact (Prod.eta _).symm | rfl) ?_))
theorem State.fetchWord_err {s : State} {a : W64} {t : State} (h : s.memOk) (he : State.fetchWord s a = .error t) : State.memOk t := by
  unfold State.fetchWord at he
  repeat' (first | (cases he; done) | cases he | dsimp only at he | split at he)
  all_goals (try (simp only [Option.map_eq_some_iff, Option.bind_eq_some_iff] at he; obtain ⟨_, e1, e2⟩ := he; try cases e2))
  all_goals (try simp only [Option.some.injEq] at he)
  all_goals (try (have e3 := congrArg Prod.fst he; dsimp only at e3; subst e3))
  all_goals repeat' (first
    | with_reducible assumption | with_reducible refine State.raiseT_memOk ?_
    | (with_reducible refine memOk_of_eq (State.setBranch_mem ..) ?_) | (with_reducible refine memOk_of_eq (State.countPiece_mem ..) ?_)
    | (with_reducible refine memOk_of_eq (State.raise_mem ..) ?_)
    | (with_reducible refine State.scan_memOk (he := by first | assumption | exact (Prod.eta _).symm | rfl) ?_))
theorem State.readRegs_memOk {s : State} {i : Instr} (h : s.memOk) : State.memOk (State.readRegs s i) := by
  unfold State.readRegs
  repeat' (first | with_reducible assumption | with_reducible refine State.fixRegs_memOk ?_ | split)
theorem State.mismatch_memOk {s : State} (h : s.memOk) : State.memOk (State.mismatch s) := by
  unfold State.mismatch
  repeat' (first
    | with_reducible assumption | with_reducible refine State.logErr_memOk ?_
    | (with_reducible refine memOk_of_eq (State.raiseFree_mem ..) ?_) | (with_reducible refine memOk_of_eq (State.modCur_mem ..) ?_)
    | (refine ⟨?_⟩; dsimp only; with_reducible refine memOk_wf ?_))
theorem State.hold_memOk {s : State} {i : Instr} {t : State} (h : s.memOk) (he : State.hold s i = some t) : State.memOk t := by
  unfold State.hold at he
  extract_lets +onlyGivenNames rs at he
  by_cases h1 : (!s.acts i) = true
  · rw [if_pos h1] at he; cases he
  · rw [if_neg h1] at he
    by_cases h2 : s.cur.awaits (rs ++ writesOf i) = true
    · rw [if_pos h2] at he; cases he; exact h
    · rw [if_neg h2] at he
      split at he
      · rename_i hu; cases he; exact memOk_of_eq (State.reportLoad_mem (he := hu)) h
      · have hr : (s.readRegs i).memOk := State.readRegs_memOk h
        dsimp only at he
        by_cases h3 : (s.readRegs i).ctx.poisonAmong rs = true
        · rw [if_pos h3] at he; rw [← Option.some.inj he]; exact memOk_of_eq (State.raiseFree_mem ..) (State.logErr_memOk hr)
        · rw [if_neg h3] at he
          by_cases h4 : s.cur.upset = true ∧ s.compared i = true
          · rw [if_pos h4] at he; rw [← Option.some.inj he]; exact State.mismatch_memOk hr
          · rw [if_neg h4] at he; cases he
theorem State.fetchBundle_ok {s : State} (h : s.memOk) : Fetched.memOk (State.fetchBundle s) := by
  unfold State.fetchBundle
  split
  · exact Fetched.memOk.done_mk h
  · split
    · exact Fetched.memOk.done_mk (memOk_of_eq (State.raise_mem ..) h)
    · split
      · exact Fetched.memOk.done_mk (State.fetchWord_err h ‹_›)
      · rename_i t w ht
        have h1 : t.memOk := State.fetchWord_memOk h ht
        split
        · rename_i u hu
          split at hu
          · exact Fetched.memOk.done_mk (State.fetchWord_err h1 hu)
          · cases hu
        · rename_i u w2 hu
          have h2 : u.memOk := by
            split at hu
            · exact State.fetchWord_memOk h1 hu
            · cases hu; exact h1
          split
          · exact Fetched.memOk.done_mk (memOk_of_eq (State.illegal_mem ..) h2)
          · split
            · exact Fetched.memOk.done_mk (State.hold_memOk h2 ‹_›)
            · exact Fetched.memOk.run_mk (State.readRegs_memOk h2)
theorem State.tryQput_memOk {s : State} (h : s.memOk) : State.memOk (State.tryQput s) := by
  unfold State.tryQput
  repeat' (first
    | with_reducible assumption | with_reducible refine State.tryPublish_memOk ?_ | with_reducible refine State.tryReserve_memOk ?_)
theorem State.pebbleIllegal_memOk {s : State} (h : s.memOk) : State.memOk (State.pebbleIllegal s) := by
  unfold State.pebbleIllegal
  repeat' (first | with_reducible assumption | with_reducible refine State.parkVisit_memOk ?_ | split)
theorem State.fetchPebble_ok {s : State} (h : s.memOk) : Fetched.memOk (State.fetchPebble s) := by
  unfold State.fetchPebble
  repeat' (first
    | with_reducible assumption | with_reducible refine Fetched.memOk.done_mk ?_ | with_reducible refine Fetched.memOk.run_mk ?_
    | with_reducible refine State.pebbleIllegal_memOk ?_ | split)
theorem State.fetchSlate_ok {s : State} (h : s.memOk) : Fetched.memOk (State.fetchSlate s) := by
  unfold State.fetchSlate
  repeat' (first
    | with_reducible assumption | with_reducible refine Fetched.memOk.done_mk ?_ | with_reducible refine Fetched.memOk.run_mk ?_
    | with_reducible refine State.abend_memOk ?_ | dsimp only | split)
@[simp] theorem State.arrive_mem {s : State} {port : Nat} {p : Packet}  : (State.arrive s port p).mem = s.mem := by
  unfold State.arrive
  repeat' (first | with_reducible rfl | split)
@[simp] theorem State.raiseMin_mem {s : State} {command sig : List Byte}  : (State.raiseMin s command sig).mem = s.mem := by
  unfold State.raiseMin
  repeat' (first | with_reducible rfl | split)
@[simp] theorem State.strike_mem {s : State} {key kind : Nat}  : (State.strike s key kind).mem = s.mem := by
  unfold State.strike
  repeat' (first | simp only [State.modDie_mem, State.modCore_mem] | split)
@[simp] theorem State.strikeMat_mem {s : State} {core tile : Nat}  : (State.strikeMat s core tile).mem = s.mem := by
  unfold State.strikeMat
  repeat' simp only [State.modCore_mem]
theorem State.shadowRead_memOk {s : State} (h : s.memOk) : State.memOk (State.shadowRead s) := by
  unfold State.shadowRead
  repeat' (first
    | with_reducible assumption | (with_reducible refine memOk_of_eq (State.countPiece_mem ..) ?_)
    | (with_reducible refine memOk_of_eq (State.modCur_mem ..) ?_) | (with_reducible refine memOk_of_eq (State.post_mem ..) ?_)
    | (with_reducible refine memOk_of_eq (State.addPend_mem ..) ?_) | split
    | (with_reducible refine State.carry_memOk (he := by first | assumption | exact (Prod.eta _).symm | rfl) ?_)
    | (with_reducible refine memOk_of_eq (State.newId_mem (he := by first | assumption | exact (Prod.eta _).symm | rfl)) ?_))
@[simp] theorem State.bootRegs_mem {s : State} {torus : W64} {node : BitVec 16} {scopes : W64} 
    : (State.bootRegs s torus node scopes).mem = s.mem := by
  unfold State.bootRegs
  repeat' with_reducible rfl
@[simp] theorem State.setTurnList_mem {s : State} {node k : Nat} {list : W32}  : (State.setTurnList s node k list).mem = s.mem := by
  unfold State.setTurnList
  repeat' with_reducible rfl
@[simp] theorem State.breakAt_mem {s : State} {core addr : Nat}  : (State.breakAt s core addr).mem = s.mem := by
  unfold State.breakAt
  repeat' simp only [State.modCore_mem]

end
end Sys2Proof.Machine
end

