-- ==== Sys2Proof/Laws/CanonicalMeanings.lean ====
section
/-!
SUPPORT. Memory stays in its canonical form: one lemma for each meaning of an instruction, first half.
-/
namespace Sys2Proof.Machine
section
set_option simprocs false

theorem execModuleReset_keeps {s : State} (h : s.memOk) : Keeps (execModuleReset s) := by
  unfold execModuleReset
  exact Keeps.next ⟨Tab.wf_filter 0 s.mem _ h.wf⟩
theorem execResetRelease_keeps {s : State} (h : s.memOk) : Keeps (execResetRelease s) := by
  unfold execResetRelease
  repeat' (first
    | with_reducible assumption | with_reducible apply Keeps.next | split | (refine ⟨?_⟩; dsimp only; with_reducible refine memOk_wf ?_))
theorem execFirmwareVerified_keeps {s : State} (h : s.memOk) : Keeps (execFirmwareVerified s) := by
  unfold execFirmwareVerified
  repeat' (first
    | with_reducible assumption | with_reducible apply Keeps.next | with_reducible refine State.enterFailed_memOk ?_
    | (with_reducible refine memOk_of_eq (State.setStatus_mem ..) ?_) | split)
theorem execConfigApply_keeps {s : State} (h : s.memOk) : Keeps (execConfigApply s) := by
  unfold execConfigApply
  repeat' (first
    | with_reducible assumption | with_reducible apply Keeps.next | with_reducible refine State.logCfg_memOk ?_
    | with_reducible refine State.enterFailed_memOk ?_ | (with_reducible refine memOk_of_eq (State.applyCfg_mem ..) ?_) | dsimp only
    | split)
theorem execCalDone_keeps {s : State} (h : s.memOk) : Keeps (execCalDone s) := by
  unfold execCalDone
  repeat' (first
    | with_reducible assumption | with_reducible apply Keeps.next | with_reducible apply State.bootStep_memOk
    | (with_reducible refine memOk_of_eq (State.setStatus_mem ..) ?_) | split | intro e)
theorem execHbmReady_keeps {s : State} (h : s.memOk) : Keeps (execHbmReady s) := by
  unfold execHbmReady
  repeat' (first
    | with_reducible assumption | with_reducible apply Keeps.next | with_reducible apply State.bootStep_memOk
    | with_reducible refine State.zeroMem_memOk ?_ | (with_reducible refine memOk_of_eq (State.tryReady_mem ..) ?_)
    | (with_reducible refine memOk_of_eq (State.setStatus_mem ..) ?_) | split | intro e)
theorem execLpReady_keeps {s : State} (h : s.memOk) : Keeps (execLpReady s) := by
  unfold execLpReady
  repeat' (first
    | with_reducible assumption | with_reducible apply Keeps.next | with_reducible apply State.bootStep_memOk
    | with_reducible refine State.zeroMem_memOk ?_ | (with_reducible refine memOk_of_eq (State.tryReady_mem ..) ?_)
    | (with_reducible refine memOk_of_eq (State.setStatus_mem ..) ?_) | split | intro e)
theorem execBedrockReady_keeps {s : State} (h : s.memOk) : Keeps (execBedrockReady s) := by
  unfold execBedrockReady
  repeat' (first
    | with_reducible assumption | with_reducible apply Keeps.next | with_reducible apply State.bootStep_memOk
    | with_reducible refine State.zeroMem_memOk ?_ | (with_reducible refine memOk_of_eq (State.tryReady_mem ..) ?_)
    | (with_reducible refine memOk_of_eq (State.setStatus_mem ..) ?_) | dsimp only | split
    | (refine ⟨?_⟩; dsimp only; with_reducible refine memOk_wf ?_) | intro e)
theorem execRailFault_keeps {s : State} (h : s.memOk) : Keeps (execRailFault s) := by
  unfold execRailFault
  repeat' (first
    | with_reducible assumption | with_reducible apply Keeps.next | with_reducible refine State.enterFailed_memOk ?_ | dsimp only | split)
theorem execUnitFailed_keeps {s : State} (h : s.memOk) : Keeps (execUnitFailed s) := by
  unfold execUnitFailed
  repeat' (first
    | with_reducible assumption | with_reducible apply Keeps.next | with_reducible refine State.enterFailed_memOk ?_ | split)
theorem execUcieLinkFailed_keeps {s : State} (h : s.memOk) : Keeps (execUcieLinkFailed s) := by
  unfold execUcieLinkFailed
  repeat' (first
    | with_reducible assumption | with_reducible apply Keeps.next | with_reducible refine State.logErr_memOk ?_ | dsimp only | split
    | (refine ⟨?_⟩; dsimp only; with_reducible refine memOk_wf ?_))
theorem execClockStep_keeps {s : State} (h : s.memOk) : Keeps (execClockStep s) := by
  unfold execClockStep
  repeat' (first
    | with_reducible assumption | with_reducible apply Keeps.next | split | (refine ⟨?_⟩; dsimp only; with_reducible refine memOk_wf ?_))
theorem execPortUp_keeps {s : State} (h : s.memOk) : Keeps (execPortUp s) := by
  unfold execPortUp
  repeat' (first
    | with_reducible assumption | with_reducible apply Keeps.next | with_reducible refine State.portBit_memOk ?_ | dsimp only | split
    | (refine ⟨?_⟩; dsimp only; with_reducible refine memOk_wf ?_))
theorem execPortDown_keeps {s : State} (h : s.memOk) : Keeps (execPortDown s) := by
  unfold execPortDown
  repeat' (first
    | with_reducible assumption | with_reducible apply Keeps.next | with_reducible refine State.takePortDown_memOk ?_ | split)
theorem execPackageGatewayEgress_keeps {s : State} (h : s.memOk) : Keeps (execPackageGatewayEgress s) := by
  unfold execPackageGatewayEgress
  repeat' (first
    | with_reducible assumption | with_reducible apply Keeps.next | with_reducible apply getD_memOk
    | (with_reducible refine memOk_of_eq (State.dropEgress_mem ..) ?_) | (with_reducible refine memOk_of_eq (State.sendStored_mem ..) ?_)
    | dsimp only | split
    | (with_reducible refine memOk_of_eq (State.listed_mem (he := by first | assumption | exact (Prod.eta _).symm | rfl)) ?_)
    | (with_reducible refine State.failReq_memOk (he := by first | assumption | exact (Prod.eta _).symm | rfl) ?_)
    | (with_reducible refine memOk_of_eq (State.sealWith_mem (he := by first | assumption | exact (Prod.eta _).symm | rfl)) ?_) | intro e)
theorem execRoutePacket_keeps {s : State} (h : s.memOk) : Keeps (execRoutePacket s) := by
  unfold execRoutePacket
  repeat' (first
    | with_reducible assumption | with_reducible apply Keeps.next | with_reducible refine State.refuseHere_memOk ?_
    | with_reducible refine State.routeOn_memOk ?_ | (with_reducible refine memOk_of_eq (State.takeArrival_mem ..) ?_) | split
    | (refine ⟨?_⟩; dsimp only; with_reducible refine memOk_wf ?_))
theorem execMulticastBranch_keeps {s : State} (h : s.memOk) : Keeps (execMulticastBranch s) := by
  unfold execMulticastBranch
  repeat' (first
    | with_reducible assumption | with_reducible apply Keeps.next | (with_reducible refine memOk_of_eq (State.takeArrival_mem ..) ?_)
    | (with_reducible refine memOk_of_eq (State.sendNow_mem ..) ?_) | (with_reducible refine memOk_of_eq (State.eject_mem ..) ?_) | split
    | (refine ⟨?_⟩; dsimp only; with_reducible refine memOk_wf ?_))
theorem execIngressRequest_keeps {s : State} (h : s.memOk) : Keeps (execIngressRequest s) := by
  unfold execIngressRequest
  repeat' (first
    | with_reducible assumption | with_reducible apply Keeps.next | with_reducible refine State.takeRequest_memOk ?_
    | with_reducible refine State.tryCheck_memOk ?_ | split | (refine ⟨?_⟩; dsimp only; with_reducible refine memOk_wf ?_))
theorem execWritePacket_keeps {s : State} (h : s.memOk) : Keeps (execWritePacket s) := by
  unfold execWritePacket
  repeat' (first
    | with_reducible assumption | with_reducible apply State.withJob_keeps | with_reducible refine State.finishJob_memOk ?_
    | with_reducible apply State.answerJob_memOk | with_reducible refine State.land_memOk ?_ | with_reducible apply State.jobTurn_memOk
    | with_reducible refine State.copyB_memOk ?_ | with_reducible refine State.failJob_memOk ?_ | with_reducible apply getD_memOk
    | (with_reducible refine memOk_of_eq (State.holdAck_mem ..) ?_) | (with_reducible refine memOk_of_eq (State.countJob_mem ..) ?_)
    | dsimp only | split | (with_reducible refine State.countFor_memOk (he := by first | assumption | exact (Prod.eta _).symm | rfl) ?_)
    | intro e | (simp only [Option.map_eq_some_iff, Option.bind_eq_some_iff] at e; obtain ⟨_, e, rfl⟩ := e))
theorem execReadPacket_keeps {s : State} (h : s.memOk) : Keeps (execReadPacket s) := by
  unfold execReadPacket
  repeat' (first
    | with_reducible assumption | with_reducible apply State.withJob_keeps | with_reducible apply State.answerJob_memOk
    | with_reducible refine State.finishJob_memOk ?_ | with_reducible apply State.jobTurn_memOk
    | with_reducible refine State.failJob_memOk ?_ | (with_reducible refine memOk_of_eq (State.respond_mem ..) ?_)
    | (with_reducible refine memOk_of_eq (State.countJob_mem ..) ?_) | dsimp only | split
    | (with_reducible refine State.scan_memOk (he := by first | assumption | exact (Prod.eta _).symm | rfl) ?_) | intro e)
theorem execAmoPacket_keeps {s : State} (h : s.memOk) : Keeps (execAmoPacket s) := by
  unfold execAmoPacket
  repeat' (first
    | with_reducible assumption | with_reducible apply State.withJob_keeps | with_reducible apply State.answerJob_memOk
    | with_reducible refine State.amoAnswer_memOk ?_ | with_reducible apply State.jobTurn_memOk
    | with_reducible refine State.amoPerform_memOk ?_ | intro e)
theorem execFlushPacket_keeps {s : State} (h : s.memOk) : Keeps (execFlushPacket s) := by
  unfold execFlushPacket
  repeat' (first
    | with_reducible assumption | with_reducible apply State.withJob_keeps | with_reducible refine State.finishJob_memOk ?_
    | with_reducible apply foldl_memOk | (with_reducible refine memOk_of_eq (State.sendResp_mem ..) ?_) | split
    | (refine ⟨?_⟩; dsimp only; with_reducible refine memOk_wf ?_) | intro e)
theorem execEventPacket_keeps {s : State} (h : s.memOk) : Keeps (execEventPacket s) := by
  unfold execEventPacket
  repeat' (first
    | with_reducible assumption | with_reducible apply State.withJob_keeps | with_reducible refine State.ringPut_memOk ?_
    | with_reducible refine State.logErr_memOk ?_ | with_reducible refine State.finishJob_memOk ?_
    | (with_reducible refine memOk_of_eq (State.holdAck_mem ..) ?_) | split | intro e)
theorem execReadResp_keeps {s : State} (h : s.memOk) : Keeps (execReadResp s) := by
  unfold execReadResp
  repeat' (first
    | with_reducible assumption | with_reducible apply Keeps.next | with_reducible apply State.takeResp_memOk
    | (with_reducible refine memOk_of_eq (State.readDone_mem ..) ?_) | (with_reducible refine memOk_of_eq (State.dropStored_mem ..) ?_)
    | intro e | (simp only [Option.some.injEq] at e; subst e) | split at e)
theorem execAmoResp_keeps {s : State} (h : s.memOk) : Keeps (execAmoResp s) := by
  unfold execAmoResp
  repeat' (first
    | with_reducible assumption | with_reducible apply Keeps.next | with_reducible apply State.takeResp_memOk
    | (with_reducible refine memOk_of_eq (State.amoDone_mem ..) ?_) | (with_reducible refine memOk_of_eq (State.dropStored_mem ..) ?_)
    | intro e | (simp only [Option.some.injEq] at e; subst e) | split at e)
theorem execAckPacket_keeps {s : State} (h : s.memOk) : Keeps (execAckPacket s) := by
  unfold execAckPacket
  repeat' (first
    | with_reducible assumption | with_reducible apply Keeps.next | with_reducible apply State.takeResp_memOk
    | (with_reducible refine State.ackAll_memOk (he := by first | assumption | exact (Prod.eta _).symm | rfl) ?_) | intro e)
theorem execNackPacket_keeps {s : State} (h : s.memOk) : Keeps (execNackPacket s) := by
  unfold execNackPacket
  repeat' (first
    | with_reducible assumption | with_reducible apply Keeps.next | with_reducible apply State.takeResp_memOk
    | (with_reducible refine State.nacked_memOk (he := by first | assumption | exact (Prod.eta _).symm | rfl) ?_) | intro e
    | (simp only [Option.some.injEq] at e; subst e) | split at e)
theorem execFlushAck_keeps {s : State} (h : s.memOk) : Keeps (execFlushAck s) := by
  unfold execFlushAck
  repeat' (first
    | with_reducible assumption | with_reducible apply Keeps.next | with_reducible apply State.takeResp_memOk
    | (with_reducible refine State.ackAll_memOk (he := by first | assumption | exact (Prod.eta _).symm | rfl) ?_) | intro e)
theorem execAckHoldExpiry_keeps {s : State} (h : s.memOk) : Keeps (execAckHoldExpiry s) := by
  unfold execAckHoldExpiry
  repeat' (first
    | with_reducible assumption | with_reducible apply Keeps.next | (with_reducible refine memOk_of_eq (State.sendResp_mem ..) ?_) | split
    | (refine ⟨?_⟩; dsimp only; with_reducible refine memOk_wf ?_))
theorem execRetransmit_keeps {s : State} (h : s.memOk) : Keeps (execRetransmit s) := by
  unfold execRetransmit
  repeat' (first
    | with_reducible assumption | with_reducible apply Keeps.next | with_reducible refine State.sendAgain_memOk ?_ | dsimp only | split)
theorem execRetryBackoff_keeps {s : State} (h : s.memOk) : Keeps (execRetryBackoff s) := by
  unfold execRetryBackoff
  repeat' (first
    | with_reducible assumption | with_reducible apply Keeps.next | split | (refine ⟨?_⟩; dsimp only; with_reducible refine memOk_wf ?_))
theorem execHoldTimeout_keeps {s : State} (h : s.memOk) : Keeps (execHoldTimeout s) := by
  unfold execHoldTimeout
  repeat' (first
    | with_reducible assumption | with_reducible apply Keeps.next | with_reducible refine State.retryJob_memOk ?_ | split)
theorem execCombiningArrival_keeps {s : State} (h : s.memOk) : Keeps (execCombiningArrival s) := by
  unfold execCombiningArrival
  repeat' (first
    | with_reducible assumption | with_reducible apply Keeps.next | with_reducible refine State.routeOn_memOk ?_
    | (with_reducible refine memOk_of_eq (State.takeArrival_mem ..) ?_) | (with_reducible refine memOk_of_eq (State.setRecord_mem ..) ?_)
    | split | (refine ⟨?_⟩; dsimp only; with_reducible refine memOk_wf ?_))
theorem execCombiningSlotClose_keeps {s : State} (h : s.memOk) : Keeps (execCombiningSlotClose s) := by
  unfold execCombiningSlotClose
  repeat' (first
    | with_reducible assumption | with_reducible apply Keeps.next | with_reducible refine State.routeOn_memOk ?_
    | (with_reducible refine memOk_of_eq (State.returnCredits_mem ..) ?_)
    | (with_reducible refine memOk_of_eq (State.setRecord_mem ..) ?_) | split
    | (refine ⟨?_⟩; dsimp only; with_reducible refine memOk_wf ?_))
theorem execDecombiningRecordExpiry_keeps {s : State} (h : s.memOk) : Keeps (execDecombiningRecordExpiry s) := by
  unfold execDecombiningRecordExpiry
  repeat' (first
    | with_reducible assumption | with_reducible apply Keeps.next | (with_reducible refine memOk_of_eq (State.setRecord_mem ..) ?_)
    | dsimp only | split)
theorem execDecombine_keeps {s : State} (h : s.memOk) : Keeps (execDecombine s) := by
  unfold execDecombine
  repeat' (first
    | with_reducible assumption | with_reducible apply Keeps.next | with_reducible apply foldl_memOk
    | (with_reducible refine memOk_of_eq (State.setRecord_mem ..) ?_) | (with_reducible refine memOk_of_eq (State.sendResp_mem ..) ?_)
    | split | (refine ⟨?_⟩; dsimp only; with_reducible refine memOk_wf ?_) | intro e)
theorem execPebbleExitTimeout_keeps {s : State} (h : s.memOk) : Keeps (execPebbleExitTimeout s) := by
  unfold execPebbleExitTimeout
  repeat' (first
    | with_reducible assumption | with_reducible apply Keeps.next | with_reducible refine State.parkUnknown_memOk ?_
    | with_reducible refine State.park_memOk ?_ | with_reducible apply getD_memOk | split
    | (refine ⟨?_⟩; dsimp only; with_reducible refine memOk_wf ?_)
    | (with_reducible refine State.endSend_memOk (he := by first | assumption | exact (Prod.eta _).symm | rfl) ?_) | intro e)
theorem execPebbleVisit_keeps {s : State} (h : s.memOk) : Keeps (execPebbleVisit s) := by
  unfold execPebbleVisit
  repeat' (first
    | with_reducible assumption | with_reducible apply Keeps.next | with_reducible refine State.logErr_memOk ?_
    | with_reducible refine State.parkUnknown_memOk ?_ | (with_reducible refine memOk_of_eq (State.takeArrival_mem ..) ?_) | dsimp only
    | split)
theorem execStepBudget_keeps {s : State} (h : s.memOk) : Keeps (execStepBudget s) := by
  unfold execStepBudget
  repeat' (first
    | with_reducible assumption | with_reducible apply Keeps.next | with_reducible refine State.parkVisit_memOk ?_ | split)
theorem execKill_keeps {s : State} (h : s.memOk) : Keeps (execKill s) := by
  unfold execKill
  repeat' (first
    | with_reducible assumption | with_reducible apply State.pebble_keeps | (with_reducible refine memOk_of_eq (State.setVisit_mem ..) ?_)
    | intro e)
theorem execPushi_keeps {i : BitVec 11} {s : State} (h : s.memOk) : Keeps (execPushi i s) := by
  unfold execPushi
  repeat' (first | with_reducible assumption | with_reducible apply State.pebbleMap_keeps)
theorem execPushk_keeps {n : Nat} {s : State} (h : s.memOk) : Keeps (execPushk n s) := by
  unfold execPushk
  repeat' (first | with_reducible assumption | with_reducible apply State.pebbleMap_keeps)
theorem execPopk_keeps {n : Nat} {s : State} (h : s.memOk) : Keeps (execPopk n s) := by
  unfold execPopk
  repeat' (first | with_reducible assumption | with_reducible apply State.pebbleMap_keeps)
theorem execAddk_keeps {n : Nat} {s : State} (h : s.memOk) : Keeps (execAddk n s) := by
  unfold execAddk
  repeat' (first | with_reducible assumption | with_reducible apply State.pebbleMap_keeps)
theorem execDup_keeps {s : State} (h : s.memOk) : Keeps (execDup s) := by
  unfold execDup
  repeat' (first | with_reducible assumption | with_reducible apply State.pebbleMap_keeps)
theorem execSwap_keeps {s : State} (h : s.memOk) : Keeps (execSwap s) := by
  unfold execSwap
  repeat' (first | with_reducible assumption | with_reducible apply State.pebbleMap_keeps)
theorem execPebbleDrop_keeps {s : State} (h : s.memOk) : Keeps (execPebbleDrop s) := by
  unfold execPebbleDrop
  repeat' (first | with_reducible assumption | with_reducible apply State.pebbleMap_keeps)
theorem execPebbleAdd_keeps {s : State} (h : s.memOk) : Keeps (execPebbleAdd s) := by
  unfold execPebbleAdd
  repeat' (first | with_reducible assumption | with_reducible apply State.pebbleAlu_keeps)
theorem execPebbleSub_keeps {s : State} (h : s.memOk) : Keeps (execPebbleSub s) := by
  unfold execPebbleSub
  repeat' (first | with_reducible assumption | with_reducible apply State.pebbleAlu_keeps)
theorem execPebbleAnd_keeps {s : State} (h : s.memOk) : Keeps (execPebbleAnd s) := by
  unfold execPebbleAnd
  repeat' (first | with_reducible assumption | with_reducible apply State.pebbleAlu_keeps)
theorem execPebbleOr_keeps {s : State} (h : s.memOk) : Keeps (execPebbleOr s) := by
  unfold execPebbleOr
  repeat' (first | with_reducible assumption | with_reducible apply State.pebbleAlu_keeps)
theorem execPebbleXor_keeps {s : State} (h : s.memOk) : Keeps (execPebbleXor s) := by
  unfold execPebbleXor
  repeat' (first | with_reducible assumption | with_reducible apply State.pebbleAlu_keeps)
theorem execPebbleShl_keeps {s : State} (h : s.memOk) : Keeps (execPebbleShl s) := by
  unfold execPebbleShl
  repeat' (first | with_reducible assumption | with_reducible apply State.pebbleAlu_keeps)
theorem execPebbleCmpeq_keeps {s : State} (h : s.memOk) : Keeps (execPebbleCmpeq s) := by
  unfold execPebbleCmpeq
  repeat' (first | with_reducible assumption | with_reducible apply State.pebbleAlu_keeps)
theorem execPebbleCmplt_keeps {s : State} (h : s.memOk) : Keeps (execPebbleCmplt s) := by
  unfold execPebbleCmplt
  repeat' (first | with_reducible assumption | with_reducible apply State.pebbleAlu_keeps)
theorem execPebbleBz_keeps {d : BitVec 11} {s : State} (h : s.memOk) : Keeps (execPebbleBz d s) := by
  unfold execPebbleBz
  repeat' (first | with_reducible assumption | with_reducible apply State.pebbleBranch_keeps)
theorem execPebbleBnz_keeps {d : BitVec 11} {s : State} (h : s.memOk) : Keeps (execPebbleBnz d s) := by
  unfold execPebbleBnz
  repeat' (first | with_reducible assumption | with_reducible apply State.pebbleBranch_keeps)
theorem execLdr_keeps {s : State} (h : s.memOk) : Keeps (execLdr s) := by
  unfold execLdr
  repeat' (first
    | with_reducible assumption | with_reducible apply State.pebble_keeps | with_reducible refine State.parkVisit_memOk ?_
    | with_reducible apply State.routerRead_memOk | with_reducible refine State.goVisit_memOk ?_ | dsimp only | split | intro e)
theorem execAddr_keeps {s : State} (h : s.memOk) : Keeps (execAddr s) := by
  unfold execAddr
  repeat' (first
    | with_reducible assumption | with_reducible apply State.pebble_keeps | with_reducible refine State.parkVisit_memOk ?_
    | with_reducible apply State.routerRead_memOk | with_reducible refine State.goVisit_memOk ?_
    | with_reducible refine State.writeN_memOk ?_ | dsimp only | split | intro e)
theorem execCtr_keeps {n : Nat} {s : State} (h : s.memOk) : Keeps (execCtr n s) := by
  unfold execCtr
  repeat' (first
    | with_reducible assumption | with_reducible apply State.pebble_keeps | with_reducible apply State.routerRead_memOk
    | with_reducible refine State.goVisit_memOk ?_ | intro e)
theorem execCtrinc_keeps {n : Nat} {s : State} (h : s.memOk) : Keeps (execCtrinc n s) := by
  unfold execCtrinc
  repeat' (first
    | with_reducible assumption | with_reducible apply State.pebble_keeps | with_reducible apply State.routerRead_memOk
    | with_reducible refine State.goVisit_memOk ?_ | with_reducible refine State.writeN_memOk ?_ | intro e)
theorem execCoord_keeps {sel : Nat} {s : State} (h : s.memOk) : Keeps (execCoord sel s) := by
  unfold execCoord
  repeat' (first | with_reducible assumption | with_reducible apply State.pebbleMap_keeps)
theorem execHop_keeps {s : State} (h : s.memOk) : Keeps (execHop s) := by
  unfold execHop
  repeat' (first | with_reducible assumption | with_reducible apply State.pebbleMap_keeps)
theorem execLoadCount_keeps {d : Nat} {s : State} (h : s.memOk) : Keeps (execLoadCount d s) := by
  unfold execLoadCount
  repeat' (first
    | with_reducible assumption | with_reducible apply State.pebble_keeps | with_reducible refine State.goVisit_memOk ?_ | intro e)
theorem execFwd_keeps {d : Nat} {s : State} (h : s.memOk) : Keeps (execFwd d s) := by
  unfold execFwd
  repeat' (first
    | with_reducible assumption | with_reducible apply State.pebble_keeps | with_reducible refine State.leaveBy_memOk ?_
    | (with_reducible refine memOk_of_eq (State.setVisit_mem ..) ?_) | intro e)
theorem execClone_keeps {m : BitVec 6} {s : State} (h : s.memOk) : Keeps (execClone m s) := by
  unfold execClone
  repeat' (first
    | with_reducible assumption | with_reducible apply State.pebble_keeps | with_reducible refine State.parkVisit_memOk ?_
    | with_reducible refine State.takeExit_memOk ?_ | with_reducible apply foldl_memOk
    | (with_reducible refine memOk_of_eq (State.setVisit_mem ..) ?_) | dsimp only | split | intro e)
theorem execDeliver_keeps {s : State} (h : s.memOk) : Keeps (execDeliver s) := by
  unfold execDeliver
  repeat' (first
    | with_reducible assumption | with_reducible apply State.pebble_keeps | with_reducible refine State.parkVisit_memOk ?_
    | (with_reducible refine memOk_of_eq (State.setVisit_mem ..) ?_) | dsimp only | split
    | (with_reducible refine State.deliver_memOk (he := by first | assumption | exact (Prod.eta _).symm | rfl) ?_) | intro e)
theorem execPark_keeps {s : State} (h : s.memOk) : Keeps (execPark s) := by
  unfold execPark
  repeat' (first
    | with_reducible assumption | with_reducible apply State.pebble_keeps | with_reducible refine State.parkVisit_memOk ?_ | intro e)
theorem execSlateInvocation_keeps {s : State} (h : s.memOk) : Keeps (execSlateInvocation s) := by
  unfold execSlateInvocation
  repeat' (first
    | with_reducible assumption | with_reducible apply Keeps.next | with_reducible refine State.fallback_memOk ?_
    | (with_reducible refine memOk_of_eq (State.modPart_mem ..) ?_) | dsimp only | split)
theorem execBudget_keeps {s : State} (h : s.memOk) : Keeps (execBudget s) := by
  unfold execBudget
  repeat' (first
    | with_reducible assumption | with_reducible apply Keeps.next | with_reducible refine State.abend_memOk ?_ | dsimp only | split)
theorem execTick_keeps {s : State} (h : s.memOk) : Keeps (execTick s) := by
  unfold execTick
  repeat' (first
    | with_reducible assumption | with_reducible apply Keeps.next | (with_reducible refine memOk_of_eq (State.slateEvent_mem ..) ?_)
    | (with_reducible refine memOk_of_eq (State.modPart_mem ..) ?_) | dsimp only | split)
theorem execSlateSwap_keeps {s : State} (h : s.memOk) : Keeps (execSlateSwap s) := by
  unfold execSlateSwap
  repeat' (first
    | with_reducible assumption | with_reducible apply Keeps.next | (with_reducible refine memOk_of_eq (State.slateEvent_mem ..) ?_)
    | (with_reducible refine memOk_of_eq (State.modPart_mem ..) ?_) | dsimp only | split)
theorem execLdv_keeps {d a : Nat} {x : Bool} {k c : Nat} {s : State} (h : s.memOk) : Keeps (execLdv d a x k c s) := by
  unfold execLdv
  repeat' (first | with_reducible assumption | with_reducible apply State.slateOp_keeps)
theorem execLdm_keeps {d a : Nat} {x : Bool} {c : Nat} {s : State} (h : s.memOk) : Keeps (execLdm d a x c s) := by
  unfold execLdm
  repeat' (first | with_reducible assumption | with_reducible apply State.slateOp_keeps)
theorem execStm_keeps {d a : Nat} {x : Bool} {c : Nat} {s : State} (h : s.memOk) : Keeps (execStm d a x c s) := by
  unfold execStm
  repeat' (first | with_reducible assumption | with_reducible apply State.slateOp_keeps)
theorem execArgmax_keeps {d a k n : Nat} {s : State} (h : s.memOk) : Keeps (execArgmax d a k n s) := by
  unfold execArgmax
  repeat' (first | with_reducible assumption | with_reducible apply State.slateOp_keeps)
theorem execBrf_keeps {a c d : Nat} {s : State} (h : s.memOk) : Keeps (execBrf a c d s) := by
  unfold execBrf
  repeat' (first | with_reducible assumption | with_reducible apply State.slateOp_keeps)
theorem execSlateLoop_keeps {d l n : Nat} {s : State} (h : s.memOk) : Keeps (execSlateLoop d l n s) := by
  unfold execSlateLoop
  repeat' (first | with_reducible assumption | with_reducible apply State.slateOp_keeps)
theorem execEndl_keeps {s : State} (h : s.memOk) : Keeps (execEndl s) := by
  unfold execEndl
  repeat' (first | with_reducible assumption | with_reducible apply State.slateOp_keeps)
theorem execEmitDispatch_keeps {d a : Nat} {s : State} (h : s.memOk) : Keeps (execEmitDispatch d a s) := by
  unfold execEmitDispatch
  repeat' (first | with_reducible assumption | with_reducible apply State.emit_keeps)
theorem execEmitPreempt_keeps {d : Nat} {s : State} (h : s.memOk) : Keeps (execEmitPreempt d s) := by
  unfold execEmitPreempt
  repeat' (first | with_reducible assumption | with_reducible apply State.emit_keeps)
theorem execEmitShare_keeps {d a : Nat} {s : State} (h : s.memOk) : Keeps (execEmitShare d a s) := by
  unfold execEmitShare
  repeat' (first | with_reducible assumption | with_reducible apply State.emit_keeps)
theorem execEmitFaultact_keeps {d tt : Nat} {s : State} (h : s.memOk) : Keeps (execEmitFaultact d tt s) := by
  unfold execEmitFaultact
  repeat' (first | with_reducible assumption | with_reducible apply State.emit_keeps)
theorem execSlateRet_keeps {s : State} (h : s.memOk) : Keeps (execSlateRet s) := by
  unfold execSlateRet
  repeat' (first
    | with_reducible assumption | with_reducible apply Keeps.next | with_reducible refine State.abend_memOk ?_
    | with_reducible refine State.applyDec_memOk ?_ | with_reducible refine State.showM_memOk ?_ | with_reducible apply foldl_memOk
    | (with_reducible refine memOk_of_eq (State.modPart_mem ..) ?_) | dsimp only | split | intro e)
theorem execSlateAdd_keeps {d a b : Nat} {s : State} (h : s.memOk) : Keeps (execSlateAdd d a b s) := by
  unfold execSlateAdd
  repeat' (first | with_reducible assumption | with_reducible apply State.slateAlu_keeps)
theorem execSlateAddImm_keeps {d a : Nat} {i : BitVec 18} {s : State} (h : s.memOk) : Keeps (execSlateAddImm d a i s) := by
  unfold execSlateAddImm
  repeat' (first | with_reducible assumption | with_reducible apply State.slateAlu_keeps)
theorem execSlateSub_keeps {d a b : Nat} {s : State} (h : s.memOk) : Keeps (execSlateSub d a b s) := by
  unfold execSlateSub
  repeat' (first | with_reducible assumption | with_reducible apply State.slateAlu_keeps)
theorem execSlateSubImm_keeps {d a : Nat} {i : BitVec 18} {s : State} (h : s.memOk) : Keeps (execSlateSubImm d a i s) := by
  unfold execSlateSubImm
  repeat' (first | with_reducible assumption | with_reducible apply State.slateAlu_keeps)
theorem execSlateMul_keeps {d a b : Nat} {s : State} (h : s.memOk) : Keeps (execSlateMul d a b s) := by
  unfold execSlateMul
  repeat' (first | with_reducible assumption | with_reducible apply State.slateAlu_keeps)
theorem execSlateMulImm_keeps {d a : Nat} {i : BitVec 18} {s : State} (h : s.memOk) : Keeps (execSlateMulImm d a i s) := by
  unfold execSlateMulImm
  repeat' (first | with_reducible assumption | with_reducible apply State.slateAlu_keeps)
theorem execSlateAnd_keeps {d a b : Nat} {s : State} (h : s.memOk) : Keeps (execSlateAnd d a b s) := by
  unfold execSlateAnd
  repeat' (first | with_reducible assumption | with_reducible apply State.slateAlu_keeps)
theorem execSlateAndImm_keeps {d a : Nat} {i : BitVec 18} {s : State} (h : s.memOk) : Keeps (execSlateAndImm d a i s) := by
  unfold execSlateAndImm
  repeat' (first | with_reducible assumption | with_reducible apply State.slateAlu_keeps)
theorem execSlateOr_keeps {d a b : Nat} {s : State} (h : s.memOk) : Keeps (execSlateOr d a b s) := by
  unfold execSlateOr
  repeat' (first | with_reducible assumption | with_reducible apply State.slateAlu_keeps)
theorem execSlateOrImm_keeps {d a : Nat} {i : BitVec 18} {s : State} (h : s.memOk) : Keeps (execSlateOrImm d a i s) := by
  unfold execSlateOrImm
  repeat' (first | with_reducible assumption | with_reducible apply State.slateAlu_keeps)
theorem execSlateXor_keeps {d a b : Nat} {s : State} (h : s.memOk) : Keeps (execSlateXor d a b s) := by
  unfold execSlateXor
  repeat' (first | with_reducible assumption | with_reducible apply State.slateAlu_keeps)
theorem execSlateXorImm_keeps {d a : Nat} {i : BitVec 18} {s : State} (h : s.memOk) : Keeps (execSlateXorImm d a i s) := by
  unfold execSlateXorImm
  repeat' (first | with_reducible assumption | with_reducible apply State.slateAlu_keeps)
theorem execSlateShl_keeps {d a b : Nat} {s : State} (h : s.memOk) : Keeps (execSlateShl d a b s) := by
  unfold execSlateShl
  repeat' (first | with_reducible assumption | with_reducible apply State.slateAlu_keeps)
theorem execSlateShlImm_keeps {d a : Nat} {i : BitVec 18} {s : State} (h : s.memOk) : Keeps (execSlateShlImm d a i s) := by
  unfold execSlateShlImm
  repeat' (first | with_reducible assumption | with_reducible apply State.slateAlu_keeps)
theorem execSlateShr_keeps {d a b : Nat} {s : State} (h : s.memOk) : Keeps (execSlateShr d a b s) := by
  unfold execSlateShr
  repeat' (first | with_reducible assumption | with_reducible apply State.slateAlu_keeps)
theorem execSlateShrImm_keeps {d a : Nat} {i : BitVec 18} {s : State} (h : s.memOk) : Keeps (execSlateShrImm d a i s) := by
  unfold execSlateShrImm
  repeat' (first | with_reducible assumption | with_reducible apply State.slateAlu_keeps)
theorem execSlateMin_keeps {d a b : Nat} {s : State} (h : s.memOk) : Keeps (execSlateMin d a b s) := by
  unfold execSlateMin
  repeat' (first | with_reducible assumption | with_reducible apply State.slateAlu_keeps)
theorem execSlateMinImm_keeps {d a : Nat} {i : BitVec 18} {s : State} (h : s.memOk) : Keeps (execSlateMinImm d a i s) := by
  unfold execSlateMinImm
  repeat' (first | with_reducible assumption | with_reducible apply State.slateAlu_keeps)
theorem execSlateMax_keeps {d a b : Nat} {s : State} (h : s.memOk) : Keeps (execSlateMax d a b s) := by
  unfold execSlateMax
  repeat' (first | with_reducible assumption | with_reducible apply State.slateAlu_keeps)
theorem execSlateMaxImm_keeps {d a : Nat} {i : BitVec 18} {s : State} (h : s.memOk) : Keeps (execSlateMaxImm d a i s) := by
  unfold execSlateMaxImm
  repeat' (first | with_reducible assumption | with_reducible apply State.slateAlu_keeps)
theorem execSlateCmplt_keeps {d a b : Nat} {s : State} (h : s.memOk) : Keeps (execSlateCmplt d a b s) := by
  unfold execSlateCmplt
  repeat' (first | with_reducible assumption | with_reducible apply State.slateAlu_keeps)
theorem execSlateCmpltImm_keeps {d a : Nat} {i : BitVec 18} {s : State} (h : s.memOk) : Keeps (execSlateCmpltImm d a i s) := by
  unfold execSlateCmpltImm
  repeat' (first | with_reducible assumption | with_reducible apply State.slateAlu_keeps)
theorem execSlateCmpeq_keeps {d a b : Nat} {s : State} (h : s.memOk) : Keeps (execSlateCmpeq d a b s) := by
  unfold execSlateCmpeq
  repeat' (first | with_reducible assumption | with_reducible apply State.slateAlu_keeps)
theorem execSlateCmpeqImm_keeps {d a : Nat} {i : BitVec 18} {s : State} (h : s.memOk) : Keeps (execSlateCmpeqImm d a i s) := by
  unfold execSlateCmpeqImm
  repeat' (first | with_reducible assumption | with_reducible apply State.slateAlu_keeps)
theorem execSlateSel_keeps {d a b : Nat} {s : State} (h : s.memOk) : Keeps (execSlateSel d a b s) := by
  unfold execSlateSel
  repeat' (first | with_reducible assumption | with_reducible apply State.slateSelect_keeps)
theorem execSlateSelImm_keeps {d a : Nat} {i : BitVec 18} {s : State} (h : s.memOk) : Keeps (execSlateSelImm d a i s) := by
  unfold execSlateSelImm
  repeat' (first | with_reducible assumption | with_reducible apply State.slateSelect_keeps)
theorem execStrandStart_keeps {s : State} (h : s.memOk) : Keeps (execStrandStart s) := by
  unfold execStrandStart
  repeat' (first
    | with_reducible assumption | with_reducible apply Keeps.next | with_reducible apply foldl_memOk
    | (with_reducible refine memOk_of_eq (State.modCore_mem ..) ?_) | (with_reducible refine memOk_of_eq (State.modTeam_mem ..) ?_)
    | dsimp only | split | intro e)
theorem execTeamSave_keeps {s : State} (h : s.memOk) : Keeps (execTeamSave s) := by
  unfold execTeamSave
  repeat' (first
    | with_reducible assumption | with_reducible apply Keeps.next | with_reducible refine State.yieldCore_memOk ?_
    | with_reducible refine State.saveRank_memOk ?_ | with_reducible refine State.saveHeader_memOk ?_
    | with_reducible refine State.boundary_memOk ?_ | with_reducible apply foldl_memOk
    | (with_reducible refine memOk_of_eq (State.slateEvent_mem ..) ?_) | (with_reducible refine memOk_of_eq (State.freeCores_mem ..) ?_)
    | split | (refine ⟨?_⟩; dsimp only; with_reducible refine memOk_wf ?_) | intro e)
theorem execTeamRestore_keeps {s : State} (h : s.memOk) : Keeps (execTeamRestore s) := by
  unfold execTeamRestore
  repeat' (first
    | with_reducible assumption | with_reducible apply Keeps.next | with_reducible refine State.copyMem_memOk ?_
    | with_reducible refine State.applyLog_memOk ?_ | with_reducible refine State.issueStop_memOk ?_ | with_reducible apply foldl_memOk
    | (with_reducible refine memOk_of_eq (State.setCore_mem ..) ?_) | (with_reducible refine memOk_of_eq (State.moveFlights_mem ..) ?_)
    | (with_reducible refine memOk_of_eq (State.modTeam_mem ..) ?_) | split | (refine ⟨?_⟩; dsimp only; with_reducible refine memOk_wf ?_)
    | (with_reducible refine State.carry_memOk (he := by first | assumption | exact (Prod.eta _).symm | rfl) ?_) | intro e)
theorem execRecordRetire_keeps {s : State} (h : s.memOk) : Keeps (execRecordRetire s) := by
  unfold execRecordRetire
  repeat' (first
    | with_reducible assumption | with_reducible apply Keeps.next | with_reducible refine State.noteReady_memOk ?_
    | with_reducible refine State.semAdd_memOk ?_ | with_reducible refine State.popHead_memOk ?_ | dsimp only | split)
theorem execTaskCompletion_keeps {s : State} (h : s.memOk) : Keeps (execTaskCompletion s) := by
  unfold execTaskCompletion
  repeat' (first
    | with_reducible assumption | with_reducible apply Keeps.next | with_reducible refine State.noteReady_memOk ?_
    | with_reducible refine State.endTeam_memOk ?_ | with_reducible refine State.semAdd_memOk ?_ | split)
theorem execQuantumExpiry_keeps {s : State} (h : s.memOk) : Keeps (execQuantumExpiry s) := by
  unfold execQuantumExpiry
  repeat' (first
    | with_reducible assumption | with_reducible apply Keeps.next | (with_reducible refine memOk_of_eq (State.slateEvent_mem ..) ?_)
    | (with_reducible refine memOk_of_eq (State.modTeam_mem ..) ?_) | dsimp only | split)
theorem execStrandFault_keeps {s : State} (h : s.memOk) : Keeps (execStrandFault s) := by
  unfold execStrandFault
  repeat' (first
    | with_reducible assumption | with_reducible apply Keeps.next | (with_reducible refine memOk_of_eq (State.modCore_mem ..) ?_)
    | (with_reducible refine memOk_of_eq (State.slateEvent_mem ..) ?_) | (with_reducible refine memOk_of_eq (State.modPart_mem ..) ?_)
    | (with_reducible refine memOk_of_eq (State.addFault_mem ..) ?_) | dsimp only | split)
theorem execEngineCommandBegin_keeps {s : State} (h : s.memOk) : Keeps (execEngineCommandBegin s) := by
  unfold execEngineCommandBegin
  repeat' (first
    | with_reducible assumption | with_reducible apply Keeps.next | with_reducible refine State.postFault_memOk ?_
    | (with_reducible refine memOk_of_eq (State.engineFault_mem ..) ?_) | (with_reducible refine memOk_of_eq (State.modCur_mem ..) ?_)
    | dsimp only | split | (with_reducible refine State.readDesc_memOk (he := by first | assumption | exact (Prod.eta _).symm | rfl) ?_)
    | (with_reducible refine CRes.of_ok (e := by assumption) (State.beginCopy_ok ?_)))
theorem State.srcTurn_mem {s : State} {e : Nat} {it : Iter} {t : State} {x : Option Iter} (he : State.srcTurn s e it = (t, x)) : t.mem = s.mem := by
  have turn : ∀ (u : State) (l : Nat × Nat × Bool), (u.syncTurn l.1 it.cmd.id l.2.1 l.2.2).1.mem = u.mem := fun u l =>
    State.syncTurn_mem (Prod.eta _).symm
  have fold : ∀ ls : List (Nat × Nat × Bool), (ls.foldl (fun u l => (u.syncTurn l.1 it.cmd.id l.2.1 l.2.2).1) s).mem = s.mem := fun ls =>
    foldl_mem_eq fun u l => turn u l
  unfold State.srcTurn at he
  dsimp only at he
  repeat' split at he
  all_goals cases he
  · refine foldl_mem_eq fun u l => ?_
    split
    · rfl
    · exact turn u l
  · exact fold _
  · exact (State.sendReads_mem (Prod.eta _).symm).trans (fold _)
  · exact (State.modCur_mem ..).trans ((State.sendReads_mem (Prod.eta _).symm).trans (fold _))
  all_goals exact State.stopCopy_mem.trans (fold _)
theorem execEngineCommandComplete_keeps {s : State} (h : s.memOk) : Keeps (execEngineCommandComplete s) := by
  unfold execEngineCommandComplete
  repeat' (first
    | with_reducible assumption | with_reducible apply Keeps.next | (with_reducible refine memOk_of_eq (State.doneM_mem ..) ?_)
    | (with_reducible refine memOk_of_eq (State.spoilt_mem ..) ?_) | (with_reducible refine memOk_of_eq (State.failIter_mem ..) ?_)
    | (with_reducible refine memOk_of_eq (State.modCur_mem ..) ?_) | dsimp only | split
    | (with_reducible refine MRes.of_ok (e := by assumption) (State.runM_ok ?_))
    | (with_reducible refine MRes.of_spoilt (e := by assumption) (State.runM_ok ?_))
    | (with_reducible refine State.endCopy_memOk (he := by first | assumption | exact (Prod.eta _).symm | rfl) ?_)
    | (with_reducible refine memOk_of_eq (State.srcTurn_mem (he := by assumption)) ?_))
theorem execReplay_keeps {s : State} (h : s.memOk) : Keeps (execReplay s) := by
  unfold execReplay
  repeat' (first
    | with_reducible assumption | with_reducible apply Keeps.next | with_reducible refine State.logErr_memOk ?_
    | (with_reducible refine memOk_of_eq (State.modCur_mem ..) ?_) | (with_reducible refine memOk_of_eq (State.doneM_mem ..) ?_)
    | (with_reducible refine memOk_of_eq (State.failIter_mem ..) ?_) | (with_reducible refine memOk_of_eq (State.modCtx_mem ..) ?_)
    | dsimp only | split | (with_reducible refine State.rerun_memOk (he := by first | assumption | exact (Prod.eta _).symm | rfl) ?_))
theorem execBedrockRefresh_keeps {s : State} (h : s.memOk) : Keeps (execBedrockRefresh s) := by
  unfold execBedrockRefresh
  repeat' (first
    | with_reducible assumption | with_reducible apply Keeps.next | (with_reducible refine memOk_of_eq (State.elapse_mem ..) ?_))
theorem execRetranslation_keeps {s : State} (h : s.memOk) : Keeps (execRetranslation s) := by
  unfold execRetranslation
  repeat' (first
    | with_reducible assumption | with_reducible apply Keeps.next | with_reducible refine State.walkedAll_memOk ?_
    | (with_reducible refine memOk_of_eq (State.modTeam_mem ..) ?_) | dsimp only | split)
theorem execShootdownComplete_keeps {s : State} (h : s.memOk) : Keeps (execShootdownComplete s) := by
  unfold execShootdownComplete
  repeat' (first
    | with_reducible assumption | with_reducible apply Keeps.next | with_reducible refine State.semAdd_memOk ?_
    | (with_reducible refine memOk_of_eq (State.hostOk_mem ..) ?_) | split | (refine ⟨?_⟩; dsimp only; with_reducible refine memOk_wf ?_))
theorem execMigrationMove_keeps {s : State} (h : s.memOk) : Keeps (execMigrationMove s) := by
  unfold execMigrationMove
  repeat' (first
    | with_reducible assumption | with_reducible apply Keeps.next | with_reducible refine State.copyMem_memOk ?_
    | with_reducible refine State.sendPage_memOk ?_ | with_reducible refine State.startMove_memOk ?_
    | with_reducible refine State.startTier_memOk ?_ | split | (refine ⟨?_⟩; dsimp only; with_reducible refine memOk_wf ?_))
theorem execMoveComplete_keeps {s : State} (h : s.memOk) : Keeps (execMoveComplete s) := by
  unfold execMoveComplete
  repeat' (first
    | with_reducible assumption | with_reducible apply Keeps.next | with_reducible refine State.noteReady_memOk ?_
    | with_reducible refine State.replayHeld_memOk ?_ | with_reducible refine State.setPte_memOk ?_
    | (with_reducible refine memOk_of_eq (State.dropMove_mem ..) ?_) | (with_reducible refine memOk_of_eq (State.putFrame_mem ..) ?_)
    | (with_reducible refine memOk_of_eq (State.setMove_mem ..) ?_) | (with_reducible refine memOk_of_eq (State.resetMove_mem ..) ?_)
    | dsimp only | split)
theorem execCopyOnWrite_keeps {s : State} (h : s.memOk) : Keeps (execCopyOnWrite s) := by
  unfold execCopyOnWrite
  refine Keeps.next ?_
  extract_lets +onlyGivenNames asid
  clear_value asid
  split
  · extract_lets +onlyGivenNames pages va e tier
    clear_value tier e va pages
    split
    · exact h
    · split
      · exact State.logErr_memOk (State.snapDrop_memOk h)
      · rename_i t f ht
        have h1 : t.memOk := by
          split at ht
          · first | exact State.takeBlock_memOk h ht | exact memOk_of_eq (State.takeBlock_mem (he := ht)) h
          · first | exact memOk_of_eq (State.takeFrame_mem (he := ht)) h | exact State.takeFrame_memOk h ht
        extract_lets +onlyGivenNames u y w v
        have hu : u.memOk := State.setPte_memOk (State.copyMem_memOk h1)
        have hv : v.memOk := ⟨hu.wf⟩
        clear_value v w y u
        exact State.replayHeld_memOk (memOk_of_eq (State.markStale_mem ..) hv)
  · exact h
theorem execMread_keeps {s : State} (h : s.memOk) : Keeps (execMread s) := by
  unfold execMread
  repeat' (first
    | with_reducible assumption | with_reducible apply State.hostReq_keeps | with_reducible apply State.hostAccess_memOk
    | (with_reducible refine memOk_of_eq (State.hostCount_mem ..) ?_) | (with_reducible refine memOk_of_eq (State.hostDone_mem ..) ?_)
    | dsimp only | split | (with_reducible refine State.scan_memOk (he := by first | assumption | exact (Prod.eta _).symm | rfl) ?_)
    | intro e)
theorem execMwrite_keeps {s : State} (h : s.memOk) : Keeps (execMwrite s) := by
  unfold execMwrite
  repeat' (first
    | with_reducible assumption | with_reducible apply State.hostReq_keeps | with_reducible apply State.hostAccess_memOk
    | with_reducible refine State.writeB_memOk ?_ | (with_reducible refine memOk_of_eq (State.hostOk_mem ..) ?_)
    | (with_reducible refine memOk_of_eq (State.hostCount_mem ..) ?_) | split | intro e)
theorem execMgmtrd_keeps {s : State} (h : s.memOk) : Keeps (execMgmtrd s) := by
  unfold execMgmtrd
  repeat' (first
    | with_reducible assumption | with_reducible apply Keeps.next | (with_reducible refine memOk_of_eq (State.hostDone_mem ..) ?_) | split)
theorem execMgmtwr_keeps {s : State} (h : s.memOk) : Keeps (execMgmtwr s) := by
  unfold execMgmtwr
  repeat' (first
    | with_reducible assumption | with_reducible apply State.hostReq_keeps | with_reducible refine State.mgWrite_memOk ?_
    | (with_reducible refine memOk_of_eq (State.hostDone_mem ..) ?_) | split | intro e)
theorem execPipelineEnable_keeps {s : State} (h : s.memOk) : Keeps (execPipelineEnable s) := by
  unfold execPipelineEnable
  repeat' (first
    | with_reducible assumption | with_reducible apply State.hostReq_keeps | with_reducible refine State.setMg_memOk ?_
    | with_reducible refine State.noteReady_memOk ?_ | (with_reducible refine memOk_of_eq (State.refused_mem ..) ?_)
    | (with_reducible refine memOk_of_eq (State.hostOk_mem ..) ?_) | (with_reducible refine memOk_of_eq (State.modPart_mem ..) ?_)
    | dsimp only | split | intro e)
theorem execCons_keeps {s : State} (h : s.memOk) : Keeps (execCons s) := by
  unfold execCons
  repeat' (first | with_reducible assumption | with_reducible apply State.consume_keeps)
theorem execElcons_keeps {s : State} (h : s.memOk) : Keeps (execElcons s) := by
  unfold execElcons
  repeat' (first | with_reducible assumption | with_reducible apply State.consume_keeps)
theorem execDoorbell_keeps {s : State} (h : s.memOk) : Keeps (execDoorbell s) := by
  unfold execDoorbell
  repeat' (first
    | with_reducible assumption | with_reducible apply State.hostReq_keeps | with_reducible refine State.setMg_memOk ?_
    | with_reducible refine State.noteReady_memOk ?_ | (with_reducible refine memOk_of_eq (State.refused_mem ..) ?_)
    | (with_reducible refine memOk_of_eq (State.newHead_mem ..) ?_) | (with_reducible refine memOk_of_eq (State.hostOk_mem ..) ?_)
    | (with_reducible refine memOk_of_eq (State.slateEvent_mem ..) ?_) | dsimp only | split | intro e)
theorem execEventMessage_keeps {s : State} (h : s.memOk) : Keeps (execEventMessage s) := by
  unfold execEventMessage
  repeat' (first
    | with_reducible assumption | with_reducible apply Keeps.next | (with_reducible refine memOk_of_eq (State.tellRing_mem ..) ?_) | split)
theorem execPcreate_keeps {s : State} (h : s.memOk) : Keeps (execPcreate s) := by
  unfold execPcreate
  repeat' (first
    | with_reducible assumption | with_reducible apply State.command_keeps | (with_reducible refine memOk_of_eq (State.modPart_mem ..) ?_)
    | intro e)
theorem execPassign_keeps {s : State} (h : s.memOk) : Keeps (execPassign s) := by
  unfold execPassign
  repeat' (first
    | with_reducible assumption | with_reducible apply State.command_keeps | with_reducible refine State.setMg_memOk ?_
    | (with_reducible refine memOk_of_eq (State.setOwner_mem ..) ?_) | split | intro e)
theorem execPrelease_keeps {s : State} (h : s.memOk) : Keeps (execPrelease s) := by
  unfold execPrelease
  repeat' (first
    | with_reducible assumption | with_reducible apply State.command_keeps | with_reducible refine State.freeUnit_memOk ?_ | intro e)
theorem execPstart_keeps {s : State} (h : s.memOk) : Keeps (execPstart s) := by
  unfold execPstart
  repeat' (first
    | with_reducible assumption | with_reducible apply State.command_keeps | with_reducible refine State.zeroBlocks_memOk ?_
    | (with_reducible refine memOk_of_eq (State.modPart_mem ..) ?_) | intro e)
theorem execPdestroy_keeps {s : State} (h : s.memOk) : Keeps (execPdestroy s) := by
  unfold execPdestroy
  repeat' (first
    | with_reducible assumption | with_reducible apply Keeps.next | with_reducible refine State.stopPart_memOk ?_
    | with_reducible refine State.clearPart_memOk ?_ | (with_reducible refine memOk_of_eq (State.hostDone_mem ..) ?_)
    | (with_reducible refine memOk_of_eq (State.refused_mem ..) ?_) | (with_reducible refine memOk_of_eq (State.hostOk_mem ..) ?_) | split
    | (refine ⟨?_⟩; dsimp only; with_reducible refine memOk_wf ?_))
theorem execAsidset_keeps {s : State} (h : s.memOk) : Keeps (execAsidset s) := by
  unfold execAsidset
  repeat' (first
    | with_reducible assumption | with_reducible apply State.command_keeps | with_reducible refine State.setMg_memOk ?_ | intro e)
theorem execAsidclr_keeps {s : State} (h : s.memOk) : Keeps (execAsidclr s) := by
  unfold execAsidclr
  repeat' (first
    | with_reducible assumption | with_reducible apply State.command_keeps | with_reducible refine State.clearAsid_memOk ?_ | intro e)
theorem execTenset_keeps {s : State} (h : s.memOk) : Keeps (execTenset s) := by
  unfold execTenset
  repeat' (first
    | with_reducible assumption | with_reducible apply State.command_keeps | with_reducible refine State.zeroTenant_memOk ?_
    | with_reducible refine State.setMg_memOk ?_ | split | intro e)
theorem execTenclr_keeps {s : State} (h : s.memOk) : Keeps (execTenclr s) := by
  unfold execTenclr
  repeat' (first
    | with_reducible assumption | with_reducible apply State.command_keeps | with_reducible refine State.releaseTenant_memOk ?_ | intro e)
theorem execTenzero_keeps {s : State} (h : s.memOk) : Keeps (execTenzero s) := by
  unfold execTenzero
  repeat' (first
    | with_reducible assumption | with_reducible apply State.command_keeps | with_reducible refine State.zeroMem_memOk ?_
    | with_reducible refine State.setMg_memOk ?_ | split | intro e)
theorem execOpenWindow_keeps {s : State} (h : s.memOk) : Keeps (execOpenWindow s) := by
  unfold execOpenWindow
  repeat' (first
    | with_reducible assumption | with_reducible apply State.command_keeps | with_reducible refine State.setMg_memOk ?_ | intro e)
theorem execCloseWindow_keeps {s : State} (h : s.memOk) : Keeps (execCloseWindow s) := by
  unfold execCloseWindow
  repeat' (first
    | with_reducible assumption | with_reducible apply State.command_keeps | with_reducible refine State.winSettle_memOk ?_
    | with_reducible refine State.setMg_memOk ?_ | intro e)
theorem execFreeWindow_keeps {s : State} (h : s.memOk) : Keeps (execFreeWindow s) := by
  unfold execFreeWindow
  repeat' (first
    | with_reducible assumption | with_reducible apply State.command_keeps | with_reducible refine State.setMg_memOk ?_ | intro e)
theorem execResumeParked_keeps {s : State} (h : s.memOk) : Keeps (execResumeParked s) := by
  unfold execResumeParked
  repeat' (first
    | with_reducible assumption | with_reducible apply State.parkCommand_keeps
    | (refine ⟨?_⟩; dsimp only; with_reducible refine memOk_wf ?_) | intro e)
theorem execRedirectParked_keeps {s : State} (h : s.memOk) : Keeps (execRedirectParked s) := by
  unfold execRedirectParked
  repeat' (first
    | with_reducible assumption | with_reducible apply State.parkCommand_keeps | with_reducible refine State.leaveBy_memOk ?_ | intro e)
theorem execDropParked_keeps {s : State} (h : s.memOk) : Keeps (execDropParked s) := by
  unfold execDropParked
  repeat' (first | with_reducible assumption | with_reducible apply State.parkCommand_keeps | intro e)
theorem execPreemptreq_keeps {s : State} (h : s.memOk) : Keeps (execPreemptreq s) := by
  unfold execPreemptreq
  repeat' (first
    | with_reducible assumption | with_reducible apply State.command_keeps
    | (with_reducible refine memOk_of_eq (State.slateEvent_mem ..) ?_) | dsimp only | split | intro e)
theorem execSload_keeps {s : State} (h : s.memOk) : Keeps (execSload s) := by
  unfold execSload
  repeat' (first
    | with_reducible assumption | with_reducible apply Keeps.next | with_reducible apply State.command_keeps
    | with_reducible refine State.touchVa_memOk ?_ | (with_reducible refine memOk_of_eq (State.modPart_mem ..) ?_) | dsimp only | split
    | intro e)
theorem execTableCmd_keeps {s : State} (h : s.memOk) : Keeps (execTableCmd s) := by
  unfold execTableCmd
  repeat' (first
    | with_reducible assumption | with_reducible apply State.command_keeps | with_reducible refine State.setPte_memOk ?_
    | with_reducible refine State.zeroMem_memOk ?_ | intro e)
theorem execMapCmd_keeps {s : State} (h : s.memOk) : Keeps (execMapCmd s) := by
  unfold execMapCmd
  repeat' (first
    | with_reducible assumption | with_reducible apply State.command_keeps | with_reducible refine State.zeroMem_memOk ?_
    | with_reducible refine State.setPte_memOk ?_ | with_reducible refine State.noteReady_memOk ?_
    | with_reducible refine State.replayHeld_memOk ?_ | (with_reducible refine memOk_of_eq (State.bumpCode_mem ..) ?_)
    | (with_reducible refine memOk_of_eq (State.endWaits_mem ..) ?_) | split | intro e)
theorem execUnmap_keeps {s : State} (h : s.memOk) : Keeps (execUnmap s) := by
  unfold execUnmap
  repeat' (first | with_reducible assumption | with_reducible apply State.changePages_keeps)
theorem execProtect_keeps {s : State} (h : s.memOk) : Keeps (execProtect s) := by
  unfold execProtect
  repeat' (first | with_reducible assumption | with_reducible apply State.changePages_keeps)
theorem execMpool_keeps {s : State} (h : s.memOk) : Keeps (execMpool s) := by
  unfold execMpool
  repeat' (first
    | with_reducible assumption | with_reducible apply State.command_keeps
    | (with_reducible refine memOk_of_eq (State.putFrames_mem ..) ?_) | intro e)
theorem execMigclr_keeps {s : State} (h : s.memOk) : Keeps (execMigclr s) := by
  unfold execMigclr
  repeat' (first
    | with_reducible assumption | with_reducible apply State.command_keeps | with_reducible refine State.setPte_memOk ?_
    | (with_reducible refine memOk_of_eq (State.resetMove_mem ..) ?_) | intro e)
theorem execCodebump_keeps {s : State} (h : s.memOk) : Keeps (execCodebump s) := by
  unfold execCodebump
  repeat' (first
    | with_reducible assumption | with_reducible apply State.command_keeps | (with_reducible refine memOk_of_eq (State.modPart_mem ..) ?_)
    | intro e)
theorem execSnaparm_keeps {s : State} (h : s.memOk) : Keeps (execSnaparm s) := by
  unfold execSnaparm
  repeat' (first
    | with_reducible assumption | with_reducible apply Keeps.next | with_reducible apply State.hostReq_keeps
    | with_reducible refine State.writeN_memOk ?_ | (with_reducible refine memOk_of_eq (State.hostOk_mem ..) ?_)
    | (with_reducible refine memOk_of_eq (State.refused_mem ..) ?_) | dsimp only | split
    | (refine ⟨?_⟩; dsimp only; with_reducible refine memOk_wf ?_)
    | (with_reducible refine State.copyTables_memOk (he := by first | assumption | exact (Prod.eta _).symm | rfl) ?_) | intro e)
theorem execSnapcommit_keeps {s : State} (h : s.memOk) : Keeps (execSnapcommit s) := by
  unfold execSnapcommit
  repeat' (first
    | with_reducible assumption | with_reducible apply State.hostReq_keeps | with_reducible refine State.writeN_memOk ?_
    | with_reducible refine State.disarm_memOk ?_ | with_reducible refine State.semAdd_memOk ?_
    | (with_reducible refine memOk_of_eq (State.putFrames_mem ..) ?_) | (with_reducible refine memOk_of_eq (State.hostOk_mem ..) ?_)
    | (with_reducible refine memOk_of_eq (State.refused_mem ..) ?_) | split | (refine ⟨?_⟩; dsimp only; with_reducible refine memOk_wf ?_)
    | intro e)
theorem execSnapdrop_keeps {s : State} (h : s.memOk) : Keeps (execSnapdrop s) := by
  unfold execSnapdrop
  repeat' (first
    | with_reducible assumption | with_reducible apply State.hostReq_keeps | with_reducible refine State.snapDrop_memOk ?_
    | (with_reducible refine memOk_of_eq (State.hostOk_mem ..) ?_) | (with_reducible refine memOk_of_eq (State.refused_mem ..) ?_) | split
    | intro e)
theorem execKeyload_keeps {s : State} (h : s.memOk) : Keeps (execKeyload s) := by
  unfold execKeyload
  repeat' (first
    | with_reducible assumption | with_reducible apply State.command_keeps | (with_reducible refine memOk_of_eq (State.setKey_mem ..) ?_)
    | dsimp only | split | intro e)
theorem execPromote_keeps {s : State} (h : s.memOk) : Keeps (execPromote s) := by
  unfold execPromote
  repeat' (first
    | with_reducible assumption | with_reducible apply State.command_keeps | (with_reducible refine memOk_of_eq (State.setKey_mem ..) ?_)
    | (refine ⟨?_⟩; dsimp only; with_reducible refine memOk_wf ?_) | intro e)
theorem execRetire_keeps {s : State} (h : s.memOk) : Keeps (execRetire s) := by
  unfold execRetire
  repeat' (first
    | with_reducible assumption | with_reducible apply State.command_keeps | (with_reducible refine memOk_of_eq (State.setKey_mem ..) ?_)
    | intro e)
theorem execAttest_keeps {s : State} (h : s.memOk) : Keeps (execAttest s) := by
  unfold execAttest
  repeat' (first
    | with_reducible assumption | with_reducible apply State.hostReq_keeps | (with_reducible refine memOk_of_eq (State.refused_mem ..) ?_)
    | (with_reducible refine memOk_of_eq (State.hostDone_mem ..) ?_) | dsimp only | split | intro e)
theorem execNop_keeps {g : Guard} {s : State} (h : s.memOk) : Keeps (execNop g s) := by
  unfold execNop
  repeat' (first
    | with_reducible assumption | with_reducible apply State.guarded_keeps | (with_reducible refine memOk_of_eq (State.retire_mem ..) ?_)
    | intro e)
theorem execAdd_keeps {g : Guard} {sd sa sb : Nat} {s : State} (h : s.memOk) : Keeps (execAdd g sd sa sb s) := by
  unfold execAdd
  repeat' (first
    | with_reducible assumption | with_reducible apply State.guarded_keeps | (with_reducible refine memOk_of_eq (State.retire_mem ..) ?_)
    | (with_reducible refine memOk_of_eq (State.setS_mem ..) ?_) | intro e)
theorem execSub_keeps {g : Guard} {sd sa sb : Nat} {s : State} (h : s.memOk) : Keeps (execSub g sd sa sb s) := by
  unfold execSub
  repeat' (first
    | with_reducible assumption | with_reducible apply State.guarded_keeps | (with_reducible refine memOk_of_eq (State.retire_mem ..) ?_)
    | (with_reducible refine memOk_of_eq (State.setS_mem ..) ?_) | intro e)
theorem execMul_keeps {g : Guard} {sd sa sb : Nat} {s : State} (h : s.memOk) : Keeps (execMul g sd sa sb s) := by
  unfold execMul
  repeat' (first
    | with_reducible assumption | with_reducible apply State.guarded_keeps | (with_reducible refine memOk_of_eq (State.retire_mem ..) ?_)
    | (with_reducible refine memOk_of_eq (State.setS_mem ..) ?_) | intro e)
theorem execMulh_keeps {g : Guard} {sd sa sb : Nat} {s : State} (h : s.memOk) : Keeps (execMulh g sd sa sb s) := by
  unfold execMulh
  repeat' (first
    | with_reducible assumption | with_reducible apply State.guarded_keeps | (with_reducible refine memOk_of_eq (State.retire_mem ..) ?_)
    | (with_reducible refine memOk_of_eq (State.setS_mem ..) ?_) | intro e)
theorem execMulhu_keeps {g : Guard} {sd sa sb : Nat} {s : State} (h : s.memOk) : Keeps (execMulhu g sd sa sb s) := by
  unfold execMulhu
  repeat' (first
    | with_reducible assumption | with_reducible apply State.guarded_keeps | (with_reducible refine memOk_of_eq (State.retire_mem ..) ?_)
    | (with_reducible refine memOk_of_eq (State.setS_mem ..) ?_) | intro e)
theorem execDiv_keeps {g : Guard} {sd sa sb : Nat} {s : State} (h : s.memOk) : Keeps (execDiv g sd sa sb s) := by
  unfold execDiv
  repeat' (first
    | with_reducible assumption | with_reducible apply State.guarded_keeps | (with_reducible refine memOk_of_eq (State.retire_mem ..) ?_)
    | (with_reducible refine memOk_of_eq (State.setS_mem ..) ?_) | intro e)
theorem execDivu_keeps {g : Guard} {sd sa sb : Nat} {s : State} (h : s.memOk) : Keeps (execDivu g sd sa sb s) := by
  unfold execDivu
  repeat' (first
    | with_reducible assumption | with_reducible apply State.guarded_keeps | (with_reducible refine memOk_of_eq (State.retire_mem ..) ?_)
    | (with_reducible refine memOk_of_eq (State.setS_mem ..) ?_) | intro e)
theorem execRem_keeps {g : Guard} {sd sa sb : Nat} {s : State} (h : s.memOk) : Keeps (execRem g sd sa sb s) := by
  unfold execRem
  repeat' (first
    | with_reducible assumption | with_reducible apply State.guarded_keeps | (with_reducible refine memOk_of_eq (State.retire_mem ..) ?_)
    | (with_reducible refine memOk_of_eq (State.setS_mem ..) ?_) | intro e)
theorem execRemu_keeps {g : Guard} {sd sa sb : Nat} {s : State} (h : s.memOk) : Keeps (execRemu g sd sa sb s) := by
  unfold execRemu
  repeat' (first
    | with_reducible assumption | with_reducible apply State.guarded_keeps | (with_reducible refine memOk_of_eq (State.retire_mem ..) ?_)
    | (with_reducible refine memOk_of_eq (State.setS_mem ..) ?_) | intro e)
theorem execAnd_keeps {g : Guard} {sd sa sb : Nat} {s : State} (h : s.memOk) : Keeps (execAnd g sd sa sb s) := by
  unfold execAnd
  repeat' (first
    | with_reducible assumption | with_reducible apply State.guarded_keeps | (with_reducible refine memOk_of_eq (State.retire_mem ..) ?_)
    | (with_reducible refine memOk_of_eq (State.setS_mem ..) ?_) | intro e)
theorem execOr_keeps {g : Guard} {sd sa sb : Nat} {s : State} (h : s.memOk) : Keeps (execOr g sd sa sb s) := by
  unfold execOr
  repeat' (first
    | with_reducible assumption | with_reducible apply State.guarded_keeps | (with_reducible refine memOk_of_eq (State.retire_mem ..) ?_)
    | (with_reducible refine memOk_of_eq (State.setS_mem ..) ?_) | intro e)
theorem execXor_keeps {g : Guard} {sd sa sb : Nat} {s : State} (h : s.memOk) : Keeps (execXor g sd sa sb s) := by
  unfold execXor
  repeat' (first
    | with_reducible assumption | with_reducible apply State.guarded_keeps | (with_reducible refine memOk_of_eq (State.retire_mem ..) ?_)
    | (with_reducible refine memOk_of_eq (State.setS_mem ..) ?_) | intro e)
theorem execAndn_keeps {g : Guard} {sd sa sb : Nat} {s : State} (h : s.memOk) : Keeps (execAndn g sd sa sb s) := by
  unfold execAndn
  repeat' (first
    | with_reducible assumption | with_reducible apply State.guarded_keeps | (with_reducible refine memOk_of_eq (State.retire_mem ..) ?_)
    | (with_reducible refine memOk_of_eq (State.setS_mem ..) ?_) | intro e)
theorem execShl_keeps {g : Guard} {sd sa sb : Nat} {s : State} (h : s.memOk) : Keeps (execShl g sd sa sb s) := by
  unfold execShl
  repeat' (first
    | with_reducible assumption | with_reducible apply State.guarded_keeps | (with_reducible refine memOk_of_eq (State.retire_mem ..) ?_)
    | (with_reducible refine memOk_of_eq (State.setS_mem ..) ?_) | intro e)
theorem execShr_keeps {g : Guard} {sd sa sb : Nat} {s : State} (h : s.memOk) : Keeps (execShr g sd sa sb s) := by
  unfold execShr
  repeat' (first
    | with_reducible assumption | with_reducible apply State.guarded_keeps | (with_reducible refine memOk_of_eq (State.retire_mem ..) ?_)
    | (with_reducible refine memOk_of_eq (State.setS_mem ..) ?_) | intro e)
theorem execSar_keeps {g : Guard} {sd sa sb : Nat} {s : State} (h : s.memOk) : Keeps (execSar g sd sa sb s) := by
  unfold execSar
  repeat' (first
    | with_reducible assumption | with_reducible apply State.guarded_keeps | (with_reducible refine memOk_of_eq (State.retire_mem ..) ?_)
    | (with_reducible refine memOk_of_eq (State.setS_mem ..) ?_) | intro e)
theorem execMin_keeps {g : Guard} {sd sa sb : Nat} {s : State} (h : s.memOk) : Keeps (execMin g sd sa sb s) := by
  unfold execMin
  repeat' (first
    | with_reducible assumption | with_reducible apply State.guarded_keeps | (with_reducible refine memOk_of_eq (State.retire_mem ..) ?_)
    | (with_reducible refine memOk_of_eq (State.setS_mem ..) ?_) | intro e)
theorem execMax_keeps {g : Guard} {sd sa sb : Nat} {s : State} (h : s.memOk) : Keeps (execMax g sd sa sb s) := by
  unfold execMax
  repeat' (first
    | with_reducible assumption | with_reducible apply State.guarded_keeps | (with_reducible refine memOk_of_eq (State.retire_mem ..) ?_)
    | (with_reducible refine memOk_of_eq (State.setS_mem ..) ?_) | intro e)
theorem execMinu_keeps {g : Guard} {sd sa sb : Nat} {s : State} (h : s.memOk) : Keeps (execMinu g sd sa sb s) := by
  unfold execMinu
  repeat' (first
    | with_reducible assumption | with_reducible apply State.guarded_keeps | (with_reducible refine memOk_of_eq (State.retire_mem ..) ?_)
    | (with_reducible refine memOk_of_eq (State.setS_mem ..) ?_) | intro e)

end
end Sys2Proof.Machine
end

