-- ==== Sys2Proof/Laws/CanonicalMeanings2.lean ====
section
/-!
SUPPORT. Memory stays in its canonical form: one lemma for each meaning of an instruction, second half.
-/
namespace Sys2Proof.Machine
section
set_option simprocs false

theorem execMaxu_keeps {g : Guard} {sd sa sb : Nat} {s : State} (h : s.memOk) : Keeps (execMaxu g sd sa sb s) := by
  unfold execMaxu
  repeat' (first
    | with_reducible assumption | with_reducible apply State.guarded_keeps | (with_reducible refine memOk_of_eq (State.retire_mem ..) ?_)
    | (with_reducible refine memOk_of_eq (State.setS_mem ..) ?_) | intro e)
theorem execClz_keeps {g : Guard} {sd sa : Nat} {s : State} (h : s.memOk) : Keeps (execClz g sd sa s) := by
  unfold execClz
  repeat' (first
    | with_reducible assumption | with_reducible apply State.guarded_keeps | (with_reducible refine memOk_of_eq (State.retire_mem ..) ?_)
    | (with_reducible refine memOk_of_eq (State.setS_mem ..) ?_) | intro e)
theorem execCtz_keeps {g : Guard} {sd sa : Nat} {s : State} (h : s.memOk) : Keeps (execCtz g sd sa s) := by
  unfold execCtz
  repeat' (first
    | with_reducible assumption | with_reducible apply State.guarded_keeps | (with_reducible refine memOk_of_eq (State.retire_mem ..) ?_)
    | (with_reducible refine memOk_of_eq (State.setS_mem ..) ?_) | intro e)
theorem execPopc_keeps {g : Guard} {sd sa : Nat} {s : State} (h : s.memOk) : Keeps (execPopc g sd sa s) := by
  unfold execPopc
  repeat' (first
    | with_reducible assumption | with_reducible apply State.guarded_keeps | (with_reducible refine memOk_of_eq (State.retire_mem ..) ?_)
    | (with_reducible refine memOk_of_eq (State.setS_mem ..) ?_) | intro e)
theorem execExt_keeps {g : Guard} {sd sa : Nat} {x : Ext} {s : State} (h : s.memOk) : Keeps (execExt g sd sa x s) := by
  unfold execExt
  repeat' (first
    | with_reducible assumption | with_reducible apply State.guarded_keeps | (with_reducible refine memOk_of_eq (State.retire_mem ..) ?_)
    | (with_reducible refine memOk_of_eq (State.setS_mem ..) ?_) | intro e)
theorem execSel_keeps {g : Guard} {sd sa sb pa : Nat} {s : State} (h : s.memOk) : Keeps (execSel g sd sa sb pa s) := by
  unfold execSel
  repeat' (first
    | with_reducible assumption | with_reducible apply State.guarded_keeps | (with_reducible refine memOk_of_eq (State.retire_mem ..) ?_)
    | (with_reducible refine memOk_of_eq (State.setS_mem ..) ?_) | intro e)
theorem execCmp_keeps {g : Guard} {c : Cond} {sa sb pd : Nat} {s : State} (h : s.memOk) : Keeps (execCmp g c sa sb pd s) := by
  unfold execCmp
  repeat' (first
    | with_reducible assumption | with_reducible apply State.guarded_keeps | (with_reducible refine memOk_of_eq (State.retire_mem ..) ?_)
    | (with_reducible refine memOk_of_eq (State.setP_mem ..) ?_) | intro e)
theorem execMadd_keeps {g : Guard} {sd sa sb sc : Nat} {s : State} (h : s.memOk) : Keeps (execMadd g sd sa sb sc s) := by
  unfold execMadd
  repeat' (first
    | with_reducible assumption | with_reducible apply State.guarded_keeps | (with_reducible refine memOk_of_eq (State.retire_mem ..) ?_)
    | (with_reducible refine memOk_of_eq (State.setS_mem ..) ?_) | intro e)
theorem execPand_keeps {g : Guard} {pd pa pb : Nat} {s : State} (h : s.memOk) : Keeps (execPand g pd pa pb s) := by
  unfold execPand
  repeat' (first
    | with_reducible assumption | with_reducible apply State.guarded_keeps | (with_reducible refine memOk_of_eq (State.retire_mem ..) ?_)
    | (with_reducible refine memOk_of_eq (State.setP_mem ..) ?_) | intro e)
theorem execPor_keeps {g : Guard} {pd pa pb : Nat} {s : State} (h : s.memOk) : Keeps (execPor g pd pa pb s) := by
  unfold execPor
  repeat' (first
    | with_reducible assumption | with_reducible apply State.guarded_keeps | (with_reducible refine memOk_of_eq (State.retire_mem ..) ?_)
    | (with_reducible refine memOk_of_eq (State.setP_mem ..) ?_) | intro e)
theorem execPxor_keeps {g : Guard} {pd pa pb : Nat} {s : State} (h : s.memOk) : Keeps (execPxor g pd pa pb s) := by
  unfold execPxor
  repeat' (first
    | with_reducible assumption | with_reducible apply State.guarded_keeps | (with_reducible refine memOk_of_eq (State.retire_mem ..) ?_)
    | (with_reducible refine memOk_of_eq (State.setP_mem ..) ?_) | intro e)
theorem execPnot_keeps {g : Guard} {pd pa : Nat} {s : State} (h : s.memOk) : Keeps (execPnot g pd pa s) := by
  unfold execPnot
  repeat' (first
    | with_reducible assumption | with_reducible apply State.guarded_keeps | (with_reducible refine memOk_of_eq (State.retire_mem ..) ?_)
    | (with_reducible refine memOk_of_eq (State.setP_mem ..) ?_) | intro e)
theorem execPget_keeps {g : Guard} {sd : Nat} {s : State} (h : s.memOk) : Keeps (execPget g sd s) := by
  unfold execPget
  repeat' (first
    | with_reducible assumption | with_reducible apply State.guarded_keeps | (with_reducible refine memOk_of_eq (State.retire_mem ..) ?_)
    | (with_reducible refine memOk_of_eq (State.setS_mem ..) ?_) | intro e)
theorem execPset_keeps {g : Guard} {sa : Nat} {s : State} (h : s.memOk) : Keeps (execPset g sa s) := by
  unfold execPset
  repeat' (first
    | with_reducible assumption | with_reducible apply State.guarded_keeps | (with_reducible refine memOk_of_eq (State.retire_mem ..) ?_)
    | (with_reducible refine memOk_of_eq (State.modCtx_mem ..) ?_) | intro e)
theorem execAddImm_keeps {g : Guard} {sd sa : Nat} {imm : BitVec 32} {s : State} (h : s.memOk) : Keeps (execAddImm g sd sa imm s) := by
  unfold execAddImm
  repeat' (first
    | with_reducible assumption | with_reducible apply State.guarded_keeps | (with_reducible refine memOk_of_eq (State.retire_mem ..) ?_)
    | (with_reducible refine memOk_of_eq (State.setS_mem ..) ?_) | intro e)
theorem execSubImm_keeps {g : Guard} {sd sa : Nat} {imm : BitVec 32} {s : State} (h : s.memOk) : Keeps (execSubImm g sd sa imm s) := by
  unfold execSubImm
  repeat' (first
    | with_reducible assumption | with_reducible apply State.guarded_keeps | (with_reducible refine memOk_of_eq (State.retire_mem ..) ?_)
    | (with_reducible refine memOk_of_eq (State.setS_mem ..) ?_) | intro e)
theorem execMulImm_keeps {g : Guard} {sd sa : Nat} {imm : BitVec 32} {s : State} (h : s.memOk) : Keeps (execMulImm g sd sa imm s) := by
  unfold execMulImm
  repeat' (first
    | with_reducible assumption | with_reducible apply State.guarded_keeps | (with_reducible refine memOk_of_eq (State.retire_mem ..) ?_)
    | (with_reducible refine memOk_of_eq (State.setS_mem ..) ?_) | intro e)
theorem execAndImm_keeps {g : Guard} {sd sa : Nat} {imm : BitVec 32} {s : State} (h : s.memOk) : Keeps (execAndImm g sd sa imm s) := by
  unfold execAndImm
  repeat' (first
    | with_reducible assumption | with_reducible apply State.guarded_keeps | (with_reducible refine memOk_of_eq (State.retire_mem ..) ?_)
    | (with_reducible refine memOk_of_eq (State.setS_mem ..) ?_) | intro e)
theorem execOrImm_keeps {g : Guard} {sd sa : Nat} {imm : BitVec 32} {s : State} (h : s.memOk) : Keeps (execOrImm g sd sa imm s) := by
  unfold execOrImm
  repeat' (first
    | with_reducible assumption | with_reducible apply State.guarded_keeps | (with_reducible refine memOk_of_eq (State.retire_mem ..) ?_)
    | (with_reducible refine memOk_of_eq (State.setS_mem ..) ?_) | intro e)
theorem execXorImm_keeps {g : Guard} {sd sa : Nat} {imm : BitVec 32} {s : State} (h : s.memOk) : Keeps (execXorImm g sd sa imm s) := by
  unfold execXorImm
  repeat' (first
    | with_reducible assumption | with_reducible apply State.guarded_keeps | (with_reducible refine memOk_of_eq (State.retire_mem ..) ?_)
    | (with_reducible refine memOk_of_eq (State.setS_mem ..) ?_) | intro e)
theorem execShlImm_keeps {g : Guard} {sd sa : Nat} {imm : BitVec 32} {s : State} (h : s.memOk) : Keeps (execShlImm g sd sa imm s) := by
  unfold execShlImm
  repeat' (first
    | with_reducible assumption | with_reducible apply State.guarded_keeps | (with_reducible refine memOk_of_eq (State.retire_mem ..) ?_)
    | (with_reducible refine memOk_of_eq (State.setS_mem ..) ?_) | intro e)
theorem execShrImm_keeps {g : Guard} {sd sa : Nat} {imm : BitVec 32} {s : State} (h : s.memOk) : Keeps (execShrImm g sd sa imm s) := by
  unfold execShrImm
  repeat' (first
    | with_reducible assumption | with_reducible apply State.guarded_keeps | (with_reducible refine memOk_of_eq (State.retire_mem ..) ?_)
    | (with_reducible refine memOk_of_eq (State.setS_mem ..) ?_) | intro e)
theorem execSarImm_keeps {g : Guard} {sd sa : Nat} {imm : BitVec 32} {s : State} (h : s.memOk) : Keeps (execSarImm g sd sa imm s) := by
  unfold execSarImm
  repeat' (first
    | with_reducible assumption | with_reducible apply State.guarded_keeps | (with_reducible refine memOk_of_eq (State.retire_mem ..) ?_)
    | (with_reducible refine memOk_of_eq (State.setS_mem ..) ?_) | intro e)
theorem execMinImm_keeps {g : Guard} {sd sa : Nat} {imm : BitVec 32} {s : State} (h : s.memOk) : Keeps (execMinImm g sd sa imm s) := by
  unfold execMinImm
  repeat' (first
    | with_reducible assumption | with_reducible apply State.guarded_keeps | (with_reducible refine memOk_of_eq (State.retire_mem ..) ?_)
    | (with_reducible refine memOk_of_eq (State.setS_mem ..) ?_) | intro e)
theorem execMaxImm_keeps {g : Guard} {sd sa : Nat} {imm : BitVec 32} {s : State} (h : s.memOk) : Keeps (execMaxImm g sd sa imm s) := by
  unfold execMaxImm
  repeat' (first
    | with_reducible assumption | with_reducible apply State.guarded_keeps | (with_reducible refine memOk_of_eq (State.retire_mem ..) ?_)
    | (with_reducible refine memOk_of_eq (State.setS_mem ..) ?_) | intro e)
theorem execMinuImm_keeps {g : Guard} {sd sa : Nat} {imm : BitVec 32} {s : State} (h : s.memOk) : Keeps (execMinuImm g sd sa imm s) := by
  unfold execMinuImm
  repeat' (first
    | with_reducible assumption | with_reducible apply State.guarded_keeps | (with_reducible refine memOk_of_eq (State.retire_mem ..) ?_)
    | (with_reducible refine memOk_of_eq (State.setS_mem ..) ?_) | intro e)
theorem execMaxuImm_keeps {g : Guard} {sd sa : Nat} {imm : BitVec 32} {s : State} (h : s.memOk) : Keeps (execMaxuImm g sd sa imm s) := by
  unfold execMaxuImm
  repeat' (first
    | with_reducible assumption | with_reducible apply State.guarded_keeps | (with_reducible refine memOk_of_eq (State.retire_mem ..) ?_)
    | (with_reducible refine memOk_of_eq (State.setS_mem ..) ?_) | intro e)
theorem execCmpImm_keeps {g : Guard} {c : Cond} {sa pd : Nat} {imm : BitVec 32} {s : State} (h : s.memOk)
    : Keeps (execCmpImm g c sa pd imm s) := by
  unfold execCmpImm
  repeat' (first
    | with_reducible assumption | with_reducible apply State.guarded_keeps | (with_reducible refine memOk_of_eq (State.retire_mem ..) ?_)
    | (with_reducible refine memOk_of_eq (State.setP_mem ..) ?_) | intro e)
theorem execSppeer_keeps {g : Guard} {sd sa : Nat} {imm : BitVec 32} {s : State} (h : s.memOk) : Keeps (execSppeer g sd sa imm s) := by
  unfold execSppeer
  repeat' (first
    | with_reducible assumption | with_reducible apply State.guarded_keeps | (with_reducible refine memOk_of_eq (State.retire_mem ..) ?_)
    | (with_reducible refine memOk_of_eq (State.setS_mem ..) ?_) | intro e)
theorem execAddpc_keeps {g : Guard} {sd : Nat} {imm : BitVec 32} {s : State} (h : s.memOk) : Keeps (execAddpc g sd imm s) := by
  unfold execAddpc
  repeat' (first
    | with_reducible assumption | with_reducible apply State.guarded_keeps | (with_reducible refine memOk_of_eq (State.retire_mem ..) ?_)
    | (with_reducible refine memOk_of_eq (State.setS_mem ..) ?_) | intro e)
theorem execLds_keeps {g : Guard} {k : LdKind} {sd sa : Nat} {imm : BitVec 32} {s : State} (h : s.memOk)
    : Keeps (execLds g k sd sa imm s) := by
  unfold execLds
  repeat' (first
    | with_reducible assumption | with_reducible apply State.guarded_keeps | with_reducible apply State.spadAccess_memOk
    | (with_reducible refine memOk_of_eq (State.setS_mem ..) ?_) | (with_reducible refine memOk_of_eq (State.retire_mem ..) ?_)
    | (with_reducible refine memOk_of_eq (State.failPend_mem ..) ?_) | (with_reducible refine memOk_of_eq (State.addPend_mem ..) ?_)
    | dsimp only | split
    | (with_reducible refine memOk_of_eq (State.newId_mem (he := by first | assumption | exact (Prod.eta _).symm | rfl)) ?_)
    | (with_reducible refine State.scan_memOk (he := by first | assumption | exact (Prod.eta _).symm | rfl) ?_) | intro e)
theorem execSts_keeps {g : Guard} {k : StKind} {sd sa : Nat} {imm : BitVec 32} {s : State} (h : s.memOk)
    : Keeps (execSts g k sd sa imm s) := by
  unfold execSts
  repeat' (first
    | with_reducible assumption | with_reducible apply State.guarded_keeps | with_reducible apply State.spadAccess_memOk
    | with_reducible refine State.writeB_memOk ?_ | (with_reducible refine memOk_of_eq (State.retire_mem ..) ?_)
    | (with_reducible refine memOk_of_eq (State.peerStore_mem ..) ?_) | split | intro e)
theorem execLdg_keeps {g : Guard} {k : LdKind} {sd sa : Nat} {imm : BitVec 32} {s : State} (h : s.memOk)
    : Keeps (execLdg g k sd sa imm s) := by
  unfold execLdg
  repeat' (first
    | with_reducible assumption | with_reducible apply State.guarded_keeps | with_reducible apply State.memAccess_memOk
    | (with_reducible refine memOk_of_eq (State.retire_mem ..) ?_) | (with_reducible refine memOk_of_eq (State.setS_mem ..) ?_)
    | (with_reducible refine memOk_of_eq (State.modCur_mem ..) ?_) | (with_reducible refine memOk_of_eq (State.addPend_mem ..) ?_)
    | (with_reducible refine memOk_of_eq (State.countPiece_mem ..) ?_) | (with_reducible refine memOk_of_eq (State.post_mem ..) ?_)
    | dsimp only | split
    | (with_reducible refine memOk_of_eq (State.newId_mem (he := by first | assumption | exact (Prod.eta _).symm | rfl)) ?_) | intro e)
theorem execStg_keeps {g : Guard} {k : StKind} {sd sa : Nat} {imm : BitVec 32} {s : State} (h : s.memOk)
    : Keeps (execStg g k sd sa imm s) := by
  unfold execStg
  repeat' (first
    | with_reducible assumption | with_reducible apply State.guarded_keeps | with_reducible apply State.memAccess_memOk
    | with_reducible refine State.writeB_memOk ?_ | (with_reducible refine memOk_of_eq (State.retire_mem ..) ?_)
    | (with_reducible refine memOk_of_eq (State.countPiece_mem ..) ?_) | (with_reducible refine memOk_of_eq (State.post_mem ..) ?_)
    | (with_reducible refine memOk_of_eq (State.storeOut_mem ..) ?_) | (with_reducible refine memOk_of_eq (State.addOut_mem ..) ?_) | dsimp only | split
    | (with_reducible refine memOk_of_eq (State.newId_mem (he := by first | assumption | exact (Prod.eta _).symm | rfl)) ?_) | intro e)
theorem execLoadReturn_keeps {s : State} (h : s.memOk) : Keeps (execLoadReturn s) := by
  unfold execLoadReturn
  repeat' (first
    | with_reducible assumption | with_reducible apply Keeps.next | with_reducible apply foldl_memOk_fst
    | (with_reducible refine memOk_of_eq (State.settleWait_mem ..) ?_) | (with_reducible refine memOk_of_eq (State.failAt_mem ..) ?_)
    | (with_reducible refine memOk_of_eq (State.setS_mem ..) ?_) | (with_reducible refine memOk_of_eq (State.dropPend_mem ..) ?_)
    | (with_reducible refine memOk_of_eq (State.fillLoad_mem ..) ?_) | (with_reducible refine memOk_of_eq (State.sendOn_mem ..) ?_) | dsimp only | split
    | (with_reducible refine State.scan_memOk (he := by first | assumption | exact (Prod.eta _).symm | rfl) ?_)
    | (with_reducible refine memOk_of_eq (State.atSync_mem (he := by first | assumption | exact (Prod.eta _).symm | rfl)) ?_) | intro e)
theorem execBr_keeps {g : Guard} {disp : BitVec 32} {s : State} (h : s.memOk) : Keeps (execBr g disp s) := by
  unfold execBr
  repeat' (first
    | with_reducible assumption | with_reducible apply State.guarded_keeps | (with_reducible refine memOk_of_eq (State.jump_mem ..) ?_)
    | intro e)
theorem execBz_keeps {g : Guard} {sa : Nat} {disp : BitVec 32} {s : State} (h : s.memOk) : Keeps (execBz g sa disp s) := by
  unfold execBz
  repeat' (first
    | with_reducible assumption | with_reducible apply State.guarded_keeps | (with_reducible refine memOk_of_eq (State.jump_mem ..) ?_)
    | (with_reducible refine memOk_of_eq (State.retire_mem ..) ?_) | split | intro e)
theorem execBnz_keeps {g : Guard} {sa : Nat} {disp : BitVec 32} {s : State} (h : s.memOk) : Keeps (execBnz g sa disp s) := by
  unfold execBnz
  repeat' (first
    | with_reducible assumption | with_reducible apply State.guarded_keeps | (with_reducible refine memOk_of_eq (State.jump_mem ..) ?_)
    | (with_reducible refine memOk_of_eq (State.retire_mem ..) ?_) | split | intro e)
theorem execBrmz_keeps {g : Guard} {disp : BitVec 32} {s : State} (h : s.memOk) : Keeps (execBrmz g disp s) := by
  unfold execBrmz
  repeat' (first
    | with_reducible assumption | with_reducible apply State.guarded_keeps | (with_reducible refine memOk_of_eq (State.jump_mem ..) ?_)
    | (with_reducible refine memOk_of_eq (State.retire_mem ..) ?_) | split | intro e)
theorem execCall_keeps {g : Guard} {disp : BitVec 32} {s : State} (h : s.memOk) : Keeps (execCall g disp s) := by
  unfold execCall
  repeat' (first
    | with_reducible assumption | with_reducible apply State.guarded_keeps | with_reducible refine State.call_memOk ?_ | intro e)
theorem execCallr_keeps {g : Guard} {sa : Nat} {s : State} (h : s.memOk) : Keeps (execCallr g sa s) := by
  unfold execCallr
  repeat' (first
    | with_reducible assumption | with_reducible apply State.guarded_keeps | with_reducible refine State.call_memOk ?_
    | (with_reducible refine memOk_of_eq (State.raiseFree_mem ..) ?_) | split | intro e)
theorem execRet_keeps {g : Guard} {s : State} (h : s.memOk) : Keeps (execRet g s) := by
  unfold execRet
  repeat' (first
    | with_reducible assumption | with_reducible apply State.guarded_keeps | (with_reducible refine memOk_of_eq (State.retTo_mem ..) ?_)
    | (with_reducible refine memOk_of_eq (State.modCtx_mem ..) ?_) | (with_reducible refine memOk_of_eq (State.raiseFree_mem ..) ?_)
    | (with_reducible refine memOk_of_eq (State.raise_mem ..) ?_) | (with_reducible refine memOk_of_eq (State.setS_mem ..) ?_)
    | dsimp only | split | (with_reducible refine State.scan_memOk (he := by first | assumption | exact (Prod.eta _).symm | rfl) ?_)
    | intro e)
theorem execJr_keeps {g : Guard} {sa : Nat} {s : State} (h : s.memOk) : Keeps (execJr g sa s) := by
  unfold execJr
  repeat' (first
    | with_reducible assumption | with_reducible apply State.guarded_keeps
    | (with_reducible refine memOk_of_eq (State.raiseFree_mem ..) ?_) | (with_reducible refine memOk_of_eq (State.jump_mem ..) ?_) | split
    | intro e)
theorem execLoop_keeps {g : Guard} {sa : Nat} {disp : BitVec 32} {s : State} (h : s.memOk) : Keeps (execLoop g sa disp s) := by
  unfold execLoop
  repeat' (first
    | with_reducible assumption | with_reducible apply State.guarded_keeps
    | (with_reducible refine memOk_of_eq (State.openLoop_mem ..) ?_) | (with_reducible refine memOk_of_eq (State.illegal_mem ..) ?_)
    | split | intro e)
theorem execLoopq_keeps {g : Guard} {disp : BitVec 32} {s : State} (h : s.memOk) : Keeps (execLoopq g disp s) := by
  unfold execLoopq
  repeat' (first
    | with_reducible assumption | with_reducible apply State.guarded_keeps | (with_reducible refine memOk_of_eq (State.illegal_mem ..) ?_)
    | (with_reducible refine memOk_of_eq (State.openLoop_mem ..) ?_) | (with_reducible refine memOk_of_eq (State.modCur_mem ..) ?_)
    | (with_reducible refine memOk_of_eq (State.raiseFree_mem ..) ?_)
    | (with_reducible refine memOk_of_eq (State.raise_mem ..) ?_) | with_reducible refine State.logPoison_memOk ?_ | split | intro e)
theorem execExit_keeps {g : Guard} {s : State} (h : s.memOk) : Keeps (execExit g s) := by
  unfold execExit
  repeat' (first
    | with_reducible assumption | with_reducible apply State.guarded_keeps
    | (with_reducible refine memOk_of_eq (State.startWait_mem ..) ?_) | intro e)
theorem execStrandEnd_keeps {s : State} (h : s.memOk) : Keeps (execStrandEnd s) := by
  unfold execStrandEnd
  repeat' (first
    | with_reducible assumption | with_reducible apply Keeps.next | (with_reducible refine memOk_of_eq (State.settleWait_mem ..) ?_)
    | split)
theorem execLi_keeps {g : Guard} {sd : Nat} {imm : W64} {s : State} (h : s.memOk) : Keeps (execLi g sd imm s) := by
  unfold execLi
  repeat' (first
    | with_reducible assumption | with_reducible apply State.guardedN_keeps
    | (with_reducible refine memOk_of_eq (State.retireN_mem ..) ?_) | (with_reducible refine memOk_of_eq (State.setS_mem ..) ?_) | intro e)
theorem execAddx_keeps {g : Guard} {sd sa : Nat} {imm : W64} {s : State} (h : s.memOk) : Keeps (execAddx g sd sa imm s) := by
  unfold execAddx
  repeat' (first
    | with_reducible assumption | with_reducible apply State.guardedN_keeps
    | (with_reducible refine memOk_of_eq (State.retireN_mem ..) ?_) | (with_reducible refine memOk_of_eq (State.setS_mem ..) ?_) | intro e)
theorem execAndx_keeps {g : Guard} {sd sa : Nat} {imm : W64} {s : State} (h : s.memOk) : Keeps (execAndx g sd sa imm s) := by
  unfold execAndx
  repeat' (first
    | with_reducible assumption | with_reducible apply State.guardedN_keeps
    | (with_reducible refine memOk_of_eq (State.retireN_mem ..) ?_) | (with_reducible refine memOk_of_eq (State.setS_mem ..) ?_) | intro e)
theorem execOrx_keeps {g : Guard} {sd sa : Nat} {imm : W64} {s : State} (h : s.memOk) : Keeps (execOrx g sd sa imm s) := by
  unfold execOrx
  repeat' (first
    | with_reducible assumption | with_reducible apply State.guardedN_keeps
    | (with_reducible refine memOk_of_eq (State.retireN_mem ..) ?_) | (with_reducible refine memOk_of_eq (State.setS_mem ..) ?_) | intro e)
theorem execCsrr_keeps {g : Guard} {sd csr : Nat} {s : State} (h : s.memOk) : Keeps (execCsrr g sd csr s) := by
  unfold execCsrr
  repeat' (first
    | with_reducible assumption | with_reducible apply State.guarded_keeps | (with_reducible refine memOk_of_eq (State.retire_mem ..) ?_)
    | (with_reducible refine memOk_of_eq (State.setS_mem ..) ?_) | intro e)
theorem execCsrw_keeps {g : Guard} {sa csr : Nat} {s : State} (h : s.memOk) : Keeps (execCsrw g sa csr s) := by
  unfold execCsrw
  repeat' (first
    | with_reducible assumption | with_reducible apply State.guarded_keeps | (with_reducible refine memOk_of_eq (State.retire_mem ..) ?_)
    | (with_reducible refine memOk_of_eq (State.modCtx_mem ..) ?_) | intro e)
theorem execCsrs_keeps {g : Guard} {sa csr : Nat} {s : State} (h : s.memOk) : Keeps (execCsrs g sa csr s) := by
  unfold execCsrs
  repeat' (first
    | with_reducible assumption | with_reducible apply State.guarded_keeps | (with_reducible refine memOk_of_eq (State.retire_mem ..) ?_)
    | (with_reducible refine memOk_of_eq (State.modCtx_mem ..) ?_) | intro e)
theorem execCsrc_keeps {g : Guard} {sa csr : Nat} {s : State} (h : s.memOk) : Keeps (execCsrc g sa csr s) := by
  unfold execCsrc
  repeat' (first
    | with_reducible assumption | with_reducible apply State.guarded_keeps | (with_reducible refine memOk_of_eq (State.retire_mem ..) ?_)
    | (with_reducible refine memOk_of_eq (State.modCtx_mem ..) ?_) | intro e)
theorem execTrap_keeps {g : Guard} {imm : BitVec 16} {s : State} (h : s.memOk) : Keeps (execTrap g imm s) := by
  unfold execTrap
  repeat' (first
    | with_reducible assumption | with_reducible apply State.guarded_keeps | (with_reducible refine memOk_of_eq (State.raiseAt_mem ..) ?_)
    | (with_reducible refine memOk_of_eq (State.retire_mem ..) ?_) | intro e)
theorem execBrk_keeps {g : Guard} {imm : BitVec 16} {s : State} (h : s.memOk) : Keeps (execBrk g imm s) := by
  unfold execBrk
  repeat' (first
    | with_reducible assumption | with_reducible apply State.guarded_keeps | (with_reducible refine memOk_of_eq (State.raiseAt_mem ..) ?_)
    | (with_reducible refine memOk_of_eq (State.retire_mem ..) ?_) | intro e)
theorem execIcinv_keeps {g : Guard} {s : State} (h : s.memOk) : Keeps (execIcinv g s) := by
  unfold execIcinv
  repeat' (first
    | with_reducible assumption | with_reducible apply State.guarded_keeps
    | (with_reducible refine memOk_of_eq (State.startWait_mem ..) ?_) | intro e)
theorem execFmtpush_keeps {g : Guard} {sa : Nat} {s : State} (h : s.memOk) : Keeps (execFmtpush g sa s) := by
  unfold execFmtpush
  repeat' (first
    | with_reducible assumption | with_reducible apply State.guarded_keeps | (with_reducible refine memOk_of_eq (State.illegal_mem ..) ?_)
    | (with_reducible refine memOk_of_eq (State.raiseFree_mem ..) ?_) | (with_reducible refine memOk_of_eq (State.retire_mem ..) ?_)
    | (with_reducible refine memOk_of_eq (State.modCur_mem ..) ?_) | dsimp only | split | intro e)
theorem execPair_keeps {g : Guard} {sop : SOp} {sd sa sb : Nat} {vop : VOp} {vd va vb : Nat} {s : State} (h : s.memOk)
    : Keeps (execPair g sop sd sa sb vop vd va vb s) := by
  unfold execPair
  repeat' (first
    | with_reducible assumption | with_reducible apply State.guarded_keeps | (with_reducible refine memOk_of_eq (State.pairV_mem ..) ?_)
    | (with_reducible refine memOk_of_eq (State.retire_mem ..) ?_) | (with_reducible refine memOk_of_eq (State.setS_mem ..) ?_) | split
    | intro e)
theorem execVadd_keeps {g : Guard} {vd va vb : Nat} {ty : VType} {rnd : Rnd} {sat : Bool} {s : State} (h : s.memOk)
    : Keeps (execVadd g vd va vb ty rnd sat s) := by
  unfold execVadd
  repeat' (first
    | with_reducible assumption | with_reducible apply State.guarded_keeps | (with_reducible refine memOk_of_eq (State.retire_mem ..) ?_)
    | (with_reducible refine memOk_of_eq (State.vMap2_mem ..) ?_) | intro e)
theorem execVsub_keeps {g : Guard} {vd va vb : Nat} {ty : VType} {rnd : Rnd} {sat : Bool} {s : State} (h : s.memOk)
    : Keeps (execVsub g vd va vb ty rnd sat s) := by
  unfold execVsub
  repeat' (first
    | with_reducible assumption | with_reducible apply State.guarded_keeps | (with_reducible refine memOk_of_eq (State.retire_mem ..) ?_)
    | (with_reducible refine memOk_of_eq (State.vMap2_mem ..) ?_) | intro e)
theorem execVmul_keeps {g : Guard} {vd va vb : Nat} {ty : VType} {rnd : Rnd} {sat : Bool} {s : State} (h : s.memOk)
    : Keeps (execVmul g vd va vb ty rnd sat s) := by
  unfold execVmul
  repeat' (first
    | with_reducible assumption | with_reducible apply State.guarded_keeps | (with_reducible refine memOk_of_eq (State.retire_mem ..) ?_)
    | (with_reducible refine memOk_of_eq (State.vMap2_mem ..) ?_) | intro e)
theorem execVfma_keeps {g : Guard} {vd va vb vc : Nat} {ty : VType} {rnd : Rnd} {sat : Bool} {s : State} (h : s.memOk)
    : Keeps (execVfma g vd va vb vc ty rnd sat s) := by
  unfold execVfma
  repeat' (first
    | with_reducible assumption | with_reducible apply State.guarded_keeps | (with_reducible refine memOk_of_eq (State.retire_mem ..) ?_)
    | (with_reducible refine memOk_of_eq (State.vMap3_mem ..) ?_) | intro e)
theorem execVmin_keeps {g : Guard} {vd va vb : Nat} {ty : VType} {s : State} (h : s.memOk) : Keeps (execVmin g vd va vb ty s) := by
  unfold execVmin
  repeat' (first
    | with_reducible assumption | with_reducible apply State.guarded_keeps | (with_reducible refine memOk_of_eq (State.retire_mem ..) ?_)
    | (with_reducible refine memOk_of_eq (State.vMap2_mem ..) ?_) | intro e)
theorem execVmax_keeps {g : Guard} {vd va vb : Nat} {ty : VType} {s : State} (h : s.memOk) : Keeps (execVmax g vd va vb ty s) := by
  unfold execVmax
  repeat' (first
    | with_reducible assumption | with_reducible apply State.guarded_keeps | (with_reducible refine memOk_of_eq (State.retire_mem ..) ?_)
    | (with_reducible refine memOk_of_eq (State.vMap2_mem ..) ?_) | intro e)
theorem execVabs_keeps {g : Guard} {vd va : Nat} {ty : VType} {sat : Bool} {s : State} (h : s.memOk)
    : Keeps (execVabs g vd va ty sat s) := by
  unfold execVabs
  repeat' (first
    | with_reducible assumption | with_reducible apply State.guarded_keeps | (with_reducible refine memOk_of_eq (State.retire_mem ..) ?_)
    | (with_reducible refine memOk_of_eq (State.vMap1_mem ..) ?_) | intro e)
theorem execVneg_keeps {g : Guard} {vd va : Nat} {ty : VType} {sat : Bool} {s : State} (h : s.memOk)
    : Keeps (execVneg g vd va ty sat s) := by
  unfold execVneg
  repeat' (first
    | with_reducible assumption | with_reducible apply State.guarded_keeps | (with_reducible refine memOk_of_eq (State.retire_mem ..) ?_)
    | (with_reducible refine memOk_of_eq (State.vMap1_mem ..) ?_) | intro e)
theorem execVand_keeps {g : Guard} {vd va vb : Nat} {s : State} (h : s.memOk) : Keeps (execVand g vd va vb s) := by
  unfold execVand
  repeat' (first
    | with_reducible assumption | with_reducible apply State.guarded_keeps | (with_reducible refine memOk_of_eq (State.retire_mem ..) ?_)
    | (with_reducible refine memOk_of_eq (State.setV_mem ..) ?_) | intro e)
theorem execVor_keeps {g : Guard} {vd va vb : Nat} {s : State} (h : s.memOk) : Keeps (execVor g vd va vb s) := by
  unfold execVor
  repeat' (first
    | with_reducible assumption | with_reducible apply State.guarded_keeps | (with_reducible refine memOk_of_eq (State.retire_mem ..) ?_)
    | (with_reducible refine memOk_of_eq (State.setV_mem ..) ?_) | intro e)
theorem execVxor_keeps {g : Guard} {vd va vb : Nat} {s : State} (h : s.memOk) : Keeps (execVxor g vd va vb s) := by
  unfold execVxor
  repeat' (first
    | with_reducible assumption | with_reducible apply State.guarded_keeps | (with_reducible refine memOk_of_eq (State.retire_mem ..) ?_)
    | (with_reducible refine memOk_of_eq (State.setV_mem ..) ?_) | intro e)
theorem execVnot_keeps {g : Guard} {vd va : Nat} {s : State} (h : s.memOk) : Keeps (execVnot g vd va s) := by
  unfold execVnot
  repeat' (first
    | with_reducible assumption | with_reducible apply State.guarded_keeps | (with_reducible refine memOk_of_eq (State.retire_mem ..) ?_)
    | (with_reducible refine memOk_of_eq (State.setV_mem ..) ?_) | intro e)
theorem execVshl_keeps {g : Guard} {vd va vb : Nat} {ty : VType} {s : State} (h : s.memOk) : Keeps (execVshl g vd va vb ty s) := by
  unfold execVshl
  repeat' (first
    | with_reducible assumption | with_reducible apply State.guarded_keeps | (with_reducible refine memOk_of_eq (State.retire_mem ..) ?_)
    | (with_reducible refine memOk_of_eq (State.vMap2_mem ..) ?_) | intro e)
theorem execVshr_keeps {g : Guard} {vd va vb : Nat} {ty : VType} {s : State} (h : s.memOk) : Keeps (execVshr g vd va vb ty s) := by
  unfold execVshr
  repeat' (first
    | with_reducible assumption | with_reducible apply State.guarded_keeps | (with_reducible refine memOk_of_eq (State.retire_mem ..) ?_)
    | (with_reducible refine memOk_of_eq (State.vMap2_mem ..) ?_) | intro e)
theorem execVsar_keeps {g : Guard} {vd va vb : Nat} {ty : VType} {s : State} (h : s.memOk) : Keeps (execVsar g vd va vb ty s) := by
  unfold execVsar
  repeat' (first
    | with_reducible assumption | with_reducible apply State.guarded_keeps | (with_reducible refine memOk_of_eq (State.retire_mem ..) ?_)
    | (with_reducible refine memOk_of_eq (State.vMap2_mem ..) ?_) | intro e)
theorem execVcmp_keeps {g : Guard} {c : Cond} {vd va vb : Nat} {ty : VType} {s : State} (h : s.memOk)
    : Keeps (execVcmp g c vd va vb ty s) := by
  unfold execVcmp
  repeat' (first
    | with_reducible assumption | with_reducible apply State.guarded_keeps | (with_reducible refine memOk_of_eq (State.retire_mem ..) ?_)
    | (with_reducible refine memOk_of_eq (State.vMap2_mem ..) ?_) | intro e)
theorem execVsel_keeps {g : Guard} {vd va vb vc : Nat} {ty : VType} {s : State} (h : s.memOk) : Keeps (execVsel g vd va vb vc ty s) := by
  unfold execVsel
  repeat' (first
    | with_reducible assumption | with_reducible apply State.guarded_keeps | (with_reducible refine memOk_of_eq (State.retire_mem ..) ?_)
    | (with_reducible refine memOk_of_eq (State.vMap3_mem ..) ?_) | intro e)
theorem execVmov_keeps {g : Guard} {vd va : Nat} {s : State} (h : s.memOk) : Keeps (execVmov g vd va s) := by
  unfold execVmov
  repeat' (first
    | with_reducible assumption | with_reducible apply State.guarded_keeps | (with_reducible refine memOk_of_eq (State.retire_mem ..) ?_)
    | (with_reducible refine memOk_of_eq (State.setV_mem ..) ?_) | intro e)
theorem execVcvt_keeps {g : Guard} {vd va : Nat} {dst src : VType} {rnd : Rnd} {sat : Bool} {s : State} (h : s.memOk)
    : Keeps (execVcvt g vd va dst src rnd sat s) := by
  unfold execVcvt
  repeat' (first
    | with_reducible assumption | with_reducible apply State.guarded_keeps | (with_reducible refine memOk_of_eq (State.setV_mem ..) ?_)
    | (with_reducible refine memOk_of_eq (State.retire_mem ..) ?_) | (with_reducible refine memOk_of_eq (State.modCtx_mem ..) ?_) | split
    | intro e)
theorem execVexp2_keeps {g : Guard} {vd va : Nat} {s : State} (h : s.memOk) : Keeps (execVexp2 g vd va s) := by
  unfold execVexp2
  repeat' (first
    | with_reducible assumption | with_reducible apply State.guarded_keeps | (with_reducible refine memOk_of_eq (State.retire_mem ..) ?_)
    | (with_reducible refine memOk_of_eq (State.vMap1_mem ..) ?_) | intro e)
theorem execVlog2_keeps {g : Guard} {vd va : Nat} {s : State} (h : s.memOk) : Keeps (execVlog2 g vd va s) := by
  unfold execVlog2
  repeat' (first
    | with_reducible assumption | with_reducible apply State.guarded_keeps | (with_reducible refine memOk_of_eq (State.retire_mem ..) ?_)
    | (with_reducible refine memOk_of_eq (State.vMap1_mem ..) ?_) | intro e)
theorem execVrcp_keeps {g : Guard} {vd va : Nat} {ty : VType} {rnd : Rnd} {s : State} (h : s.memOk)
    : Keeps (execVrcp g vd va ty rnd s) := by
  unfold execVrcp
  repeat' (first
    | with_reducible assumption | with_reducible apply State.guarded_keeps | (with_reducible refine memOk_of_eq (State.retire_mem ..) ?_)
    | (with_reducible refine memOk_of_eq (State.vMap1_mem ..) ?_) | intro e)
theorem execVrsq_keeps {g : Guard} {vd va : Nat} {ty : VType} {rnd : Rnd} {s : State} (h : s.memOk)
    : Keeps (execVrsq g vd va ty rnd s) := by
  unfold execVrsq
  repeat' (first
    | with_reducible assumption | with_reducible apply State.guarded_keeps | (with_reducible refine memOk_of_eq (State.retire_mem ..) ?_)
    | (with_reducible refine memOk_of_eq (State.vMap1_mem ..) ?_) | intro e)
theorem execVredadd_keeps {g : Guard} {vd va : Nat} {ty : VType} {rnd : Rnd} {sat : Bool} {s : State} (h : s.memOk)
    : Keeps (execVredadd g vd va ty rnd sat s) := by
  unfold execVredadd
  repeat' (first
    | with_reducible assumption | with_reducible apply State.guarded_keeps | (with_reducible refine memOk_of_eq (State.retire_mem ..) ?_)
    | (with_reducible refine memOk_of_eq (State.vReduce_mem ..) ?_) | intro e)
theorem execVredmax_keeps {g : Guard} {vd va : Nat} {ty : VType} {s : State} (h : s.memOk) : Keeps (execVredmax g vd va ty s) := by
  unfold execVredmax
  repeat' (first
    | with_reducible assumption | with_reducible apply State.guarded_keeps | (with_reducible refine memOk_of_eq (State.retire_mem ..) ?_)
    | (with_reducible refine memOk_of_eq (State.vReduce_mem ..) ?_) | intro e)
theorem execVredmin_keeps {g : Guard} {vd va : Nat} {ty : VType} {s : State} (h : s.memOk) : Keeps (execVredmin g vd va ty s) := by
  unfold execVredmin
  repeat' (first
    | with_reducible assumption | with_reducible apply State.guarded_keeps | (with_reducible refine memOk_of_eq (State.retire_mem ..) ?_)
    | (with_reducible refine memOk_of_eq (State.vReduce_mem ..) ?_) | intro e)
theorem execVlse2_keeps {g : Guard} {vd va : Nat} {s : State} (h : s.memOk) : Keeps (execVlse2 g vd va s) := by
  unfold execVlse2
  repeat' (first
    | with_reducible assumption | with_reducible apply State.guarded_keeps | (with_reducible refine memOk_of_eq (State.retire_mem ..) ?_)
    | (with_reducible refine memOk_of_eq (State.vReduce_mem ..) ?_) | intro e)
theorem execVscan_keeps {g : Guard} {vd va : Nat} {ty : VType} {sat : Bool} {s : State} (h : s.memOk)
    : Keeps (execVscan g vd va ty sat s) := by
  unfold execVscan
  repeat' (first
    | with_reducible assumption | with_reducible apply State.guarded_keeps | (with_reducible refine memOk_of_eq (State.retire_mem ..) ?_)
    | (with_reducible refine memOk_of_eq (State.setV_mem ..) ?_) | intro e)
theorem execVhist_keeps {g : Guard} {vd va : Nat} {ty : VType} {s : State} (h : s.memOk) : Keeps (execVhist g vd va ty s) := by
  unfold execVhist
  repeat' (first
    | with_reducible assumption | with_reducible apply State.guarded_keeps | (with_reducible refine memOk_of_eq (State.retire_mem ..) ?_)
    | (with_reducible refine memOk_of_eq (State.setV_mem ..) ?_) | intro e)
theorem execVperm_keeps {g : Guard} {vd va vb : Nat} {ty : VType} {s : State} (h : s.memOk) : Keeps (execVperm g vd va vb ty s) := by
  unfold execVperm
  repeat' (first
    | with_reducible assumption | with_reducible apply State.guarded_keeps | (with_reducible refine memOk_of_eq (State.retire_mem ..) ?_)
    | (with_reducible refine memOk_of_eq (State.setV_mem ..) ?_) | intro e)
theorem execViota_keeps {g : Guard} {vd : Nat} {ty : VType} {s : State} (h : s.memOk) : Keeps (execViota g vd ty s) := by
  unfold execViota
  repeat' (first
    | with_reducible assumption | with_reducible apply State.guarded_keeps | (with_reducible refine memOk_of_eq (State.retire_mem ..) ?_)
    | (with_reducible refine memOk_of_eq (State.setV_mem ..) ?_) | intro e)
theorem execVamax_keeps {g : Guard} {vd va : Nat} {ty : VType} {s : State} (h : s.memOk) : Keeps (execVamax g vd va ty s) := by
  unfold execVamax
  repeat' (first
    | with_reducible assumption | with_reducible apply State.guarded_keeps | (with_reducible refine memOk_of_eq (State.retire_mem ..) ?_)
    | (with_reducible refine memOk_of_eq (State.vReduce_mem ..) ?_) | intro e)
theorem execVscale_keeps {g : Guard} {vd va : Nat} {ty : VType} {rnd : Rnd} {s : State} (h : s.memOk)
    : Keeps (execVscale g vd va ty rnd s) := by
  unfold execVscale
  repeat' (first
    | with_reducible assumption | with_reducible apply State.guarded_keeps | (with_reducible refine memOk_of_eq (State.retire_mem ..) ?_)
    | (with_reducible refine memOk_of_eq (State.vMap1_mem ..) ?_) | intro e)
theorem execVbexp_keeps {g : Guard} {vd va : Nat} {s : State} (h : s.memOk) : Keeps (execVbexp g vd va s) := by
  unfold execVbexp
  repeat' (first
    | with_reducible assumption | with_reducible apply State.guarded_keeps | (with_reducible refine memOk_of_eq (State.retire_mem ..) ?_)
    | (with_reducible refine memOk_of_eq (State.vReduce_mem ..) ?_) | intro e)
theorem execVtobi_keeps {g : Guard} {vd va vb : Nat} {s : State} (h : s.memOk) : Keeps (execVtobi g vd va vb s) := by
  unfold execVtobi
  repeat' (first
    | with_reducible assumption | with_reducible apply State.guarded_keeps | (with_reducible refine memOk_of_eq (State.retire_mem ..) ?_)
    | (with_reducible refine memOk_of_eq (State.vMap2_mem ..) ?_) | intro e)
theorem execVfrombi_keeps {g : Guard} {vd va vb : Nat} {rnd : Rnd} {sat : Bool} {s : State} (h : s.memOk)
    : Keeps (execVfrombi g vd va vb rnd sat s) := by
  unfold execVfrombi
  repeat' (first
    | with_reducible assumption | with_reducible apply State.guarded_keeps | (with_reducible refine memOk_of_eq (State.retire_mem ..) ?_)
    | (with_reducible refine memOk_of_eq (State.vMap2_mem ..) ?_) | intro e)
theorem execMpush_keeps {g : Guard} {va : Nat} {s : State} (h : s.memOk) : Keeps (execMpush g va s) := by
  unfold execMpush
  repeat' (first
    | with_reducible assumption | with_reducible apply State.guarded_keeps
    | (with_reducible refine memOk_of_eq (State.raiseFree_mem ..) ?_) | (with_reducible refine memOk_of_eq (State.retire_mem ..) ?_)
    | (with_reducible refine memOk_of_eq (State.modCtx_mem ..) ?_) | split | intro e)
theorem execMinv_keeps {g : Guard} {s : State} (h : s.memOk) : Keeps (execMinv g s) := by
  unfold execMinv
  repeat' (first
    | with_reducible assumption | with_reducible apply State.guarded_keeps
    | (with_reducible refine memOk_of_eq (State.raiseFree_mem ..) ?_) | (with_reducible refine memOk_of_eq (State.retire_mem ..) ?_)
    | (with_reducible refine memOk_of_eq (State.modCtx_mem ..) ?_) | split | intro e)
theorem execMpop_keeps {g : Guard} {s : State} (h : s.memOk) : Keeps (execMpop g s) := by
  unfold execMpop
  repeat' (first
    | with_reducible assumption | with_reducible apply State.guarded_keeps
    | (with_reducible refine memOk_of_eq (State.raiseFree_mem ..) ?_) | (with_reducible refine memOk_of_eq (State.retire_mem ..) ?_)
    | (with_reducible refine memOk_of_eq (State.modCtx_mem ..) ?_) | split | intro e)
theorem execVaddScalar_keeps {g : Guard} {vd va : Nat} {b : SOperand} {ty : VType} {rnd : Rnd} {sat : Bool} {s : State} (h : s.memOk)
    : Keeps (execVaddScalar g vd va b ty rnd sat s) := by
  unfold execVaddScalar
  repeat' (first
    | with_reducible assumption | with_reducible apply State.guarded_keeps | (with_reducible refine memOk_of_eq (State.retire_mem ..) ?_)
    | (with_reducible refine memOk_of_eq (State.vMapS_mem ..) ?_) | intro e)
theorem execVsubScalar_keeps {g : Guard} {vd va : Nat} {b : SOperand} {ty : VType} {rnd : Rnd} {sat : Bool} {s : State} (h : s.memOk)
    : Keeps (execVsubScalar g vd va b ty rnd sat s) := by
  unfold execVsubScalar
  repeat' (first
    | with_reducible assumption | with_reducible apply State.guarded_keeps | (with_reducible refine memOk_of_eq (State.retire_mem ..) ?_)
    | (with_reducible refine memOk_of_eq (State.vMapS_mem ..) ?_) | intro e)
theorem execVmulScalar_keeps {g : Guard} {vd va : Nat} {b : SOperand} {ty : VType} {rnd : Rnd} {sat : Bool} {s : State} (h : s.memOk)
    : Keeps (execVmulScalar g vd va b ty rnd sat s) := by
  unfold execVmulScalar
  repeat' (first
    | with_reducible assumption | with_reducible apply State.guarded_keeps | (with_reducible refine memOk_of_eq (State.retire_mem ..) ?_)
    | (with_reducible refine memOk_of_eq (State.vMapS_mem ..) ?_) | intro e)
theorem execVminScalar_keeps {g : Guard} {vd va : Nat} {b : SOperand} {ty : VType} {s : State} (h : s.memOk)
    : Keeps (execVminScalar g vd va b ty s) := by
  unfold execVminScalar
  repeat' (first
    | with_reducible assumption | with_reducible apply State.guarded_keeps | (with_reducible refine memOk_of_eq (State.retire_mem ..) ?_)
    | (with_reducible refine memOk_of_eq (State.vMapS_mem ..) ?_) | intro e)
theorem execVmaxScalar_keeps {g : Guard} {vd va : Nat} {b : SOperand} {ty : VType} {s : State} (h : s.memOk)
    : Keeps (execVmaxScalar g vd va b ty s) := by
  unfold execVmaxScalar
  repeat' (first
    | with_reducible assumption | with_reducible apply State.guarded_keeps | (with_reducible refine memOk_of_eq (State.retire_mem ..) ?_)
    | (with_reducible refine memOk_of_eq (State.vMapS_mem ..) ?_) | intro e)
theorem execVandScalar_keeps {g : Guard} {vd va : Nat} {b : SOperand} {ty : VType} {s : State} (h : s.memOk)
    : Keeps (execVandScalar g vd va b ty s) := by
  unfold execVandScalar
  repeat' (first
    | with_reducible assumption | with_reducible apply State.guarded_keeps | (with_reducible refine memOk_of_eq (State.retire_mem ..) ?_)
    | (with_reducible refine memOk_of_eq (State.vMapS_mem ..) ?_) | intro e)
theorem execVorScalar_keeps {g : Guard} {vd va : Nat} {b : SOperand} {ty : VType} {s : State} (h : s.memOk)
    : Keeps (execVorScalar g vd va b ty s) := by
  unfold execVorScalar
  repeat' (first
    | with_reducible assumption | with_reducible apply State.guarded_keeps | (with_reducible refine memOk_of_eq (State.retire_mem ..) ?_)
    | (with_reducible refine memOk_of_eq (State.vMapS_mem ..) ?_) | intro e)
theorem execVxorScalar_keeps {g : Guard} {vd va : Nat} {b : SOperand} {ty : VType} {s : State} (h : s.memOk)
    : Keeps (execVxorScalar g vd va b ty s) := by
  unfold execVxorScalar
  repeat' (first
    | with_reducible assumption | with_reducible apply State.guarded_keeps | (with_reducible refine memOk_of_eq (State.retire_mem ..) ?_)
    | (with_reducible refine memOk_of_eq (State.vMapS_mem ..) ?_) | intro e)
theorem execVshlScalar_keeps {g : Guard} {vd va : Nat} {b : SOperand} {ty : VType} {s : State} (h : s.memOk)
    : Keeps (execVshlScalar g vd va b ty s) := by
  unfold execVshlScalar
  repeat' (first
    | with_reducible assumption | with_reducible apply State.guarded_keeps | (with_reducible refine memOk_of_eq (State.retire_mem ..) ?_)
    | (with_reducible refine memOk_of_eq (State.vMapS_mem ..) ?_) | intro e)
theorem execVshrScalar_keeps {g : Guard} {vd va : Nat} {b : SOperand} {ty : VType} {s : State} (h : s.memOk)
    : Keeps (execVshrScalar g vd va b ty s) := by
  unfold execVshrScalar
  repeat' (first
    | with_reducible assumption | with_reducible apply State.guarded_keeps | (with_reducible refine memOk_of_eq (State.retire_mem ..) ?_)
    | (with_reducible refine memOk_of_eq (State.vMapS_mem ..) ?_) | intro e)
theorem execVsarScalar_keeps {g : Guard} {vd va : Nat} {b : SOperand} {ty : VType} {s : State} (h : s.memOk)
    : Keeps (execVsarScalar g vd va b ty s) := by
  unfold execVsarScalar
  repeat' (first
    | with_reducible assumption | with_reducible apply State.guarded_keeps | (with_reducible refine memOk_of_eq (State.retire_mem ..) ?_)
    | (with_reducible refine memOk_of_eq (State.vMapS_mem ..) ?_) | intro e)
theorem execVcmpScalar_keeps {g : Guard} {c : Cond} {vd va : Nat} {b : SOperand} {ty : VType} {s : State} (h : s.memOk)
    : Keeps (execVcmpScalar g c vd va b ty s) := by
  unfold execVcmpScalar
  repeat' (first
    | with_reducible assumption | with_reducible apply State.guarded_keeps | (with_reducible refine memOk_of_eq (State.retire_mem ..) ?_)
    | (with_reducible refine memOk_of_eq (State.vMapS_mem ..) ?_) | intro e)
theorem execVbcast_keeps {g : Guard} {vd : Nat} {b : SOperand} {ty : VType} {s : State} (h : s.memOk) : Keeps (execVbcast g vd b ty s) := by
  unfold execVbcast
  repeat' (first
    | with_reducible assumption | with_reducible apply State.guarded_keeps | (with_reducible refine memOk_of_eq (State.retire_mem ..) ?_)
    | (with_reducible refine memOk_of_eq (State.setV_mem ..) ?_) | intro e)
theorem execVld_keeps {g : Guard} {vd sb : Nat} {imm : BitVec 12} {s : State} (h : s.memOk) : Keeps (execVld g vd sb imm s) := by
  unfold execVld
  repeat' (first
    | with_reducible assumption | with_reducible apply State.guarded_keeps | with_reducible apply State.spadAccess_memOk
    | with_reducible refine State.loadRuns_memOk ?_ | (with_reducible refine memOk_of_eq (State.setV_mem ..) ?_)
    | (with_reducible refine memOk_of_eq (State.retire_mem ..) ?_) | intro e)
theorem execVst_keeps {g : Guard} {vd sb : Nat} {imm : BitVec 12} {s : State} (h : s.memOk) : Keeps (execVst g vd sb imm s) := by
  unfold execVst
  repeat' (first
    | with_reducible assumption | with_reducible apply State.guarded_keeps | with_reducible apply State.spadAccess_memOk
    | with_reducible refine State.storeRuns_memOk ?_ | (with_reducible refine memOk_of_eq (State.retire_mem ..) ?_) | intro e)
theorem execVldx_keeps {g : Guard} {vd va sb : Nat} {imm : BitVec 12} {s : State} (h : s.memOk) : Keeps (execVldx g vd va sb imm s) := by
  unfold execVldx
  repeat' (first
    | with_reducible assumption | with_reducible apply State.guarded_keeps | with_reducible apply State.gatherAccess_memOk
    | with_reducible refine State.loadRuns_memOk ?_ | (with_reducible refine memOk_of_eq (State.setV_mem ..) ?_)
    | (with_reducible refine memOk_of_eq (State.retire_mem ..) ?_) | intro e)
theorem execVstx_keeps {g : Guard} {vd va sb : Nat} {imm : BitVec 12} {s : State} (h : s.memOk) : Keeps (execVstx g vd va sb imm s) := by
  unfold execVstx
  repeat' (first
    | with_reducible assumption | with_reducible apply State.guarded_keeps | with_reducible apply State.gatherAccess_memOk
    | with_reducible refine State.storeRuns_memOk ?_ | (with_reducible refine memOk_of_eq (State.retire_mem ..) ?_) | intro e)
theorem execVextr_keeps {g : Guard} {sb va lane : Nat} {ty : VType} {s : State} (h : s.memOk) : Keeps (execVextr g sb va lane ty s) := by
  unfold execVextr
  repeat' (first
    | with_reducible assumption | with_reducible apply State.guarded_keeps | (with_reducible refine memOk_of_eq (State.illegal_mem ..) ?_)
    | (with_reducible refine memOk_of_eq (State.retire_mem ..) ?_) | (with_reducible refine memOk_of_eq (State.setS_mem ..) ?_) | split
    | intro e)
theorem execVins_keeps {g : Guard} {vd sb lane : Nat} {ty : VType} {s : State} (h : s.memOk) : Keeps (execVins g vd sb lane ty s) := by
  unfold execVins
  repeat' (first
    | with_reducible assumption | with_reducible apply State.guarded_keeps | (with_reducible refine memOk_of_eq (State.illegal_mem ..) ?_)
    | (with_reducible refine memOk_of_eq (State.retire_mem ..) ?_) | (with_reducible refine memOk_of_eq (State.setVMask_mem ..) ?_)
    | split | intro e)
theorem execLdw_keeps {g : Guard} {sa : Nat} {bed : Bool} {e : ECtl} {ts : Bool} {s : State} (h : s.memOk)
    : Keeps (execLdw g sa bed e ts s) := by
  unfold execLdw
  repeat' (first | with_reducible assumption | with_reducible apply State.issueM_keeps)
theorem execWswap_keeps {g : Guard} {e : ECtl} {ts : Bool} {s : State} (h : s.memOk) : Keeps (execWswap g e ts s) := by
  unfold execWswap
  repeat' (first | with_reducible assumption | with_reducible apply State.issueM_keeps)
theorem execMm_keeps {g : Guard} {td sa : Nat} {clr : Bool} {e : ECtl} {ts : Bool} {s : State} (h : s.memOk)
    : Keeps (execMm g td sa clr e ts s) := by
  unfold execMm
  repeat' (first | with_reducible assumption | with_reducible apply State.issueM_keeps)
theorem execMgroup_keeps {g : Guard} {td sa sb sc : Nat} {e : ECtl} {ts : Bool} {s : State} (h : s.memOk)
    : Keeps (execMgroup g td sa sb sc e ts s) := by
  unfold execMgroup
  repeat' (first | with_reducible assumption | with_reducible apply State.issueM_keeps)
theorem execAccz_keeps {g : Guard} {td : Nat} {e : ECtl} {ts : Bool} {s : State} (h : s.memOk) : Keeps (execAccz g td e ts s) := by
  unfold execAccz
  repeat' (first | with_reducible assumption | with_reducible apply State.issueM_keeps)
theorem execAccld_keeps {g : Guard} {td sa : Nat} {e : ECtl} {ts : Bool} {s : State} (h : s.memOk) : Keeps (execAccld g td sa e ts s) := by
  unfold execAccld
  repeat' (first | with_reducible assumption | with_reducible apply State.issueM_keeps)
theorem execAccwr_keeps {g : Guard} {td sa sb : Nat} {e : ECtl} {ts : Bool} {s : State} (h : s.memOk)
    : Keeps (execAccwr g td sa sb e ts s) := by
  unfold execAccwr
  repeat' (first | with_reducible assumption | with_reducible apply State.issueM_keeps)
theorem execPlnset_keeps {g : Guard} {td sa : Nat} {e : ECtl} {ts : Bool} {s : State} (h : s.memOk)
    : Keeps (execPlnset g td sa e ts s) := by
  unfold execPlnset
  repeat' (first | with_reducible assumption | with_reducible apply State.issueM_keeps)
theorem execPlnld_keeps {g : Guard} {td sa : Nat} {e : ECtl} {ts : Bool} {s : State} (h : s.memOk) : Keeps (execPlnld g td sa e ts s) := by
  unfold execPlnld
  repeat' (first | with_reducible assumption | with_reducible apply State.issueM_keeps)
theorem execMargset_keeps {g : Guard} {sa sb : Nat} {e : ECtl} {ts : Bool} {s : State} (h : s.memOk)
    : Keeps (execMargset g sa sb e ts s) := by
  unfold execMargset
  repeat' (first | with_reducible assumption | with_reducible apply State.issueM_keeps)
theorem execBalance_keeps {g : Guard} {sa : Nat} {e : ECtl} {ts : Bool} {s : State} (h : s.memOk) : Keeps (execBalance g sa e ts s) := by
  unfold execBalance
  repeat' (first | with_reducible assumption | with_reducible apply State.issueM_keeps)
theorem execPlnrd_keeps {g : Guard} {td sa : Nat} {e : ECtl} {ts : Bool} {s : State} (h : s.memOk) : Keeps (execPlnrd g td sa e ts s) := by
  unfold execPlnrd
  repeat' (first | with_reducible assumption | with_reducible apply State.issueM_keeps)
theorem execPlnscl_keeps {g : Guard} {sa sb : Nat} {e : ECtl} {ts : Bool} {s : State} (h : s.memOk)
    : Keeps (execPlnscl g sa sb e ts s) := by
  unfold execPlnscl
  repeat' (first | with_reducible assumption | with_reducible apply State.issueM_keeps)
theorem execCpin_keeps {g : Guard} {sd sa sl sbr : Nat} {e : ECtl} {s : State} (h : s.memOk) : Keeps (execCpin g sd sa sl sbr e s) := by
  unfold execCpin
  repeat' (first | with_reducible assumption | with_reducible apply State.issueCopy_keeps | intro e)
theorem execCpinScl_keeps {g : Guard} {sa sl : Nat} {e : ECtl} {s : State} (h : s.memOk) : Keeps (execCpinScl g sa sl e s) := by
  unfold execCpinScl
  repeat' (first
    | with_reducible assumption | with_reducible apply State.issueCopy_keeps
    | (with_reducible refine memOk_of_eq (State.modCur_mem ..) ?_) | intro e)
theorem execCqfill_keeps {g : Guard} {sa sl : Nat} {e : ECtl} {s : State} (h : s.memOk) : Keeps (execCqfill g sa sl e s) := by
  unfold execCqfill
  repeat' (first | with_reducible assumption | with_reducible apply State.issueCopy_keeps | intro e)
theorem execCpgath_keeps {g : Guard} {sd sa sl sbr : Nat} {e : ECtl} {s : State} (h : s.memOk) : Keeps (execCpgath g sd sa sl sbr e s) := by
  unfold execCpgath
  repeat' (first | with_reducible assumption | with_reducible apply State.issueCopy_keeps | intro e)
theorem execCpfill_keeps {g : Guard} {sd sa sl sbr : Nat} {e : ECtl} {s : State} (h : s.memOk) : Keeps (execCpfill g sd sa sl sbr e s) := by
  unfold execCpfill
  repeat' (first | with_reducible assumption | with_reducible apply State.issueCopy_keeps | intro e)
theorem execCploc_keeps {g : Guard} {sd sa sl sbr : Nat} {e : ECtl} {s : State} (h : s.memOk) : Keeps (execCploc g sd sa sl sbr e s) := by
  unfold execCploc
  repeat' (first | with_reducible assumption | with_reducible apply State.issueCopy_keeps | intro e)
theorem execCpout_keeps {g : Guard} {sd sa sl sbr : Nat} {e : ECtl} {s : State} (h : s.memOk) : Keeps (execCpout g sd sa sl sbr e s) := by
  unfold execCpout
  repeat' (first | with_reducible assumption | with_reducible apply State.issueCopy_keeps | intro e)
theorem execCppeer_keeps {g : Guard} {sd sa sl sbr : Nat} {e : ECtl} {s : State} (h : s.memOk) : Keeps (execCppeer g sd sa sl sbr e s) := by
  unfold execCppeer
  repeat' (first | with_reducible assumption | with_reducible apply State.issueCopy_keeps | intro e)
theorem execCpmc_keeps {g : Guard} {sd sa sl sbr : Nat} {e : ECtl} {s : State} (h : s.memOk) : Keeps (execCpmc g sd sa sl sbr e s) := by
  unfold execCpmc
  repeat' (first | with_reducible assumption | with_reducible apply State.issueCopy_keeps | intro e)
theorem execCpscat_keeps {g : Guard} {sd sa sl sbr : Nat} {e : ECtl} {s : State} (h : s.memOk) : Keeps (execCpscat g sd sa sl sbr e s) := by
  unfold execCpscat
  repeat' (first | with_reducible assumption | with_reducible apply State.issueCopy_keeps | intro e)
theorem execCpmem_keeps {g : Guard} {sd sa sl sbr : Nat} {e : ECtl} {s : State} (h : s.memOk) : Keeps (execCpmem g sd sa sl sbr e s) := by
  unfold execCpmem
  repeat' (first | with_reducible assumption | with_reducible apply State.issueCopy_keeps | intro e)
theorem execAmo_keeps {g : Guard} {op : AmoOp} {ord : Ord} {w : AWid} {scope sd sa sb : Nat} {imm : BitVec 12} {s : State} (h : s.memOk)
    : Keeps (execAmo g op ord w scope sd sa sb imm s) := by
  unfold execAmo
  repeat' (first
    | with_reducible assumption | with_reducible apply State.guarded_keeps | with_reducible refine State.issueAtomic_memOk ?_ | intro e)
theorem execAmocas_keeps {g : Guard} {ord : Ord} {w : AWid} {scope sd sa sb sc : Nat} {imm : BitVec 12} {s : State} (h : s.memOk)
    : Keeps (execAmocas g ord w scope sd sa sb sc imm s) := by
  unfold execAmocas
  repeat' (first
    | with_reducible assumption | with_reducible apply State.guarded_keeps | with_reducible refine State.issueAtomic_memOk ?_ | intro e)
theorem execAmoReturn_keeps {s : State} (h : s.memOk) : Keeps (execAmoReturn s) := by
  unfold execAmoReturn
  repeat' (first
    | with_reducible assumption | with_reducible apply Keeps.next | with_reducible refine State.fillAtomic_memOk ?_
    | (with_reducible refine memOk_of_eq (State.sendOn_mem ..) ?_) | (with_reducible refine memOk_of_eq (State.post_mem ..) ?_) | (with_reducible refine memOk_of_eq (State.modCur_mem ..) ?_)
    | (with_reducible refine memOk_of_eq (State.settleWait_mem ..) ?_) | (with_reducible refine memOk_of_eq (State.failAt_mem ..) ?_)
    | dsimp only | split
    | (with_reducible refine memOk_of_eq (State.syncAt_mem (he := by first | assumption | exact (Prod.eta _).symm | rfl)) ?_))
theorem execFenceAcq_keeps {g : Guard} {scope : Nat} {s : State} (h : s.memOk) : Keeps (execFenceAcq g scope s) := by
  unfold execFenceAcq
  repeat' (first
    | with_reducible assumption | with_reducible apply State.guarded_keeps
    | (with_reducible refine memOk_of_eq (State.startWait_mem ..) ?_) | intro e)
theorem execFenceRel_keeps {g : Guard} {scope : Nat} {s : State} (h : s.memOk) : Keeps (execFenceRel g scope s) := by
  unfold execFenceRel
  repeat' (first
    | with_reducible assumption | with_reducible apply State.guarded_keeps
    | (with_reducible refine memOk_of_eq (State.startWait_mem ..) ?_) | intro e)
theorem execFenceFull_keeps {g : Guard} {scope : Nat} {s : State} (h : s.memOk) : Keeps (execFenceFull g scope s) := by
  unfold execFenceFull
  repeat' (first
    | with_reducible assumption | with_reducible apply State.guarded_keeps
    | (with_reducible refine memOk_of_eq (State.startWait_mem ..) ?_) | intro e)
theorem execFenceDone_keeps {s : State} (h : s.memOk) : Keeps (execFenceDone s) := by
  unfold execFenceDone
  repeat' (first | with_reducible assumption | with_reducible apply State.wakeIf_keeps)
theorem execFlush_keeps {g : Guard} {scope : Nat} {s : State} (h : s.memOk) : Keeps (execFlush g scope s) := by
  unfold execFlush
  repeat' (first
    | with_reducible assumption | with_reducible apply State.guarded_keeps
    | (with_reducible refine memOk_of_eq (State.startWait_mem ..) ?_) | intro e)
theorem execFlushDone_keeps {s : State} (h : s.memOk) : Keeps (execFlushDone s) := by
  unfold execFlushDone
  repeat' (first | with_reducible assumption | with_reducible apply State.wakeIf_keeps)
theorem execQfence_keeps {g : Guard} {qs : BitVec 3} {s : State} (h : s.memOk) : Keeps (execQfence g qs s) := by
  unfold execQfence
  repeat' (first
    | with_reducible assumption | with_reducible apply State.guarded_keeps
    | (with_reducible refine memOk_of_eq (State.startWait_mem ..) ?_) | intro e)
theorem execQfenceDone_keeps {s : State} (h : s.memOk) : Keeps (execQfenceDone s) := by
  unfold execQfenceDone
  repeat' (first | with_reducible assumption | with_reducible apply State.wakeIf_keeps)
theorem execQdrain_keeps {g : Guard} {s : State} (h : s.memOk) : Keeps (execQdrain g s) := by
  unfold execQdrain
  repeat' (first
    | with_reducible assumption | with_reducible apply State.guarded_keeps
    | (with_reducible refine memOk_of_eq (State.startWait_mem ..) ?_) | intro e)
theorem execQdrainDone_keeps {s : State} (h : s.memOk) : Keeps (execQdrainDone s) := by
  unfold execQdrainDone
  repeat' (first | with_reducible assumption | with_reducible apply State.wakeIf_keeps)
theorem execTkpush_keeps {g : Guard} {s7 : Bool} {s : State} (h : s.memOk) : Keeps (execTkpush g s7 s) := by
  unfold execTkpush
  repeat' (first
    | with_reducible assumption | with_reducible apply State.guarded_keeps | (with_reducible refine memOk_of_eq (State.retire_mem ..) ?_)
    | (with_reducible refine memOk_of_eq (State.modCur_mem ..) ?_) | dsimp only | split | intro e)
theorem execTkpop_keeps {g : Guard} {s7 : Bool} {s : State} (h : s.memOk) : Keeps (execTkpop g s7 s) := by
  unfold execTkpop
  repeat' (first
    | with_reducible assumption | with_reducible apply State.guarded_keeps
    | (with_reducible refine memOk_of_eq (State.finishTkpop_mem ..) ?_) | (with_reducible refine memOk_of_eq (State.modCur_mem ..) ?_)
    | intro e)
theorem execTkpopDone_keeps {s : State} (h : s.memOk) : Keeps (execTkpopDone s) := by
  unfold execTkpopDone
  repeat' (first
    | with_reducible assumption | with_reducible apply Keeps.next | (with_reducible refine memOk_of_eq (State.finishTkpop_mem ..) ?_)
    | split)
theorem execBinit_keeps {g : Guard} {sa sb sc : Nat} {s : State} (h : s.memOk) : Keeps (execBinit g sa sb sc s) := by
  unfold execBinit
  repeat' (first
    | with_reducible assumption | (with_reducible refine memOk_of_eq (State.modCur_mem ..) ?_) | with_reducible apply State.guarded_keeps | with_reducible apply State.withObj_memOk
    | with_reducible refine State.setObj_memOk ?_ | (with_reducible refine memOk_of_eq (State.retire_mem ..) ?_)
    | (with_reducible refine memOk_of_eq (State.modCtx_mem ..) ?_) | dsimp only | split | intro e)
theorem execBexpect_keeps {g : Guard} {sa sb : Nat} {s : State} (h : s.memOk) : Keeps (execBexpect g sa sb s) := by
  unfold execBexpect
  repeat' (first
    | with_reducible assumption | with_reducible apply State.guarded_keeps | with_reducible apply State.withObj_memOk
    | (with_reducible refine memOk_of_eq (State.raiseFree_mem ..) ?_) | (with_reducible refine memOk_of_eq (State.retire_mem ..) ?_)
    | dsimp only | split | (with_reducible refine State.countAt_memOk (he := by first | assumption | exact (Prod.eta _).symm | rfl) ?_)
    | intro e)
theorem execBarrive_keeps {g : Guard} {scope sa sb : Nat} {s : State} (h : s.memOk) : Keeps (execBarrive g scope sa sb s) := by
  unfold execBarrive
  repeat' (first
    | with_reducible assumption | with_reducible apply State.guarded_keeps | with_reducible apply State.withObj_memOk
    | (with_reducible refine memOk_of_eq (State.modCur_mem ..) ?_) | intro e)
theorem execBarriveApplied_keeps {s : State} (h : s.memOk) : Keeps (execBarriveApplied s) := by
  unfold execBarriveApplied
  repeat' (first
    | with_reducible assumption | with_reducible apply Keeps.next | with_reducible refine State.tryBarrive_memOk ?_ | split)
theorem execBwait_keeps {g : Guard} {ps pe sa sb : Nat} {s : State} (h : s.memOk) : Keeps (execBwait g ps pe sa sb s) := by
  unfold execBwait
  repeat' (first
    | with_reducible assumption | with_reducible apply State.guarded_keeps | with_reducible apply State.withObj_memOk
    | with_reducible refine State.startBwait_memOk ?_ | (with_reducible refine memOk_of_eq (State.modCur_mem ..) ?_) | intro e)
theorem execBwaitWake_keeps {s : State} (h : s.memOk) : Keeps (execBwaitWake s) := by
  unfold execBwaitWake
  repeat' (first
    | with_reducible assumption | with_reducible apply Keeps.next | with_reducible refine State.tryBwait_memOk ?_ | split)
theorem execBwaitout_keeps {g : Guard} {sa : Nat} {s : State} (h : s.memOk) : Keeps (execBwaitout g sa s) := by
  unfold execBwaitout
  repeat' (first
    | with_reducible assumption | with_reducible apply State.guarded_keeps | with_reducible apply State.withObj_memOk
    | with_reducible refine State.tryBwaitout_memOk ?_ | (with_reducible refine memOk_of_eq (State.modCur_mem ..) ?_) | intro e)
theorem execBwaitoutDone_keeps {s : State} (h : s.memOk) : Keeps (execBwaitoutDone s) := by
  unfold execBwaitoutDone
  repeat' (first
    | with_reducible assumption | with_reducible apply Keeps.next | with_reducible refine State.tryBwaitout_memOk ?_ | split)
theorem execBhandle_keeps {g : Guard} {sd sa : Nat} {s : State} (h : s.memOk) : Keeps (execBhandle g sd sa s) := by
  unfold execBhandle
  repeat' (first
    | with_reducible assumption | with_reducible apply State.guarded_keeps
    | (with_reducible refine memOk_of_eq (State.raiseChk_mem ..) ?_) | (with_reducible refine memOk_of_eq (State.retire_mem ..) ?_)
    | (with_reducible refine memOk_of_eq (State.setS_mem ..) ?_) | split | intro e)
theorem execQput_keeps {g : Guard} {sa q : Nat} {s : State} (h : s.memOk) : Keeps (execQput g sa q s) := by
  unfold execQput
  repeat' (first
    | with_reducible assumption | with_reducible apply State.guarded_keeps
    | (with_reducible refine memOk_of_eq (State.raiseChk_mem ..) ?_) | (with_reducible refine memOk_of_eq (State.modCur_mem ..) ?_)
    | dsimp only | split | intro e)
theorem execQputReserve_keeps {s : State} (h : s.memOk) : Keeps (execQputReserve s) := by
  unfold execQputReserve
  repeat' (first
    | with_reducible assumption | with_reducible apply Keeps.next | with_reducible refine State.tryReserve_memOk ?_ | split)
theorem execQputPublish_keeps {s : State} (h : s.memOk) : Keeps (execQputPublish s) := by
  unfold execQputPublish
  repeat' (first
    | with_reducible assumption | with_reducible apply Keeps.next | with_reducible refine State.tryPublish_memOk ?_ | split)
theorem execSemsig_keeps {g : Guard} {scope sa sb : Nat} {s : State} (h : s.memOk) : Keeps (execSemsig g scope sa sb s) := by
  unfold execSemsig
  repeat' (first
    | with_reducible assumption | with_reducible apply State.guarded_keeps | (with_reducible refine memOk_of_eq (State.illegal_mem ..) ?_)
    | (with_reducible refine memOk_of_eq (State.modCur_mem ..) ?_) | split | intro e)
theorem execCapadd_keeps {g : Guard} {sa sb : Nat} {s : State} (h : s.memOk) : Keeps (execCapadd g sa sb s) := by
  unfold execCapadd
  repeat' (first
    | with_reducible assumption | with_reducible apply State.guarded_keeps | with_reducible refine State.setMg_memOk ?_
    | (with_reducible refine memOk_of_eq (State.illegal_mem ..) ?_) | (with_reducible refine memOk_of_eq (State.retire_mem ..) ?_) | split
    | intro e)
theorem execCapget_keeps {g : Guard} {sd sa : Nat} {s : State} (h : s.memOk) : Keeps (execCapget g sd sa s) := by
  unfold execCapget
  repeat' (first
    | with_reducible assumption | with_reducible apply State.guarded_keeps | (with_reducible refine memOk_of_eq (State.illegal_mem ..) ?_)
    | (with_reducible refine memOk_of_eq (State.retire_mem ..) ?_) | (with_reducible refine memOk_of_eq (State.addPend_mem ..) ?_) | split
    | (with_reducible refine memOk_of_eq (State.newId_mem (he := by first | assumption | exact (Prod.eta _).symm | rfl)) ?_) | intro e)
theorem execCapupd_keeps {g : Guard} {s : State} (h : s.memOk) : Keeps (execCapupd g s) := by
  unfold execCapupd
  repeat' (first
    | with_reducible assumption | with_reducible apply State.guarded_keeps | with_reducible refine State.setMg_memOk ?_
    | with_reducible apply foldl_memOk | (with_reducible refine memOk_of_eq (State.retire_mem ..) ?_) | split | intro e)
theorem execCqpush_keeps {g : Guard} {sa : Nat} {s : State} (h : s.memOk) : Keeps (execCqpush g sa s) := by
  unfold execCqpush
  repeat' (first
    | with_reducible assumption | with_reducible apply State.guarded_keeps
    | (with_reducible refine memOk_of_eq (State.raiseFree_mem ..) ?_) | (with_reducible refine memOk_of_eq (State.retire_mem ..) ?_)
    | (with_reducible refine memOk_of_eq (State.modCur_mem ..) ?_) | split | intro e)
theorem execCqpushTeam_keeps {g : Guard} {sa : Nat} {s : State} (h : s.memOk) : Keeps (execCqpushTeam g sa s) := by
  unfold execCqpushTeam
  repeat' (first
    | with_reducible assumption | with_reducible apply State.guarded_keeps | with_reducible apply foldl_memOk
    | (with_reducible refine memOk_of_eq (State.illegal_mem ..) ?_) | (with_reducible refine memOk_of_eq (State.modCore_mem ..) ?_)
    | (with_reducible refine memOk_of_eq (State.raiseFree_mem ..) ?_) | (with_reducible refine memOk_of_eq (State.retire_mem ..) ?_)
    | (with_reducible refine memOk_of_eq (State.modCur_mem ..) ?_) | dsimp only | split | intro e)
theorem execPbuild_keeps {g : Guard} {sd sa sb sc : Nat} {imm : BitVec 12} {s : State} (h : s.memOk)
    : Keeps (execPbuild g sd sa sb sc imm s) := by
  unfold execPbuild
  repeat' (first
    | with_reducible assumption | with_reducible apply State.guarded_keeps | with_reducible refine State.writeB_memOk ?_
    | (with_reducible refine memOk_of_eq (State.raiseChk_mem ..) ?_) | (with_reducible refine memOk_of_eq (State.raise_mem ..) ?_)
    | (with_reducible refine memOk_of_eq (State.retire_mem ..) ?_) | dsimp only | split
    | (with_reducible refine State.scan_memOk (he := by first | assumption | exact (Prod.eta _).symm | rfl) ?_) | intro e)
theorem execPsend_keeps {g : Guard} {sa sb sc dir : Nat} {s : State} (h : s.memOk) : Keeps (execPsend g sa sb sc dir s) := by
  unfold execPsend
  repeat' (first
    | with_reducible assumption | with_reducible apply State.guarded_keeps | with_reducible apply State.sendObj_memOk
    | with_reducible refine State.sendImage_memOk ?_ | (with_reducible refine memOk_of_eq (State.raiseChk_mem ..) ?_) | dsimp only | split
    | intro e)
theorem execRwld_keeps {g : Guard} {sd sa : Nat} {imm : BitVec 12} {s : State} (h : s.memOk) : Keeps (execRwld g sd sa imm s) := by
  unfold execRwld
  repeat' (first
    | with_reducible assumption | with_reducible apply State.guarded_keeps | with_reducible apply State.window_memOk
    | (with_reducible refine memOk_of_eq (State.retire_mem ..) ?_) | (with_reducible refine memOk_of_eq (State.addPend_mem ..) ?_)
    | (with_reducible refine memOk_of_eq (State.newId_mem (he := by first | assumption | exact (Prod.eta _).symm | rfl)) ?_) | intro e)
theorem execRwst_keeps {g : Guard} {sa sb : Nat} {imm : BitVec 12} {s : State} (h : s.memOk) : Keeps (execRwst g sa sb imm s) := by
  unfold execRwst
  repeat' (first
    | with_reducible assumption | with_reducible apply State.guarded_keeps | with_reducible apply State.window_memOk
    | with_reducible refine State.writeN_memOk ?_ | (with_reducible refine memOk_of_eq (State.retire_mem ..) ?_) | split | intro e)
theorem execCreditReturn_keeps {s : State} (h : s.memOk) : Keeps (execCreditReturn s) := by
  unfold execCreditReturn
  repeat' (first
    | with_reducible assumption | with_reducible apply Keeps.next | with_reducible refine State.drainOut_memOk ?_ | split
    | (refine ⟨?_⟩; dsimp only; with_reducible refine memOk_wf ?_))
theorem execInPackageWrite_keeps {s : State} (h : s.memOk) : Keeps (execInPackageWrite s) := by
  unfold execInPackageWrite
  repeat' (first
    | with_reducible assumption | with_reducible apply Keeps.next | with_reducible refine State.flightFailed_memOk ?_
    | (with_reducible refine memOk_of_eq (State.flightOn_mem ..) ?_) | with_reducible apply State.flightDone_memOk | with_reducible refine State.copyB_memOk ?_ | with_reducible apply getD_memOk
    | dsimp only | split | (with_reducible refine State.deliver_memOk (he := by first | assumption | exact (Prod.eta _).symm | rfl) ?_)
    | (with_reducible refine memOk_of_eq (State.atSync_mem (he := by first | assumption | exact (Prod.eta _).symm | rfl)) ?_)
    | (with_reducible refine State.countFor_memOk (he := by first | assumption | exact (Prod.eta _).symm | rfl) ?_) | intro e
    | (simp only [Option.map_eq_some_iff, Option.bind_eq_some_iff] at e; obtain ⟨_, e, rfl⟩ := e))
theorem execSemsigDone_keeps {s : State} (h : s.memOk) : Keeps (execSemsigDone s) := by
  unfold execSemsigDone
  repeat' (first
    | with_reducible assumption | with_reducible apply Keeps.next | with_reducible refine State.trySemsig_memOk ?_ | split)
theorem execCapgetReturn_keeps {s : State} (h : s.memOk) : Keeps (execCapgetReturn s) := by
  unfold execCapgetReturn
  repeat' (first
    | with_reducible assumption | with_reducible apply Keeps.next | (with_reducible refine memOk_of_eq (State.settleWait_mem ..) ?_)
    | (with_reducible refine memOk_of_eq (State.setS_mem ..) ?_) | (with_reducible refine memOk_of_eq (State.dropPend_mem ..) ?_) | split)
theorem execIcinvDone_keeps {s : State} (h : s.memOk) : Keeps (execIcinvDone s) := by
  unfold execIcinvDone
  repeat' (first
    | with_reducible assumption | with_reducible apply Keeps.next | (with_reducible refine memOk_of_eq (State.settleWait_mem ..) ?_)
    | split)
theorem execCorePowerGate_keeps {s : State} (h : s.memOk) : Keeps (execCorePowerGate s) := by
  unfold execCorePowerGate
  repeat' (first
    | with_reducible assumption | with_reducible apply Keeps.next | (with_reducible refine memOk_of_eq (State.modCore_mem ..) ?_)
    | dsimp only | split)
theorem execDebugHalt_keeps {s : State} (h : s.memOk) : Keeps (execDebugHalt s) := by
  unfold execDebugHalt
  repeat' (first
    | with_reducible assumption | with_reducible apply Keeps.next | (with_reducible refine memOk_of_eq (State.modCore_mem ..) ?_) | split)

end
end Sys2Proof.Machine
end

