-- ==== Sys2Proof/Laws/Control.lean ====
section
/-!
SUPPORT. Calls, returns and loops (R236, R367 to R370): what they leave of the context.
-/
namespace Sys2Proof.Machine

theorem closeAfterRet_frame : ∀ (f : Nat) (x : Ctx), closeAfterRet f x = { x with lpDepth := (closeAfterRet f x).lpDepth }
  | 0, _ => rfl
  | f + 1, x => by
    unfold closeAfterRet; split
    · rfl
    · split
      · exact closeAfterRet_frame f { x with lpDepth := x.lpDepth - 1 }
      · rfl
theorem closeAfterRet_none (f : Nat) (x : Ctx) (h : x.lpDepth = 0) : closeAfterRet (f + 1) x = x := by
  unfold closeAfterRet; rw [if_pos h]
theorem closeAfterRet_close (f : Nat) (x : Ctx) (h : x.lpDepth ≠ 0)
    (hc : x.callDepth.toNat < (x.level (x.lpDepth - 1)).cd.toNat) :
    closeAfterRet (f + 1) x = closeAfterRet f { x with lpDepth := x.lpDepth - 1 } := by
  conv => lhs; unfold closeAfterRet
  rw [if_neg h, if_pos hc]
theorem closeAfterRet_keep (f : Nat) (x : Ctx) (h : x.lpDepth ≠ 0)
    (hc : ¬ x.callDepth.toNat < (x.level (x.lpDepth - 1)).cd.toNat) : closeAfterRet (f + 1) x = x := by
  unfold closeAfterRet; rw [if_neg h, if_neg hc]
/-- The levels that a return leaves open depend on the loops and the call depth alone. -/
theorem closeAfterRet_congr : ∀ (f : Nat) (x y : Ctx), y.lpDepth = x.lpDepth → y.callDepth = x.callDepth → y.levels = x.levels →
    (closeAfterRet f y).lpDepth = (closeAfterRet f x).lpDepth
  | 0, _, _, h, _, _ => h
  | f + 1, x, y, h1, h2, h3 => by
    have hl : ∀ d, y.level d = x.level d := fun d => by unfold Ctx.level; rw [h3]
    by_cases h : x.lpDepth = 0
    · rw [closeAfterRet_none f x h, closeAfterRet_none f y (h1.trans h), h1]
    · have h' : y.lpDepth ≠ 0 := fun e => h (h1 ▸ e)
      by_cases hc : x.callDepth.toNat < (x.level (x.lpDepth - 1)).cd.toNat
      · rw [closeAfterRet_close f x h hc, closeAfterRet_close f y h' (by rw [h1, h2, hl]; exact hc)]
        refine closeAfterRet_congr f { x with lpDepth := x.lpDepth - 1 } { y with lpDepth := y.lpDepth - 1 } ?_ h2 h3
        show y.lpDepth - 1 = x.lpDepth - 1
        rw [h1]
      · rw [closeAfterRet_keep f x h hc, closeAfterRet_keep f y h' (by rw [h1, h2, hl]; exact hc), h1]
/-- The context after a return. -/
theorem State.ctx_retTo (s : State) (t : W64) : (s.retTo t).ctx = { s.ctx with
    callDepth := s.ctx.callDepth - 1, lpDepth := (closeAfterRet 4 { s.ctx with callDepth := s.ctx.callDepth - 1 }).lpDepth, pc := t,
    via := some s.ctx.pc, csr := { s.csr with schedCtr := s.csr.tick } } := by
  unfold State.retTo; rw [State.ctx_modCtx, closeAfterRet_frame]; rfl
theorem State.rs_retTo (s : State) (t : W64) (r : Nat) : (s.retTo t).rs r = s.rs r := by
  unfold State.rs; rw [State.ctx_retTo]

end Sys2Proof.Machine
end

