-- ==== Sys2Proof/Laws/PerInstr.lean ====
section
/-!
SUPPORT. One lemma for each instruction: its fields fit the widths of its layout, the layout is told by the first of them, and the decoder's
table gives the instruction back from them (R329 to R349, R112, R201).
-/
namespace Sys2Proof.Laws

/-- Every field fits its width. -/
def Fits : List Nat → List Nat → Prop
  | [], [] => True
  | w :: ws, x :: xs => x < 2 ^ w ∧ Fits ws xs
  | _, _ => False

/-- The top field of a layout's words (R329). -/
def tag : Layout → Nat
  | .c0 => 0 | .c1 => 1 | .c2 => 2 | .c3 => 3 | .c4 => 4 | .c5 => 5 | .c6 => 6 | .c7 => 7 | .c8 => 8 | .c9 => 9 | .cA => 10 | .pair => 3

/-- A well-formed instruction that has a word comes back from its fields. -/
def Enc.Statement (i : Instr) : Prop :=
  WellFormed i = true →
    (match encodeFields i with
     | some (l, fs, w2) =>
       Fits l.widths fs ∧ fs.head? = some (tag l) ∧ (l ≠ .c3 → w2 = 0) ∧ ∀ x, decodeFields l fs (if l = .c3 then w2 else x) = some i
     | none => True) ∧
    (match encodePebble i with
     | some w => w < 65536 ∧ decodePebbleOp (w / 2048) (w % 2048) = some i
     | none => True) ∧
    (match encodeSlate i with
     | some [op, gd, ga, im] => Fits [6, 4, 4, 18] [op, gd, ga, im] ∧ decodeSlateOp op gd ga im = some i
     | some _ => False
     | none => True)

/-! ### Field values -/

theorem mkGuard_ok (g : Guard) (h : g.ok = true) : mkGuard g.p g.neg.toNat = some g := by
  obtain ⟨p, n⟩ := g
  cases n <;> simp_all [Guard.ok, mkGuard]
theorem guard_lt (g : Guard) (h : g.ok = true) : g.p < 8 := by
  simp [Guard.ok] at h; exact h.1
theorem bool_lt (b : Bool) : b.toNat < 2 := by cases b <;> decide
theorem bool_eq (b : Bool) : (b.toNat == 1) = b := by cases b <;> rfl
theorem cond_code (c : Cond) : Cond.ofCode c.code = some c := by cases c <;> rfl
theorem cond_lt (c : Cond) : c.code < 6 := by cases c <;> decide
theorem ext_code (c : Ext) : Ext.ofCode c.code = some c := by cases c <;> rfl
theorem ext_lt (c : Ext) : c.code < 6 := by cases c <;> decide
theorem vtype_code (c : VType) : VType.ofCode c.code = some c := by cases c <;> rfl
theorem vtype_lt (c : VType) : c.code < 8 := by cases c <;> decide
theorem rnd_code (c : Rnd) : Rnd.ofCode c.code = some c := by cases c <;> rfl
theorem rnd_lt (c : Rnd) : c.code < 4 := by cases c <;> decide
theorem sop_code (c : SOp) : SOp.ofCode c.code = some c := by cases c <;> rfl
theorem sop_lt (c : SOp) : c.code < 16 := by cases c <;> decide
theorem vop_code (c : VOp) : VOp.ofCode c.code = some c := by cases c <;> rfl
theorem vop_lt (c : VOp) : c.code < 16 := by cases c <;> decide
theorem amo_code (c : AmoOp) : AmoOp.ofCode c.code = some c := by cases c <;> rfl
theorem amo_lt (c : AmoOp) : c.code < 10 := by cases c <;> decide
theorem ord_code (c : Ord) : Ord.ofCode c.code = some c := by cases c <;> rfl
theorem ord_lt (c : Ord) : c.code < 4 := by cases c <;> decide
theorem awid_code (c : AWid) : AWid.ofCode c.code = some c := by cases c <;> rfl
theorem awid_lt (c : AWid) : c.code < 4 := by cases c <;> decide
theorem ofNat_toNat (n : Nat) (x : BitVec n) : BitVec.ofNat n x.toNat = x := by simp
theorem bv_lt (n : Nat) (x : BitVec n) : x.toNat < 2 ^ n := x.isLt
theorem tok_lt (e : ECtl) : e.tok < 16 := by
  obtain ⟨a, b, c, d, r, st⟩ := e
  cases a <;> cases b <;> cases c <;> cases d <;> simp [ECtl.tok]
theorem mkE_tok (e : ECtl) : mkE e.tok e.rep e.step.toNat = e := by
  obtain ⟨a, b, c, d, r, st⟩ := e
  cases a <;> cases b <;> cases c <;> cases d <;> simp [mkE, ECtl.tok]
theorem op2_code (b : SOperand) : op2 b.bit b.sb b.im = some b := by
  cases b <;> simp [op2, SOperand.bit, SOperand.sb, SOperand.im]
theorem bit_lt (b : SOperand) : b.bit < 2 := by cases b <;> simp [SOperand.bit]
theorem im_lt (b : SOperand) : b.im < 4096 := by
  cases b with
  | reg r => simp [SOperand.im]
  | imm x => exact x.isLt
theorem sb_lt (b : SOperand) (t : VType) (h : b.ok t = true) : b.sb < 64 := by
  cases b with
  | reg r => simpa [SOperand.ok, SOperand.sb, sOk] using h
  | imm x => simp [SOperand.sb]

theorem csrR_lt (n : Nat) (h : csrReadable n = true) : n < 4096 := by
  simp [csrReadable] at h; omega
theorem csrW_lt (n : Nat) (h : csrWritable n = true) : n < 4096 := by
  simp [csrWritable] at h; omega
theorem count_le (t : VType) : t.count ≤ 512 := by cases t <;> decide
theorem bit1_ok (b : Bool) : bit1 b.toNat = some () := by cases b <;> rfl
theorem lt8_ok (x : BitVec 3) : lt8 x.toNat = some () := by
  have := x.isLt
  simp [lt8, chkU]; omega
theorem cond_split (c : Cond) : Cond.ofCode (2 * (c.code / 2) + c.code % 2) = some c := by cases c <;> rfl

/-! ### The instructions -/

theorem Enc.pushi (i : BitVec 11) : Enc.Statement (.pushi i) := by
  intro h
  have f : i.toNat < 2048 := bv_lt _ i
  refine ⟨trivial, ⟨?_, ?_⟩, trivial⟩
  · show (0x0800 + i.toNat) < 65536; omega
  · show decodePebbleOp ((0x0800 + i.toNat) / 2048) ((0x0800 + i.toNat) % 2048) = _
    rw [show (0x0800 + i.toNat) / 2048 = 1 from by omega, show (0x0800 + i.toNat) % 2048 = i.toNat from by omega]
    show chk (decide (i.toNat < 2048)) (.pushi (BitVec.ofNat 11 i.toNat)) = _
    rw [decide_eq_true f, ofNat_toNat]
    rfl
theorem Enc.pushk (n : Nat) : Enc.Statement (.pushk n) := by
  intro h
  change (decide (n < 4)) = true at h
  simp only [decide_eq_true_eq] at h
  refine ⟨trivial, ⟨?_, ?_⟩, trivial⟩
  · show (0x1000 + n) < 65536; omega
  · show decodePebbleOp ((0x1000 + n) / 2048) ((0x1000 + n) % 2048) = _
    rw [show (0x1000 + n) / 2048 = 2 from by omega, show (0x1000 + n) % 2048 = n from by omega]
    rfl
theorem Enc.popk (n : Nat) : Enc.Statement (.popk n) := by
  intro h
  change (decide (n < 4)) = true at h
  simp only [decide_eq_true_eq] at h
  refine ⟨trivial, ⟨?_, ?_⟩, trivial⟩
  · show (0x1800 + n) < 65536; omega
  · show decodePebbleOp ((0x1800 + n) / 2048) ((0x1800 + n) % 2048) = _
    rw [show (0x1800 + n) / 2048 = 3 from by omega, show (0x1800 + n) % 2048 = n from by omega]
    rfl
theorem Enc.addk (n : Nat) : Enc.Statement (.addk n) := by
  intro h
  change (decide (n < 4)) = true at h
  simp only [decide_eq_true_eq] at h
  refine ⟨trivial, ⟨?_, ?_⟩, trivial⟩
  · show (0x2000 + n) < 65536; omega
  · show decodePebbleOp ((0x2000 + n) / 2048) ((0x2000 + n) % 2048) = _
    rw [show (0x2000 + n) / 2048 = 4 from by omega, show (0x2000 + n) % 2048 = n from by omega]
    rfl
theorem Enc.pebbleBz (d : BitVec 11) : Enc.Statement (.pebbleBz d) := by
  intro h
  have f : d.toNat < 2048 := bv_lt _ d
  refine ⟨trivial, ⟨?_, ?_⟩, trivial⟩
  · show (0x8000 + d.toNat) < 65536; omega
  · show decodePebbleOp ((0x8000 + d.toNat) / 2048) ((0x8000 + d.toNat) % 2048) = _
    rw [show (0x8000 + d.toNat) / 2048 = 16 from by omega, show (0x8000 + d.toNat) % 2048 = d.toNat from by omega]
    show chk (decide (d.toNat < 2048)) (.pebbleBz (BitVec.ofNat 11 d.toNat)) = _
    rw [decide_eq_true f, ofNat_toNat]
    rfl
theorem Enc.pebbleBnz (d : BitVec 11) : Enc.Statement (.pebbleBnz d) := by
  intro h
  have f : d.toNat < 2048 := bv_lt _ d
  refine ⟨trivial, ⟨?_, ?_⟩, trivial⟩
  · show (0x8800 + d.toNat) < 65536; omega
  · show decodePebbleOp ((0x8800 + d.toNat) / 2048) ((0x8800 + d.toNat) % 2048) = _
    rw [show (0x8800 + d.toNat) / 2048 = 17 from by omega, show (0x8800 + d.toNat) % 2048 = d.toNat from by omega]
    show chk (decide (d.toNat < 2048)) (.pebbleBnz (BitVec.ofNat 11 d.toNat)) = _
    rw [decide_eq_true f, ofNat_toNat]
    rfl
theorem Enc.ctr (n : Nat) : Enc.Statement (.ctr n) := by
  intro h
  change (decide (n < 256)) = true at h
  simp only [decide_eq_true_eq] at h
  refine ⟨trivial, ⟨?_, ?_⟩, trivial⟩
  · show (0xA000 + n) < 65536; omega
  · show decodePebbleOp ((0xA000 + n) / 2048) ((0xA000 + n) % 2048) = _
    rw [show (0xA000 + n) / 2048 = 20 from by omega, show (0xA000 + n) % 2048 = n from by omega]
    rfl
theorem Enc.ctrinc (n : Nat) : Enc.Statement (.ctrinc n) := by
  intro h
  change (decide (n < 256)) = true at h
  simp only [decide_eq_true_eq] at h
  refine ⟨trivial, ⟨?_, ?_⟩, trivial⟩
  · show (0xA800 + n) < 65536; omega
  · show decodePebbleOp ((0xA800 + n) / 2048) ((0xA800 + n) % 2048) = _
    rw [show (0xA800 + n) / 2048 = 21 from by omega, show (0xA800 + n) % 2048 = n from by omega]
    rfl
theorem Enc.coord (sel : Nat) : Enc.Statement (.coord sel) := by
  intro h
  change (decide (sel < 3)) = true at h
  simp only [decide_eq_true_eq] at h
  refine ⟨trivial, ⟨?_, ?_⟩, trivial⟩
  · show (0xB000 + sel) < 65536; omega
  · show decodePebbleOp ((0xB000 + sel) / 2048) ((0xB000 + sel) % 2048) = _
    rw [show (0xB000 + sel) / 2048 = 22 from by omega, show (0xB000 + sel) % 2048 = sel from by omega]
    show (if sel == 3 then some Instr.hop else some (.coord sel)) = _
    rw [if_neg (by simp; omega)]
theorem Enc.loadCount (d : Nat) : Enc.Statement (.loadCount d) := by
  intro h
  change (decide (d < 6)) = true at h
  simp only [decide_eq_true_eq] at h
  refine ⟨trivial, ⟨?_, ?_⟩, trivial⟩
  · show (0xB800 + d) < 65536; omega
  · show decodePebbleOp ((0xB800 + d) / 2048) ((0xB800 + d) % 2048) = _
    rw [show (0xB800 + d) / 2048 = 23 from by omega, show (0xB800 + d) % 2048 = d from by omega]
    rfl
theorem Enc.fwd (d : Nat) : Enc.Statement (.fwd d) := by
  intro h
  change (dirOk d) = true at h
  simp only [Bool.and_eq_true, dirOk, decide_eq_true_eq] at h
  refine ⟨trivial, ⟨?_, ?_⟩, trivial⟩
  · show (0xC000 + d) < 65536; omega
  · show decodePebbleOp ((0xC000 + d) / 2048) ((0xC000 + d) % 2048) = _
    rw [show (0xC000 + d) / 2048 = 24 from by omega, show (0xC000 + d) % 2048 = d from by omega]
    rfl
theorem Enc.clone (m : BitVec 6) : Enc.Statement (.clone m) := by
  intro h
  change (m != 0#6) = true at h
  have f : m.toNat < 64 := bv_lt _ m
  refine ⟨trivial, ⟨?_, ?_⟩, trivial⟩
  · show (0xC800 + m.toNat) < 65536; omega
  · show decodePebbleOp ((0xC800 + m.toNat) / 2048) ((0xC800 + m.toNat) % 2048) = _
    rw [show (0xC800 + m.toNat) / 2048 = 25 from by omega, show (0xC800 + m.toNat) % 2048 = m.toNat from by omega]
    show chk (decide (m.toNat < 64)) (.clone (BitVec.ofNat 6 m.toNat)) = _
    rw [decide_eq_true f, ofNat_toNat]
    rfl
theorem Enc.ldv (d : Nat) (a : Nat) (x : Bool) (k : Nat) (c : Nat) : Enc.Statement (.ldv d a x k c) := by
  intro h
  change ((x || a == 0) && decide (d < 16) && decide (a < 16) && decide (k < 64) && decide (c < 2048)) = true at h
  simp only [Bool.and_eq_true, decide_eq_true_eq] at h
  have f2 := bool_lt x
  refine ⟨trivial, trivial, ⟨by omega, by omega, by omega, by omega, trivial⟩, ?_⟩
  show some (Instr.ldv d a ((131072 * x.toNat + 2048 * k + c) / 131072 == 1) ((131072 * x.toNat + 2048 * k + c) / 2048 % 64) ((131072 * x.toNat + 2048 * k + c) % 2048)) = _
  rw [show (131072 * x.toNat + 2048 * k + c) / 131072 = x.toNat from by omega, show (131072 * x.toNat + 2048 * k + c) / 2048 % 64 = k from by omega, show (131072 * x.toNat + 2048 * k + c) % 2048 = c from by omega]
  rw [bool_eq]
theorem Enc.ldm (d : Nat) (a : Nat) (x : Bool) (c : Nat) : Enc.Statement (.ldm d a x c) := by
  intro h
  change ((x || a == 0) && decide (d < 16) && decide (a < 16) && decide (c < 64)) = true at h
  simp only [Bool.and_eq_true, decide_eq_true_eq] at h
  have f2 := bool_lt x
  refine ⟨trivial, trivial, ⟨by omega, by omega, by omega, by omega, trivial⟩, ?_⟩
  show chk ((131072 * x.toNat + c) / 64 % 2048 == 0) (Instr.ldm d a ((131072 * x.toNat + c) / 131072 == 1) ((131072 * x.toNat + c) % 64)) = _
  rw [show (131072 * x.toNat + c) / 64 % 2048 = 0 from by omega, show (131072 * x.toNat + c) / 131072 = x.toNat from by omega, show (131072 * x.toNat + c) % 64 = c from by omega]
  rw [bool_eq]
  rfl
theorem Enc.stm (d : Nat) (a : Nat) (x : Bool) (c : Nat) : Enc.Statement (.stm d a x c) := by
  intro h
  change ((x || a == 0) && decide (d < 16) && decide (a < 16) && decide (c < 64)) = true at h
  simp only [Bool.and_eq_true, decide_eq_true_eq] at h
  have f2 := bool_lt x
  refine ⟨trivial, trivial, ⟨by omega, by omega, by omega, by omega, trivial⟩, ?_⟩
  show chk ((131072 * x.toNat + c) / 64 % 2048 == 0) (Instr.stm d a ((131072 * x.toNat + c) / 131072 == 1) ((131072 * x.toNat + c) % 64)) = _
  rw [show (131072 * x.toNat + c) / 64 % 2048 = 0 from by omega, show (131072 * x.toNat + c) / 131072 = x.toNat from by omega, show (131072 * x.toNat + c) % 64 = c from by omega]
  rw [bool_eq]
  rfl
theorem Enc.argmax (d : Nat) (a : Nat) (k : Nat) (n : Nat) : Enc.Statement (.argmax d a k n) := by
  intro h
  change (decide (d < 16) && decide (a < 16) && decide (k < 64) && decide (n < 2048)) = true at h
  simp only [Bool.and_eq_true, decide_eq_true_eq] at h
  refine ⟨trivial, trivial, ⟨by omega, by omega, by omega, by omega, trivial⟩, ?_⟩
  show chk ((2048 * k + n) / 131072 == 0) (Instr.argmax d a ((2048 * k + n) / 2048 % 64) ((2048 * k + n) % 2048)) = _
  rw [show (2048 * k + n) / 131072 = 0 from by omega, show (2048 * k + n) / 2048 % 64 = k from by omega, show (2048 * k + n) % 2048 = n from by omega]
  rfl
theorem Enc.brf (a : Nat) (c : Nat) (d : Nat) : Enc.Statement (.brf a c d) := by
  intro h
  change (decide (c < 3) && (c != 0 || a == 0) && decide (a < 16) && decide (c < 4) && decide (d < 256)) = true at h
  simp only [Bool.and_eq_true, decide_eq_true_eq] at h
  refine ⟨trivial, trivial, ⟨by omega, by omega, by omega, by omega, trivial⟩, ?_⟩
  show chk (0 == 0 && (65536 * c + d) / 256 % 256 == 0) (Instr.brf a ((65536 * c + d) / 65536) ((65536 * c + d) % 256)) = _
  rw [show (65536 * c + d) / 256 % 256 = 0 from by omega, show (65536 * c + d) / 65536 = c from by omega, show (65536 * c + d) % 256 = d from by omega]
  rfl
theorem Enc.slateLoop (d : Nat) (l : Nat) (n : Nat) : Enc.Statement (.slateLoop d l n) := by
  intro h
  change (decide (d < 16) && decide (l < 256) && decide (n < 128)) = true at h
  simp only [Bool.and_eq_true, decide_eq_true_eq] at h
  refine ⟨trivial, trivial, ⟨by omega, by omega, by omega, by omega, trivial⟩, ?_⟩
  show chk (0 == 0 && (256 * l + n) / 65536 == 0 && (256 * l + n) / 128 % 2 == 0) (Instr.slateLoop d ((256 * l + n) / 256 % 256) ((256 * l + n) % 128)) = _
  rw [show (256 * l + n) / 65536 = 0 from by omega, show (256 * l + n) / 128 % 2 = 0 from by omega, show (256 * l + n) / 256 % 256 = l from by omega, show (256 * l + n) % 128 = n from by omega]
  rfl
theorem Enc.emitDispatch (d : Nat) (a : Nat) : Enc.Statement (.emitDispatch d a) := by
  intro h
  change (decide (d < 16) && decide (a < 16)) = true at h
  simp only [Bool.and_eq_true, decide_eq_true_eq] at h
  refine ⟨trivial, trivial, ⟨by omega, by omega, by omega, by omega, trivial⟩, ?_⟩
  rfl
theorem Enc.emitPreempt (d : Nat) : Enc.Statement (.emitPreempt d) := by
  intro h
  change (decide (d < 16)) = true at h
  simp only [decide_eq_true_eq] at h
  refine ⟨trivial, trivial, ⟨by omega, by omega, by omega, by omega, trivial⟩, ?_⟩
  rfl
theorem Enc.emitShare (d : Nat) (a : Nat) : Enc.Statement (.emitShare d a) := by
  intro h
  change (decide (d < 16) && decide (a < 16)) = true at h
  simp only [Bool.and_eq_true, decide_eq_true_eq] at h
  refine ⟨trivial, trivial, ⟨by omega, by omega, by omega, by omega, trivial⟩, ?_⟩
  rfl
theorem Enc.emitFaultact (d : Nat) (t : Nat) : Enc.Statement (.emitFaultact d t) := by
  intro h
  change (decide (d < 16) && decide (t < 4)) = true at h
  simp only [Bool.and_eq_true, decide_eq_true_eq] at h
  refine ⟨trivial, trivial, ⟨by omega, by omega, by omega, by omega, trivial⟩, ?_⟩
  rcases t with _ | _ | _ | _ | t
  · rfl
  · rfl
  · rfl
  · rfl
  · omega
theorem Enc.slateAdd (d : Nat) (a : Nat) (b : Nat) : Enc.Statement (.slateAdd d a b) := by
  intro h
  change (decide (d < 16) && decide (a < 16) && decide (b < 16)) = true at h
  simp only [Bool.and_eq_true, decide_eq_true_eq] at h
  refine ⟨trivial, trivial, ⟨by omega, by omega, by omega, by omega, trivial⟩, ?_⟩
  show chk (b / 16 == 0) (Instr.slateAdd d a (b % 16)) = _
  rw [show b / 16 = 0 from by omega, show b % 16 = b from by omega]
  rfl
theorem Enc.slateAddImm (d : Nat) (a : Nat) (i : BitVec 18) : Enc.Statement (.slateAddImm d a i) := by
  intro h
  change (decide (d < 16) && decide (a < 16)) = true at h
  simp only [Bool.and_eq_true, decide_eq_true_eq] at h
  have f2 := bv_lt _ i
  refine ⟨trivial, trivial, ⟨by omega, by omega, by omega, by omega, trivial⟩, ?_⟩
  show some (Instr.slateAddImm d a (BitVec.ofNat 18 i.toNat)) = _
  rw [ofNat_toNat]
theorem Enc.slateSub (d : Nat) (a : Nat) (b : Nat) : Enc.Statement (.slateSub d a b) := by
  intro h
  change (decide (d < 16) && decide (a < 16) && decide (b < 16)) = true at h
  simp only [Bool.and_eq_true, decide_eq_true_eq] at h
  refine ⟨trivial, trivial, ⟨by omega, by omega, by omega, by omega, trivial⟩, ?_⟩
  show chk (b / 16 == 0) (Instr.slateSub d a (b % 16)) = _
  rw [show b / 16 = 0 from by omega, show b % 16 = b from by omega]
  rfl
theorem Enc.slateSubImm (d : Nat) (a : Nat) (i : BitVec 18) : Enc.Statement (.slateSubImm d a i) := by
  intro h
  change (decide (d < 16) && decide (a < 16)) = true at h
  simp only [Bool.and_eq_true, decide_eq_true_eq] at h
  have f2 := bv_lt _ i
  refine ⟨trivial, trivial, ⟨by omega, by omega, by omega, by omega, trivial⟩, ?_⟩
  show some (Instr.slateSubImm d a (BitVec.ofNat 18 i.toNat)) = _
  rw [ofNat_toNat]
theorem Enc.slateMul (d : Nat) (a : Nat) (b : Nat) : Enc.Statement (.slateMul d a b) := by
  intro h
  change (decide (d < 16) && decide (a < 16) && decide (b < 16)) = true at h
  simp only [Bool.and_eq_true, decide_eq_true_eq] at h
  refine ⟨trivial, trivial, ⟨by omega, by omega, by omega, by omega, trivial⟩, ?_⟩
  show chk (b / 16 == 0) (Instr.slateMul d a (b % 16)) = _
  rw [show b / 16 = 0 from by omega, show b % 16 = b from by omega]
  rfl
theorem Enc.slateMulImm (d : Nat) (a : Nat) (i : BitVec 18) : Enc.Statement (.slateMulImm d a i) := by
  intro h
  change (decide (d < 16) && decide (a < 16)) = true at h
  simp only [Bool.and_eq_true, decide_eq_true_eq] at h
  have f2 := bv_lt _ i
  refine ⟨trivial, trivial, ⟨by omega, by omega, by omega, by omega, trivial⟩, ?_⟩
  show some (Instr.slateMulImm d a (BitVec.ofNat 18 i.toNat)) = _
  rw [ofNat_toNat]
theorem Enc.slateAnd (d : Nat) (a : Nat) (b : Nat) : Enc.Statement (.slateAnd d a b) := by
  intro h
  change (decide (d < 16) && decide (a < 16) && decide (b < 16)) = true at h
  simp only [Bool.and_eq_true, decide_eq_true_eq] at h
  refine ⟨trivial, trivial, ⟨by omega, by omega, by omega, by omega, trivial⟩, ?_⟩
  show chk (b / 16 == 0) (Instr.slateAnd d a (b % 16)) = _
  rw [show b / 16 = 0 from by omega, show b % 16 = b from by omega]
  rfl
theorem Enc.slateAndImm (d : Nat) (a : Nat) (i : BitVec 18) : Enc.Statement (.slateAndImm d a i) := by
  intro h
  change (decide (d < 16) && decide (a < 16)) = true at h
  simp only [Bool.and_eq_true, decide_eq_true_eq] at h
  have f2 := bv_lt _ i
  refine ⟨trivial, trivial, ⟨by omega, by omega, by omega, by omega, trivial⟩, ?_⟩
  show some (Instr.slateAndImm d a (BitVec.ofNat 18 i.toNat)) = _
  rw [ofNat_toNat]
theorem Enc.slateOr (d : Nat) (a : Nat) (b : Nat) : Enc.Statement (.slateOr d a b) := by
  intro h
  change (decide (d < 16) && decide (a < 16) && decide (b < 16)) = true at h
  simp only [Bool.and_eq_true, decide_eq_true_eq] at h
  refine ⟨trivial, trivial, ⟨by omega, by omega, by omega, by omega, trivial⟩, ?_⟩
  show chk (b / 16 == 0) (Instr.slateOr d a (b % 16)) = _
  rw [show b / 16 = 0 from by omega, show b % 16 = b from by omega]
  rfl
theorem Enc.slateOrImm (d : Nat) (a : Nat) (i : BitVec 18) : Enc.Statement (.slateOrImm d a i) := by
  intro h
  change (decide (d < 16) && decide (a < 16)) = true at h
  simp only [Bool.and_eq_true, decide_eq_true_eq] at h
  have f2 := bv_lt _ i
  refine ⟨trivial, trivial, ⟨by omega, by omega, by omega, by omega, trivial⟩, ?_⟩
  show some (Instr.slateOrImm d a (BitVec.ofNat 18 i.toNat)) = _
  rw [ofNat_toNat]
theorem Enc.slateXor (d : Nat) (a : Nat) (b : Nat) : Enc.Statement (.slateXor d a b) := by
  intro h
  change (decide (d < 16) && decide (a < 16) && decide (b < 16)) = true at h
  simp only [Bool.and_eq_true, decide_eq_true_eq] at h
  refine ⟨trivial, trivial, ⟨by omega, by omega, by omega, by omega, trivial⟩, ?_⟩
  show chk (b / 16 == 0) (Instr.slateXor d a (b % 16)) = _
  rw [show b / 16 = 0 from by omega, show b % 16 = b from by omega]
  rfl
theorem Enc.slateXorImm (d : Nat) (a : Nat) (i : BitVec 18) : Enc.Statement (.slateXorImm d a i) := by
  intro h
  change (decide (d < 16) && decide (a < 16)) = true at h
  simp only [Bool.and_eq_true, decide_eq_true_eq] at h
  have f2 := bv_lt _ i
  refine ⟨trivial, trivial, ⟨by omega, by omega, by omega, by omega, trivial⟩, ?_⟩
  show some (Instr.slateXorImm d a (BitVec.ofNat 18 i.toNat)) = _
  rw [ofNat_toNat]
theorem Enc.slateShl (d : Nat) (a : Nat) (b : Nat) : Enc.Statement (.slateShl d a b) := by
  intro h
  change (decide (d < 16) && decide (a < 16) && decide (b < 16)) = true at h
  simp only [Bool.and_eq_true, decide_eq_true_eq] at h
  refine ⟨trivial, trivial, ⟨by omega, by omega, by omega, by omega, trivial⟩, ?_⟩
  show chk (b / 16 == 0) (Instr.slateShl d a (b % 16)) = _
  rw [show b / 16 = 0 from by omega, show b % 16 = b from by omega]
  rfl
theorem Enc.slateShlImm (d : Nat) (a : Nat) (i : BitVec 18) : Enc.Statement (.slateShlImm d a i) := by
  intro h
  change (decide (d < 16) && decide (a < 16)) = true at h
  simp only [Bool.and_eq_true, decide_eq_true_eq] at h
  have f2 := bv_lt _ i
  refine ⟨trivial, trivial, ⟨by omega, by omega, by omega, by omega, trivial⟩, ?_⟩
  show some (Instr.slateShlImm d a (BitVec.ofNat 18 i.toNat)) = _
  rw [ofNat_toNat]
theorem Enc.slateShr (d : Nat) (a : Nat) (b : Nat) : Enc.Statement (.slateShr d a b) := by
  intro h
  change (decide (d < 16) && decide (a < 16) && decide (b < 16)) = true at h
  simp only [Bool.and_eq_true, decide_eq_true_eq] at h
  refine ⟨trivial, trivial, ⟨by omega, by omega, by omega, by omega, trivial⟩, ?_⟩
  show chk (b / 16 == 0) (Instr.slateShr d a (b % 16)) = _
  rw [show b / 16 = 0 from by omega, show b % 16 = b from by omega]
  rfl
theorem Enc.slateShrImm (d : Nat) (a : Nat) (i : BitVec 18) : Enc.Statement (.slateShrImm d a i) := by
  intro h
  change (decide (d < 16) && decide (a < 16)) = true at h
  simp only [Bool.and_eq_true, decide_eq_true_eq] at h
  have f2 := bv_lt _ i
  refine ⟨trivial, trivial, ⟨by omega, by omega, by omega, by omega, trivial⟩, ?_⟩
  show some (Instr.slateShrImm d a (BitVec.ofNat 18 i.toNat)) = _
  rw [ofNat_toNat]
theorem Enc.slateMin (d : Nat) (a : Nat) (b : Nat) : Enc.Statement (.slateMin d a b) := by
  intro h
  change (decide (d < 16) && decide (a < 16) && decide (b < 16)) = true at h
  simp only [Bool.and_eq_true, decide_eq_true_eq] at h
  refine ⟨trivial, trivial, ⟨by omega, by omega, by omega, by omega, trivial⟩, ?_⟩
  show chk (b / 16 == 0) (Instr.slateMin d a (b % 16)) = _
  rw [show b / 16 = 0 from by omega, show b % 16 = b from by omega]
  rfl
theorem Enc.slateMinImm (d : Nat) (a : Nat) (i : BitVec 18) : Enc.Statement (.slateMinImm d a i) := by
  intro h
  change (decide (d < 16) && decide (a < 16)) = true at h
  simp only [Bool.and_eq_true, decide_eq_true_eq] at h
  have f2 := bv_lt _ i
  refine ⟨trivial, trivial, ⟨by omega, by omega, by omega, by omega, trivial⟩, ?_⟩
  show some (Instr.slateMinImm d a (BitVec.ofNat 18 i.toNat)) = _
  rw [ofNat_toNat]
theorem Enc.slateMax (d : Nat) (a : Nat) (b : Nat) : Enc.Statement (.slateMax d a b) := by
  intro h
  change (decide (d < 16) && decide (a < 16) && decide (b < 16)) = true at h
  simp only [Bool.and_eq_true, decide_eq_true_eq] at h
  refine ⟨trivial, trivial, ⟨by omega, by omega, by omega, by omega, trivial⟩, ?_⟩
  show chk (b / 16 == 0) (Instr.slateMax d a (b % 16)) = _
  rw [show b / 16 = 0 from by omega, show b % 16 = b from by omega]
  rfl
theorem Enc.slateMaxImm (d : Nat) (a : Nat) (i : BitVec 18) : Enc.Statement (.slateMaxImm d a i) := by
  intro h
  change (decide (d < 16) && decide (a < 16)) = true at h
  simp only [Bool.and_eq_true, decide_eq_true_eq] at h
  have f2 := bv_lt _ i
  refine ⟨trivial, trivial, ⟨by omega, by omega, by omega, by omega, trivial⟩, ?_⟩
  show some (Instr.slateMaxImm d a (BitVec.ofNat 18 i.toNat)) = _
  rw [ofNat_toNat]
theorem Enc.slateCmplt (d : Nat) (a : Nat) (b : Nat) : Enc.Statement (.slateCmplt d a b) := by
  intro h
  change (decide (d < 16) && decide (a < 16) && decide (b < 16)) = true at h
  simp only [Bool.and_eq_true, decide_eq_true_eq] at h
  refine ⟨trivial, trivial, ⟨by omega, by omega, by omega, by omega, trivial⟩, ?_⟩
  show chk (b / 16 == 0) (Instr.slateCmplt d a (b % 16)) = _
  rw [show b / 16 = 0 from by omega, show b % 16 = b from by omega]
  rfl
theorem Enc.slateCmpltImm (d : Nat) (a : Nat) (i : BitVec 18) : Enc.Statement (.slateCmpltImm d a i) := by
  intro h
  change (decide (d < 16) && decide (a < 16)) = true at h
  simp only [Bool.and_eq_true, decide_eq_true_eq] at h
  have f2 := bv_lt _ i
  refine ⟨trivial, trivial, ⟨by omega, by omega, by omega, by omega, trivial⟩, ?_⟩
  show some (Instr.slateCmpltImm d a (BitVec.ofNat 18 i.toNat)) = _
  rw [ofNat_toNat]
theorem Enc.slateCmpeq (d : Nat) (a : Nat) (b : Nat) : Enc.Statement (.slateCmpeq d a b) := by
  intro h
  change (decide (d < 16) && decide (a < 16) && decide (b < 16)) = true at h
  simp only [Bool.and_eq_true, decide_eq_true_eq] at h
  refine ⟨trivial, trivial, ⟨by omega, by omega, by omega, by omega, trivial⟩, ?_⟩
  show chk (b / 16 == 0) (Instr.slateCmpeq d a (b % 16)) = _
  rw [show b / 16 = 0 from by omega, show b % 16 = b from by omega]
  rfl
theorem Enc.slateCmpeqImm (d : Nat) (a : Nat) (i : BitVec 18) : Enc.Statement (.slateCmpeqImm d a i) := by
  intro h
  change (decide (d < 16) && decide (a < 16)) = true at h
  simp only [Bool.and_eq_true, decide_eq_true_eq] at h
  have f2 := bv_lt _ i
  refine ⟨trivial, trivial, ⟨by omega, by omega, by omega, by omega, trivial⟩, ?_⟩
  show some (Instr.slateCmpeqImm d a (BitVec.ofNat 18 i.toNat)) = _
  rw [ofNat_toNat]
theorem Enc.slateSel (d : Nat) (a : Nat) (b : Nat) : Enc.Statement (.slateSel d a b) := by
  intro h
  change (decide (d < 16) && decide (a < 16) && decide (b < 16)) = true at h
  simp only [Bool.and_eq_true, decide_eq_true_eq] at h
  refine ⟨trivial, trivial, ⟨by omega, by omega, by omega, by omega, trivial⟩, ?_⟩
  show chk (b / 16 == 0) (Instr.slateSel d a (b % 16)) = _
  rw [show b / 16 = 0 from by omega, show b % 16 = b from by omega]
  rfl
theorem Enc.slateSelImm (d : Nat) (a : Nat) (i : BitVec 18) : Enc.Statement (.slateSelImm d a i) := by
  intro h
  change (decide (d < 16) && decide (a < 16)) = true at h
  simp only [Bool.and_eq_true, decide_eq_true_eq] at h
  have f2 := bv_lt _ i
  refine ⟨trivial, trivial, ⟨by omega, by omega, by omega, by omega, trivial⟩, ?_⟩
  show some (Instr.slateSelImm d a (BitVec.ofNat 18 i.toNat)) = _
  rw [ofNat_toNat]
theorem Enc.nop (g : Guard) : Enc.Statement (.nop g) := by
  intro h
  change (g.ok) = true at h
  have hg : g.ok = true := h
  have f0 := guard_lt g hg
  have f1 := bool_lt g.neg
  refine ⟨⟨?_, rfl, fun _ => rfl, fun y => ?_⟩, trivial, trivial⟩
  · exact ⟨by omega, by omega, by omega, by omega, by omega, by omega, by omega, by omega, by omega, by omega, by omega, by omega, trivial⟩
  · show (mkGuard g.p g.neg.toNat).bind _ = _
    rw [mkGuard_ok g hg]
    show some (Instr.nop g) = _
    rfl
theorem Enc.add (g : Guard) (sd : Nat) (sa : Nat) (sb : Nat) : Enc.Statement (.add g sd sa sb) := by
  intro h
  change (g.ok && sOk sd && sOk sa && sOk sb) = true at h
  simp only [Bool.and_eq_true, sOk, decide_eq_true_eq] at h
  have hg : g.ok = true := h.1.1.1
  have f0 := guard_lt g hg
  have f1 := bool_lt g.neg
  refine ⟨⟨?_, rfl, fun _ => rfl, fun y => ?_⟩, trivial, trivial⟩
  · exact ⟨by omega, by omega, by omega, by omega, by omega, by omega, by omega, by omega, by omega, by omega, by omega, by omega, trivial⟩
  · show (mkGuard g.p g.neg.toNat).bind _ = _
    rw [mkGuard_ok g hg]
    show some (Instr.add g sd sa sb) = _
    rfl
theorem Enc.sub (g : Guard) (sd : Nat) (sa : Nat) (sb : Nat) : Enc.Statement (.sub g sd sa sb) := by
  intro h
  change (g.ok && sOk sd && sOk sa && sOk sb) = true at h
  simp only [Bool.and_eq_true, sOk, decide_eq_true_eq] at h
  have hg : g.ok = true := h.1.1.1
  have f0 := guard_lt g hg
  have f1 := bool_lt g.neg
  refine ⟨⟨?_, rfl, fun _ => rfl, fun y => ?_⟩, trivial, trivial⟩
  · exact ⟨by omega, by omega, by omega, by omega, by omega, by omega, by omega, by omega, by omega, by omega, by omega, by omega, trivial⟩
  · show (mkGuard g.p g.neg.toNat).bind _ = _
    rw [mkGuard_ok g hg]
    show some (Instr.sub g sd sa sb) = _
    rfl
theorem Enc.mul (g : Guard) (sd : Nat) (sa : Nat) (sb : Nat) : Enc.Statement (.mul g sd sa sb) := by
  intro h
  change (g.ok && sOk sd && sOk sa && sOk sb) = true at h
  simp only [Bool.and_eq_true, sOk, decide_eq_true_eq] at h
  have hg : g.ok = true := h.1.1.1
  have f0 := guard_lt g hg
  have f1 := bool_lt g.neg
  refine ⟨⟨?_, rfl, fun _ => rfl, fun y => ?_⟩, trivial, trivial⟩
  · exact ⟨by omega, by omega, by omega, by omega, by omega, by omega, by omega, by omega, by omega, by omega, by omega, by omega, trivial⟩
  · show (mkGuard g.p g.neg.toNat).bind _ = _
    rw [mkGuard_ok g hg]
    show some (Instr.mul g sd sa sb) = _
    rfl
theorem Enc.mulh (g : Guard) (sd : Nat) (sa : Nat) (sb : Nat) : Enc.Statement (.mulh g sd sa sb) := by
  intro h
  change (g.ok && sOk sd && sOk sa && sOk sb) = true at h
  simp only [Bool.and_eq_true, sOk, decide_eq_true_eq] at h
  have hg : g.ok = true := h.1.1.1
  have f0 := guard_lt g hg
  have f1 := bool_lt g.neg
  refine ⟨⟨?_, rfl, fun _ => rfl, fun y => ?_⟩, trivial, trivial⟩
  · exact ⟨by omega, by omega, by omega, by omega, by omega, by omega, by omega, by omega, by omega, by omega, by omega, by omega, trivial⟩
  · show (mkGuard g.p g.neg.toNat).bind _ = _
    rw [mkGuard_ok g hg]
    show some (Instr.mulh g sd sa sb) = _
    rfl
theorem Enc.mulhu (g : Guard) (sd : Nat) (sa : Nat) (sb : Nat) : Enc.Statement (.mulhu g sd sa sb) := by
  intro h
  change (g.ok && sOk sd && sOk sa && sOk sb) = true at h
  simp only [Bool.and_eq_true, sOk, decide_eq_true_eq] at h
  have hg : g.ok = true := h.1.1.1
  have f0 := guard_lt g hg
  have f1 := bool_lt g.neg
  refine ⟨⟨?_, rfl, fun _ => rfl, fun y => ?_⟩, trivial, trivial⟩
  · exact ⟨by omega, by omega, by omega, by omega, by omega, by omega, by omega, by omega, by omega, by omega, by omega, by omega, trivial⟩
  · show (mkGuard g.p g.neg.toNat).bind _ = _
    rw [mkGuard_ok g hg]
    show some (Instr.mulhu g sd sa sb) = _
    rfl
theorem Enc.div (g : Guard) (sd : Nat) (sa : Nat) (sb : Nat) : Enc.Statement (.div g sd sa sb) := by
  intro h
  change (g.ok && sOk sd && sOk sa && sOk sb) = true at h
  simp only [Bool.and_eq_true, sOk, decide_eq_true_eq] at h
  have hg : g.ok = true := h.1.1.1
  have f0 := guard_lt g hg
  have f1 := bool_lt g.neg
  refine ⟨⟨?_, rfl, fun _ => rfl, fun y => ?_⟩, trivial, trivial⟩
  · exact ⟨by omega, by omega, by omega, by omega, by omega, by omega, by omega, by omega, by omega, by omega, by omega, by omega, trivial⟩
  · show (mkGuard g.p g.neg.toNat).bind _ = _
    rw [mkGuard_ok g hg]
    show some (Instr.div g sd sa sb) = _
    rfl
theorem Enc.divu (g : Guard) (sd : Nat) (sa : Nat) (sb : Nat) : Enc.Statement (.divu g sd sa sb) := by
  intro h
  change (g.ok && sOk sd && sOk sa && sOk sb) = true at h
  simp only [Bool.and_eq_true, sOk, decide_eq_true_eq] at h
  have hg : g.ok = true := h.1.1.1
  have f0 := guard_lt g hg
  have f1 := bool_lt g.neg
  refine ⟨⟨?_, rfl, fun _ => rfl, fun y => ?_⟩, trivial, trivial⟩
  · exact ⟨by omega, by omega, by omega, by omega, by omega, by omega, by omega, by omega, by omega, by omega, by omega, by omega, trivial⟩
  · show (mkGuard g.p g.neg.toNat).bind _ = _
    rw [mkGuard_ok g hg]
    show some (Instr.divu g sd sa sb) = _
    rfl
theorem Enc.rem (g : Guard) (sd : Nat) (sa : Nat) (sb : Nat) : Enc.Statement (.rem g sd sa sb) := by
  intro h
  change (g.ok && sOk sd && sOk sa && sOk sb) = true at h
  simp only [Bool.and_eq_true, sOk, decide_eq_true_eq] at h
  have hg : g.ok = true := h.1.1.1
  have f0 := guard_lt g hg
  have f1 := bool_lt g.neg
  refine ⟨⟨?_, rfl, fun _ => rfl, fun y => ?_⟩, trivial, trivial⟩
  · exact ⟨by omega, by omega, by omega, by omega, by omega, by omega, by omega, by omega, by omega, by omega, by omega, by omega, trivial⟩
  · show (mkGuard g.p g.neg.toNat).bind _ = _
    rw [mkGuard_ok g hg]
    show some (Instr.rem g sd sa sb) = _
    rfl
theorem Enc.remu (g : Guard) (sd : Nat) (sa : Nat) (sb : Nat) : Enc.Statement (.remu g sd sa sb) := by
  intro h
  change (g.ok && sOk sd && sOk sa && sOk sb) = true at h
  simp only [Bool.and_eq_true, sOk, decide_eq_true_eq] at h
  have hg : g.ok = true := h.1.1.1
  have f0 := guard_lt g hg
  have f1 := bool_lt g.neg
  refine ⟨⟨?_, rfl, fun _ => rfl, fun y => ?_⟩, trivial, trivial⟩
  · exact ⟨by omega, by omega, by omega, by omega, by omega, by omega, by omega, by omega, by omega, by omega, by omega, by omega, trivial⟩
  · show (mkGuard g.p g.neg.toNat).bind _ = _
    rw [mkGuard_ok g hg]
    show some (Instr.remu g sd sa sb) = _
    rfl
theorem Enc.andR (g : Guard) (sd : Nat) (sa : Nat) (sb : Nat) : Enc.Statement (.andR g sd sa sb) := by
  intro h
  change (g.ok && sOk sd && sOk sa && sOk sb) = true at h
  simp only [Bool.and_eq_true, sOk, decide_eq_true_eq] at h
  have hg : g.ok = true := h.1.1.1
  have f0 := guard_lt g hg
  have f1 := bool_lt g.neg
  refine ⟨⟨?_, rfl, fun _ => rfl, fun y => ?_⟩, trivial, trivial⟩
  · exact ⟨by omega, by omega, by omega, by omega, by omega, by omega, by omega, by omega, by omega, by omega, by omega, by omega, trivial⟩
  · show (mkGuard g.p g.neg.toNat).bind _ = _
    rw [mkGuard_ok g hg]
    show some (Instr.andR g sd sa sb) = _
    rfl
theorem Enc.orR (g : Guard) (sd : Nat) (sa : Nat) (sb : Nat) : Enc.Statement (.orR g sd sa sb) := by
  intro h
  change (g.ok && sOk sd && sOk sa && sOk sb) = true at h
  simp only [Bool.and_eq_true, sOk, decide_eq_true_eq] at h
  have hg : g.ok = true := h.1.1.1
  have f0 := guard_lt g hg
  have f1 := bool_lt g.neg
  refine ⟨⟨?_, rfl, fun _ => rfl, fun y => ?_⟩, trivial, trivial⟩
  · exact ⟨by omega, by omega, by omega, by omega, by omega, by omega, by omega, by omega, by omega, by omega, by omega, by omega, trivial⟩
  · show (mkGuard g.p g.neg.toNat).bind _ = _
    rw [mkGuard_ok g hg]
    show some (Instr.orR g sd sa sb) = _
    rfl
theorem Enc.xorR (g : Guard) (sd : Nat) (sa : Nat) (sb : Nat) : Enc.Statement (.xorR g sd sa sb) := by
  intro h
  change (g.ok && sOk sd && sOk sa && sOk sb) = true at h
  simp only [Bool.and_eq_true, sOk, decide_eq_true_eq] at h
  have hg : g.ok = true := h.1.1.1
  have f0 := guard_lt g hg
  have f1 := bool_lt g.neg
  refine ⟨⟨?_, rfl, fun _ => rfl, fun y => ?_⟩, trivial, trivial⟩
  · exact ⟨by omega, by omega, by omega, by omega, by omega, by omega, by omega, by omega, by omega, by omega, by omega, by omega, trivial⟩
  · show (mkGuard g.p g.neg.toNat).bind _ = _
    rw [mkGuard_ok g hg]
    show some (Instr.xorR g sd sa sb) = _
    rfl
theorem Enc.andn (g : Guard) (sd : Nat) (sa : Nat) (sb : Nat) : Enc.Statement (.andn g sd sa sb) := by
  intro h
  change (g.ok && sOk sd && sOk sa && sOk sb) = true at h
  simp only [Bool.and_eq_true, sOk, decide_eq_true_eq] at h
  have hg : g.ok = true := h.1.1.1
  have f0 := guard_lt g hg
  have f1 := bool_lt g.neg
  refine ⟨⟨?_, rfl, fun _ => rfl, fun y => ?_⟩, trivial, trivial⟩
  · exact ⟨by omega, by omega, by omega, by omega, by omega, by omega, by omega, by omega, by omega, by omega, by omega, by omega, trivial⟩
  · show (mkGuard g.p g.neg.toNat).bind _ = _
    rw [mkGuard_ok g hg]
    show some (Instr.andn g sd sa sb) = _
    rfl
theorem Enc.shl (g : Guard) (sd : Nat) (sa : Nat) (sb : Nat) : Enc.Statement (.shl g sd sa sb) := by
  intro h
  change (g.ok && sOk sd && sOk sa && sOk sb) = true at h
  simp only [Bool.and_eq_true, sOk, decide_eq_true_eq] at h
  have hg : g.ok = true := h.1.1.1
  have f0 := guard_lt g hg
  have f1 := bool_lt g.neg
  refine ⟨⟨?_, rfl, fun _ => rfl, fun y => ?_⟩, trivial, trivial⟩
  · exact ⟨by omega, by omega, by omega, by omega, by omega, by omega, by omega, by omega, by omega, by omega, by omega, by omega, trivial⟩
  · show (mkGuard g.p g.neg.toNat).bind _ = _
    rw [mkGuard_ok g hg]
    show some (Instr.shl g sd sa sb) = _
    rfl
theorem Enc.shr (g : Guard) (sd : Nat) (sa : Nat) (sb : Nat) : Enc.Statement (.shr g sd sa sb) := by
  intro h
  change (g.ok && sOk sd && sOk sa && sOk sb) = true at h
  simp only [Bool.and_eq_true, sOk, decide_eq_true_eq] at h
  have hg : g.ok = true := h.1.1.1
  have f0 := guard_lt g hg
  have f1 := bool_lt g.neg
  refine ⟨⟨?_, rfl, fun _ => rfl, fun y => ?_⟩, trivial, trivial⟩
  · exact ⟨by omega, by omega, by omega, by omega, by omega, by omega, by omega, by omega, by omega, by omega, by omega, by omega, trivial⟩
  · show (mkGuard g.p g.neg.toNat).bind _ = _
    rw [mkGuard_ok g hg]
    show some (Instr.shr g sd sa sb) = _
    rfl
theorem Enc.sar (g : Guard) (sd : Nat) (sa : Nat) (sb : Nat) : Enc.Statement (.sar g sd sa sb) := by
  intro h
  change (g.ok && sOk sd && sOk sa && sOk sb) = true at h
  simp only [Bool.and_eq_true, sOk, decide_eq_true_eq] at h
  have hg : g.ok = true := h.1.1.1
  have f0 := guard_lt g hg
  have f1 := bool_lt g.neg
  refine ⟨⟨?_, rfl, fun _ => rfl, fun y => ?_⟩, trivial, trivial⟩
  · exact ⟨by omega, by omega, by omega, by omega, by omega, by omega, by omega, by omega, by omega, by omega, by omega, by omega, trivial⟩
  · show (mkGuard g.p g.neg.toNat).bind _ = _
    rw [mkGuard_ok g hg]
    show some (Instr.sar g sd sa sb) = _
    rfl
theorem Enc.minR (g : Guard) (sd : Nat) (sa : Nat) (sb : Nat) : Enc.Statement (.minR g sd sa sb) := by
  intro h
  change (g.ok && sOk sd && sOk sa && sOk sb) = true at h
  simp only [Bool.and_eq_true, sOk, decide_eq_true_eq] at h
  have hg : g.ok = true := h.1.1.1
  have f0 := guard_lt g hg
  have f1 := bool_lt g.neg
  refine ⟨⟨?_, rfl, fun _ => rfl, fun y => ?_⟩, trivial, trivial⟩
  · exact ⟨by omega, by omega, by omega, by omega, by omega, by omega, by omega, by omega, by omega, by omega, by omega, by omega, trivial⟩
  · show (mkGuard g.p g.neg.toNat).bind _ = _
    rw [mkGuard_ok g hg]
    show some (Instr.minR g sd sa sb) = _
    rfl
theorem Enc.maxR (g : Guard) (sd : Nat) (sa : Nat) (sb : Nat) : Enc.Statement (.maxR g sd sa sb) := by
  intro h
  change (g.ok && sOk sd && sOk sa && sOk sb) = true at h
  simp only [Bool.and_eq_true, sOk, decide_eq_true_eq] at h
  have hg : g.ok = true := h.1.1.1
  have f0 := guard_lt g hg
  have f1 := bool_lt g.neg
  refine ⟨⟨?_, rfl, fun _ => rfl, fun y => ?_⟩, trivial, trivial⟩
  · exact ⟨by omega, by omega, by omega, by omega, by omega, by omega, by omega, by omega, by omega, by omega, by omega, by omega, trivial⟩
  · show (mkGuard g.p g.neg.toNat).bind _ = _
    rw [mkGuard_ok g hg]
    show some (Instr.maxR g sd sa sb) = _
    rfl
theorem Enc.minu (g : Guard) (sd : Nat) (sa : Nat) (sb : Nat) : Enc.Statement (.minu g sd sa sb) := by
  intro h
  change (g.ok && sOk sd && sOk sa && sOk sb) = true at h
  simp only [Bool.and_eq_true, sOk, decide_eq_true_eq] at h
  have hg : g.ok = true := h.1.1.1
  have f0 := guard_lt g hg
  have f1 := bool_lt g.neg
  refine ⟨⟨?_, rfl, fun _ => rfl, fun y => ?_⟩, trivial, trivial⟩
  · exact ⟨by omega, by omega, by omega, by omega, by omega, by omega, by omega, by omega, by omega, by omega, by omega, by omega, trivial⟩
  · show (mkGuard g.p g.neg.toNat).bind _ = _
    rw [mkGuard_ok g hg]
    show some (Instr.minu g sd sa sb) = _
    rfl
theorem Enc.maxu (g : Guard) (sd : Nat) (sa : Nat) (sb : Nat) : Enc.Statement (.maxu g sd sa sb) := by
  intro h
  change (g.ok && sOk sd && sOk sa && sOk sb) = true at h
  simp only [Bool.and_eq_true, sOk, decide_eq_true_eq] at h
  have hg : g.ok = true := h.1.1.1
  have f0 := guard_lt g hg
  have f1 := bool_lt g.neg
  refine ⟨⟨?_, rfl, fun _ => rfl, fun y => ?_⟩, trivial, trivial⟩
  · exact ⟨by omega, by omega, by omega, by omega, by omega, by omega, by omega, by omega, by omega, by omega, by omega, by omega, trivial⟩
  · show (mkGuard g.p g.neg.toNat).bind _ = _
    rw [mkGuard_ok g hg]
    show some (Instr.maxu g sd sa sb) = _
    rfl
theorem Enc.clz (g : Guard) (sd : Nat) (sa : Nat) : Enc.Statement (.clz g sd sa) := by
  intro h
  change (g.ok && sOk sd && sOk sa) = true at h
  simp only [Bool.and_eq_true, sOk, decide_eq_true_eq] at h
  have hg : g.ok = true := h.1.1
  have f0 := guard_lt g hg
  have f1 := bool_lt g.neg
  refine ⟨⟨?_, rfl, fun _ => rfl, fun y => ?_⟩, trivial, trivial⟩
  · exact ⟨by omega, by omega, by omega, by omega, by omega, by omega, by omega, by omega, by omega, by omega, by omega, by omega, trivial⟩
  · show (mkGuard g.p g.neg.toNat).bind _ = _
    rw [mkGuard_ok g hg]
    show some (Instr.clz g sd sa) = _
    rfl
theorem Enc.ctz (g : Guard) (sd : Nat) (sa : Nat) : Enc.Statement (.ctz g sd sa) := by
  intro h
  change (g.ok && sOk sd && sOk sa) = true at h
  simp only [Bool.and_eq_true, sOk, decide_eq_true_eq] at h
  have hg : g.ok = true := h.1.1
  have f0 := guard_lt g hg
  have f1 := bool_lt g.neg
  refine ⟨⟨?_, rfl, fun _ => rfl, fun y => ?_⟩, trivial, trivial⟩
  · exact ⟨by omega, by omega, by omega, by omega, by omega, by omega, by omega, by omega, by omega, by omega, by omega, by omega, trivial⟩
  · show (mkGuard g.p g.neg.toNat).bind _ = _
    rw [mkGuard_ok g hg]
    show some (Instr.ctz g sd sa) = _
    rfl
theorem Enc.popc (g : Guard) (sd : Nat) (sa : Nat) : Enc.Statement (.popc g sd sa) := by
  intro h
  change (g.ok && sOk sd && sOk sa) = true at h
  simp only [Bool.and_eq_true, sOk, decide_eq_true_eq] at h
  have hg : g.ok = true := h.1.1
  have f0 := guard_lt g hg
  have f1 := bool_lt g.neg
  refine ⟨⟨?_, rfl, fun _ => rfl, fun y => ?_⟩, trivial, trivial⟩
  · exact ⟨by omega, by omega, by omega, by omega, by omega, by omega, by omega, by omega, by omega, by omega, by omega, by omega, trivial⟩
  · show (mkGuard g.p g.neg.toNat).bind _ = _
    rw [mkGuard_ok g hg]
    show some (Instr.popc g sd sa) = _
    rfl
theorem Enc.ext (g : Guard) (sd : Nat) (sa : Nat) (x : Ext) : Enc.Statement (.ext g sd sa x) := by
  intro h
  change (g.ok && sOk sd && sOk sa) = true at h
  simp only [Bool.and_eq_true, sOk, decide_eq_true_eq] at h
  have hg : g.ok = true := h.1.1
  have f0 := guard_lt g hg
  have f1 := bool_lt g.neg
  have f2 := ext_lt x
  refine ⟨⟨?_, rfl, fun _ => rfl, fun y => ?_⟩, trivial, trivial⟩
  · exact ⟨by omega, by omega, by omega, by omega, by omega, by omega, by omega, by omega, by omega, by omega, by omega, by omega, trivial⟩
  · show (mkGuard g.p g.neg.toNat).bind _ = _
    rw [mkGuard_ok g hg]
    show (Ext.ofCode x.code).bind _ = _
    rw [ext_code]
    show some (Instr.ext g sd sa x) = _
    rfl
theorem Enc.sel (g : Guard) (sd : Nat) (sa : Nat) (sb : Nat) (pa : Nat) : Enc.Statement (.sel g sd sa sb pa) := by
  intro h
  change (g.ok && sOk sd && sOk sa && sOk sb && pOk pa) = true at h
  simp only [Bool.and_eq_true, sOk, pOk, decide_eq_true_eq] at h
  have hg : g.ok = true := h.1.1.1.1
  have f0 := guard_lt g hg
  have f1 := bool_lt g.neg
  refine ⟨⟨?_, rfl, fun _ => rfl, fun y => ?_⟩, trivial, trivial⟩
  · exact ⟨by omega, by omega, by omega, by omega, by omega, by omega, by omega, by omega, by omega, by omega, by omega, by omega, trivial⟩
  · show (mkGuard g.p g.neg.toNat).bind _ = _
    rw [mkGuard_ok g hg]
    show some (Instr.sel g sd sa sb pa) = _
    rfl
theorem Enc.cmp (g : Guard) (c : Cond) (sa : Nat) (sb : Nat) (pd : Nat) : Enc.Statement (.cmp g c sa sb pd) := by
  intro h
  change (g.ok && sOk sa && sOk sb && pdOk pd) = true at h
  simp only [Bool.and_eq_true, sOk, pdOk, decide_eq_true_eq] at h
  have hg : g.ok = true := h.1.1.1
  have f0 := guard_lt g hg
  have f1 := bool_lt g.neg
  have f2 := cond_lt c
  refine ⟨⟨?_, rfl, fun _ => rfl, fun y => ?_⟩, trivial, trivial⟩
  · exact ⟨by omega, by omega, by omega, by omega, by omega, by omega, by omega, by omega, by omega, by omega, by omega, by omega, trivial⟩
  · show (mkGuard g.p g.neg.toNat).bind _ = _
    rw [mkGuard_ok g hg]
    show (Cond.ofCode c.code).bind _ = _
    rw [cond_code]
    show some (Instr.cmp g c sa sb pd) = _
    rfl
theorem Enc.madd (g : Guard) (sd : Nat) (sa : Nat) (sb : Nat) (sc : Nat) : Enc.Statement (.madd g sd sa sb sc) := by
  intro h
  change (g.ok && sOk sd && sOk sa && sOk sb && sOk sc) = true at h
  simp only [Bool.and_eq_true, sOk, decide_eq_true_eq] at h
  have hg : g.ok = true := h.1.1.1.1
  have f0 := guard_lt g hg
  have f1 := bool_lt g.neg
  refine ⟨⟨?_, rfl, fun _ => rfl, fun y => ?_⟩, trivial, trivial⟩
  · exact ⟨by omega, by omega, by omega, by omega, by omega, by omega, by omega, by omega, by omega, by omega, by omega, by omega, trivial⟩
  · show (mkGuard g.p g.neg.toNat).bind _ = _
    rw [mkGuard_ok g hg]
    show some (Instr.madd g sd sa sb sc) = _
    rfl
theorem Enc.pand (g : Guard) (pd : Nat) (pa : Nat) (pb : Nat) : Enc.Statement (.pand g pd pa pb) := by
  intro h
  change (g.ok && pdOk pd && pOk pa && pOk pb) = true at h
  simp only [Bool.and_eq_true, pOk, pdOk, decide_eq_true_eq] at h
  have hg : g.ok = true := h.1.1.1
  have f0 := guard_lt g hg
  have f1 := bool_lt g.neg
  refine ⟨⟨?_, rfl, fun _ => rfl, fun y => ?_⟩, trivial, trivial⟩
  · exact ⟨by omega, by omega, by omega, by omega, by omega, by omega, by omega, by omega, by omega, by omega, by omega, by omega, trivial⟩
  · show (mkGuard g.p g.neg.toNat).bind _ = _
    rw [mkGuard_ok g hg]
    show some (Instr.pand g pd pa pb) = _
    rfl
theorem Enc.por (g : Guard) (pd : Nat) (pa : Nat) (pb : Nat) : Enc.Statement (.por g pd pa pb) := by
  intro h
  change (g.ok && pdOk pd && pOk pa && pOk pb) = true at h
  simp only [Bool.and_eq_true, pOk, pdOk, decide_eq_true_eq] at h
  have hg : g.ok = true := h.1.1.1
  have f0 := guard_lt g hg
  have f1 := bool_lt g.neg
  refine ⟨⟨?_, rfl, fun _ => rfl, fun y => ?_⟩, trivial, trivial⟩
  · exact ⟨by omega, by omega, by omega, by omega, by omega, by omega, by omega, by omega, by omega, by omega, by omega, by omega, trivial⟩
  · show (mkGuard g.p g.neg.toNat).bind _ = _
    rw [mkGuard_ok g hg]
    show some (Instr.por g pd pa pb) = _
    rfl
theorem Enc.pxor (g : Guard) (pd : Nat) (pa : Nat) (pb : Nat) : Enc.Statement (.pxor g pd pa pb) := by
  intro h
  change (g.ok && pdOk pd && pOk pa && pOk pb) = true at h
  simp only [Bool.and_eq_true, pOk, pdOk, decide_eq_true_eq] at h
  have hg : g.ok = true := h.1.1.1
  have f0 := guard_lt g hg
  have f1 := bool_lt g.neg
  refine ⟨⟨?_, rfl, fun _ => rfl, fun y => ?_⟩, trivial, trivial⟩
  · exact ⟨by omega, by omega, by omega, by omega, by omega, by omega, by omega, by omega, by omega, by omega, by omega, by omega, trivial⟩
  · show (mkGuard g.p g.neg.toNat).bind _ = _
    rw [mkGuard_ok g hg]
    show some (Instr.pxor g pd pa pb) = _
    rfl
theorem Enc.pnot (g : Guard) (pd : Nat) (pa : Nat) : Enc.Statement (.pnot g pd pa) := by
  intro h
  change (g.ok && pdOk pd && pOk pa) = true at h
  simp only [Bool.and_eq_true, pOk, pdOk, decide_eq_true_eq] at h
  have hg : g.ok = true := h.1.1
  have f0 := guard_lt g hg
  have f1 := bool_lt g.neg
  refine ⟨⟨?_, rfl, fun _ => rfl, fun y => ?_⟩, trivial, trivial⟩
  · exact ⟨by omega, by omega, by omega, by omega, by omega, by omega, by omega, by omega, by omega, by omega, by omega, by omega, trivial⟩
  · show (mkGuard g.p g.neg.toNat).bind _ = _
    rw [mkGuard_ok g hg]
    show some (Instr.pnot g pd pa) = _
    rfl
theorem Enc.pget (g : Guard) (sd : Nat) : Enc.Statement (.pget g sd) := by
  intro h
  change (g.ok && sOk sd) = true at h
  simp only [Bool.and_eq_true, sOk, decide_eq_true_eq] at h
  have hg : g.ok = true := h.1
  have f0 := guard_lt g hg
  have f1 := bool_lt g.neg
  refine ⟨⟨?_, rfl, fun _ => rfl, fun y => ?_⟩, trivial, trivial⟩
  · exact ⟨by omega, by omega, by omega, by omega, by omega, by omega, by omega, by omega, by omega, by omega, by omega, by omega, trivial⟩
  · show (mkGuard g.p g.neg.toNat).bind _ = _
    rw [mkGuard_ok g hg]
    show some (Instr.pget g sd) = _
    rfl
theorem Enc.pset (g : Guard) (sa : Nat) : Enc.Statement (.pset g sa) := by
  intro h
  change (g.ok && sOk sa) = true at h
  simp only [Bool.and_eq_true, sOk, decide_eq_true_eq] at h
  have hg : g.ok = true := h.1
  have f0 := guard_lt g hg
  have f1 := bool_lt g.neg
  refine ⟨⟨?_, rfl, fun _ => rfl, fun y => ?_⟩, trivial, trivial⟩
  · exact ⟨by omega, by omega, by omega, by omega, by omega, by omega, by omega, by omega, by omega, by omega, by omega, by omega, trivial⟩
  · show (mkGuard g.p g.neg.toNat).bind _ = _
    rw [mkGuard_ok g hg]
    show some (Instr.pset g sa) = _
    rfl
theorem Enc.addImm (g : Guard) (sd : Nat) (sa : Nat) (imm : BitVec 32) : Enc.Statement (.addImm g sd sa imm) := by
  intro h
  change (g.ok && sOk sd && sOk sa) = true at h
  simp only [Bool.and_eq_true, sOk, decide_eq_true_eq] at h
  have hg : g.ok = true := h.1.1
  have f0 := guard_lt g hg
  have f1 := bool_lt g.neg
  have f2 := bv_lt _ imm
  refine ⟨⟨?_, rfl, fun _ => rfl, fun y => ?_⟩, trivial, trivial⟩
  · exact ⟨by omega, by omega, by omega, by omega, by omega, by omega, by omega, by omega, by omega, trivial⟩
  · show (mkGuard g.p g.neg.toNat).bind _ = _
    rw [mkGuard_ok g hg]
    show some (Instr.addImm g sd sa (BitVec.ofNat 32 imm.toNat)) = _
    simp only [ofNat_toNat]
theorem Enc.subImm (g : Guard) (sd : Nat) (sa : Nat) (imm : BitVec 32) : Enc.Statement (.subImm g sd sa imm) := by
  intro h
  change (g.ok && sOk sd && sOk sa) = true at h
  simp only [Bool.and_eq_true, sOk, decide_eq_true_eq] at h
  have hg : g.ok = true := h.1.1
  have f0 := guard_lt g hg
  have f1 := bool_lt g.neg
  have f2 := bv_lt _ imm
  refine ⟨⟨?_, rfl, fun _ => rfl, fun y => ?_⟩, trivial, trivial⟩
  · exact ⟨by omega, by omega, by omega, by omega, by omega, by omega, by omega, by omega, by omega, trivial⟩
  · show (mkGuard g.p g.neg.toNat).bind _ = _
    rw [mkGuard_ok g hg]
    show some (Instr.subImm g sd sa (BitVec.ofNat 32 imm.toNat)) = _
    simp only [ofNat_toNat]
theorem Enc.mulImm (g : Guard) (sd : Nat) (sa : Nat) (imm : BitVec 32) : Enc.Statement (.mulImm g sd sa imm) := by
  intro h
  change (g.ok && sOk sd && sOk sa) = true at h
  simp only [Bool.and_eq_true, sOk, decide_eq_true_eq] at h
  have hg : g.ok = true := h.1.1
  have f0 := guard_lt g hg
  have f1 := bool_lt g.neg
  have f2 := bv_lt _ imm
  refine ⟨⟨?_, rfl, fun _ => rfl, fun y => ?_⟩, trivial, trivial⟩
  · exact ⟨by omega, by omega, by omega, by omega, by omega, by omega, by omega, by omega, by omega, trivial⟩
  · show (mkGuard g.p g.neg.toNat).bind _ = _
    rw [mkGuard_ok g hg]
    show some (Instr.mulImm g sd sa (BitVec.ofNat 32 imm.toNat)) = _
    simp only [ofNat_toNat]
theorem Enc.andImm (g : Guard) (sd : Nat) (sa : Nat) (imm : BitVec 32) : Enc.Statement (.andImm g sd sa imm) := by
  intro h
  change (g.ok && sOk sd && sOk sa) = true at h
  simp only [Bool.and_eq_true, sOk, decide_eq_true_eq] at h
  have hg : g.ok = true := h.1.1
  have f0 := guard_lt g hg
  have f1 := bool_lt g.neg
  have f2 := bv_lt _ imm
  refine ⟨⟨?_, rfl, fun _ => rfl, fun y => ?_⟩, trivial, trivial⟩
  · exact ⟨by omega, by omega, by omega, by omega, by omega, by omega, by omega, by omega, by omega, trivial⟩
  · show (mkGuard g.p g.neg.toNat).bind _ = _
    rw [mkGuard_ok g hg]
    show some (Instr.andImm g sd sa (BitVec.ofNat 32 imm.toNat)) = _
    simp only [ofNat_toNat]
theorem Enc.orImm (g : Guard) (sd : Nat) (sa : Nat) (imm : BitVec 32) : Enc.Statement (.orImm g sd sa imm) := by
  intro h
  change (g.ok && sOk sd && sOk sa) = true at h
  simp only [Bool.and_eq_true, sOk, decide_eq_true_eq] at h
  have hg : g.ok = true := h.1.1
  have f0 := guard_lt g hg
  have f1 := bool_lt g.neg
  have f2 := bv_lt _ imm
  refine ⟨⟨?_, rfl, fun _ => rfl, fun y => ?_⟩, trivial, trivial⟩
  · exact ⟨by omega, by omega, by omega, by omega, by omega, by omega, by omega, by omega, by omega, trivial⟩
  · show (mkGuard g.p g.neg.toNat).bind _ = _
    rw [mkGuard_ok g hg]
    show some (Instr.orImm g sd sa (BitVec.ofNat 32 imm.toNat)) = _
    simp only [ofNat_toNat]
theorem Enc.xorImm (g : Guard) (sd : Nat) (sa : Nat) (imm : BitVec 32) : Enc.Statement (.xorImm g sd sa imm) := by
  intro h
  change (g.ok && sOk sd && sOk sa) = true at h
  simp only [Bool.and_eq_true, sOk, decide_eq_true_eq] at h
  have hg : g.ok = true := h.1.1
  have f0 := guard_lt g hg
  have f1 := bool_lt g.neg
  have f2 := bv_lt _ imm
  refine ⟨⟨?_, rfl, fun _ => rfl, fun y => ?_⟩, trivial, trivial⟩
  · exact ⟨by omega, by omega, by omega, by omega, by omega, by omega, by omega, by omega, by omega, trivial⟩
  · show (mkGuard g.p g.neg.toNat).bind _ = _
    rw [mkGuard_ok g hg]
    show some (Instr.xorImm g sd sa (BitVec.ofNat 32 imm.toNat)) = _
    simp only [ofNat_toNat]
theorem Enc.shlImm (g : Guard) (sd : Nat) (sa : Nat) (imm : BitVec 32) : Enc.Statement (.shlImm g sd sa imm) := by
  intro h
  change (g.ok && sOk sd && sOk sa) = true at h
  simp only [Bool.and_eq_true, sOk, decide_eq_true_eq] at h
  have hg : g.ok = true := h.1.1
  have f0 := guard_lt g hg
  have f1 := bool_lt g.neg
  have f2 := bv_lt _ imm
  refine ⟨⟨?_, rfl, fun _ => rfl, fun y => ?_⟩, trivial, trivial⟩
  · exact ⟨by omega, by omega, by omega, by omega, by omega, by omega, by omega, by omega, by omega, trivial⟩
  · show (mkGuard g.p g.neg.toNat).bind _ = _
    rw [mkGuard_ok g hg]
    show some (Instr.shlImm g sd sa (BitVec.ofNat 32 imm.toNat)) = _
    simp only [ofNat_toNat]
theorem Enc.shrImm (g : Guard) (sd : Nat) (sa : Nat) (imm : BitVec 32) : Enc.Statement (.shrImm g sd sa imm) := by
  intro h
  change (g.ok && sOk sd && sOk sa) = true at h
  simp only [Bool.and_eq_true, sOk, decide_eq_true_eq] at h
  have hg : g.ok = true := h.1.1
  have f0 := guard_lt g hg
  have f1 := bool_lt g.neg
  have f2 := bv_lt _ imm
  refine ⟨⟨?_, rfl, fun _ => rfl, fun y => ?_⟩, trivial, trivial⟩
  · exact ⟨by omega, by omega, by omega, by omega, by omega, by omega, by omega, by omega, by omega, trivial⟩
  · show (mkGuard g.p g.neg.toNat).bind _ = _
    rw [mkGuard_ok g hg]
    show some (Instr.shrImm g sd sa (BitVec.ofNat 32 imm.toNat)) = _
    simp only [ofNat_toNat]
theorem Enc.sarImm (g : Guard) (sd : Nat) (sa : Nat) (imm : BitVec 32) : Enc.Statement (.sarImm g sd sa imm) := by
  intro h
  change (g.ok && sOk sd && sOk sa) = true at h
  simp only [Bool.and_eq_true, sOk, decide_eq_true_eq] at h
  have hg : g.ok = true := h.1.1
  have f0 := guard_lt g hg
  have f1 := bool_lt g.neg
  have f2 := bv_lt _ imm
  refine ⟨⟨?_, rfl, fun _ => rfl, fun y => ?_⟩, trivial, trivial⟩
  · exact ⟨by omega, by omega, by omega, by omega, by omega, by omega, by omega, by omega, by omega, trivial⟩
  · show (mkGuard g.p g.neg.toNat).bind _ = _
    rw [mkGuard_ok g hg]
    show some (Instr.sarImm g sd sa (BitVec.ofNat 32 imm.toNat)) = _
    simp only [ofNat_toNat]
theorem Enc.minImm (g : Guard) (sd : Nat) (sa : Nat) (imm : BitVec 32) : Enc.Statement (.minImm g sd sa imm) := by
  intro h
  change (g.ok && sOk sd && sOk sa) = true at h
  simp only [Bool.and_eq_true, sOk, decide_eq_true_eq] at h
  have hg : g.ok = true := h.1.1
  have f0 := guard_lt g hg
  have f1 := bool_lt g.neg
  have f2 := bv_lt _ imm
  refine ⟨⟨?_, rfl, fun _ => rfl, fun y => ?_⟩, trivial, trivial⟩
  · exact ⟨by omega, by omega, by omega, by omega, by omega, by omega, by omega, by omega, by omega, trivial⟩
  · show (mkGuard g.p g.neg.toNat).bind _ = _
    rw [mkGuard_ok g hg]
    show some (Instr.minImm g sd sa (BitVec.ofNat 32 imm.toNat)) = _
    simp only [ofNat_toNat]
theorem Enc.maxImm (g : Guard) (sd : Nat) (sa : Nat) (imm : BitVec 32) : Enc.Statement (.maxImm g sd sa imm) := by
  intro h
  change (g.ok && sOk sd && sOk sa) = true at h
  simp only [Bool.and_eq_true, sOk, decide_eq_true_eq] at h
  have hg : g.ok = true := h.1.1
  have f0 := guard_lt g hg
  have f1 := bool_lt g.neg
  have f2 := bv_lt _ imm
  refine ⟨⟨?_, rfl, fun _ => rfl, fun y => ?_⟩, trivial, trivial⟩
  · exact ⟨by omega, by omega, by omega, by omega, by omega, by omega, by omega, by omega, by omega, trivial⟩
  · show (mkGuard g.p g.neg.toNat).bind _ = _
    rw [mkGuard_ok g hg]
    show some (Instr.maxImm g sd sa (BitVec.ofNat 32 imm.toNat)) = _
    simp only [ofNat_toNat]
theorem Enc.minuImm (g : Guard) (sd : Nat) (sa : Nat) (imm : BitVec 32) : Enc.Statement (.minuImm g sd sa imm) := by
  intro h
  change (g.ok && sOk sd && sOk sa) = true at h
  simp only [Bool.and_eq_true, sOk, decide_eq_true_eq] at h
  have hg : g.ok = true := h.1.1
  have f0 := guard_lt g hg
  have f1 := bool_lt g.neg
  have f2 := bv_lt _ imm
  refine ⟨⟨?_, rfl, fun _ => rfl, fun y => ?_⟩, trivial, trivial⟩
  · exact ⟨by omega, by omega, by omega, by omega, by omega, by omega, by omega, by omega, by omega, trivial⟩
  · show (mkGuard g.p g.neg.toNat).bind _ = _
    rw [mkGuard_ok g hg]
    show some (Instr.minuImm g sd sa (BitVec.ofNat 32 imm.toNat)) = _
    simp only [ofNat_toNat]
theorem Enc.maxuImm (g : Guard) (sd : Nat) (sa : Nat) (imm : BitVec 32) : Enc.Statement (.maxuImm g sd sa imm) := by
  intro h
  change (g.ok && sOk sd && sOk sa) = true at h
  simp only [Bool.and_eq_true, sOk, decide_eq_true_eq] at h
  have hg : g.ok = true := h.1.1
  have f0 := guard_lt g hg
  have f1 := bool_lt g.neg
  have f2 := bv_lt _ imm
  refine ⟨⟨?_, rfl, fun _ => rfl, fun y => ?_⟩, trivial, trivial⟩
  · exact ⟨by omega, by omega, by omega, by omega, by omega, by omega, by omega, by omega, by omega, trivial⟩
  · show (mkGuard g.p g.neg.toNat).bind _ = _
    rw [mkGuard_ok g hg]
    show some (Instr.maxuImm g sd sa (BitVec.ofNat 32 imm.toNat)) = _
    simp only [ofNat_toNat]
theorem Enc.cmpImm (g : Guard) (c : Cond) (sa : Nat) (pd : Nat) (imm : BitVec 32) : Enc.Statement (.cmpImm g c sa pd imm) := by
  intro h
  change (g.ok && sOk sa && pdOk pd) = true at h
  simp only [Bool.and_eq_true, sOk, pdOk, decide_eq_true_eq] at h
  have hg : g.ok = true := h.1.1
  have f0 := guard_lt g hg
  have f1 := bool_lt g.neg
  have f2 := cond_lt c
  have f3 := bv_lt _ imm
  refine ⟨⟨?_, rfl, fun _ => rfl, fun y => ?_⟩, trivial, trivial⟩
  · exact ⟨by omega, by omega, by omega, by omega, by omega, by omega, by omega, by omega, by omega, trivial⟩
  · show (mkGuard g.p g.neg.toNat).bind _ = _
    rw [mkGuard_ok g hg]
    show (Cond.ofCode c.code).bind _ = _
    rw [cond_code]
    show some (Instr.cmpImm g c sa pd (BitVec.ofNat 32 imm.toNat)) = _
    simp only [ofNat_toNat]
theorem Enc.sppeer (g : Guard) (sd : Nat) (sa : Nat) (imm : BitVec 32) : Enc.Statement (.sppeer g sd sa imm) := by
  intro h
  change (g.ok && sOk sd && sOk sa && imm.extractLsb' 22 10 == 0#10) = true at h
  simp only [Bool.and_eq_true, sOk, decide_eq_true_eq] at h
  have hg : g.ok = true := h.1.1.1
  have f0 := guard_lt g hg
  have f1 := bool_lt g.neg
  have f2 := bv_lt _ imm
  refine ⟨⟨?_, rfl, fun _ => rfl, fun y => ?_⟩, trivial, trivial⟩
  · exact ⟨by omega, by omega, by omega, by omega, by omega, by omega, by omega, by omega, by omega, trivial⟩
  · show (mkGuard g.p g.neg.toNat).bind _ = _
    rw [mkGuard_ok g hg]
    show some (Instr.sppeer g sd sa (BitVec.ofNat 32 imm.toNat)) = _
    simp only [ofNat_toNat]
theorem Enc.addpc (g : Guard) (sd : Nat) (imm : BitVec 32) : Enc.Statement (.addpc g sd imm) := by
  intro h
  change (g.ok && sOk sd) = true at h
  simp only [Bool.and_eq_true, sOk, decide_eq_true_eq] at h
  have hg : g.ok = true := h.1
  have f0 := guard_lt g hg
  have f1 := bool_lt g.neg
  have f2 := bv_lt _ imm
  refine ⟨⟨?_, rfl, fun _ => rfl, fun y => ?_⟩, trivial, trivial⟩
  · exact ⟨by omega, by omega, by omega, by omega, by omega, by omega, by omega, by omega, by omega, trivial⟩
  · show (mkGuard g.p g.neg.toNat).bind _ = _
    rw [mkGuard_ok g hg]
    show some (Instr.addpc g sd (BitVec.ofNat 32 imm.toNat)) = _
    simp only [ofNat_toNat]
theorem Enc.lds (g : Guard) (k : LdKind) (sd : Nat) (sa : Nat) (imm : BitVec 32) : Enc.Statement (.lds g k sd sa imm) := by
  intro h
  change (g.ok && sOk sd && sOk sa) = true at h
  simp only [Bool.and_eq_true, sOk, decide_eq_true_eq] at h
  have hg : g.ok = true := h.1.1
  have f0 := guard_lt g hg
  have f1 := bool_lt g.neg
  have f2 := bv_lt _ imm
  cases k
  all_goals
    refine ⟨⟨?_, rfl, fun _ => rfl, fun y => ?_⟩, trivial, trivial⟩
    · exact ⟨by omega, by omega, by omega, by decide, by omega, by omega, by omega, by omega, by omega, trivial⟩
    · show (mkGuard g.p g.neg.toNat).bind _ = _
      rw [mkGuard_ok g hg]
      show some (Instr.lds g _ sd sa (BitVec.ofNat 32 imm.toNat)) = _
      simp only [ofNat_toNat]
theorem Enc.sts (g : Guard) (k : StKind) (sd : Nat) (sa : Nat) (imm : BitVec 32) : Enc.Statement (.sts g k sd sa imm) := by
  intro h
  change (g.ok && sOk sd && sOk sa) = true at h
  simp only [Bool.and_eq_true, sOk, decide_eq_true_eq] at h
  have hg : g.ok = true := h.1.1
  have f0 := guard_lt g hg
  have f1 := bool_lt g.neg
  have f2 := bv_lt _ imm
  cases k
  all_goals
    refine ⟨⟨?_, rfl, fun _ => rfl, fun y => ?_⟩, trivial, trivial⟩
    · exact ⟨by omega, by omega, by omega, by decide, by omega, by omega, by omega, by omega, by omega, trivial⟩
    · show (mkGuard g.p g.neg.toNat).bind _ = _
      rw [mkGuard_ok g hg]
      show some (Instr.sts g _ sd sa (BitVec.ofNat 32 imm.toNat)) = _
      simp only [ofNat_toNat]
theorem Enc.ldg (g : Guard) (k : LdKind) (sd : Nat) (sa : Nat) (imm : BitVec 32) : Enc.Statement (.ldg g k sd sa imm) := by
  intro h
  change (g.ok && sOk sd && sOk sa) = true at h
  simp only [Bool.and_eq_true, sOk, decide_eq_true_eq] at h
  have hg : g.ok = true := h.1.1
  have f0 := guard_lt g hg
  have f1 := bool_lt g.neg
  have f2 := bv_lt _ imm
  cases k
  all_goals
    refine ⟨⟨?_, rfl, fun _ => rfl, fun y => ?_⟩, trivial, trivial⟩
    · exact ⟨by omega, by omega, by omega, by decide, by omega, by omega, by omega, by omega, by omega, trivial⟩
    · show (mkGuard g.p g.neg.toNat).bind _ = _
      rw [mkGuard_ok g hg]
      show some (Instr.ldg g _ sd sa (BitVec.ofNat 32 imm.toNat)) = _
      simp only [ofNat_toNat]
theorem Enc.stg (g : Guard) (k : StKind) (sd : Nat) (sa : Nat) (imm : BitVec 32) : Enc.Statement (.stg g k sd sa imm) := by
  intro h
  change (g.ok && sOk sd && sOk sa) = true at h
  simp only [Bool.and_eq_true, sOk, decide_eq_true_eq] at h
  have hg : g.ok = true := h.1.1
  have f0 := guard_lt g hg
  have f1 := bool_lt g.neg
  have f2 := bv_lt _ imm
  cases k
  all_goals
    refine ⟨⟨?_, rfl, fun _ => rfl, fun y => ?_⟩, trivial, trivial⟩
    · exact ⟨by omega, by omega, by omega, by decide, by omega, by omega, by omega, by omega, by omega, trivial⟩
    · show (mkGuard g.p g.neg.toNat).bind _ = _
      rw [mkGuard_ok g hg]
      show some (Instr.stg g _ sd sa (BitVec.ofNat 32 imm.toNat)) = _
      simp only [ofNat_toNat]
theorem Enc.br (g : Guard) (disp : BitVec 32) : Enc.Statement (.br g disp) := by
  intro h
  change (g.ok) = true at h
  have hg : g.ok = true := h
  have f0 := guard_lt g hg
  have f1 := bool_lt g.neg
  have f2 := bv_lt _ disp
  refine ⟨⟨?_, rfl, fun _ => rfl, fun y => ?_⟩, trivial, trivial⟩
  · exact ⟨by omega, by omega, by omega, by omega, by omega, by omega, by omega, trivial⟩
  · show (mkGuard g.p g.neg.toNat).bind _ = _
    rw [mkGuard_ok g hg]
    show some (Instr.br g (BitVec.ofNat 32 disp.toNat)) = _
    simp only [ofNat_toNat]
theorem Enc.bz (g : Guard) (sa : Nat) (disp : BitVec 32) : Enc.Statement (.bz g sa disp) := by
  intro h
  change (g.ok && sOk sa) = true at h
  simp only [Bool.and_eq_true, sOk, decide_eq_true_eq] at h
  have hg : g.ok = true := h.1
  have f0 := guard_lt g hg
  have f1 := bool_lt g.neg
  have f2 := bv_lt _ disp
  refine ⟨⟨?_, rfl, fun _ => rfl, fun y => ?_⟩, trivial, trivial⟩
  · exact ⟨by omega, by omega, by omega, by omega, by omega, by omega, by omega, trivial⟩
  · show (mkGuard g.p g.neg.toNat).bind _ = _
    rw [mkGuard_ok g hg]
    show some (Instr.bz g sa (BitVec.ofNat 32 disp.toNat)) = _
    simp only [ofNat_toNat]
theorem Enc.bnz (g : Guard) (sa : Nat) (disp : BitVec 32) : Enc.Statement (.bnz g sa disp) := by
  intro h
  change (g.ok && sOk sa) = true at h
  simp only [Bool.and_eq_true, sOk, decide_eq_true_eq] at h
  have hg : g.ok = true := h.1
  have f0 := guard_lt g hg
  have f1 := bool_lt g.neg
  have f2 := bv_lt _ disp
  refine ⟨⟨?_, rfl, fun _ => rfl, fun y => ?_⟩, trivial, trivial⟩
  · exact ⟨by omega, by omega, by omega, by omega, by omega, by omega, by omega, trivial⟩
  · show (mkGuard g.p g.neg.toNat).bind _ = _
    rw [mkGuard_ok g hg]
    show some (Instr.bnz g sa (BitVec.ofNat 32 disp.toNat)) = _
    simp only [ofNat_toNat]
theorem Enc.brmz (g : Guard) (disp : BitVec 32) : Enc.Statement (.brmz g disp) := by
  intro h
  change (g.ok) = true at h
  have hg : g.ok = true := h
  have f0 := guard_lt g hg
  have f1 := bool_lt g.neg
  have f2 := bv_lt _ disp
  refine ⟨⟨?_, rfl, fun _ => rfl, fun y => ?_⟩, trivial, trivial⟩
  · exact ⟨by omega, by omega, by omega, by omega, by omega, by omega, by omega, trivial⟩
  · show (mkGuard g.p g.neg.toNat).bind _ = _
    rw [mkGuard_ok g hg]
    show some (Instr.brmz g (BitVec.ofNat 32 disp.toNat)) = _
    simp only [ofNat_toNat]
theorem Enc.call (g : Guard) (disp : BitVec 32) : Enc.Statement (.call g disp) := by
  intro h
  change (g.ok) = true at h
  have hg : g.ok = true := h
  have f0 := guard_lt g hg
  have f1 := bool_lt g.neg
  have f2 := bv_lt _ disp
  refine ⟨⟨?_, rfl, fun _ => rfl, fun y => ?_⟩, trivial, trivial⟩
  · exact ⟨by omega, by omega, by omega, by omega, by omega, by omega, by omega, trivial⟩
  · show (mkGuard g.p g.neg.toNat).bind _ = _
    rw [mkGuard_ok g hg]
    show some (Instr.call g (BitVec.ofNat 32 disp.toNat)) = _
    simp only [ofNat_toNat]
theorem Enc.callr (g : Guard) (sa : Nat) : Enc.Statement (.callr g sa) := by
  intro h
  change (g.ok && sOk sa) = true at h
  simp only [Bool.and_eq_true, sOk, decide_eq_true_eq] at h
  have hg : g.ok = true := h.1
  have f0 := guard_lt g hg
  have f1 := bool_lt g.neg
  refine ⟨⟨?_, rfl, fun _ => rfl, fun y => ?_⟩, trivial, trivial⟩
  · exact ⟨by omega, by omega, by omega, by omega, by omega, by omega, by omega, trivial⟩
  · show (mkGuard g.p g.neg.toNat).bind _ = _
    rw [mkGuard_ok g hg]
    show some (Instr.callr g sa) = _
    rfl
theorem Enc.ret (g : Guard) : Enc.Statement (.ret g) := by
  intro h
  change (g.ok) = true at h
  have hg : g.ok = true := h
  have f0 := guard_lt g hg
  have f1 := bool_lt g.neg
  refine ⟨⟨?_, rfl, fun _ => rfl, fun y => ?_⟩, trivial, trivial⟩
  · exact ⟨by omega, by omega, by omega, by omega, by omega, by omega, by omega, trivial⟩
  · show (mkGuard g.p g.neg.toNat).bind _ = _
    rw [mkGuard_ok g hg]
    show some (Instr.ret g) = _
    rfl
theorem Enc.jr (g : Guard) (sa : Nat) : Enc.Statement (.jr g sa) := by
  intro h
  change (g.ok && sOk sa) = true at h
  simp only [Bool.and_eq_true, sOk, decide_eq_true_eq] at h
  have hg : g.ok = true := h.1
  have f0 := guard_lt g hg
  have f1 := bool_lt g.neg
  refine ⟨⟨?_, rfl, fun _ => rfl, fun y => ?_⟩, trivial, trivial⟩
  · exact ⟨by omega, by omega, by omega, by omega, by omega, by omega, by omega, trivial⟩
  · show (mkGuard g.p g.neg.toNat).bind _ = _
    rw [mkGuard_ok g hg]
    show some (Instr.jr g sa) = _
    rfl
theorem Enc.loop (g : Guard) (sa : Nat) (disp : BitVec 32) : Enc.Statement (.loop g sa disp) := by
  intro h
  change (g.ok && sOk sa) = true at h
  simp only [Bool.and_eq_true, sOk, decide_eq_true_eq] at h
  have hg : g.ok = true := h.1
  have f0 := guard_lt g hg
  have f1 := bool_lt g.neg
  have f2 := bv_lt _ disp
  refine ⟨⟨?_, rfl, fun _ => rfl, fun y => ?_⟩, trivial, trivial⟩
  · exact ⟨by omega, by omega, by omega, by omega, by omega, by omega, by omega, trivial⟩
  · show (mkGuard g.p g.neg.toNat).bind _ = _
    rw [mkGuard_ok g hg]
    show some (Instr.loop g sa (BitVec.ofNat 32 disp.toNat)) = _
    simp only [ofNat_toNat]
theorem Enc.loopq (g : Guard) (disp : BitVec 32) : Enc.Statement (.loopq g disp) := by
  intro h
  change (g.ok) = true at h
  have hg : g.ok = true := h
  have f0 := guard_lt g hg
  have f1 := bool_lt g.neg
  have f2 := bv_lt _ disp
  refine ⟨⟨?_, rfl, fun _ => rfl, fun y => ?_⟩, trivial, trivial⟩
  · exact ⟨by omega, by omega, by omega, by omega, by omega, by omega, by omega, trivial⟩
  · show (mkGuard g.p g.neg.toNat).bind _ = _
    rw [mkGuard_ok g hg]
    show some (Instr.loopq g (BitVec.ofNat 32 disp.toNat)) = _
    simp only [ofNat_toNat]
theorem Enc.exit (g : Guard) : Enc.Statement (.exit g) := by
  intro h
  change (g.ok) = true at h
  have hg : g.ok = true := h
  have f0 := guard_lt g hg
  have f1 := bool_lt g.neg
  refine ⟨⟨?_, rfl, fun _ => rfl, fun y => ?_⟩, trivial, trivial⟩
  · exact ⟨by omega, by omega, by omega, by omega, by omega, by omega, by omega, trivial⟩
  · show (mkGuard g.p g.neg.toNat).bind _ = _
    rw [mkGuard_ok g hg]
    show some (Instr.exit g) = _
    rfl
theorem Enc.li (g : Guard) (sd : Nat) (imm : BitVec 64) : Enc.Statement (.li g sd imm) := by
  intro h
  change (g.ok && sOk sd) = true at h
  simp only [Bool.and_eq_true, sOk, decide_eq_true_eq] at h
  have hg : g.ok = true := h.1
  have f0 := guard_lt g hg
  have f1 := bool_lt g.neg
  refine ⟨⟨?_, rfl, fun hc => absurd rfl hc, fun y => ?_⟩, trivial, trivial⟩
  · exact ⟨by omega, by omega, by omega, by omega, by omega, by omega, by omega, trivial⟩
  · show (mkGuard g.p g.neg.toNat).bind _ = _
    rw [mkGuard_ok g hg]
    show some (Instr.li g sd imm) = _
    rfl
theorem Enc.addx (g : Guard) (sd : Nat) (sa : Nat) (imm : BitVec 64) : Enc.Statement (.addx g sd sa imm) := by
  intro h
  change (g.ok && sOk sd && sOk sa) = true at h
  simp only [Bool.and_eq_true, sOk, decide_eq_true_eq] at h
  have hg : g.ok = true := h.1.1
  have f0 := guard_lt g hg
  have f1 := bool_lt g.neg
  refine ⟨⟨?_, rfl, fun hc => absurd rfl hc, fun y => ?_⟩, trivial, trivial⟩
  · exact ⟨by omega, by omega, by omega, by omega, by omega, by omega, by omega, trivial⟩
  · show (mkGuard g.p g.neg.toNat).bind _ = _
    rw [mkGuard_ok g hg]
    show some (Instr.addx g sd sa imm) = _
    rfl
theorem Enc.andx (g : Guard) (sd : Nat) (sa : Nat) (imm : BitVec 64) : Enc.Statement (.andx g sd sa imm) := by
  intro h
  change (g.ok && sOk sd && sOk sa) = true at h
  simp only [Bool.and_eq_true, sOk, decide_eq_true_eq] at h
  have hg : g.ok = true := h.1.1
  have f0 := guard_lt g hg
  have f1 := bool_lt g.neg
  refine ⟨⟨?_, rfl, fun hc => absurd rfl hc, fun y => ?_⟩, trivial, trivial⟩
  · exact ⟨by omega, by omega, by omega, by omega, by omega, by omega, by omega, trivial⟩
  · show (mkGuard g.p g.neg.toNat).bind _ = _
    rw [mkGuard_ok g hg]
    show some (Instr.andx g sd sa imm) = _
    rfl
theorem Enc.orx (g : Guard) (sd : Nat) (sa : Nat) (imm : BitVec 64) : Enc.Statement (.orx g sd sa imm) := by
  intro h
  change (g.ok && sOk sd && sOk sa) = true at h
  simp only [Bool.and_eq_true, sOk, decide_eq_true_eq] at h
  have hg : g.ok = true := h.1.1
  have f0 := guard_lt g hg
  have f1 := bool_lt g.neg
  refine ⟨⟨?_, rfl, fun hc => absurd rfl hc, fun y => ?_⟩, trivial, trivial⟩
  · exact ⟨by omega, by omega, by omega, by omega, by omega, by omega, by omega, trivial⟩
  · show (mkGuard g.p g.neg.toNat).bind _ = _
    rw [mkGuard_ok g hg]
    show some (Instr.orx g sd sa imm) = _
    rfl
theorem Enc.csrr (g : Guard) (sd : Nat) (csr : Nat) : Enc.Statement (.csrr g sd csr) := by
  intro h
  change (g.ok && sOk sd && csrReadable csr) = true at h
  simp only [Bool.and_eq_true, sOk, decide_eq_true_eq] at h
  have hg : g.ok = true := h.1.1
  have f0 := guard_lt g hg
  have f1 := bool_lt g.neg
  have f2 := csrR_lt csr h.2
  refine ⟨⟨?_, rfl, fun _ => rfl, fun y => ?_⟩, trivial, trivial⟩
  · exact ⟨by omega, by omega, by omega, by omega, by omega, by omega, by omega, by omega, by omega, trivial⟩
  · show (mkGuard g.p g.neg.toNat).bind _ = _
    rw [mkGuard_ok g hg]
    show some (Instr.csrr g sd csr) = _
    rfl
theorem Enc.csrw (g : Guard) (sa : Nat) (csr : Nat) : Enc.Statement (.csrw g sa csr) := by
  intro h
  change (g.ok && sOk sa && csrWritable csr) = true at h
  simp only [Bool.and_eq_true, sOk, decide_eq_true_eq] at h
  have hg : g.ok = true := h.1.1
  have f0 := guard_lt g hg
  have f1 := bool_lt g.neg
  have f2 := csrW_lt csr h.2
  refine ⟨⟨?_, rfl, fun _ => rfl, fun y => ?_⟩, trivial, trivial⟩
  · exact ⟨by omega, by omega, by omega, by omega, by omega, by omega, by omega, by omega, by omega, trivial⟩
  · show (mkGuard g.p g.neg.toNat).bind _ = _
    rw [mkGuard_ok g hg]
    show some (Instr.csrw g sa csr) = _
    rfl
theorem Enc.csrs (g : Guard) (sa : Nat) (csr : Nat) : Enc.Statement (.csrs g sa csr) := by
  intro h
  change (g.ok && sOk sa && csrWritable csr) = true at h
  simp only [Bool.and_eq_true, sOk, decide_eq_true_eq] at h
  have hg : g.ok = true := h.1.1
  have f0 := guard_lt g hg
  have f1 := bool_lt g.neg
  have f2 := csrW_lt csr h.2
  refine ⟨⟨?_, rfl, fun _ => rfl, fun y => ?_⟩, trivial, trivial⟩
  · exact ⟨by omega, by omega, by omega, by omega, by omega, by omega, by omega, by omega, by omega, trivial⟩
  · show (mkGuard g.p g.neg.toNat).bind _ = _
    rw [mkGuard_ok g hg]
    show some (Instr.csrs g sa csr) = _
    rfl
theorem Enc.csrc (g : Guard) (sa : Nat) (csr : Nat) : Enc.Statement (.csrc g sa csr) := by
  intro h
  change (g.ok && sOk sa && csrWritable csr) = true at h
  simp only [Bool.and_eq_true, sOk, decide_eq_true_eq] at h
  have hg : g.ok = true := h.1.1
  have f0 := guard_lt g hg
  have f1 := bool_lt g.neg
  have f2 := csrW_lt csr h.2
  refine ⟨⟨?_, rfl, fun _ => rfl, fun y => ?_⟩, trivial, trivial⟩
  · exact ⟨by omega, by omega, by omega, by omega, by omega, by omega, by omega, by omega, by omega, trivial⟩
  · show (mkGuard g.p g.neg.toNat).bind _ = _
    rw [mkGuard_ok g hg]
    show some (Instr.csrc g sa csr) = _
    rfl
theorem Enc.trap (g : Guard) (imm : BitVec 16) : Enc.Statement (.trap g imm) := by
  intro h
  change (g.ok) = true at h
  have hg : g.ok = true := h
  have f0 := guard_lt g hg
  have f1 := bool_lt g.neg
  have f2 := bv_lt _ imm
  refine ⟨⟨?_, rfl, fun _ => rfl, fun y => ?_⟩, trivial, trivial⟩
  · exact ⟨by omega, by omega, by omega, by omega, by omega, by omega, by omega, by omega, by omega, trivial⟩
  · show (mkGuard g.p g.neg.toNat).bind _ = _
    rw [mkGuard_ok g hg]
    show some (Instr.trap g (BitVec.ofNat 16 imm.toNat)) = _
    simp only [ofNat_toNat]
theorem Enc.brk (g : Guard) (imm : BitVec 16) : Enc.Statement (.brk g imm) := by
  intro h
  change (g.ok) = true at h
  have hg : g.ok = true := h
  have f0 := guard_lt g hg
  have f1 := bool_lt g.neg
  have f2 := bv_lt _ imm
  refine ⟨⟨?_, rfl, fun _ => rfl, fun y => ?_⟩, trivial, trivial⟩
  · exact ⟨by omega, by omega, by omega, by omega, by omega, by omega, by omega, by omega, by omega, trivial⟩
  · show (mkGuard g.p g.neg.toNat).bind _ = _
    rw [mkGuard_ok g hg]
    show some (Instr.brk g (BitVec.ofNat 16 imm.toNat)) = _
    simp only [ofNat_toNat]
theorem Enc.icinv (g : Guard) : Enc.Statement (.icinv g) := by
  intro h
  change (g.ok) = true at h
  have hg : g.ok = true := h
  have f0 := guard_lt g hg
  have f1 := bool_lt g.neg
  refine ⟨⟨?_, rfl, fun _ => rfl, fun y => ?_⟩, trivial, trivial⟩
  · exact ⟨by omega, by omega, by omega, by omega, by omega, by omega, by omega, by omega, by omega, trivial⟩
  · show (mkGuard g.p g.neg.toNat).bind _ = _
    rw [mkGuard_ok g hg]
    show some (Instr.icinv g) = _
    rfl
theorem Enc.fmtpush (g : Guard) (sa : Nat) : Enc.Statement (.fmtpush g sa) := by
  intro h
  change (g.ok && sOk sa) = true at h
  simp only [Bool.and_eq_true, sOk, decide_eq_true_eq] at h
  have hg : g.ok = true := h.1
  have f0 := guard_lt g hg
  have f1 := bool_lt g.neg
  refine ⟨⟨?_, rfl, fun _ => rfl, fun y => ?_⟩, trivial, trivial⟩
  · exact ⟨by omega, by omega, by omega, by omega, by omega, by omega, by omega, by omega, by omega, trivial⟩
  · show (mkGuard g.p g.neg.toNat).bind _ = _
    rw [mkGuard_ok g hg]
    show some (Instr.fmtpush g sa) = _
    rfl
theorem Enc.pair (g : Guard) (sop : SOp) (sd : Nat) (sa : Nat) (sb : Nat) (vop : VOp) (vd : Nat) (va : Nat) (vb : Nat) : Enc.Statement (.pair g sop sd sa sb vop vd va vb) := by
  intro h
  change (g.ok && sOk sd && sOk sa && sOk sb && vOk vd && vOk va && vOk vb && (sop != .nop || (sd == 0 && sa == 0 && sb == 0)) && (vop != .nop || (vd == 0 && va == 0 && vb == 0)) && (vop != .mov || vb == 0)) = true at h
  simp only [Bool.and_eq_true, sOk, vOk, decide_eq_true_eq] at h
  have hg : g.ok = true := h.1.1.1.1.1.1.1.1.1
  have f0 := guard_lt g hg
  have f1 := bool_lt g.neg
  have f2 := sop_lt sop
  have f3 := vop_lt vop
  refine ⟨⟨?_, rfl, fun _ => rfl, fun y => ?_⟩, trivial, trivial⟩
  · exact ⟨by omega, by omega, by omega, by omega, by omega, by omega, by omega, by omega, by omega, by omega, by omega, trivial⟩
  · show (mkGuard g.p g.neg.toNat).bind _ = _
    rw [mkGuard_ok g hg]
    show (SOp.ofCode sop.code).bind _ = _
    rw [sop_code]
    show (VOp.ofCode vop.code).bind _ = _
    rw [vop_code]
    show some (Instr.pair g sop sd sa sb vop vd va vb) = _
    rfl
theorem Enc.vadd (g : Guard) (vd : Nat) (va : Nat) (vb : Nat) (ty : VType) (rnd : Rnd) (sat : Bool) : Enc.Statement (.vadd g vd va vb ty rnd sat) := by
  intro h
  change (g.ok && vOk vd && vOk va && vOk vb && arithOk ty rnd sat) = true at h
  simp only [Bool.and_eq_true, vOk, decide_eq_true_eq] at h
  have hg : g.ok = true := h.1.1.1.1
  have f0 := guard_lt g hg
  have f1 := bool_lt g.neg
  have f2 := vtype_lt ty
  have f3 := rnd_lt rnd
  have f4 := bool_lt sat
  refine ⟨⟨?_, rfl, fun _ => rfl, fun y => ?_⟩, trivial, trivial⟩
  · exact ⟨by omega, by omega, by omega, by omega, by omega, by omega, by omega, by omega, by omega, by omega, by omega, by omega, trivial⟩
  · show (mkGuard g.p g.neg.toNat).bind _ = _
    rw [mkGuard_ok g hg]
    show (VType.ofCode ty.code).bind _ = _
    rw [vtype_code]
    show (Rnd.ofCode rnd.code).bind _ = _
    rw [rnd_code]
    show some (Instr.vadd g vd va vb ty rnd (sat.toNat == 1)) = _
    simp only [bool_eq]
theorem Enc.vsub (g : Guard) (vd : Nat) (va : Nat) (vb : Nat) (ty : VType) (rnd : Rnd) (sat : Bool) : Enc.Statement (.vsub g vd va vb ty rnd sat) := by
  intro h
  change (g.ok && vOk vd && vOk va && vOk vb && arithOk ty rnd sat) = true at h
  simp only [Bool.and_eq_true, vOk, decide_eq_true_eq] at h
  have hg : g.ok = true := h.1.1.1.1
  have f0 := guard_lt g hg
  have f1 := bool_lt g.neg
  have f2 := vtype_lt ty
  have f3 := rnd_lt rnd
  have f4 := bool_lt sat
  refine ⟨⟨?_, rfl, fun _ => rfl, fun y => ?_⟩, trivial, trivial⟩
  · exact ⟨by omega, by omega, by omega, by omega, by omega, by omega, by omega, by omega, by omega, by omega, by omega, by omega, trivial⟩
  · show (mkGuard g.p g.neg.toNat).bind _ = _
    rw [mkGuard_ok g hg]
    show (VType.ofCode ty.code).bind _ = _
    rw [vtype_code]
    show (Rnd.ofCode rnd.code).bind _ = _
    rw [rnd_code]
    show some (Instr.vsub g vd va vb ty rnd (sat.toNat == 1)) = _
    simp only [bool_eq]
theorem Enc.vmul (g : Guard) (vd : Nat) (va : Nat) (vb : Nat) (ty : VType) (rnd : Rnd) (sat : Bool) : Enc.Statement (.vmul g vd va vb ty rnd sat) := by
  intro h
  change (g.ok && vOk vd && vOk va && vOk vb && arithOk ty rnd sat) = true at h
  simp only [Bool.and_eq_true, vOk, decide_eq_true_eq] at h
  have hg : g.ok = true := h.1.1.1.1
  have f0 := guard_lt g hg
  have f1 := bool_lt g.neg
  have f2 := vtype_lt ty
  have f3 := rnd_lt rnd
  have f4 := bool_lt sat
  refine ⟨⟨?_, rfl, fun _ => rfl, fun y => ?_⟩, trivial, trivial⟩
  · exact ⟨by omega, by omega, by omega, by omega, by omega, by omega, by omega, by omega, by omega, by omega, by omega, by omega, trivial⟩
  · show (mkGuard g.p g.neg.toNat).bind _ = _
    rw [mkGuard_ok g hg]
    show (VType.ofCode ty.code).bind _ = _
    rw [vtype_code]
    show (Rnd.ofCode rnd.code).bind _ = _
    rw [rnd_code]
    show some (Instr.vmul g vd va vb ty rnd (sat.toNat == 1)) = _
    simp only [bool_eq]
theorem Enc.vfma (g : Guard) (vd : Nat) (va : Nat) (vb : Nat) (vc : Nat) (ty : VType) (rnd : Rnd) (sat : Bool) : Enc.Statement (.vfma g vd va vb vc ty rnd sat) := by
  intro h
  change (g.ok && vOk vd && vOk va && vOk vb && vOk vc && arithOk ty rnd sat) = true at h
  simp only [Bool.and_eq_true, vOk, decide_eq_true_eq] at h
  have hg : g.ok = true := h.1.1.1.1.1
  have f0 := guard_lt g hg
  have f1 := bool_lt g.neg
  have f2 := vtype_lt ty
  have f3 := rnd_lt rnd
  have f4 := bool_lt sat
  refine ⟨⟨?_, rfl, fun _ => rfl, fun y => ?_⟩, trivial, trivial⟩
  · exact ⟨by omega, by omega, by omega, by omega, by omega, by omega, by omega, by omega, by omega, by omega, by omega, by omega, trivial⟩
  · show (mkGuard g.p g.neg.toNat).bind _ = _
    rw [mkGuard_ok g hg]
    show (VType.ofCode ty.code).bind _ = _
    rw [vtype_code]
    show (Rnd.ofCode rnd.code).bind _ = _
    rw [rnd_code]
    show some (Instr.vfma g vd va vb vc ty rnd (sat.toNat == 1)) = _
    simp only [bool_eq]
theorem Enc.vmin (g : Guard) (vd : Nat) (va : Nat) (vb : Nat) (ty : VType) : Enc.Statement (.vmin g vd va vb ty) := by
  intro h
  change (g.ok && vOk vd && vOk va && vOk vb && fiOk ty) = true at h
  simp only [Bool.and_eq_true, vOk, decide_eq_true_eq] at h
  have hg : g.ok = true := h.1.1.1.1
  have f0 := guard_lt g hg
  have f1 := bool_lt g.neg
  have f2 := vtype_lt ty
  refine ⟨⟨?_, rfl, fun _ => rfl, fun y => ?_⟩, trivial, trivial⟩
  · exact ⟨by omega, by omega, by omega, by omega, by omega, by omega, by omega, by omega, by omega, by omega, by omega, by omega, trivial⟩
  · show (mkGuard g.p g.neg.toNat).bind _ = _
    rw [mkGuard_ok g hg]
    show (VType.ofCode ty.code).bind _ = _
    rw [vtype_code]
    show some (Instr.vmin g vd va vb ty) = _
    rfl
theorem Enc.vmax (g : Guard) (vd : Nat) (va : Nat) (vb : Nat) (ty : VType) : Enc.Statement (.vmax g vd va vb ty) := by
  intro h
  change (g.ok && vOk vd && vOk va && vOk vb && fiOk ty) = true at h
  simp only [Bool.and_eq_true, vOk, decide_eq_true_eq] at h
  have hg : g.ok = true := h.1.1.1.1
  have f0 := guard_lt g hg
  have f1 := bool_lt g.neg
  have f2 := vtype_lt ty
  refine ⟨⟨?_, rfl, fun _ => rfl, fun y => ?_⟩, trivial, trivial⟩
  · exact ⟨by omega, by omega, by omega, by omega, by omega, by omega, by omega, by omega, by omega, by omega, by omega, by omega, trivial⟩
  · show (mkGuard g.p g.neg.toNat).bind _ = _
    rw [mkGuard_ok g hg]
    show (VType.ofCode ty.code).bind _ = _
    rw [vtype_code]
    show some (Instr.vmax g vd va vb ty) = _
    rfl
theorem Enc.vabs (g : Guard) (vd : Nat) (va : Nat) (ty : VType) (sat : Bool) : Enc.Statement (.vabs g vd va ty sat) := by
  intro h
  change (g.ok && vOk vd && vOk va && absOk ty sat) = true at h
  simp only [Bool.and_eq_true, vOk, decide_eq_true_eq] at h
  have hg : g.ok = true := h.1.1.1
  have f0 := guard_lt g hg
  have f1 := bool_lt g.neg
  have f2 := vtype_lt ty
  have f3 := bool_lt sat
  refine ⟨⟨?_, rfl, fun _ => rfl, fun y => ?_⟩, trivial, trivial⟩
  · exact ⟨by omega, by omega, by omega, by omega, by omega, by omega, by omega, by omega, by omega, by omega, by omega, by omega, trivial⟩
  · show (mkGuard g.p g.neg.toNat).bind _ = _
    rw [mkGuard_ok g hg]
    show (VType.ofCode ty.code).bind _ = _
    rw [vtype_code]
    show some (Instr.vabs g vd va ty (sat.toNat == 1)) = _
    simp only [bool_eq]
theorem Enc.vneg (g : Guard) (vd : Nat) (va : Nat) (ty : VType) (sat : Bool) : Enc.Statement (.vneg g vd va ty sat) := by
  intro h
  change (g.ok && vOk vd && vOk va && absOk ty sat) = true at h
  simp only [Bool.and_eq_true, vOk, decide_eq_true_eq] at h
  have hg : g.ok = true := h.1.1.1
  have f0 := guard_lt g hg
  have f1 := bool_lt g.neg
  have f2 := vtype_lt ty
  have f3 := bool_lt sat
  refine ⟨⟨?_, rfl, fun _ => rfl, fun y => ?_⟩, trivial, trivial⟩
  · exact ⟨by omega, by omega, by omega, by omega, by omega, by omega, by omega, by omega, by omega, by omega, by omega, by omega, trivial⟩
  · show (mkGuard g.p g.neg.toNat).bind _ = _
    rw [mkGuard_ok g hg]
    show (VType.ofCode ty.code).bind _ = _
    rw [vtype_code]
    show some (Instr.vneg g vd va ty (sat.toNat == 1)) = _
    simp only [bool_eq]
theorem Enc.vand (g : Guard) (vd : Nat) (va : Nat) (vb : Nat) : Enc.Statement (.vand g vd va vb) := by
  intro h
  change (g.ok && vOk vd && vOk va && vOk vb) = true at h
  simp only [Bool.and_eq_true, vOk, decide_eq_true_eq] at h
  have hg : g.ok = true := h.1.1.1
  have f0 := guard_lt g hg
  have f1 := bool_lt g.neg
  refine ⟨⟨?_, rfl, fun _ => rfl, fun y => ?_⟩, trivial, trivial⟩
  · exact ⟨by omega, by omega, by omega, by omega, by omega, by omega, by omega, by omega, by omega, by omega, by omega, by omega, trivial⟩
  · show (mkGuard g.p g.neg.toNat).bind _ = _
    rw [mkGuard_ok g hg]
    show some (Instr.vand g vd va vb) = _
    rfl
theorem Enc.vor (g : Guard) (vd : Nat) (va : Nat) (vb : Nat) : Enc.Statement (.vor g vd va vb) := by
  intro h
  change (g.ok && vOk vd && vOk va && vOk vb) = true at h
  simp only [Bool.and_eq_true, vOk, decide_eq_true_eq] at h
  have hg : g.ok = true := h.1.1.1
  have f0 := guard_lt g hg
  have f1 := bool_lt g.neg
  refine ⟨⟨?_, rfl, fun _ => rfl, fun y => ?_⟩, trivial, trivial⟩
  · exact ⟨by omega, by omega, by omega, by omega, by omega, by omega, by omega, by omega, by omega, by omega, by omega, by omega, trivial⟩
  · show (mkGuard g.p g.neg.toNat).bind _ = _
    rw [mkGuard_ok g hg]
    show some (Instr.vor g vd va vb) = _
    rfl
theorem Enc.vxor (g : Guard) (vd : Nat) (va : Nat) (vb : Nat) : Enc.Statement (.vxor g vd va vb) := by
  intro h
  change (g.ok && vOk vd && vOk va && vOk vb) = true at h
  simp only [Bool.and_eq_true, vOk, decide_eq_true_eq] at h
  have hg : g.ok = true := h.1.1.1
  have f0 := guard_lt g hg
  have f1 := bool_lt g.neg
  refine ⟨⟨?_, rfl, fun _ => rfl, fun y => ?_⟩, trivial, trivial⟩
  · exact ⟨by omega, by omega, by omega, by omega, by omega, by omega, by omega, by omega, by omega, by omega, by omega, by omega, trivial⟩
  · show (mkGuard g.p g.neg.toNat).bind _ = _
    rw [mkGuard_ok g hg]
    show some (Instr.vxor g vd va vb) = _
    rfl
theorem Enc.vnot (g : Guard) (vd : Nat) (va : Nat) : Enc.Statement (.vnot g vd va) := by
  intro h
  change (g.ok && vOk vd && vOk va) = true at h
  simp only [Bool.and_eq_true, vOk, decide_eq_true_eq] at h
  have hg : g.ok = true := h.1.1
  have f0 := guard_lt g hg
  have f1 := bool_lt g.neg
  refine ⟨⟨?_, rfl, fun _ => rfl, fun y => ?_⟩, trivial, trivial⟩
  · exact ⟨by omega, by omega, by omega, by omega, by omega, by omega, by omega, by omega, by omega, by omega, by omega, by omega, trivial⟩
  · show (mkGuard g.p g.neg.toNat).bind _ = _
    rw [mkGuard_ok g hg]
    show some (Instr.vnot g vd va) = _
    rfl
theorem Enc.vshl (g : Guard) (vd : Nat) (va : Nat) (vb : Nat) (ty : VType) : Enc.Statement (.vshl g vd va vb ty) := by
  intro h
  change (g.ok && vOk vd && vOk va && vOk vb && ty.isS) = true at h
  simp only [Bool.and_eq_true, vOk, decide_eq_true_eq] at h
  have hg : g.ok = true := h.1.1.1.1
  have f0 := guard_lt g hg
  have f1 := bool_lt g.neg
  have f2 := vtype_lt ty
  refine ⟨⟨?_, rfl, fun _ => rfl, fun y => ?_⟩, trivial, trivial⟩
  · exact ⟨by omega, by omega, by omega, by omega, by omega, by omega, by omega, by omega, by omega, by omega, by omega, by omega, trivial⟩
  · show (mkGuard g.p g.neg.toNat).bind _ = _
    rw [mkGuard_ok g hg]
    show (VType.ofCode ty.code).bind _ = _
    rw [vtype_code]
    show some (Instr.vshl g vd va vb ty) = _
    rfl
theorem Enc.vshr (g : Guard) (vd : Nat) (va : Nat) (vb : Nat) (ty : VType) : Enc.Statement (.vshr g vd va vb ty) := by
  intro h
  change (g.ok && vOk vd && vOk va && vOk vb && ty.isS) = true at h
  simp only [Bool.and_eq_true, vOk, decide_eq_true_eq] at h
  have hg : g.ok = true := h.1.1.1.1
  have f0 := guard_lt g hg
  have f1 := bool_lt g.neg
  have f2 := vtype_lt ty
  refine ⟨⟨?_, rfl, fun _ => rfl, fun y => ?_⟩, trivial, trivial⟩
  · exact ⟨by omega, by omega, by omega, by omega, by omega, by omega, by omega, by omega, by omega, by omega, by omega, by omega, trivial⟩
  · show (mkGuard g.p g.neg.toNat).bind _ = _
    rw [mkGuard_ok g hg]
    show (VType.ofCode ty.code).bind _ = _
    rw [vtype_code]
    show some (Instr.vshr g vd va vb ty) = _
    rfl
theorem Enc.vsar (g : Guard) (vd : Nat) (va : Nat) (vb : Nat) (ty : VType) : Enc.Statement (.vsar g vd va vb ty) := by
  intro h
  change (g.ok && vOk vd && vOk va && vOk vb && ty.isS) = true at h
  simp only [Bool.and_eq_true, vOk, decide_eq_true_eq] at h
  have hg : g.ok = true := h.1.1.1.1
  have f0 := guard_lt g hg
  have f1 := bool_lt g.neg
  have f2 := vtype_lt ty
  refine ⟨⟨?_, rfl, fun _ => rfl, fun y => ?_⟩, trivial, trivial⟩
  · exact ⟨by omega, by omega, by omega, by omega, by omega, by omega, by omega, by omega, by omega, by omega, by omega, by omega, trivial⟩
  · show (mkGuard g.p g.neg.toNat).bind _ = _
    rw [mkGuard_ok g hg]
    show (VType.ofCode ty.code).bind _ = _
    rw [vtype_code]
    show some (Instr.vsar g vd va vb ty) = _
    rfl
theorem Enc.vcmp (g : Guard) (c : Cond) (vd : Nat) (va : Nat) (vb : Nat) (ty : VType) : Enc.Statement (.vcmp g c vd va vb ty) := by
  intro h
  change (g.ok && vOk vd && vOk va && vOk vb && cmpOk c ty) = true at h
  simp only [Bool.and_eq_true, vOk, decide_eq_true_eq] at h
  have hg : g.ok = true := h.1.1.1.1
  have f0 := guard_lt g hg
  have f1 := bool_lt g.neg
  have f2 := cond_lt c
  have f3 := vtype_lt ty
  refine ⟨⟨?_, rfl, fun _ => rfl, fun y => ?_⟩, trivial, trivial⟩
  · exact ⟨by omega, by omega, by omega, by omega, by omega, by omega, by omega, by omega, by omega, by omega, by omega, by omega, trivial⟩
  · show (mkGuard g.p g.neg.toNat).bind _ = _
    rw [mkGuard_ok g hg]
    show (Cond.ofCode c.code).bind _ = _
    rw [cond_code]
    show (VType.ofCode ty.code).bind _ = _
    rw [vtype_code]
    show some (Instr.vcmp g c vd va vb ty) = _
    rfl
theorem Enc.vsel (g : Guard) (vd : Nat) (va : Nat) (vb : Nat) (vc : Nat) (ty : VType) : Enc.Statement (.vsel g vd va vb vc ty) := by
  intro h
  change (g.ok && vOk vd && vOk va && vOk vb && vOk vc && ty.isS) = true at h
  simp only [Bool.and_eq_true, vOk, decide_eq_true_eq] at h
  have hg : g.ok = true := h.1.1.1.1.1
  have f0 := guard_lt g hg
  have f1 := bool_lt g.neg
  have f2 := vtype_lt ty
  refine ⟨⟨?_, rfl, fun _ => rfl, fun y => ?_⟩, trivial, trivial⟩
  · exact ⟨by omega, by omega, by omega, by omega, by omega, by omega, by omega, by omega, by omega, by omega, by omega, by omega, trivial⟩
  · show (mkGuard g.p g.neg.toNat).bind _ = _
    rw [mkGuard_ok g hg]
    show (VType.ofCode ty.code).bind _ = _
    rw [vtype_code]
    show some (Instr.vsel g vd va vb vc ty) = _
    rfl
theorem Enc.vmov (g : Guard) (vd : Nat) (va : Nat) : Enc.Statement (.vmov g vd va) := by
  intro h
  change (g.ok && vOk vd && vOk va) = true at h
  simp only [Bool.and_eq_true, vOk, decide_eq_true_eq] at h
  have hg : g.ok = true := h.1.1
  have f0 := guard_lt g hg
  have f1 := bool_lt g.neg
  refine ⟨⟨?_, rfl, fun _ => rfl, fun y => ?_⟩, trivial, trivial⟩
  · exact ⟨by omega, by omega, by omega, by omega, by omega, by omega, by omega, by omega, by omega, by omega, by omega, by omega, trivial⟩
  · show (mkGuard g.p g.neg.toNat).bind _ = _
    rw [mkGuard_ok g hg]
    show some (Instr.vmov g vd va) = _
    rfl
theorem Enc.vcvt (g : Guard) (vd : Nat) (va : Nat) (dst : VType) (src : VType) (rnd : Rnd) (sat : Bool) : Enc.Statement (.vcvt g vd va dst src rnd sat) := by
  intro h
  change (g.ok && vOk vd && vOk va && cvtOk dst src rnd sat) = true at h
  simp only [Bool.and_eq_true, vOk, decide_eq_true_eq] at h
  have hg : g.ok = true := h.1.1.1
  have f0 := guard_lt g hg
  have f1 := bool_lt g.neg
  have f2 := vtype_lt dst
  have f3 := vtype_lt src
  have f4 := rnd_lt rnd
  have f5 := bool_lt sat
  refine ⟨⟨?_, rfl, fun _ => rfl, fun y => ?_⟩, trivial, trivial⟩
  · exact ⟨by omega, by omega, by omega, by omega, by omega, by omega, by omega, by omega, by omega, by omega, by omega, by omega, trivial⟩
  · show (mkGuard g.p g.neg.toNat).bind _ = _
    rw [mkGuard_ok g hg]
    show (VType.ofCode dst.code).bind _ = _
    rw [vtype_code]
    show (VType.ofCode src.code).bind _ = _
    rw [vtype_code]
    show (Rnd.ofCode rnd.code).bind _ = _
    rw [rnd_code]
    show some (Instr.vcvt g vd va dst src rnd (sat.toNat == 1)) = _
    simp only [bool_eq]
theorem Enc.vexp2 (g : Guard) (vd : Nat) (va : Nat) : Enc.Statement (.vexp2 g vd va) := by
  intro h
  change (g.ok && vOk vd && vOk va) = true at h
  simp only [Bool.and_eq_true, vOk, decide_eq_true_eq] at h
  have hg : g.ok = true := h.1.1
  have f0 := guard_lt g hg
  have f1 := bool_lt g.neg
  refine ⟨⟨?_, rfl, fun _ => rfl, fun y => ?_⟩, trivial, trivial⟩
  · exact ⟨by omega, by omega, by omega, by omega, by omega, by omega, by omega, by omega, by omega, by omega, by omega, by omega, trivial⟩
  · show (mkGuard g.p g.neg.toNat).bind _ = _
    rw [mkGuard_ok g hg]
    show some (Instr.vexp2 g vd va) = _
    rfl
theorem Enc.vlog2 (g : Guard) (vd : Nat) (va : Nat) : Enc.Statement (.vlog2 g vd va) := by
  intro h
  change (g.ok && vOk vd && vOk va) = true at h
  simp only [Bool.and_eq_true, vOk, decide_eq_true_eq] at h
  have hg : g.ok = true := h.1.1
  have f0 := guard_lt g hg
  have f1 := bool_lt g.neg
  refine ⟨⟨?_, rfl, fun _ => rfl, fun y => ?_⟩, trivial, trivial⟩
  · exact ⟨by omega, by omega, by omega, by omega, by omega, by omega, by omega, by omega, by omega, by omega, by omega, by omega, trivial⟩
  · show (mkGuard g.p g.neg.toNat).bind _ = _
    rw [mkGuard_ok g hg]
    show some (Instr.vlog2 g vd va) = _
    rfl
theorem Enc.vrcp (g : Guard) (vd : Nat) (va : Nat) (ty : VType) (rnd : Rnd) : Enc.Statement (.vrcp g vd va ty rnd) := by
  intro h
  change (g.ok && vOk vd && vOk va && ty.isF && rnd != .rsr) = true at h
  simp only [Bool.and_eq_true, vOk, decide_eq_true_eq] at h
  have hg : g.ok = true := h.1.1.1.1
  have f0 := guard_lt g hg
  have f1 := bool_lt g.neg
  have f2 := vtype_lt ty
  have f3 := rnd_lt rnd
  refine ⟨⟨?_, rfl, fun _ => rfl, fun y => ?_⟩, trivial, trivial⟩
  · exact ⟨by omega, by omega, by omega, by omega, by omega, by omega, by omega, by omega, by omega, by omega, by omega, by omega, trivial⟩
  · show (mkGuard g.p g.neg.toNat).bind _ = _
    rw [mkGuard_ok g hg]
    show (VType.ofCode ty.code).bind _ = _
    rw [vtype_code]
    show (Rnd.ofCode rnd.code).bind _ = _
    rw [rnd_code]
    show some (Instr.vrcp g vd va ty rnd) = _
    rfl
theorem Enc.vrsq (g : Guard) (vd : Nat) (va : Nat) (ty : VType) (rnd : Rnd) : Enc.Statement (.vrsq g vd va ty rnd) := by
  intro h
  change (g.ok && vOk vd && vOk va && ty.isF && rnd != .rsr) = true at h
  simp only [Bool.and_eq_true, vOk, decide_eq_true_eq] at h
  have hg : g.ok = true := h.1.1.1.1
  have f0 := guard_lt g hg
  have f1 := bool_lt g.neg
  have f2 := vtype_lt ty
  have f3 := rnd_lt rnd
  refine ⟨⟨?_, rfl, fun _ => rfl, fun y => ?_⟩, trivial, trivial⟩
  · exact ⟨by omega, by omega, by omega, by omega, by omega, by omega, by omega, by omega, by omega, by omega, by omega, by omega, trivial⟩
  · show (mkGuard g.p g.neg.toNat).bind _ = _
    rw [mkGuard_ok g hg]
    show (VType.ofCode ty.code).bind _ = _
    rw [vtype_code]
    show (Rnd.ofCode rnd.code).bind _ = _
    rw [rnd_code]
    show some (Instr.vrsq g vd va ty rnd) = _
    rfl
theorem Enc.vredadd (g : Guard) (vd : Nat) (va : Nat) (ty : VType) (rnd : Rnd) (sat : Bool) : Enc.Statement (.vredadd g vd va ty rnd sat) := by
  intro h
  change (g.ok && vOk vd && vOk va && arithOk ty rnd sat) = true at h
  simp only [Bool.and_eq_true, vOk, decide_eq_true_eq] at h
  have hg : g.ok = true := h.1.1.1
  have f0 := guard_lt g hg
  have f1 := bool_lt g.neg
  have f2 := vtype_lt ty
  have f3 := rnd_lt rnd
  have f4 := bool_lt sat
  refine ⟨⟨?_, rfl, fun _ => rfl, fun y => ?_⟩, trivial, trivial⟩
  · exact ⟨by omega, by omega, by omega, by omega, by omega, by omega, by omega, by omega, by omega, by omega, by omega, by omega, trivial⟩
  · show (mkGuard g.p g.neg.toNat).bind _ = _
    rw [mkGuard_ok g hg]
    show (VType.ofCode ty.code).bind _ = _
    rw [vtype_code]
    show (Rnd.ofCode rnd.code).bind _ = _
    rw [rnd_code]
    show some (Instr.vredadd g vd va ty rnd (sat.toNat == 1)) = _
    simp only [bool_eq]
theorem Enc.vredmax (g : Guard) (vd : Nat) (va : Nat) (ty : VType) : Enc.Statement (.vredmax g vd va ty) := by
  intro h
  change (g.ok && vOk vd && vOk va && fiOk ty) = true at h
  simp only [Bool.and_eq_true, vOk, decide_eq_true_eq] at h
  have hg : g.ok = true := h.1.1.1
  have f0 := guard_lt g hg
  have f1 := bool_lt g.neg
  have f2 := vtype_lt ty
  refine ⟨⟨?_, rfl, fun _ => rfl, fun y => ?_⟩, trivial, trivial⟩
  · exact ⟨by omega, by omega, by omega, by omega, by omega, by omega, by omega, by omega, by omega, by omega, by omega, by omega, trivial⟩
  · show (mkGuard g.p g.neg.toNat).bind _ = _
    rw [mkGuard_ok g hg]
    show (VType.ofCode ty.code).bind _ = _
    rw [vtype_code]
    show some (Instr.vredmax g vd va ty) = _
    rfl
theorem Enc.vredmin (g : Guard) (vd : Nat) (va : Nat) (ty : VType) : Enc.Statement (.vredmin g vd va ty) := by
  intro h
  change (g.ok && vOk vd && vOk va && fiOk ty) = true at h
  simp only [Bool.and_eq_true, vOk, decide_eq_true_eq] at h
  have hg : g.ok = true := h.1.1.1
  have f0 := guard_lt g hg
  have f1 := bool_lt g.neg
  have f2 := vtype_lt ty
  refine ⟨⟨?_, rfl, fun _ => rfl, fun y => ?_⟩, trivial, trivial⟩
  · exact ⟨by omega, by omega, by omega, by omega, by omega, by omega, by omega, by omega, by omega, by omega, by omega, by omega, trivial⟩
  · show (mkGuard g.p g.neg.toNat).bind _ = _
    rw [mkGuard_ok g hg]
    show (VType.ofCode ty.code).bind _ = _
    rw [vtype_code]
    show some (Instr.vredmin g vd va ty) = _
    rfl
theorem Enc.vlse2 (g : Guard) (vd : Nat) (va : Nat) : Enc.Statement (.vlse2 g vd va) := by
  intro h
  change (g.ok && vOk vd && vOk va) = true at h
  simp only [Bool.and_eq_true, vOk, decide_eq_true_eq] at h
  have hg : g.ok = true := h.1.1
  have f0 := guard_lt g hg
  have f1 := bool_lt g.neg
  refine ⟨⟨?_, rfl, fun _ => rfl, fun y => ?_⟩, trivial, trivial⟩
  · exact ⟨by omega, by omega, by omega, by omega, by omega, by omega, by omega, by omega, by omega, by omega, by omega, by omega, trivial⟩
  · show (mkGuard g.p g.neg.toNat).bind _ = _
    rw [mkGuard_ok g hg]
    show some (Instr.vlse2 g vd va) = _
    rfl
theorem Enc.vscan (g : Guard) (vd : Nat) (va : Nat) (ty : VType) (sat : Bool) : Enc.Statement (.vscan g vd va ty sat) := by
  intro h
  change (g.ok && vOk vd && vOk va && (ty == .i16 || ty == .i32)) = true at h
  simp only [Bool.and_eq_true, vOk, decide_eq_true_eq] at h
  have hg : g.ok = true := h.1.1.1
  have f0 := guard_lt g hg
  have f1 := bool_lt g.neg
  have f2 := vtype_lt ty
  have f3 := bool_lt sat
  refine ⟨⟨?_, rfl, fun _ => rfl, fun y => ?_⟩, trivial, trivial⟩
  · exact ⟨by omega, by omega, by omega, by omega, by omega, by omega, by omega, by omega, by omega, by omega, by omega, by omega, trivial⟩
  · show (mkGuard g.p g.neg.toNat).bind _ = _
    rw [mkGuard_ok g hg]
    show (VType.ofCode ty.code).bind _ = _
    rw [vtype_code]
    show some (Instr.vscan g vd va ty (sat.toNat == 1)) = _
    simp only [bool_eq]
theorem Enc.vhist (g : Guard) (vd : Nat) (va : Nat) (ty : VType) : Enc.Statement (.vhist g vd va ty) := by
  intro h
  change (g.ok && vOk vd && vOk va && ty.isS) = true at h
  simp only [Bool.and_eq_true, vOk, decide_eq_true_eq] at h
  have hg : g.ok = true := h.1.1.1
  have f0 := guard_lt g hg
  have f1 := bool_lt g.neg
  have f2 := vtype_lt ty
  refine ⟨⟨?_, rfl, fun _ => rfl, fun y => ?_⟩, trivial, trivial⟩
  · exact ⟨by omega, by omega, by omega, by omega, by omega, by omega, by omega, by omega, by omega, by omega, by omega, by omega, trivial⟩
  · show (mkGuard g.p g.neg.toNat).bind _ = _
    rw [mkGuard_ok g hg]
    show (VType.ofCode ty.code).bind _ = _
    rw [vtype_code]
    show some (Instr.vhist g vd va ty) = _
    rfl
theorem Enc.vperm (g : Guard) (vd : Nat) (va : Nat) (vb : Nat) (ty : VType) : Enc.Statement (.vperm g vd va vb ty) := by
  intro h
  change (g.ok && vOk vd && vOk va && vOk vb && ty.isS) = true at h
  simp only [Bool.and_eq_true, vOk, decide_eq_true_eq] at h
  have hg : g.ok = true := h.1.1.1.1
  have f0 := guard_lt g hg
  have f1 := bool_lt g.neg
  have f2 := vtype_lt ty
  refine ⟨⟨?_, rfl, fun _ => rfl, fun y => ?_⟩, trivial, trivial⟩
  · exact ⟨by omega, by omega, by omega, by omega, by omega, by omega, by omega, by omega, by omega, by omega, by omega, by omega, trivial⟩
  · show (mkGuard g.p g.neg.toNat).bind _ = _
    rw [mkGuard_ok g hg]
    show (VType.ofCode ty.code).bind _ = _
    rw [vtype_code]
    show some (Instr.vperm g vd va vb ty) = _
    rfl
theorem Enc.viota (g : Guard) (vd : Nat) (ty : VType) : Enc.Statement (.viota g vd ty) := by
  intro h
  change (g.ok && vOk vd && ty.isS) = true at h
  simp only [Bool.and_eq_true, vOk, decide_eq_true_eq] at h
  have hg : g.ok = true := h.1.1
  have f0 := guard_lt g hg
  have f1 := bool_lt g.neg
  have f2 := vtype_lt ty
  refine ⟨⟨?_, rfl, fun _ => rfl, fun y => ?_⟩, trivial, trivial⟩
  · exact ⟨by omega, by omega, by omega, by omega, by omega, by omega, by omega, by omega, by omega, by omega, by omega, by omega, trivial⟩
  · show (mkGuard g.p g.neg.toNat).bind _ = _
    rw [mkGuard_ok g hg]
    show (VType.ofCode ty.code).bind _ = _
    rw [vtype_code]
    show some (Instr.viota g vd ty) = _
    rfl
theorem Enc.vamax (g : Guard) (vd : Nat) (va : Nat) (ty : VType) : Enc.Statement (.vamax g vd va ty) := by
  intro h
  change (g.ok && vOk vd && vOk va && ty.isF) = true at h
  simp only [Bool.and_eq_true, vOk, decide_eq_true_eq] at h
  have hg : g.ok = true := h.1.1.1
  have f0 := guard_lt g hg
  have f1 := bool_lt g.neg
  have f2 := vtype_lt ty
  refine ⟨⟨?_, rfl, fun _ => rfl, fun y => ?_⟩, trivial, trivial⟩
  · exact ⟨by omega, by omega, by omega, by omega, by omega, by omega, by omega, by omega, by omega, by omega, by omega, by omega, trivial⟩
  · show (mkGuard g.p g.neg.toNat).bind _ = _
    rw [mkGuard_ok g hg]
    show (VType.ofCode ty.code).bind _ = _
    rw [vtype_code]
    show some (Instr.vamax g vd va ty) = _
    rfl
theorem Enc.vscale (g : Guard) (vd : Nat) (va : Nat) (ty : VType) (rnd : Rnd) : Enc.Statement (.vscale g vd va ty rnd) := by
  intro h
  change (g.ok && vOk vd && vOk va && ty.isF8 && rnd != .rsr) = true at h
  simp only [Bool.and_eq_true, vOk, decide_eq_true_eq] at h
  have hg : g.ok = true := h.1.1.1.1
  have f0 := guard_lt g hg
  have f1 := bool_lt g.neg
  have f2 := vtype_lt ty
  have f3 := rnd_lt rnd
  refine ⟨⟨?_, rfl, fun _ => rfl, fun y => ?_⟩, trivial, trivial⟩
  · exact ⟨by omega, by omega, by omega, by omega, by omega, by omega, by omega, by omega, by omega, by omega, by omega, by omega, trivial⟩
  · show (mkGuard g.p g.neg.toNat).bind _ = _
    rw [mkGuard_ok g hg]
    show (VType.ofCode ty.code).bind _ = _
    rw [vtype_code]
    show (Rnd.ofCode rnd.code).bind _ = _
    rw [rnd_code]
    show some (Instr.vscale g vd va ty rnd) = _
    rfl
theorem Enc.vbexp (g : Guard) (vd : Nat) (va : Nat) : Enc.Statement (.vbexp g vd va) := by
  intro h
  change (g.ok && vOk vd && vOk va) = true at h
  simp only [Bool.and_eq_true, vOk, decide_eq_true_eq] at h
  have hg : g.ok = true := h.1.1
  have f0 := guard_lt g hg
  have f1 := bool_lt g.neg
  refine ⟨⟨?_, rfl, fun _ => rfl, fun y => ?_⟩, trivial, trivial⟩
  · exact ⟨by omega, by omega, by omega, by omega, by omega, by omega, by omega, by omega, by omega, by omega, by omega, by omega, trivial⟩
  · show (mkGuard g.p g.neg.toNat).bind _ = _
    rw [mkGuard_ok g hg]
    show some (Instr.vbexp g vd va) = _
    rfl
theorem Enc.vtobi (g : Guard) (vd : Nat) (va : Nat) (vb : Nat) : Enc.Statement (.vtobi g vd va vb) := by
  intro h
  change (g.ok && vOk vd && vOk va && vOk vb) = true at h
  simp only [Bool.and_eq_true, vOk, decide_eq_true_eq] at h
  have hg : g.ok = true := h.1.1.1
  have f0 := guard_lt g hg
  have f1 := bool_lt g.neg
  refine ⟨⟨?_, rfl, fun _ => rfl, fun y => ?_⟩, trivial, trivial⟩
  · exact ⟨by omega, by omega, by omega, by omega, by omega, by omega, by omega, by omega, by omega, by omega, by omega, by omega, trivial⟩
  · show (mkGuard g.p g.neg.toNat).bind _ = _
    rw [mkGuard_ok g hg]
    show some (Instr.vtobi g vd va vb) = _
    rfl
theorem Enc.vfrombi (g : Guard) (vd : Nat) (va : Nat) (vb : Nat) (rnd : Rnd) (sat : Bool) : Enc.Statement (.vfrombi g vd va vb rnd sat) := by
  intro h
  change (g.ok && vOk vd && vOk va && vOk vb && rnd != .rsr) = true at h
  simp only [Bool.and_eq_true, vOk, decide_eq_true_eq] at h
  have hg : g.ok = true := h.1.1.1.1
  have f0 := guard_lt g hg
  have f1 := bool_lt g.neg
  have f2 := rnd_lt rnd
  have f3 := bool_lt sat
  refine ⟨⟨?_, rfl, fun _ => rfl, fun y => ?_⟩, trivial, trivial⟩
  · exact ⟨by omega, by omega, by omega, by omega, by omega, by omega, by omega, by omega, by omega, by omega, by omega, by omega, trivial⟩
  · show (mkGuard g.p g.neg.toNat).bind _ = _
    rw [mkGuard_ok g hg]
    show (Rnd.ofCode rnd.code).bind _ = _
    rw [rnd_code]
    show some (Instr.vfrombi g vd va vb rnd (sat.toNat == 1)) = _
    simp only [bool_eq]
theorem Enc.mpush (g : Guard) (va : Nat) : Enc.Statement (.mpush g va) := by
  intro h
  change (g.ok && vOk va) = true at h
  simp only [Bool.and_eq_true, vOk, decide_eq_true_eq] at h
  have hg : g.ok = true := h.1
  have f0 := guard_lt g hg
  have f1 := bool_lt g.neg
  refine ⟨⟨?_, rfl, fun _ => rfl, fun y => ?_⟩, trivial, trivial⟩
  · exact ⟨by omega, by omega, by omega, by omega, by omega, by omega, by omega, by omega, by omega, by omega, by omega, by omega, trivial⟩
  · show (mkGuard g.p g.neg.toNat).bind _ = _
    rw [mkGuard_ok g hg]
    show some (Instr.mpush g va) = _
    rfl
theorem Enc.minv (g : Guard) : Enc.Statement (.minv g) := by
  intro h
  change (g.ok) = true at h
  have hg : g.ok = true := h
  have f0 := guard_lt g hg
  have f1 := bool_lt g.neg
  refine ⟨⟨?_, rfl, fun _ => rfl, fun y => ?_⟩, trivial, trivial⟩
  · exact ⟨by omega, by omega, by omega, by omega, by omega, by omega, by omega, by omega, by omega, by omega, by omega, by omega, trivial⟩
  · show (mkGuard g.p g.neg.toNat).bind _ = _
    rw [mkGuard_ok g hg]
    show some (Instr.minv g) = _
    rfl
theorem Enc.mpop (g : Guard) : Enc.Statement (.mpop g) := by
  intro h
  change (g.ok) = true at h
  have hg : g.ok = true := h
  have f0 := guard_lt g hg
  have f1 := bool_lt g.neg
  refine ⟨⟨?_, rfl, fun _ => rfl, fun y => ?_⟩, trivial, trivial⟩
  · exact ⟨by omega, by omega, by omega, by omega, by omega, by omega, by omega, by omega, by omega, by omega, by omega, by omega, trivial⟩
  · show (mkGuard g.p g.neg.toNat).bind _ = _
    rw [mkGuard_ok g hg]
    show some (Instr.mpop g) = _
    rfl
theorem Enc.vaddScalar (g : Guard) (vd : Nat) (va : Nat) (b : SOperand) (ty : VType) (rnd : Rnd) (sat : Bool) : Enc.Statement (.vaddScalar g vd va b ty rnd sat) := by
  intro h
  change (g.ok && vOk vd && vOk va && arithOk ty rnd sat && b.ok ty) = true at h
  simp only [Bool.and_eq_true, vOk, decide_eq_true_eq] at h
  have hg : g.ok = true := h.1.1.1.1
  have f0 := guard_lt g hg
  have f1 := bool_lt g.neg
  have f2 := bit_lt b
  have f3 := im_lt b
  have f4 := sb_lt b ty (by simp only [h])
  have f5 := vtype_lt ty
  have f6 := rnd_lt rnd
  have f7 := bool_lt sat
  refine ⟨⟨?_, rfl, fun _ => rfl, fun y => ?_⟩, trivial, trivial⟩
  · exact ⟨by omega, by omega, by omega, by omega, by omega, by omega, by omega, by omega, by omega, by omega, by omega, by omega, by omega, trivial⟩
  · show (mkGuard g.p g.neg.toNat).bind _ = _
    rw [mkGuard_ok g hg]
    show (op2 b.bit b.sb b.im).bind _ = _
    rw [op2_code]
    show (VType.ofCode ty.code).bind _ = _
    rw [vtype_code]
    show (Rnd.ofCode rnd.code).bind _ = _
    rw [rnd_code]
    show some (Instr.vaddScalar g vd va b ty rnd (sat.toNat == 1)) = _
    simp only [bool_eq]
theorem Enc.vsubScalar (g : Guard) (vd : Nat) (va : Nat) (b : SOperand) (ty : VType) (rnd : Rnd) (sat : Bool) : Enc.Statement (.vsubScalar g vd va b ty rnd sat) := by
  intro h
  change (g.ok && vOk vd && vOk va && arithOk ty rnd sat && b.ok ty) = true at h
  simp only [Bool.and_eq_true, vOk, decide_eq_true_eq] at h
  have hg : g.ok = true := h.1.1.1.1
  have f0 := guard_lt g hg
  have f1 := bool_lt g.neg
  have f2 := bit_lt b
  have f3 := im_lt b
  have f4 := sb_lt b ty (by simp only [h])
  have f5 := vtype_lt ty
  have f6 := rnd_lt rnd
  have f7 := bool_lt sat
  refine ⟨⟨?_, rfl, fun _ => rfl, fun y => ?_⟩, trivial, trivial⟩
  · exact ⟨by omega, by omega, by omega, by omega, by omega, by omega, by omega, by omega, by omega, by omega, by omega, by omega, by omega, trivial⟩
  · show (mkGuard g.p g.neg.toNat).bind _ = _
    rw [mkGuard_ok g hg]
    show (op2 b.bit b.sb b.im).bind _ = _
    rw [op2_code]
    show (VType.ofCode ty.code).bind _ = _
    rw [vtype_code]
    show (Rnd.ofCode rnd.code).bind _ = _
    rw [rnd_code]
    show some (Instr.vsubScalar g vd va b ty rnd (sat.toNat == 1)) = _
    simp only [bool_eq]
theorem Enc.vmulScalar (g : Guard) (vd : Nat) (va : Nat) (b : SOperand) (ty : VType) (rnd : Rnd) (sat : Bool) : Enc.Statement (.vmulScalar g vd va b ty rnd sat) := by
  intro h
  change (g.ok && vOk vd && vOk va && arithOk ty rnd sat && b.ok ty) = true at h
  simp only [Bool.and_eq_true, vOk, decide_eq_true_eq] at h
  have hg : g.ok = true := h.1.1.1.1
  have f0 := guard_lt g hg
  have f1 := bool_lt g.neg
  have f2 := bit_lt b
  have f3 := im_lt b
  have f4 := sb_lt b ty (by simp only [h])
  have f5 := vtype_lt ty
  have f6 := rnd_lt rnd
  have f7 := bool_lt sat
  refine ⟨⟨?_, rfl, fun _ => rfl, fun y => ?_⟩, trivial, trivial⟩
  · exact ⟨by omega, by omega, by omega, by omega, by omega, by omega, by omega, by omega, by omega, by omega, by omega, by omega, by omega, trivial⟩
  · show (mkGuard g.p g.neg.toNat).bind _ = _
    rw [mkGuard_ok g hg]
    show (op2 b.bit b.sb b.im).bind _ = _
    rw [op2_code]
    show (VType.ofCode ty.code).bind _ = _
    rw [vtype_code]
    show (Rnd.ofCode rnd.code).bind _ = _
    rw [rnd_code]
    show some (Instr.vmulScalar g vd va b ty rnd (sat.toNat == 1)) = _
    simp only [bool_eq]
theorem Enc.vminScalar (g : Guard) (vd : Nat) (va : Nat) (b : SOperand) (ty : VType) : Enc.Statement (.vminScalar g vd va b ty) := by
  intro h
  change (g.ok && vOk vd && vOk va && fiOk ty && b.ok ty) = true at h
  simp only [Bool.and_eq_true, vOk, decide_eq_true_eq] at h
  have hg : g.ok = true := h.1.1.1.1
  have f0 := guard_lt g hg
  have f1 := bool_lt g.neg
  have f2 := bit_lt b
  have f3 := im_lt b
  have f4 := sb_lt b ty (by simp only [h])
  have f5 := vtype_lt ty
  refine ⟨⟨?_, rfl, fun _ => rfl, fun y => ?_⟩, trivial, trivial⟩
  · exact ⟨by omega, by omega, by omega, by omega, by omega, by omega, by omega, by omega, by omega, by omega, by omega, by omega, by omega, trivial⟩
  · show (mkGuard g.p g.neg.toNat).bind _ = _
    rw [mkGuard_ok g hg]
    show (op2 b.bit b.sb b.im).bind _ = _
    rw [op2_code]
    show (VType.ofCode ty.code).bind _ = _
    rw [vtype_code]
    show some (Instr.vminScalar g vd va b ty) = _
    rfl
theorem Enc.vmaxScalar (g : Guard) (vd : Nat) (va : Nat) (b : SOperand) (ty : VType) : Enc.Statement (.vmaxScalar g vd va b ty) := by
  intro h
  change (g.ok && vOk vd && vOk va && fiOk ty && b.ok ty) = true at h
  simp only [Bool.and_eq_true, vOk, decide_eq_true_eq] at h
  have hg : g.ok = true := h.1.1.1.1
  have f0 := guard_lt g hg
  have f1 := bool_lt g.neg
  have f2 := bit_lt b
  have f3 := im_lt b
  have f4 := sb_lt b ty (by simp only [h])
  have f5 := vtype_lt ty
  refine ⟨⟨?_, rfl, fun _ => rfl, fun y => ?_⟩, trivial, trivial⟩
  · exact ⟨by omega, by omega, by omega, by omega, by omega, by omega, by omega, by omega, by omega, by omega, by omega, by omega, by omega, trivial⟩
  · show (mkGuard g.p g.neg.toNat).bind _ = _
    rw [mkGuard_ok g hg]
    show (op2 b.bit b.sb b.im).bind _ = _
    rw [op2_code]
    show (VType.ofCode ty.code).bind _ = _
    rw [vtype_code]
    show some (Instr.vmaxScalar g vd va b ty) = _
    rfl
theorem Enc.vandScalar (g : Guard) (vd : Nat) (va : Nat) (b : SOperand) (ty : VType) : Enc.Statement (.vandScalar g vd va b ty) := by
  intro h
  change (g.ok && vOk vd && vOk va && ty.isS && b.ok ty) = true at h
  simp only [Bool.and_eq_true, vOk, decide_eq_true_eq] at h
  have hg : g.ok = true := h.1.1.1.1
  have f0 := guard_lt g hg
  have f1 := bool_lt g.neg
  have f2 := bit_lt b
  have f3 := im_lt b
  have f4 := sb_lt b ty (by simp only [h])
  have f5 := vtype_lt ty
  refine ⟨⟨?_, rfl, fun _ => rfl, fun y => ?_⟩, trivial, trivial⟩
  · exact ⟨by omega, by omega, by omega, by omega, by omega, by omega, by omega, by omega, by omega, by omega, by omega, by omega, by omega, trivial⟩
  · show (mkGuard g.p g.neg.toNat).bind _ = _
    rw [mkGuard_ok g hg]
    show (op2 b.bit b.sb b.im).bind _ = _
    rw [op2_code]
    show (VType.ofCode ty.code).bind _ = _
    rw [vtype_code]
    show some (Instr.vandScalar g vd va b ty) = _
    rfl
theorem Enc.vorScalar (g : Guard) (vd : Nat) (va : Nat) (b : SOperand) (ty : VType) : Enc.Statement (.vorScalar g vd va b ty) := by
  intro h
  change (g.ok && vOk vd && vOk va && ty.isS && b.ok ty) = true at h
  simp only [Bool.and_eq_true, vOk, decide_eq_true_eq] at h
  have hg : g.ok = true := h.1.1.1.1
  have f0 := guard_lt g hg
  have f1 := bool_lt g.neg
  have f2 := bit_lt b
  have f3 := im_lt b
  have f4 := sb_lt b ty (by simp only [h])
  have f5 := vtype_lt ty
  refine ⟨⟨?_, rfl, fun _ => rfl, fun y => ?_⟩, trivial, trivial⟩
  · exact ⟨by omega, by omega, by omega, by omega, by omega, by omega, by omega, by omega, by omega, by omega, by omega, by omega, by omega, trivial⟩
  · show (mkGuard g.p g.neg.toNat).bind _ = _
    rw [mkGuard_ok g hg]
    show (op2 b.bit b.sb b.im).bind _ = _
    rw [op2_code]
    show (VType.ofCode ty.code).bind _ = _
    rw [vtype_code]
    show some (Instr.vorScalar g vd va b ty) = _
    rfl
theorem Enc.vxorScalar (g : Guard) (vd : Nat) (va : Nat) (b : SOperand) (ty : VType) : Enc.Statement (.vxorScalar g vd va b ty) := by
  intro h
  change (g.ok && vOk vd && vOk va && ty.isS && b.ok ty) = true at h
  simp only [Bool.and_eq_true, vOk, decide_eq_true_eq] at h
  have hg : g.ok = true := h.1.1.1.1
  have f0 := guard_lt g hg
  have f1 := bool_lt g.neg
  have f2 := bit_lt b
  have f3 := im_lt b
  have f4 := sb_lt b ty (by simp only [h])
  have f5 := vtype_lt ty
  refine ⟨⟨?_, rfl, fun _ => rfl, fun y => ?_⟩, trivial, trivial⟩
  · exact ⟨by omega, by omega, by omega, by omega, by omega, by omega, by omega, by omega, by omega, by omega, by omega, by omega, by omega, trivial⟩
  · show (mkGuard g.p g.neg.toNat).bind _ = _
    rw [mkGuard_ok g hg]
    show (op2 b.bit b.sb b.im).bind _ = _
    rw [op2_code]
    show (VType.ofCode ty.code).bind _ = _
    rw [vtype_code]
    show some (Instr.vxorScalar g vd va b ty) = _
    rfl
theorem Enc.vshlScalar (g : Guard) (vd : Nat) (va : Nat) (b : SOperand) (ty : VType) : Enc.Statement (.vshlScalar g vd va b ty) := by
  intro h
  change (g.ok && vOk vd && vOk va && ty.isS && b.ok ty) = true at h
  simp only [Bool.and_eq_true, vOk, decide_eq_true_eq] at h
  have hg : g.ok = true := h.1.1.1.1
  have f0 := guard_lt g hg
  have f1 := bool_lt g.neg
  have f2 := bit_lt b
  have f3 := im_lt b
  have f4 := sb_lt b ty (by simp only [h])
  have f5 := vtype_lt ty
  refine ⟨⟨?_, rfl, fun _ => rfl, fun y => ?_⟩, trivial, trivial⟩
  · exact ⟨by omega, by omega, by omega, by omega, by omega, by omega, by omega, by omega, by omega, by omega, by omega, by omega, by omega, trivial⟩
  · show (mkGuard g.p g.neg.toNat).bind _ = _
    rw [mkGuard_ok g hg]
    show (op2 b.bit b.sb b.im).bind _ = _
    rw [op2_code]
    show (VType.ofCode ty.code).bind _ = _
    rw [vtype_code]
    show some (Instr.vshlScalar g vd va b ty) = _
    rfl
theorem Enc.vshrScalar (g : Guard) (vd : Nat) (va : Nat) (b : SOperand) (ty : VType) : Enc.Statement (.vshrScalar g vd va b ty) := by
  intro h
  change (g.ok && vOk vd && vOk va && ty.isS && b.ok ty) = true at h
  simp only [Bool.and_eq_true, vOk, decide_eq_true_eq] at h
  have hg : g.ok = true := h.1.1.1.1
  have f0 := guard_lt g hg
  have f1 := bool_lt g.neg
  have f2 := bit_lt b
  have f3 := im_lt b
  have f4 := sb_lt b ty (by simp only [h])
  have f5 := vtype_lt ty
  refine ⟨⟨?_, rfl, fun _ => rfl, fun y => ?_⟩, trivial, trivial⟩
  · exact ⟨by omega, by omega, by omega, by omega, by omega, by omega, by omega, by omega, by omega, by omega, by omega, by omega, by omega, trivial⟩
  · show (mkGuard g.p g.neg.toNat).bind _ = _
    rw [mkGuard_ok g hg]
    show (op2 b.bit b.sb b.im).bind _ = _
    rw [op2_code]
    show (VType.ofCode ty.code).bind _ = _
    rw [vtype_code]
    show some (Instr.vshrScalar g vd va b ty) = _
    rfl
theorem Enc.vsarScalar (g : Guard) (vd : Nat) (va : Nat) (b : SOperand) (ty : VType) : Enc.Statement (.vsarScalar g vd va b ty) := by
  intro h
  change (g.ok && vOk vd && vOk va && ty.isS && b.ok ty) = true at h
  simp only [Bool.and_eq_true, vOk, decide_eq_true_eq] at h
  have hg : g.ok = true := h.1.1.1.1
  have f0 := guard_lt g hg
  have f1 := bool_lt g.neg
  have f2 := bit_lt b
  have f3 := im_lt b
  have f4 := sb_lt b ty (by simp only [h])
  have f5 := vtype_lt ty
  refine ⟨⟨?_, rfl, fun _ => rfl, fun y => ?_⟩, trivial, trivial⟩
  · exact ⟨by omega, by omega, by omega, by omega, by omega, by omega, by omega, by omega, by omega, by omega, by omega, by omega, by omega, trivial⟩
  · show (mkGuard g.p g.neg.toNat).bind _ = _
    rw [mkGuard_ok g hg]
    show (op2 b.bit b.sb b.im).bind _ = _
    rw [op2_code]
    show (VType.ofCode ty.code).bind _ = _
    rw [vtype_code]
    show some (Instr.vsarScalar g vd va b ty) = _
    rfl
theorem Enc.vcmpScalar (g : Guard) (c : Cond) (vd : Nat) (va : Nat) (b : SOperand) (ty : VType) : Enc.Statement (.vcmpScalar g c vd va b ty) := by
  intro h
  change (g.ok && vOk vd && vOk va && cmpOk c ty && b.ok ty) = true at h
  simp only [Bool.and_eq_true, vOk, decide_eq_true_eq] at h
  have hg : g.ok = true := h.1.1.1.1
  have f0 := guard_lt g hg
  have f1 := bool_lt g.neg
  have f2 := cond_lt c
  have f3 := bit_lt b
  have f4 := im_lt b
  have f5 := sb_lt b ty (by simp only [h])
  have f6 := vtype_lt ty
  refine ⟨⟨?_, rfl, fun _ => rfl, fun y => ?_⟩, trivial, trivial⟩
  · exact ⟨by omega, by omega, by omega, by omega, by omega, by omega, by omega, by omega, by omega, by omega, by omega, by omega, by omega, trivial⟩
  · show (mkGuard g.p g.neg.toNat).bind _ = _
    rw [mkGuard_ok g hg]
    show (Cond.ofCode (2 * (c.code / 2) + c.code % 2)).bind _ = _
    rw [cond_split]
    show (op2 b.bit b.sb b.im).bind _ = _
    rw [op2_code]
    show (VType.ofCode ty.code).bind _ = _
    rw [vtype_code]
    show some (Instr.vcmpScalar g c vd va b ty) = _
    rfl
theorem Enc.vbcast (g : Guard) (vd : Nat) (b : SOperand) (ty : VType) : Enc.Statement (.vbcast g vd b ty) := by
  intro h
  change (g.ok && vOk vd && (ty.isF || ty.isS) && b.ok ty) = true at h
  simp only [Bool.and_eq_true, vOk, decide_eq_true_eq] at h
  have hg : g.ok = true := h.1.1.1
  have f0 := guard_lt g hg
  have f1 := bool_lt g.neg
  have f2 := bit_lt b
  have f3 := im_lt b
  have f4 := sb_lt b ty (by simp only [h])
  have f5 := vtype_lt ty
  refine ⟨⟨?_, rfl, fun _ => rfl, fun y => ?_⟩, trivial, trivial⟩
  · exact ⟨by omega, by omega, by omega, by omega, by omega, by omega, by omega, by omega, by omega, by omega, by omega, by omega, by omega, trivial⟩
  · show (mkGuard g.p g.neg.toNat).bind _ = _
    rw [mkGuard_ok g hg]
    show (op2 b.bit b.sb b.im).bind _ = _
    rw [op2_code]
    show (VType.ofCode ty.code).bind _ = _
    rw [vtype_code]
    show some (Instr.vbcast g vd b ty) = _
    rfl
theorem Enc.vld (g : Guard) (vd : Nat) (sb : Nat) (imm : BitVec 12) : Enc.Statement (.vld g vd sb imm) := by
  intro h
  change (g.ok && vOk vd && sOk sb) = true at h
  simp only [Bool.and_eq_true, sOk, vOk, decide_eq_true_eq] at h
  have hg : g.ok = true := h.1.1
  have f0 := guard_lt g hg
  have f1 := bool_lt g.neg
  have f2 := bv_lt _ imm
  refine ⟨⟨?_, rfl, fun _ => rfl, fun y => ?_⟩, trivial, trivial⟩
  · exact ⟨by omega, by omega, by omega, by omega, by omega, by omega, by omega, by omega, by omega, by omega, by omega, by omega, by omega, trivial⟩
  · show (mkGuard g.p g.neg.toNat).bind _ = _
    rw [mkGuard_ok g hg]
    show some (Instr.vld g vd sb (BitVec.ofNat 12 imm.toNat)) = _
    simp only [ofNat_toNat]
theorem Enc.vst (g : Guard) (vd : Nat) (sb : Nat) (imm : BitVec 12) : Enc.Statement (.vst g vd sb imm) := by
  intro h
  change (g.ok && vOk vd && sOk sb) = true at h
  simp only [Bool.and_eq_true, sOk, vOk, decide_eq_true_eq] at h
  have hg : g.ok = true := h.1.1
  have f0 := guard_lt g hg
  have f1 := bool_lt g.neg
  have f2 := bv_lt _ imm
  refine ⟨⟨?_, rfl, fun _ => rfl, fun y => ?_⟩, trivial, trivial⟩
  · exact ⟨by omega, by omega, by omega, by omega, by omega, by omega, by omega, by omega, by omega, by omega, by omega, by omega, by omega, trivial⟩
  · show (mkGuard g.p g.neg.toNat).bind _ = _
    rw [mkGuard_ok g hg]
    show some (Instr.vst g vd sb (BitVec.ofNat 12 imm.toNat)) = _
    simp only [ofNat_toNat]
theorem Enc.vldx (g : Guard) (vd : Nat) (va : Nat) (sb : Nat) (imm : BitVec 12) : Enc.Statement (.vldx g vd va sb imm) := by
  intro h
  change (g.ok && vOk vd && vOk va && sOk sb) = true at h
  simp only [Bool.and_eq_true, sOk, vOk, decide_eq_true_eq] at h
  have hg : g.ok = true := h.1.1.1
  have f0 := guard_lt g hg
  have f1 := bool_lt g.neg
  have f2 := bv_lt _ imm
  refine ⟨⟨?_, rfl, fun _ => rfl, fun y => ?_⟩, trivial, trivial⟩
  · exact ⟨by omega, by omega, by omega, by omega, by omega, by omega, by omega, by omega, by omega, by omega, by omega, by omega, by omega, trivial⟩
  · show (mkGuard g.p g.neg.toNat).bind _ = _
    rw [mkGuard_ok g hg]
    show some (Instr.vldx g vd va sb (BitVec.ofNat 12 imm.toNat)) = _
    simp only [ofNat_toNat]
theorem Enc.vstx (g : Guard) (vd : Nat) (va : Nat) (sb : Nat) (imm : BitVec 12) : Enc.Statement (.vstx g vd va sb imm) := by
  intro h
  change (g.ok && vOk vd && vOk va && sOk sb) = true at h
  simp only [Bool.and_eq_true, sOk, vOk, decide_eq_true_eq] at h
  have hg : g.ok = true := h.1.1.1
  have f0 := guard_lt g hg
  have f1 := bool_lt g.neg
  have f2 := bv_lt _ imm
  refine ⟨⟨?_, rfl, fun _ => rfl, fun y => ?_⟩, trivial, trivial⟩
  · exact ⟨by omega, by omega, by omega, by omega, by omega, by omega, by omega, by omega, by omega, by omega, by omega, by omega, by omega, trivial⟩
  · show (mkGuard g.p g.neg.toNat).bind _ = _
    rw [mkGuard_ok g hg]
    show some (Instr.vstx g vd va sb (BitVec.ofNat 12 imm.toNat)) = _
    simp only [ofNat_toNat]
theorem Enc.vextr (g : Guard) (sb : Nat) (va : Nat) (lane : Nat) (ty : VType) : Enc.Statement (.vextr g sb va lane ty) := by
  intro h
  change (g.ok && sOk sb && vOk va && ty.isI && decide (lane < 4096)) = true at h
  simp only [Bool.and_eq_true, sOk, vOk, decide_eq_true_eq] at h
  have hg : g.ok = true := h.1.1.1.1
  have f0 := guard_lt g hg
  have f1 := bool_lt g.neg
  have f2 := vtype_lt ty
  have f3 := count_le ty
  refine ⟨⟨?_, rfl, fun _ => rfl, fun y => ?_⟩, trivial, trivial⟩
  · exact ⟨by omega, by omega, by omega, by omega, by omega, by omega, by omega, by omega, by omega, by omega, by omega, by omega, by omega, trivial⟩
  · show (mkGuard g.p g.neg.toNat).bind _ = _
    rw [mkGuard_ok g hg]
    show (VType.ofCode ty.code).bind _ = _
    rw [vtype_code]
    show some (Instr.vextr g sb va lane ty) = _
    rfl
theorem Enc.vins (g : Guard) (vd : Nat) (sb : Nat) (lane : Nat) (ty : VType) : Enc.Statement (.vins g vd sb lane ty) := by
  intro h
  change (g.ok && vOk vd && sOk sb && ty.isI && decide (lane < 4096)) = true at h
  simp only [Bool.and_eq_true, sOk, vOk, decide_eq_true_eq] at h
  have hg : g.ok = true := h.1.1.1.1
  have f0 := guard_lt g hg
  have f1 := bool_lt g.neg
  have f2 := vtype_lt ty
  have f3 := count_le ty
  refine ⟨⟨?_, rfl, fun _ => rfl, fun y => ?_⟩, trivial, trivial⟩
  · exact ⟨by omega, by omega, by omega, by omega, by omega, by omega, by omega, by omega, by omega, by omega, by omega, by omega, by omega, trivial⟩
  · show (mkGuard g.p g.neg.toNat).bind _ = _
    rw [mkGuard_ok g hg]
    show (VType.ofCode ty.code).bind _ = _
    rw [vtype_code]
    show some (Instr.vins g vd sb lane ty) = _
    rfl
theorem Enc.ldw (g : Guard) (sa : Nat) (bed : Bool) (e : ECtl) (ts : Bool) : Enc.Statement (.ldw g sa bed e ts) := by
  intro h
  change (g.ok && sOk sa && e.ok) = true at h
  simp only [Bool.and_eq_true, sOk, ECtl.ok, decide_eq_true_eq] at h
  have hg : g.ok = true := h.1.1
  have f0 := guard_lt g hg
  have f1 := bool_lt g.neg
  have f2 := bool_lt bed
  have f3 := tok_lt e
  have f4 := bv_lt 12 e.step
  have f5 := bool_lt ts
  refine ⟨⟨?_, rfl, fun _ => rfl, fun y => ?_⟩, trivial, trivial⟩
  · exact ⟨by omega, by omega, by omega, by omega, by omega, by omega, by omega, by omega, by omega, by omega, by omega, by omega, by omega, trivial⟩
  · show (mkGuard g.p g.neg.toNat).bind _ = _
    rw [mkGuard_ok g hg]
    show (bit1 bed.toNat).bind _ = _
    rw [bit1_ok]
    show some (Instr.ldw g sa (bed.toNat == 1) (mkE e.tok e.rep e.step.toNat) (ts.toNat == 1)) = _
    simp only [bool_eq, mkE_tok]
theorem Enc.wswap (g : Guard) (e : ECtl) (ts : Bool) : Enc.Statement (.wswap g e ts) := by
  intro h
  change (g.ok && e.ok && e.noRep) = true at h
  simp only [Bool.and_eq_true, ECtl.ok, decide_eq_true_eq] at h
  have hg : g.ok = true := h.1.1
  have f0 := guard_lt g hg
  have f1 := bool_lt g.neg
  have f2 := tok_lt e
  have f3 := bv_lt 12 e.step
  have f4 := bool_lt ts
  refine ⟨⟨?_, rfl, fun _ => rfl, fun y => ?_⟩, trivial, trivial⟩
  · exact ⟨by omega, by omega, by omega, by omega, by omega, by omega, by omega, by omega, by omega, by omega, by omega, by omega, by omega, trivial⟩
  · show (mkGuard g.p g.neg.toNat).bind _ = _
    rw [mkGuard_ok g hg]
    show some (Instr.wswap g (mkE e.tok e.rep e.step.toNat) (ts.toNat == 1)) = _
    simp only [bool_eq, mkE_tok]
theorem Enc.mm (g : Guard) (td : Nat) (sa : Nat) (clr : Bool) (e : ECtl) (ts : Bool) : Enc.Statement (.mm g td sa clr e ts) := by
  intro h
  change (g.ok && tOk td && sOk sa && e.ok) = true at h
  simp only [Bool.and_eq_true, sOk, tOk, ECtl.ok, decide_eq_true_eq] at h
  have hg : g.ok = true := h.1.1.1
  have f0 := guard_lt g hg
  have f1 := bool_lt g.neg
  have f2 := bool_lt clr
  have f3 := tok_lt e
  have f4 := bv_lt 12 e.step
  have f5 := bool_lt ts
  refine ⟨⟨?_, rfl, fun _ => rfl, fun y => ?_⟩, trivial, trivial⟩
  · exact ⟨by omega, by omega, by omega, by omega, by omega, by omega, by omega, by omega, by omega, by omega, by omega, by omega, by omega, trivial⟩
  · show (mkGuard g.p g.neg.toNat).bind _ = _
    rw [mkGuard_ok g hg]
    show (bit1 clr.toNat).bind _ = _
    rw [bit1_ok]
    show some (Instr.mm g td sa (clr.toNat == 1) (mkE e.tok e.rep e.step.toNat) (ts.toNat == 1)) = _
    simp only [bool_eq, mkE_tok]
theorem Enc.mgroup (g : Guard) (td : Nat) (sa : Nat) (sb : Nat) (sc : Nat) (e : ECtl) (ts : Bool) : Enc.Statement (.mgroup g td sa sb sc e ts) := by
  intro h
  change (g.ok && tOk td && sOk sa && sOk sb && sOk sc && e.ok && e.noRep) = true at h
  simp only [Bool.and_eq_true, sOk, tOk, ECtl.ok, decide_eq_true_eq] at h
  have hg : g.ok = true := h.1.1.1.1.1.1
  have f0 := guard_lt g hg
  have f1 := bool_lt g.neg
  have f2 := tok_lt e
  have f3 := bv_lt 12 e.step
  have f4 := bool_lt ts
  refine ⟨⟨?_, rfl, fun _ => rfl, fun y => ?_⟩, trivial, trivial⟩
  · exact ⟨by omega, by omega, by omega, by omega, by omega, by omega, by omega, by omega, by omega, by omega, by omega, by omega, by omega, trivial⟩
  · show (mkGuard g.p g.neg.toNat).bind _ = _
    rw [mkGuard_ok g hg]
    show some (Instr.mgroup g td sa sb sc (mkE e.tok e.rep e.step.toNat) (ts.toNat == 1)) = _
    simp only [bool_eq, mkE_tok]
theorem Enc.accz (g : Guard) (td : Nat) (e : ECtl) (ts : Bool) : Enc.Statement (.accz g td e ts) := by
  intro h
  change (g.ok && tOk td && e.ok) = true at h
  simp only [Bool.and_eq_true, tOk, ECtl.ok, decide_eq_true_eq] at h
  have hg : g.ok = true := h.1.1
  have f0 := guard_lt g hg
  have f1 := bool_lt g.neg
  have f2 := tok_lt e
  have f3 := bv_lt 12 e.step
  have f4 := bool_lt ts
  refine ⟨⟨?_, rfl, fun _ => rfl, fun y => ?_⟩, trivial, trivial⟩
  · exact ⟨by omega, by omega, by omega, by omega, by omega, by omega, by omega, by omega, by omega, by omega, by omega, by omega, by omega, trivial⟩
  · show (mkGuard g.p g.neg.toNat).bind _ = _
    rw [mkGuard_ok g hg]
    show some (Instr.accz g td (mkE e.tok e.rep e.step.toNat) (ts.toNat == 1)) = _
    simp only [bool_eq, mkE_tok]
theorem Enc.accld (g : Guard) (td : Nat) (sa : Nat) (e : ECtl) (ts : Bool) : Enc.Statement (.accld g td sa e ts) := by
  intro h
  change (g.ok && tOk td && sOk sa && e.ok) = true at h
  simp only [Bool.and_eq_true, sOk, tOk, ECtl.ok, decide_eq_true_eq] at h
  have hg : g.ok = true := h.1.1.1
  have f0 := guard_lt g hg
  have f1 := bool_lt g.neg
  have f2 := tok_lt e
  have f3 := bv_lt 12 e.step
  have f4 := bool_lt ts
  refine ⟨⟨?_, rfl, fun _ => rfl, fun y => ?_⟩, trivial, trivial⟩
  · exact ⟨by omega, by omega, by omega, by omega, by omega, by omega, by omega, by omega, by omega, by omega, by omega, by omega, by omega, trivial⟩
  · show (mkGuard g.p g.neg.toNat).bind _ = _
    rw [mkGuard_ok g hg]
    show some (Instr.accld g td sa (mkE e.tok e.rep e.step.toNat) (ts.toNat == 1)) = _
    simp only [bool_eq, mkE_tok]
theorem Enc.accwr (g : Guard) (td : Nat) (sa : Nat) (sb : Nat) (e : ECtl) (ts : Bool) : Enc.Statement (.accwr g td sa sb e ts) := by
  intro h
  change (g.ok && tOk td && sOk sa && sOk sb && e.ok) = true at h
  simp only [Bool.and_eq_true, sOk, tOk, ECtl.ok, decide_eq_true_eq] at h
  have hg : g.ok = true := h.1.1.1.1
  have f0 := guard_lt g hg
  have f1 := bool_lt g.neg
  have f2 := tok_lt e
  have f3 := bv_lt 12 e.step
  have f4 := bool_lt ts
  refine ⟨⟨?_, rfl, fun _ => rfl, fun y => ?_⟩, trivial, trivial⟩
  · exact ⟨by omega, by omega, by omega, by omega, by omega, by omega, by omega, by omega, by omega, by omega, by omega, by omega, by omega, trivial⟩
  · show (mkGuard g.p g.neg.toNat).bind _ = _
    rw [mkGuard_ok g hg]
    show some (Instr.accwr g td sa sb (mkE e.tok e.rep e.step.toNat) (ts.toNat == 1)) = _
    simp only [bool_eq, mkE_tok]
theorem Enc.plnset (g : Guard) (td : Nat) (sa : Nat) (e : ECtl) (ts : Bool) : Enc.Statement (.plnset g td sa e ts) := by
  intro h
  change (g.ok && tOk td && sOk sa && e.ok && e.noRep) = true at h
  simp only [Bool.and_eq_true, sOk, tOk, ECtl.ok, decide_eq_true_eq] at h
  have hg : g.ok = true := h.1.1.1.1
  have f0 := guard_lt g hg
  have f1 := bool_lt g.neg
  have f2 := tok_lt e
  have f3 := bv_lt 12 e.step
  have f4 := bool_lt ts
  refine ⟨⟨?_, rfl, fun _ => rfl, fun y => ?_⟩, trivial, trivial⟩
  · exact ⟨by omega, by omega, by omega, by omega, by omega, by omega, by omega, by omega, by omega, by omega, by omega, by omega, by omega, trivial⟩
  · show (mkGuard g.p g.neg.toNat).bind _ = _
    rw [mkGuard_ok g hg]
    show some (Instr.plnset g td sa (mkE e.tok e.rep e.step.toNat) (ts.toNat == 1)) = _
    simp only [bool_eq, mkE_tok]
theorem Enc.plnld (g : Guard) (td : Nat) (sa : Nat) (e : ECtl) (ts : Bool) : Enc.Statement (.plnld g td sa e ts) := by
  intro h
  change (g.ok && tOk td && sOk sa && e.ok) = true at h
  simp only [Bool.and_eq_true, sOk, tOk, ECtl.ok, decide_eq_true_eq] at h
  have hg : g.ok = true := h.1.1.1
  have f0 := guard_lt g hg
  have f1 := bool_lt g.neg
  have f2 := tok_lt e
  have f3 := bv_lt 12 e.step
  have f4 := bool_lt ts
  refine ⟨⟨?_, rfl, fun _ => rfl, fun y => ?_⟩, trivial, trivial⟩
  · exact ⟨by omega, by omega, by omega, by omega, by omega, by omega, by omega, by omega, by omega, by omega, by omega, by omega, by omega, trivial⟩
  · show (mkGuard g.p g.neg.toNat).bind _ = _
    rw [mkGuard_ok g hg]
    show some (Instr.plnld g td sa (mkE e.tok e.rep e.step.toNat) (ts.toNat == 1)) = _
    simp only [bool_eq, mkE_tok]
theorem Enc.margset (g : Guard) (sa : Nat) (sb : Nat) (e : ECtl) (ts : Bool) : Enc.Statement (.margset g sa sb e ts) := by
  intro h
  change (g.ok && sOk sa && sOk sb && e.ok && e.noRep) = true at h
  simp only [Bool.and_eq_true, sOk, ECtl.ok, decide_eq_true_eq] at h
  have hg : g.ok = true := h.1.1.1.1
  have f0 := guard_lt g hg
  have f1 := bool_lt g.neg
  have f2 := tok_lt e
  have f3 := bv_lt 12 e.step
  have f4 := bool_lt ts
  refine ⟨⟨?_, rfl, fun _ => rfl, fun y => ?_⟩, trivial, trivial⟩
  · exact ⟨by omega, by omega, by omega, by omega, by omega, by omega, by omega, by omega, by omega, by omega, by omega, by omega, by omega, trivial⟩
  · show (mkGuard g.p g.neg.toNat).bind _ = _
    rw [mkGuard_ok g hg]
    show some (Instr.margset g sa sb (mkE e.tok e.rep e.step.toNat) (ts.toNat == 1)) = _
    simp only [bool_eq, mkE_tok]
theorem Enc.balance (g : Guard) (sa : Nat) (e : ECtl) (ts : Bool) : Enc.Statement (.balance g sa e ts) := by
  intro h
  change (g.ok && sOk sa && e.ok && e.noRep) = true at h
  simp only [Bool.and_eq_true, sOk, ECtl.ok, decide_eq_true_eq] at h
  have hg : g.ok = true := h.1.1.1
  have f0 := guard_lt g hg
  have f1 := bool_lt g.neg
  have f2 := tok_lt e
  have f3 := bv_lt 12 e.step
  have f4 := bool_lt ts
  refine ⟨⟨?_, rfl, fun _ => rfl, fun y => ?_⟩, trivial, trivial⟩
  · exact ⟨by omega, by omega, by omega, by omega, by omega, by omega, by omega, by omega, by omega, by omega, by omega, by omega, by omega, trivial⟩
  · show (mkGuard g.p g.neg.toNat).bind _ = _
    rw [mkGuard_ok g hg]
    show some (Instr.balance g sa (mkE e.tok e.rep e.step.toNat) (ts.toNat == 1)) = _
    simp only [bool_eq, mkE_tok]
theorem Enc.plnrd (g : Guard) (td : Nat) (sa : Nat) (e : ECtl) (ts : Bool) : Enc.Statement (.plnrd g td sa e ts) := by
  intro h
  change (g.ok && tOk td && sOk sa && e.ok) = true at h
  simp only [Bool.and_eq_true, sOk, tOk, ECtl.ok, decide_eq_true_eq] at h
  have hg : g.ok = true := h.1.1.1
  have f0 := guard_lt g hg
  have f1 := bool_lt g.neg
  have f2 := tok_lt e
  have f3 := bv_lt 12 e.step
  have f4 := bool_lt ts
  refine ⟨⟨?_, rfl, fun _ => rfl, fun y => ?_⟩, trivial, trivial⟩
  · exact ⟨by omega, by omega, by omega, by omega, by omega, by omega, by omega, by omega, by omega, by omega, by omega, by omega, by omega, trivial⟩
  · show (mkGuard g.p g.neg.toNat).bind _ = _
    rw [mkGuard_ok g hg]
    show some (Instr.plnrd g td sa (mkE e.tok e.rep e.step.toNat) (ts.toNat == 1)) = _
    simp only [bool_eq, mkE_tok]
theorem Enc.plnscl (g : Guard) (sa : Nat) (sb : Nat) (e : ECtl) (ts : Bool) : Enc.Statement (.plnscl g sa sb e ts) := by
  intro h
  change (g.ok && sOk sa && sOk sb && e.ok && e.noRep) = true at h
  simp only [Bool.and_eq_true, sOk, ECtl.ok, decide_eq_true_eq] at h
  have hg : g.ok = true := h.1.1.1.1
  have f0 := guard_lt g hg
  have f1 := bool_lt g.neg
  have f2 := tok_lt e
  have f3 := bv_lt 12 e.step
  have f4 := bool_lt ts
  refine ⟨⟨?_, rfl, fun _ => rfl, fun y => ?_⟩, trivial, trivial⟩
  · exact ⟨by omega, by omega, by omega, by omega, by omega, by omega, by omega, by omega, by omega, by omega, by omega, by omega, by omega, trivial⟩
  · show (mkGuard g.p g.neg.toNat).bind _ = _
    rw [mkGuard_ok g hg]
    show some (Instr.plnscl g sa sb (mkE e.tok e.rep e.step.toNat) (ts.toNat == 1)) = _
    simp only [bool_eq, mkE_tok]
theorem Enc.cpin (g : Guard) (sd : Nat) (sa : Nat) (sl : Nat) (sbr : Nat) (e : ECtl) : Enc.Statement (.cpin g sd sa sl sbr e) := by
  intro h
  change (g.ok && sOk sd && sOk sa && sOk sl && sOk sbr && e.ok) = true at h
  simp only [Bool.and_eq_true, sOk, ECtl.ok, decide_eq_true_eq] at h
  have hg : g.ok = true := h.1.1.1.1.1
  have f0 := guard_lt g hg
  have f1 := bool_lt g.neg
  have f2 := tok_lt e
  have f3 := bv_lt 12 e.step
  refine ⟨⟨?_, rfl, fun _ => rfl, fun y => ?_⟩, trivial, trivial⟩
  · exact ⟨by omega, by omega, by omega, by omega, by omega, by omega, by omega, by omega, by omega, by omega, by omega, trivial⟩
  · show (mkGuard g.p g.neg.toNat).bind _ = _
    rw [mkGuard_ok g hg]
    show some (Instr.cpin g sd sa sl sbr (mkE e.tok e.rep e.step.toNat)) = _
    simp only [mkE_tok]
theorem Enc.cpinScl (g : Guard) (sa : Nat) (sl : Nat) (e : ECtl) : Enc.Statement (.cpinScl g sa sl e) := by
  intro h
  change (g.ok && sOk sa && sOk sl && e.ok) = true at h
  simp only [Bool.and_eq_true, sOk, ECtl.ok, decide_eq_true_eq] at h
  have hg : g.ok = true := h.1.1.1
  have f0 := guard_lt g hg
  have f1 := bool_lt g.neg
  have f2 := tok_lt e
  have f3 := bv_lt 12 e.step
  refine ⟨⟨?_, rfl, fun _ => rfl, fun y => ?_⟩, trivial, trivial⟩
  · exact ⟨by omega, by omega, by omega, by omega, by omega, by omega, by omega, by omega, by omega, by omega, by omega, trivial⟩
  · show (mkGuard g.p g.neg.toNat).bind _ = _
    rw [mkGuard_ok g hg]
    show some (Instr.cpinScl g sa sl (mkE e.tok e.rep e.step.toNat)) = _
    simp only [mkE_tok]
theorem Enc.cqfill (g : Guard) (sa : Nat) (sl : Nat) (e : ECtl) : Enc.Statement (.cqfill g sa sl e) := by
  intro h
  change (g.ok && sOk sa && sOk sl && e.ok) = true at h
  simp only [Bool.and_eq_true, sOk, ECtl.ok, decide_eq_true_eq] at h
  have hg : g.ok = true := h.1.1.1
  have f0 := guard_lt g hg
  have f1 := bool_lt g.neg
  have f2 := tok_lt e
  have f3 := bv_lt 12 e.step
  refine ⟨⟨?_, rfl, fun _ => rfl, fun y => ?_⟩, trivial, trivial⟩
  · exact ⟨by omega, by omega, by omega, by omega, by omega, by omega, by omega, by omega, by omega, by omega, by omega, trivial⟩
  · show (mkGuard g.p g.neg.toNat).bind _ = _
    rw [mkGuard_ok g hg]
    show some (Instr.cqfill g sa sl (mkE e.tok e.rep e.step.toNat)) = _
    simp only [mkE_tok]
theorem Enc.cpgath (g : Guard) (sd : Nat) (sa : Nat) (sl : Nat) (sbr : Nat) (e : ECtl) : Enc.Statement (.cpgath g sd sa sl sbr e) := by
  intro h
  change (g.ok && sOk sd && sOk sa && sOk sl && sOk sbr && e.ok) = true at h
  simp only [Bool.and_eq_true, sOk, ECtl.ok, decide_eq_true_eq] at h
  have hg : g.ok = true := h.1.1.1.1.1
  have f0 := guard_lt g hg
  have f1 := bool_lt g.neg
  have f2 := tok_lt e
  have f3 := bv_lt 12 e.step
  refine ⟨⟨?_, rfl, fun _ => rfl, fun y => ?_⟩, trivial, trivial⟩
  · exact ⟨by omega, by omega, by omega, by omega, by omega, by omega, by omega, by omega, by omega, by omega, by omega, trivial⟩
  · show (mkGuard g.p g.neg.toNat).bind _ = _
    rw [mkGuard_ok g hg]
    show some (Instr.cpgath g sd sa sl sbr (mkE e.tok e.rep e.step.toNat)) = _
    simp only [mkE_tok]
theorem Enc.cpfill (g : Guard) (sd : Nat) (sa : Nat) (sl : Nat) (sbr : Nat) (e : ECtl) : Enc.Statement (.cpfill g sd sa sl sbr e) := by
  intro h
  change (g.ok && sOk sd && sOk sa && sOk sl && sOk sbr && e.ok) = true at h
  simp only [Bool.and_eq_true, sOk, ECtl.ok, decide_eq_true_eq] at h
  have hg : g.ok = true := h.1.1.1.1.1
  have f0 := guard_lt g hg
  have f1 := bool_lt g.neg
  have f2 := tok_lt e
  have f3 := bv_lt 12 e.step
  refine ⟨⟨?_, rfl, fun _ => rfl, fun y => ?_⟩, trivial, trivial⟩
  · exact ⟨by omega, by omega, by omega, by omega, by omega, by omega, by omega, by omega, by omega, by omega, by omega, trivial⟩
  · show (mkGuard g.p g.neg.toNat).bind _ = _
    rw [mkGuard_ok g hg]
    show some (Instr.cpfill g sd sa sl sbr (mkE e.tok e.rep e.step.toNat)) = _
    simp only [mkE_tok]
theorem Enc.cploc (g : Guard) (sd : Nat) (sa : Nat) (sl : Nat) (sbr : Nat) (e : ECtl) : Enc.Statement (.cploc g sd sa sl sbr e) := by
  intro h
  change (g.ok && sOk sd && sOk sa && sOk sl && sOk sbr && e.ok) = true at h
  simp only [Bool.and_eq_true, sOk, ECtl.ok, decide_eq_true_eq] at h
  have hg : g.ok = true := h.1.1.1.1.1
  have f0 := guard_lt g hg
  have f1 := bool_lt g.neg
  have f2 := tok_lt e
  have f3 := bv_lt 12 e.step
  refine ⟨⟨?_, rfl, fun _ => rfl, fun y => ?_⟩, trivial, trivial⟩
  · exact ⟨by omega, by omega, by omega, by omega, by omega, by omega, by omega, by omega, by omega, by omega, by omega, trivial⟩
  · show (mkGuard g.p g.neg.toNat).bind _ = _
    rw [mkGuard_ok g hg]
    show some (Instr.cploc g sd sa sl sbr (mkE e.tok e.rep e.step.toNat)) = _
    simp only [mkE_tok]
theorem Enc.cpout (g : Guard) (sd : Nat) (sa : Nat) (sl : Nat) (sbr : Nat) (e : ECtl) : Enc.Statement (.cpout g sd sa sl sbr e) := by
  intro h
  change (g.ok && sOk sd && sOk sa && sOk sl && sOk sbr && e.ok) = true at h
  simp only [Bool.and_eq_true, sOk, ECtl.ok, decide_eq_true_eq] at h
  have hg : g.ok = true := h.1.1.1.1.1
  have f0 := guard_lt g hg
  have f1 := bool_lt g.neg
  have f2 := tok_lt e
  have f3 := bv_lt 12 e.step
  refine ⟨⟨?_, rfl, fun _ => rfl, fun y => ?_⟩, trivial, trivial⟩
  · exact ⟨by omega, by omega, by omega, by omega, by omega, by omega, by omega, by omega, by omega, by omega, by omega, trivial⟩
  · show (mkGuard g.p g.neg.toNat).bind _ = _
    rw [mkGuard_ok g hg]
    show some (Instr.cpout g sd sa sl sbr (mkE e.tok e.rep e.step.toNat)) = _
    simp only [mkE_tok]
theorem Enc.cppeer (g : Guard) (sd : Nat) (sa : Nat) (sl : Nat) (sbr : Nat) (e : ECtl) : Enc.Statement (.cppeer g sd sa sl sbr e) := by
  intro h
  change (g.ok && sOk sd && sOk sa && sOk sl && sOk sbr && e.ok) = true at h
  simp only [Bool.and_eq_true, sOk, ECtl.ok, decide_eq_true_eq] at h
  have hg : g.ok = true := h.1.1.1.1.1
  have f0 := guard_lt g hg
  have f1 := bool_lt g.neg
  have f2 := tok_lt e
  have f3 := bv_lt 12 e.step
  refine ⟨⟨?_, rfl, fun _ => rfl, fun y => ?_⟩, trivial, trivial⟩
  · exact ⟨by omega, by omega, by omega, by omega, by omega, by omega, by omega, by omega, by omega, by omega, by omega, trivial⟩
  · show (mkGuard g.p g.neg.toNat).bind _ = _
    rw [mkGuard_ok g hg]
    show some (Instr.cppeer g sd sa sl sbr (mkE e.tok e.rep e.step.toNat)) = _
    simp only [mkE_tok]
theorem Enc.cpmc (g : Guard) (sd : Nat) (sa : Nat) (sl : Nat) (sbr : Nat) (e : ECtl) : Enc.Statement (.cpmc g sd sa sl sbr e) := by
  intro h
  change (g.ok && sOk sd && sOk sa && sOk sl && sOk sbr && e.ok) = true at h
  simp only [Bool.and_eq_true, sOk, ECtl.ok, decide_eq_true_eq] at h
  have hg : g.ok = true := h.1.1.1.1.1
  have f0 := guard_lt g hg
  have f1 := bool_lt g.neg
  have f2 := tok_lt e
  have f3 := bv_lt 12 e.step
  refine ⟨⟨?_, rfl, fun _ => rfl, fun y => ?_⟩, trivial, trivial⟩
  · exact ⟨by omega, by omega, by omega, by omega, by omega, by omega, by omega, by omega, by omega, by omega, by omega, trivial⟩
  · show (mkGuard g.p g.neg.toNat).bind _ = _
    rw [mkGuard_ok g hg]
    show some (Instr.cpmc g sd sa sl sbr (mkE e.tok e.rep e.step.toNat)) = _
    simp only [mkE_tok]
theorem Enc.cpscat (g : Guard) (sd : Nat) (sa : Nat) (sl : Nat) (sbr : Nat) (e : ECtl) : Enc.Statement (.cpscat g sd sa sl sbr e) := by
  intro h
  change (g.ok && sOk sd && sOk sa && sOk sl && sOk sbr && e.ok) = true at h
  simp only [Bool.and_eq_true, sOk, ECtl.ok, decide_eq_true_eq] at h
  have hg : g.ok = true := h.1.1.1.1.1
  have f0 := guard_lt g hg
  have f1 := bool_lt g.neg
  have f2 := tok_lt e
  have f3 := bv_lt 12 e.step
  refine ⟨⟨?_, rfl, fun _ => rfl, fun y => ?_⟩, trivial, trivial⟩
  · exact ⟨by omega, by omega, by omega, by omega, by omega, by omega, by omega, by omega, by omega, by omega, by omega, trivial⟩
  · show (mkGuard g.p g.neg.toNat).bind _ = _
    rw [mkGuard_ok g hg]
    show some (Instr.cpscat g sd sa sl sbr (mkE e.tok e.rep e.step.toNat)) = _
    simp only [mkE_tok]
theorem Enc.cpmem (g : Guard) (sd : Nat) (sa : Nat) (sl : Nat) (sbr : Nat) (e : ECtl) : Enc.Statement (.cpmem g sd sa sl sbr e) := by
  intro h
  change (g.ok && sOk sd && sOk sa && sOk sl && sOk sbr && e.ok) = true at h
  simp only [Bool.and_eq_true, sOk, ECtl.ok, decide_eq_true_eq] at h
  have hg : g.ok = true := h.1.1.1.1.1
  have f0 := guard_lt g hg
  have f1 := bool_lt g.neg
  have f2 := tok_lt e
  have f3 := bv_lt 12 e.step
  refine ⟨⟨?_, rfl, fun _ => rfl, fun y => ?_⟩, trivial, trivial⟩
  · exact ⟨by omega, by omega, by omega, by omega, by omega, by omega, by omega, by omega, by omega, by omega, by omega, trivial⟩
  · show (mkGuard g.p g.neg.toNat).bind _ = _
    rw [mkGuard_ok g hg]
    show some (Instr.cpmem g sd sa sl sbr (mkE e.tok e.rep e.step.toNat)) = _
    simp only [mkE_tok]
theorem Enc.amo (g : Guard) (op : AmoOp) (ord : Ord) (w : AWid) (scope : Nat) (sd : Nat) (sa : Nat) (sb : Nat) (imm : BitVec 12) : Enc.Statement (.amo g op ord w scope sd sa sb imm) := by
  intro h
  change (g.ok && sOk sd && sOk sa && sOk sb && amoOk op w && ordOk ord scope) = true at h
  simp only [Bool.and_eq_true, sOk, ordOk, scOk, decide_eq_true_eq] at h
  have hg : g.ok = true := h.1.1.1.1.1
  have f0 := guard_lt g hg
  have f1 := bool_lt g.neg
  have f2 := amo_lt op
  have f3 := ord_lt ord
  have f4 := awid_lt w
  have f5 := bv_lt _ imm
  refine ⟨⟨?_, rfl, fun _ => rfl, fun y => ?_⟩, trivial, trivial⟩
  · exact ⟨by omega, by omega, by omega, by omega, by omega, by omega, by omega, by omega, by omega, by omega, by omega, by omega, by omega, trivial⟩
  · show (mkGuard g.p g.neg.toNat).bind _ = _
    rw [mkGuard_ok g hg]
    show (AmoOp.ofCode op.code).bind _ = _
    rw [amo_code]
    show (Ord.ofCode ord.code).bind _ = _
    rw [ord_code]
    show (AWid.ofCode w.code).bind _ = _
    rw [awid_code]
    show some (Instr.amo g op ord w scope sd sa sb (BitVec.ofNat 12 imm.toNat)) = _
    simp only [ofNat_toNat]
theorem Enc.amocas (g : Guard) (ord : Ord) (w : AWid) (scope : Nat) (sd : Nat) (sa : Nat) (sb : Nat) (sc : Nat) (imm : BitVec 12) : Enc.Statement (.amocas g ord w scope sd sa sb sc imm) := by
  intro h
  change (g.ok && sOk sd && sOk sa && sOk sb && sOk sc && w != .f32 && ordOk ord scope) = true at h
  simp only [Bool.and_eq_true, sOk, ordOk, scOk, decide_eq_true_eq] at h
  have hg : g.ok = true := h.1.1.1.1.1.1
  have f0 := guard_lt g hg
  have f1 := bool_lt g.neg
  have f2 := ord_lt ord
  have f3 := awid_lt w
  have f4 := bv_lt _ imm
  refine ⟨⟨?_, rfl, fun _ => rfl, fun y => ?_⟩, trivial, trivial⟩
  · exact ⟨by omega, by omega, by omega, by omega, by omega, by omega, by omega, by omega, by omega, by omega, by omega, by omega, by omega, trivial⟩
  · show (mkGuard g.p g.neg.toNat).bind _ = _
    rw [mkGuard_ok g hg]
    show (Ord.ofCode ord.code).bind _ = _
    rw [ord_code]
    show (AWid.ofCode w.code).bind _ = _
    rw [awid_code]
    show some (Instr.amocas g ord w scope sd sa sb sc (BitVec.ofNat 12 imm.toNat)) = _
    simp only [ofNat_toNat]
theorem Enc.fenceAcq (g : Guard) (scope : Nat) : Enc.Statement (.fenceAcq g scope) := by
  intro h
  change (g.ok && scOk scope) = true at h
  simp only [Bool.and_eq_true, scOk, decide_eq_true_eq] at h
  have hg : g.ok = true := h.1
  have f0 := guard_lt g hg
  have f1 := bool_lt g.neg
  refine ⟨⟨?_, rfl, fun _ => rfl, fun y => ?_⟩, trivial, trivial⟩
  · exact ⟨by omega, by omega, by omega, by omega, by omega, by omega, by omega, by omega, by omega, by omega, by omega, by omega, by omega, trivial⟩
  · show (mkGuard g.p g.neg.toNat).bind _ = _
    rw [mkGuard_ok g hg]
    show some (Instr.fenceAcq g scope) = _
    rfl
theorem Enc.fenceRel (g : Guard) (scope : Nat) : Enc.Statement (.fenceRel g scope) := by
  intro h
  change (g.ok && scOk scope) = true at h
  simp only [Bool.and_eq_true, scOk, decide_eq_true_eq] at h
  have hg : g.ok = true := h.1
  have f0 := guard_lt g hg
  have f1 := bool_lt g.neg
  refine ⟨⟨?_, rfl, fun _ => rfl, fun y => ?_⟩, trivial, trivial⟩
  · exact ⟨by omega, by omega, by omega, by omega, by omega, by omega, by omega, by omega, by omega, by omega, by omega, by omega, by omega, trivial⟩
  · show (mkGuard g.p g.neg.toNat).bind _ = _
    rw [mkGuard_ok g hg]
    show some (Instr.fenceRel g scope) = _
    rfl
theorem Enc.fenceFull (g : Guard) (scope : Nat) : Enc.Statement (.fenceFull g scope) := by
  intro h
  change (g.ok && scOk scope) = true at h
  simp only [Bool.and_eq_true, scOk, decide_eq_true_eq] at h
  have hg : g.ok = true := h.1
  have f0 := guard_lt g hg
  have f1 := bool_lt g.neg
  refine ⟨⟨?_, rfl, fun _ => rfl, fun y => ?_⟩, trivial, trivial⟩
  · exact ⟨by omega, by omega, by omega, by omega, by omega, by omega, by omega, by omega, by omega, by omega, by omega, by omega, by omega, trivial⟩
  · show (mkGuard g.p g.neg.toNat).bind _ = _
    rw [mkGuard_ok g hg]
    show some (Instr.fenceFull g scope) = _
    rfl
theorem Enc.flush (g : Guard) (scope : Nat) : Enc.Statement (.flush g scope) := by
  intro h
  change (g.ok && scOk scope) = true at h
  simp only [Bool.and_eq_true, scOk, decide_eq_true_eq] at h
  have hg : g.ok = true := h.1
  have f0 := guard_lt g hg
  have f1 := bool_lt g.neg
  refine ⟨⟨?_, rfl, fun _ => rfl, fun y => ?_⟩, trivial, trivial⟩
  · exact ⟨by omega, by omega, by omega, by omega, by omega, by omega, by omega, by omega, by omega, by omega, by omega, by omega, by omega, trivial⟩
  · show (mkGuard g.p g.neg.toNat).bind _ = _
    rw [mkGuard_ok g hg]
    show some (Instr.flush g scope) = _
    rfl
theorem Enc.qfence (g : Guard) (qs : BitVec 3) : Enc.Statement (.qfence g qs) := by
  intro h
  change (g.ok && qs != 0#3) = true at h
  simp only [Bool.and_eq_true] at h
  have hg : g.ok = true := h.1
  have f0 := guard_lt g hg
  have f1 := bool_lt g.neg
  have f2 := bv_lt _ qs
  refine ⟨⟨?_, rfl, fun _ => rfl, fun y => ?_⟩, trivial, trivial⟩
  · exact ⟨by omega, by omega, by omega, by omega, by omega, by omega, by omega, by omega, by omega, by omega, by omega, by omega, by omega, trivial⟩
  · show (mkGuard g.p g.neg.toNat).bind _ = _
    rw [mkGuard_ok g hg]
    show (lt8 qs.toNat).bind _ = _
    rw [lt8_ok]
    show some (Instr.qfence g (BitVec.ofNat 3 qs.toNat)) = _
    simp only [ofNat_toNat]
theorem Enc.qdrain (g : Guard) : Enc.Statement (.qdrain g) := by
  intro h
  change (g.ok) = true at h
  have hg : g.ok = true := h
  have f0 := guard_lt g hg
  have f1 := bool_lt g.neg
  refine ⟨⟨?_, rfl, fun _ => rfl, fun y => ?_⟩, trivial, trivial⟩
  · exact ⟨by omega, by omega, by omega, by omega, by omega, by omega, by omega, by omega, by omega, by omega, by omega, by omega, by omega, trivial⟩
  · show (mkGuard g.p g.neg.toNat).bind _ = _
    rw [mkGuard_ok g hg]
    show some (Instr.qdrain g) = _
    rfl
theorem Enc.tkpush (g : Guard) (s7 : Bool) : Enc.Statement (.tkpush g s7) := by
  intro h
  change (g.ok) = true at h
  have hg : g.ok = true := h
  have f0 := guard_lt g hg
  have f1 := bool_lt g.neg
  have f2 := bool_lt s7
  refine ⟨⟨?_, rfl, fun _ => rfl, fun y => ?_⟩, trivial, trivial⟩
  · exact ⟨by omega, by omega, by omega, by omega, by omega, by omega, by omega, by omega, by omega, by omega, by omega, by omega, by omega, trivial⟩
  · show (mkGuard g.p g.neg.toNat).bind _ = _
    rw [mkGuard_ok g hg]
    show (bit1 s7.toNat).bind _ = _
    rw [bit1_ok]
    show some (Instr.tkpush g (s7.toNat == 1)) = _
    simp only [bool_eq]
theorem Enc.tkpop (g : Guard) (s7 : Bool) : Enc.Statement (.tkpop g s7) := by
  intro h
  change (g.ok) = true at h
  have hg : g.ok = true := h
  have f0 := guard_lt g hg
  have f1 := bool_lt g.neg
  have f2 := bool_lt s7
  refine ⟨⟨?_, rfl, fun _ => rfl, fun y => ?_⟩, trivial, trivial⟩
  · exact ⟨by omega, by omega, by omega, by omega, by omega, by omega, by omega, by omega, by omega, by omega, by omega, by omega, by omega, trivial⟩
  · show (mkGuard g.p g.neg.toNat).bind _ = _
    rw [mkGuard_ok g hg]
    show (bit1 s7.toNat).bind _ = _
    rw [bit1_ok]
    show some (Instr.tkpop g (s7.toNat == 1)) = _
    simp only [bool_eq]
theorem Enc.binit (g : Guard) (sa : Nat) (sb : Nat) (sc : Nat) : Enc.Statement (.binit g sa sb sc) := by
  intro h
  change (g.ok && sOk sa && sOk sb && sOk sc) = true at h
  simp only [Bool.and_eq_true, sOk, decide_eq_true_eq] at h
  have hg : g.ok = true := h.1.1.1
  have f0 := guard_lt g hg
  have f1 := bool_lt g.neg
  refine ⟨⟨?_, rfl, fun _ => rfl, fun y => ?_⟩, trivial, trivial⟩
  · exact ⟨by omega, by omega, by omega, by omega, by omega, by omega, by omega, by omega, by omega, by omega, by omega, by omega, by omega, trivial⟩
  · show (mkGuard g.p g.neg.toNat).bind _ = _
    rw [mkGuard_ok g hg]
    show some (Instr.binit g sa sb sc) = _
    rfl
theorem Enc.bexpect (g : Guard) (sa : Nat) (sb : Nat) : Enc.Statement (.bexpect g sa sb) := by
  intro h
  change (g.ok && sOk sa && sOk sb) = true at h
  simp only [Bool.and_eq_true, sOk, decide_eq_true_eq] at h
  have hg : g.ok = true := h.1.1
  have f0 := guard_lt g hg
  have f1 := bool_lt g.neg
  refine ⟨⟨?_, rfl, fun _ => rfl, fun y => ?_⟩, trivial, trivial⟩
  · exact ⟨by omega, by omega, by omega, by omega, by omega, by omega, by omega, by omega, by omega, by omega, by omega, by omega, by omega, trivial⟩
  · show (mkGuard g.p g.neg.toNat).bind _ = _
    rw [mkGuard_ok g hg]
    show some (Instr.bexpect g sa sb) = _
    rfl
theorem Enc.barrive (g : Guard) (scope : Nat) (sa : Nat) (sb : Nat) : Enc.Statement (.barrive g scope sa sb) := by
  intro h
  change (g.ok && scOk scope && sOk sa && sOk sb) = true at h
  simp only [Bool.and_eq_true, sOk, scOk, decide_eq_true_eq] at h
  have hg : g.ok = true := h.1.1.1
  have f0 := guard_lt g hg
  have f1 := bool_lt g.neg
  refine ⟨⟨?_, rfl, fun _ => rfl, fun y => ?_⟩, trivial, trivial⟩
  · exact ⟨by omega, by omega, by omega, by omega, by omega, by omega, by omega, by omega, by omega, by omega, by omega, by omega, by omega, trivial⟩
  · show (mkGuard g.p g.neg.toNat).bind _ = _
    rw [mkGuard_ok g hg]
    show some (Instr.barrive g scope sa sb) = _
    rfl
theorem Enc.bwait (g : Guard) (ps : Nat) (pe : Nat) (sa : Nat) (sb : Nat) : Enc.Statement (.bwait g ps pe sa sb) := by
  intro h
  change (g.ok && pOk ps && pOk pe && sOk sa && sOk sb) = true at h
  simp only [Bool.and_eq_true, sOk, pOk, decide_eq_true_eq] at h
  have hg : g.ok = true := h.1.1.1.1
  have f0 := guard_lt g hg
  have f1 := bool_lt g.neg
  refine ⟨⟨?_, rfl, fun _ => rfl, fun y => ?_⟩, trivial, trivial⟩
  · exact ⟨by omega, by omega, by omega, by omega, by omega, by omega, by omega, by omega, by omega, by omega, by omega, by omega, by omega, trivial⟩
  · show (mkGuard g.p g.neg.toNat).bind _ = _
    rw [mkGuard_ok g hg]
    show some (Instr.bwait g ((8 * ps + pe) / 8) ((8 * ps + pe) % 8) sa sb) = _
    rw [show (8 * ps + pe) / 8 = ps from by omega, show (8 * ps + pe) % 8 = pe from by omega]
theorem Enc.bwaitout (g : Guard) (sa : Nat) : Enc.Statement (.bwaitout g sa) := by
  intro h
  change (g.ok && sOk sa) = true at h
  simp only [Bool.and_eq_true, sOk, decide_eq_true_eq] at h
  have hg : g.ok = true := h.1
  have f0 := guard_lt g hg
  have f1 := bool_lt g.neg
  refine ⟨⟨?_, rfl, fun _ => rfl, fun y => ?_⟩, trivial, trivial⟩
  · exact ⟨by omega, by omega, by omega, by omega, by omega, by omega, by omega, by omega, by omega, by omega, by omega, by omega, by omega, trivial⟩
  · show (mkGuard g.p g.neg.toNat).bind _ = _
    rw [mkGuard_ok g hg]
    show some (Instr.bwaitout g sa) = _
    rfl
theorem Enc.bhandle (g : Guard) (sd : Nat) (sa : Nat) : Enc.Statement (.bhandle g sd sa) := by
  intro h
  change (g.ok && sOk sd && sOk sa) = true at h
  simp only [Bool.and_eq_true, sOk, decide_eq_true_eq] at h
  have hg : g.ok = true := h.1.1
  have f0 := guard_lt g hg
  have f1 := bool_lt g.neg
  refine ⟨⟨?_, rfl, fun _ => rfl, fun y => ?_⟩, trivial, trivial⟩
  · exact ⟨by omega, by omega, by omega, by omega, by omega, by omega, by omega, by omega, by omega, by omega, by omega, by omega, by omega, trivial⟩
  · show (mkGuard g.p g.neg.toNat).bind _ = _
    rw [mkGuard_ok g hg]
    show some (Instr.bhandle g sd sa) = _
    rfl
theorem Enc.qput (g : Guard) (sa : Nat) (q : Nat) : Enc.Statement (.qput g sa q) := by
  intro h
  change (g.ok && sOk sa && decide (q < 4)) = true at h
  simp only [Bool.and_eq_true, sOk, decide_eq_true_eq] at h
  have hg : g.ok = true := h.1.1
  have f0 := guard_lt g hg
  have f1 := bool_lt g.neg
  refine ⟨⟨?_, rfl, fun _ => rfl, fun y => ?_⟩, trivial, trivial⟩
  · exact ⟨by omega, by omega, by omega, by omega, by omega, by omega, by omega, by omega, by omega, by omega, by omega, by omega, by omega, trivial⟩
  · show (mkGuard g.p g.neg.toNat).bind _ = _
    rw [mkGuard_ok g hg]
    show some (Instr.qput g sa q) = _
    rfl
theorem Enc.semsig (g : Guard) (scope : Nat) (sa : Nat) (sb : Nat) : Enc.Statement (.semsig g scope sa sb) := by
  intro h
  change (g.ok && scOk scope && sOk sa && sOk sb) = true at h
  simp only [Bool.and_eq_true, sOk, scOk, decide_eq_true_eq] at h
  have hg : g.ok = true := h.1.1.1
  have f0 := guard_lt g hg
  have f1 := bool_lt g.neg
  refine ⟨⟨?_, rfl, fun _ => rfl, fun y => ?_⟩, trivial, trivial⟩
  · exact ⟨by omega, by omega, by omega, by omega, by omega, by omega, by omega, by omega, by omega, by omega, by omega, by omega, by omega, trivial⟩
  · show (mkGuard g.p g.neg.toNat).bind _ = _
    rw [mkGuard_ok g hg]
    show some (Instr.semsig g scope sa sb) = _
    rfl
theorem Enc.capadd (g : Guard) (sa : Nat) (sb : Nat) : Enc.Statement (.capadd g sa sb) := by
  intro h
  change (g.ok && sOk sa && sOk sb) = true at h
  simp only [Bool.and_eq_true, sOk, decide_eq_true_eq] at h
  have hg : g.ok = true := h.1.1
  have f0 := guard_lt g hg
  have f1 := bool_lt g.neg
  refine ⟨⟨?_, rfl, fun _ => rfl, fun y => ?_⟩, trivial, trivial⟩
  · exact ⟨by omega, by omega, by omega, by omega, by omega, by omega, by omega, by omega, by omega, by omega, by omega, by omega, by omega, trivial⟩
  · show (mkGuard g.p g.neg.toNat).bind _ = _
    rw [mkGuard_ok g hg]
    show some (Instr.capadd g sa sb) = _
    rfl
theorem Enc.capget (g : Guard) (sd : Nat) (sa : Nat) : Enc.Statement (.capget g sd sa) := by
  intro h
  change (g.ok && sOk sd && sOk sa) = true at h
  simp only [Bool.and_eq_true, sOk, decide_eq_true_eq] at h
  have hg : g.ok = true := h.1.1
  have f0 := guard_lt g hg
  have f1 := bool_lt g.neg
  refine ⟨⟨?_, rfl, fun _ => rfl, fun y => ?_⟩, trivial, trivial⟩
  · exact ⟨by omega, by omega, by omega, by omega, by omega, by omega, by omega, by omega, by omega, by omega, by omega, by omega, by omega, trivial⟩
  · show (mkGuard g.p g.neg.toNat).bind _ = _
    rw [mkGuard_ok g hg]
    show some (Instr.capget g sd sa) = _
    rfl
theorem Enc.capupd (g : Guard) : Enc.Statement (.capupd g) := by
  intro h
  change (g.ok) = true at h
  have hg : g.ok = true := h
  have f0 := guard_lt g hg
  have f1 := bool_lt g.neg
  refine ⟨⟨?_, rfl, fun _ => rfl, fun y => ?_⟩, trivial, trivial⟩
  · exact ⟨by omega, by omega, by omega, by omega, by omega, by omega, by omega, by omega, by omega, by omega, by omega, by omega, by omega, trivial⟩
  · show (mkGuard g.p g.neg.toNat).bind _ = _
    rw [mkGuard_ok g hg]
    show some (Instr.capupd g) = _
    rfl
theorem Enc.cqpush (g : Guard) (sa : Nat) : Enc.Statement (.cqpush g sa) := by
  intro h
  change (g.ok && sOk sa) = true at h
  simp only [Bool.and_eq_true, sOk, decide_eq_true_eq] at h
  have hg : g.ok = true := h.1
  have f0 := guard_lt g hg
  have f1 := bool_lt g.neg
  refine ⟨⟨?_, rfl, fun _ => rfl, fun y => ?_⟩, trivial, trivial⟩
  · exact ⟨by omega, by omega, by omega, by omega, by omega, by omega, by omega, by omega, by omega, by omega, by omega, by omega, by omega, trivial⟩
  · show (mkGuard g.p g.neg.toNat).bind _ = _
    rw [mkGuard_ok g hg]
    show some (Instr.cqpush g sa) = _
    rfl
theorem Enc.cqpushTeam (g : Guard) (sa : Nat) : Enc.Statement (.cqpushTeam g sa) := by
  intro h
  change (g.ok && sOk sa) = true at h
  simp only [Bool.and_eq_true, sOk, decide_eq_true_eq] at h
  have hg : g.ok = true := h.1
  have f0 := guard_lt g hg
  have f1 := bool_lt g.neg
  refine ⟨⟨?_, rfl, fun _ => rfl, fun y => ?_⟩, trivial, trivial⟩
  · exact ⟨by omega, by omega, by omega, by omega, by omega, by omega, by omega, by omega, by omega, by omega, by omega, by omega, by omega, trivial⟩
  · show (mkGuard g.p g.neg.toNat).bind _ = _
    rw [mkGuard_ok g hg]
    show some (Instr.cqpushTeam g sa) = _
    rfl
theorem Enc.pbuild (g : Guard) (sd : Nat) (sa : Nat) (sb : Nat) (sc : Nat) (imm : BitVec 12) : Enc.Statement (.pbuild g sd sa sb sc imm) := by
  intro h
  change (g.ok && sOk sd && sOk sa && sOk sb && sOk sc && decide (imm.toNat < 64)) = true at h
  simp only [Bool.and_eq_true, sOk, decide_eq_true_eq] at h
  have hg : g.ok = true := h.1.1.1.1.1
  have f0 := guard_lt g hg
  have f1 := bool_lt g.neg
  have f2 := bv_lt _ imm
  refine ⟨⟨?_, rfl, fun _ => rfl, fun y => ?_⟩, trivial, trivial⟩
  · exact ⟨by omega, by omega, by omega, by omega, by omega, by omega, by omega, by omega, by omega, by omega, by omega, trivial⟩
  · show (mkGuard g.p g.neg.toNat).bind _ = _
    rw [mkGuard_ok g hg]
    show (chk (0 == 0 && decide (imm.toNat < 64)) (Instr.pbuild g sd sa sb sc (BitVec.ofNat 12 imm.toNat))) = _
    rw [ofNat_toNat]
    simp only [h.2, chk, decide_true, beq_self_eq_true, Bool.and_self, if_true]
theorem Enc.psend (g : Guard) (sa : Nat) (sb : Nat) (sc : Nat) (dir : Nat) : Enc.Statement (.psend g sa sb sc dir) := by
  intro h
  change (g.ok && sOk sa && sOk sb && sOk sc && dirOk dir) = true at h
  simp only [Bool.and_eq_true, sOk, dirOk, decide_eq_true_eq] at h
  have hg : g.ok = true := h.1.1.1.1
  have f0 := guard_lt g hg
  have f1 := bool_lt g.neg
  refine ⟨⟨?_, rfl, fun _ => rfl, fun y => ?_⟩, trivial, trivial⟩
  · exact ⟨by omega, by omega, by omega, by omega, by omega, by omega, by omega, by omega, by omega, by omega, by omega, trivial⟩
  · show (mkGuard g.p g.neg.toNat).bind _ = _
    rw [mkGuard_ok g hg]
    show some (Instr.psend g sa sb sc dir) = _
    rfl
theorem Enc.rwld (g : Guard) (sd : Nat) (sa : Nat) (imm : BitVec 12) : Enc.Statement (.rwld g sd sa imm) := by
  intro h
  change (g.ok && sOk sd && sOk sa) = true at h
  simp only [Bool.and_eq_true, sOk, decide_eq_true_eq] at h
  have hg : g.ok = true := h.1.1
  have f0 := guard_lt g hg
  have f1 := bool_lt g.neg
  have f2 := bv_lt _ imm
  refine ⟨⟨?_, rfl, fun _ => rfl, fun y => ?_⟩, trivial, trivial⟩
  · exact ⟨by omega, by omega, by omega, by omega, by omega, by omega, by omega, by omega, by omega, by omega, by omega, trivial⟩
  · show (mkGuard g.p g.neg.toNat).bind _ = _
    rw [mkGuard_ok g hg]
    show some (Instr.rwld g sd sa (BitVec.ofNat 12 imm.toNat)) = _
    simp only [ofNat_toNat]
theorem Enc.rwst (g : Guard) (sa : Nat) (sb : Nat) (imm : BitVec 12) : Enc.Statement (.rwst g sa sb imm) := by
  intro h
  change (g.ok && sOk sa && sOk sb) = true at h
  simp only [Bool.and_eq_true, sOk, decide_eq_true_eq] at h
  have hg : g.ok = true := h.1.1
  have f0 := guard_lt g hg
  have f1 := bool_lt g.neg
  have f2 := bv_lt _ imm
  refine ⟨⟨?_, rfl, fun _ => rfl, fun y => ?_⟩, trivial, trivial⟩
  · exact ⟨by omega, by omega, by omega, by omega, by omega, by omega, by omega, by omega, by omega, by omega, by omega, trivial⟩
  · show (mkGuard g.p g.neg.toNat).bind _ = _
    rw [mkGuard_ok g hg]
    show some (Instr.rwst g sa sb (BitVec.ofNat 12 imm.toNat)) = _
    simp only [ofNat_toNat]
theorem Enc.moduleReset : Enc.Statement .moduleReset := fun _ => ⟨trivial, trivial, trivial⟩
theorem Enc.resetRelease : Enc.Statement .resetRelease := fun _ => ⟨trivial, trivial, trivial⟩
theorem Enc.firmwareVerified : Enc.Statement .firmwareVerified := fun _ => ⟨trivial, trivial, trivial⟩
theorem Enc.configApply : Enc.Statement .configApply := fun _ => ⟨trivial, trivial, trivial⟩
theorem Enc.calDone : Enc.Statement .calDone := fun _ => ⟨trivial, trivial, trivial⟩
theorem Enc.hbmReady : Enc.Statement .hbmReady := fun _ => ⟨trivial, trivial, trivial⟩
theorem Enc.lpReady : Enc.Statement .lpReady := fun _ => ⟨trivial, trivial, trivial⟩
theorem Enc.bedrockReady : Enc.Statement .bedrockReady := fun _ => ⟨trivial, trivial, trivial⟩
theorem Enc.railFault : Enc.Statement .railFault := fun _ => ⟨trivial, trivial, trivial⟩
theorem Enc.unitFailed : Enc.Statement .unitFailed := fun _ => ⟨trivial, trivial, trivial⟩
theorem Enc.ucieLinkFailed : Enc.Statement .ucieLinkFailed := fun _ => ⟨trivial, trivial, trivial⟩
theorem Enc.clockStep : Enc.Statement .clockStep := fun _ => ⟨trivial, trivial, trivial⟩
theorem Enc.portUp : Enc.Statement .portUp := fun _ => ⟨trivial, trivial, trivial⟩
theorem Enc.portDown : Enc.Statement .portDown := fun _ => ⟨trivial, trivial, trivial⟩
theorem Enc.packageGatewayEgress : Enc.Statement .packageGatewayEgress := fun _ => ⟨trivial, trivial, trivial⟩
theorem Enc.routePacket : Enc.Statement .routePacket := fun _ => ⟨trivial, trivial, trivial⟩
theorem Enc.multicastBranch : Enc.Statement .multicastBranch := fun _ => ⟨trivial, trivial, trivial⟩
theorem Enc.ingressRequest : Enc.Statement .ingressRequest := fun _ => ⟨trivial, trivial, trivial⟩
theorem Enc.writePacket : Enc.Statement .writePacket := fun _ => ⟨trivial, trivial, trivial⟩
theorem Enc.readPacket : Enc.Statement .readPacket := fun _ => ⟨trivial, trivial, trivial⟩
theorem Enc.amoPacket : Enc.Statement .amoPacket := fun _ => ⟨trivial, trivial, trivial⟩
theorem Enc.flushPacket : Enc.Statement .flushPacket := fun _ => ⟨trivial, trivial, trivial⟩
theorem Enc.eventPacket : Enc.Statement .eventPacket := fun _ => ⟨trivial, trivial, trivial⟩
theorem Enc.readResp : Enc.Statement .readResp := fun _ => ⟨trivial, trivial, trivial⟩
theorem Enc.amoResp : Enc.Statement .amoResp := fun _ => ⟨trivial, trivial, trivial⟩
theorem Enc.ackPacket : Enc.Statement .ackPacket := fun _ => ⟨trivial, trivial, trivial⟩
theorem Enc.nackPacket : Enc.Statement .nackPacket := fun _ => ⟨trivial, trivial, trivial⟩
theorem Enc.flushAck : Enc.Statement .flushAck := fun _ => ⟨trivial, trivial, trivial⟩
theorem Enc.ackHoldExpiry : Enc.Statement .ackHoldExpiry := fun _ => ⟨trivial, trivial, trivial⟩
theorem Enc.retransmit : Enc.Statement .retransmit := fun _ => ⟨trivial, trivial, trivial⟩
theorem Enc.retryBackoff : Enc.Statement .retryBackoff := fun _ => ⟨trivial, trivial, trivial⟩
theorem Enc.holdTimeout : Enc.Statement .holdTimeout := fun _ => ⟨trivial, trivial, trivial⟩
theorem Enc.combiningArrival : Enc.Statement .combiningArrival := fun _ => ⟨trivial, trivial, trivial⟩
theorem Enc.combiningSlotClose : Enc.Statement .combiningSlotClose := fun _ => ⟨trivial, trivial, trivial⟩
theorem Enc.decombiningRecordExpiry : Enc.Statement .decombiningRecordExpiry := fun _ => ⟨trivial, trivial, trivial⟩
theorem Enc.decombine : Enc.Statement .decombine := fun _ => ⟨trivial, trivial, trivial⟩
theorem Enc.pebbleExitTimeout : Enc.Statement .pebbleExitTimeout := fun _ => ⟨trivial, trivial, trivial⟩
theorem Enc.pebbleVisit : Enc.Statement .pebbleVisit := fun _ => ⟨trivial, trivial, trivial⟩
theorem Enc.stepBudget : Enc.Statement .stepBudget := fun _ => ⟨trivial, trivial, trivial⟩
theorem Enc.kill : Enc.Statement .kill := fun _ => ⟨trivial, ⟨by decide, rfl⟩, trivial⟩
theorem Enc.dup : Enc.Statement .dup := fun _ => ⟨trivial, ⟨by decide, rfl⟩, trivial⟩
theorem Enc.swap : Enc.Statement .swap := fun _ => ⟨trivial, ⟨by decide, rfl⟩, trivial⟩
theorem Enc.pebbleDrop : Enc.Statement .pebbleDrop := fun _ => ⟨trivial, ⟨by decide, rfl⟩, trivial⟩
theorem Enc.pebbleAdd : Enc.Statement .pebbleAdd := fun _ => ⟨trivial, ⟨by decide, rfl⟩, trivial⟩
theorem Enc.pebbleSub : Enc.Statement .pebbleSub := fun _ => ⟨trivial, ⟨by decide, rfl⟩, trivial⟩
theorem Enc.pebbleAnd : Enc.Statement .pebbleAnd := fun _ => ⟨trivial, ⟨by decide, rfl⟩, trivial⟩
theorem Enc.pebbleOr : Enc.Statement .pebbleOr := fun _ => ⟨trivial, ⟨by decide, rfl⟩, trivial⟩
theorem Enc.pebbleXor : Enc.Statement .pebbleXor := fun _ => ⟨trivial, ⟨by decide, rfl⟩, trivial⟩
theorem Enc.pebbleShl : Enc.Statement .pebbleShl := fun _ => ⟨trivial, ⟨by decide, rfl⟩, trivial⟩
theorem Enc.pebbleCmpeq : Enc.Statement .pebbleCmpeq := fun _ => ⟨trivial, ⟨by decide, rfl⟩, trivial⟩
theorem Enc.pebbleCmplt : Enc.Statement .pebbleCmplt := fun _ => ⟨trivial, ⟨by decide, rfl⟩, trivial⟩
theorem Enc.ldr : Enc.Statement .ldr := fun _ => ⟨trivial, ⟨by decide, rfl⟩, trivial⟩
theorem Enc.addr : Enc.Statement .addr := fun _ => ⟨trivial, ⟨by decide, rfl⟩, trivial⟩
theorem Enc.hop : Enc.Statement .hop := fun _ => ⟨trivial, ⟨by decide, rfl⟩, trivial⟩
theorem Enc.deliver : Enc.Statement .deliver := fun _ => ⟨trivial, ⟨by decide, rfl⟩, trivial⟩
theorem Enc.park : Enc.Statement .park := fun _ => ⟨trivial, ⟨by decide, rfl⟩, trivial⟩
theorem Enc.slateInvocation : Enc.Statement .slateInvocation := fun _ => ⟨trivial, trivial, trivial⟩
theorem Enc.budget : Enc.Statement .budget := fun _ => ⟨trivial, trivial, trivial⟩
theorem Enc.tick : Enc.Statement .tick := fun _ => ⟨trivial, trivial, trivial⟩
theorem Enc.slateSwap : Enc.Statement .slateSwap := fun _ => ⟨trivial, trivial, trivial⟩
theorem Enc.endl : Enc.Statement .endl := fun _ => ⟨trivial, trivial, ⟨by decide, by decide, by decide, by decide, trivial⟩, rfl⟩
theorem Enc.slateRet : Enc.Statement .slateRet := fun _ => ⟨trivial, trivial, ⟨by decide, by decide, by decide, by decide, trivial⟩, rfl⟩
theorem Enc.strandStart : Enc.Statement .strandStart := fun _ => ⟨trivial, trivial, trivial⟩
theorem Enc.teamSave : Enc.Statement .teamSave := fun _ => ⟨trivial, trivial, trivial⟩
theorem Enc.teamRestore : Enc.Statement .teamRestore := fun _ => ⟨trivial, trivial, trivial⟩
theorem Enc.recordRetire : Enc.Statement .recordRetire := fun _ => ⟨trivial, trivial, trivial⟩
theorem Enc.taskCompletion : Enc.Statement .taskCompletion := fun _ => ⟨trivial, trivial, trivial⟩
theorem Enc.quantumExpiry : Enc.Statement .quantumExpiry := fun _ => ⟨trivial, trivial, trivial⟩
theorem Enc.strandFault : Enc.Statement .strandFault := fun _ => ⟨trivial, trivial, trivial⟩
theorem Enc.engineCommandBegin : Enc.Statement .engineCommandBegin := fun _ => ⟨trivial, trivial, trivial⟩
theorem Enc.engineCommandComplete : Enc.Statement .engineCommandComplete := fun _ => ⟨trivial, trivial, trivial⟩
theorem Enc.replay : Enc.Statement .replay := fun _ => ⟨trivial, trivial, trivial⟩
theorem Enc.bedrockRefresh : Enc.Statement .bedrockRefresh := fun _ => ⟨trivial, trivial, trivial⟩
theorem Enc.retranslation : Enc.Statement .retranslation := fun _ => ⟨trivial, trivial, trivial⟩
theorem Enc.shootdownComplete : Enc.Statement .shootdownComplete := fun _ => ⟨trivial, trivial, trivial⟩
theorem Enc.migrationMove : Enc.Statement .migrationMove := fun _ => ⟨trivial, trivial, trivial⟩
theorem Enc.moveComplete : Enc.Statement .moveComplete := fun _ => ⟨trivial, trivial, trivial⟩
theorem Enc.copyOnWrite : Enc.Statement .copyOnWrite := fun _ => ⟨trivial, trivial, trivial⟩
theorem Enc.mread : Enc.Statement .mread := fun _ => ⟨trivial, trivial, trivial⟩
theorem Enc.mwrite : Enc.Statement .mwrite := fun _ => ⟨trivial, trivial, trivial⟩
theorem Enc.mgmtrd : Enc.Statement .mgmtrd := fun _ => ⟨trivial, trivial, trivial⟩
theorem Enc.mgmtwr : Enc.Statement .mgmtwr := fun _ => ⟨trivial, trivial, trivial⟩
theorem Enc.pipelineEnable : Enc.Statement .pipelineEnable := fun _ => ⟨trivial, trivial, trivial⟩
theorem Enc.cons : Enc.Statement .cons := fun _ => ⟨trivial, trivial, trivial⟩
theorem Enc.elcons : Enc.Statement .elcons := fun _ => ⟨trivial, trivial, trivial⟩
theorem Enc.doorbell : Enc.Statement .doorbell := fun _ => ⟨trivial, trivial, trivial⟩
theorem Enc.eventMessage : Enc.Statement .eventMessage := fun _ => ⟨trivial, trivial, trivial⟩
theorem Enc.pcreate : Enc.Statement .pcreate := fun _ => ⟨trivial, trivial, trivial⟩
theorem Enc.passign : Enc.Statement .passign := fun _ => ⟨trivial, trivial, trivial⟩
theorem Enc.prelease : Enc.Statement .prelease := fun _ => ⟨trivial, trivial, trivial⟩
theorem Enc.pstart : Enc.Statement .pstart := fun _ => ⟨trivial, trivial, trivial⟩
theorem Enc.pdestroy : Enc.Statement .pdestroy := fun _ => ⟨trivial, trivial, trivial⟩
theorem Enc.asidset : Enc.Statement .asidset := fun _ => ⟨trivial, trivial, trivial⟩
theorem Enc.asidclr : Enc.Statement .asidclr := fun _ => ⟨trivial, trivial, trivial⟩
theorem Enc.tenset : Enc.Statement .tenset := fun _ => ⟨trivial, trivial, trivial⟩
theorem Enc.tenclr : Enc.Statement .tenclr := fun _ => ⟨trivial, trivial, trivial⟩
theorem Enc.tenzero : Enc.Statement .tenzero := fun _ => ⟨trivial, trivial, trivial⟩
theorem Enc.openWindow : Enc.Statement .openWindow := fun _ => ⟨trivial, trivial, trivial⟩
theorem Enc.closeWindow : Enc.Statement .closeWindow := fun _ => ⟨trivial, trivial, trivial⟩
theorem Enc.freeWindow : Enc.Statement .freeWindow := fun _ => ⟨trivial, trivial, trivial⟩
theorem Enc.resumeParked : Enc.Statement .resumeParked := fun _ => ⟨trivial, trivial, trivial⟩
theorem Enc.redirectParked : Enc.Statement .redirectParked := fun _ => ⟨trivial, trivial, trivial⟩
theorem Enc.dropParked : Enc.Statement .dropParked := fun _ => ⟨trivial, trivial, trivial⟩
theorem Enc.preemptreq : Enc.Statement .preemptreq := fun _ => ⟨trivial, trivial, trivial⟩
theorem Enc.sload : Enc.Statement .sload := fun _ => ⟨trivial, trivial, trivial⟩
theorem Enc.tableCmd : Enc.Statement .tableCmd := fun _ => ⟨trivial, trivial, trivial⟩
theorem Enc.mapCmd : Enc.Statement .mapCmd := fun _ => ⟨trivial, trivial, trivial⟩
theorem Enc.unmap : Enc.Statement .unmap := fun _ => ⟨trivial, trivial, trivial⟩
theorem Enc.protect : Enc.Statement .protect := fun _ => ⟨trivial, trivial, trivial⟩
theorem Enc.mpool : Enc.Statement .mpool := fun _ => ⟨trivial, trivial, trivial⟩
theorem Enc.migclr : Enc.Statement .migclr := fun _ => ⟨trivial, trivial, trivial⟩
theorem Enc.codebump : Enc.Statement .codebump := fun _ => ⟨trivial, trivial, trivial⟩
theorem Enc.snaparm : Enc.Statement .snaparm := fun _ => ⟨trivial, trivial, trivial⟩
theorem Enc.snapcommit : Enc.Statement .snapcommit := fun _ => ⟨trivial, trivial, trivial⟩
theorem Enc.snapdrop : Enc.Statement .snapdrop := fun _ => ⟨trivial, trivial, trivial⟩
theorem Enc.keyload : Enc.Statement .keyload := fun _ => ⟨trivial, trivial, trivial⟩
theorem Enc.promote : Enc.Statement .promote := fun _ => ⟨trivial, trivial, trivial⟩
theorem Enc.retire : Enc.Statement .retire := fun _ => ⟨trivial, trivial, trivial⟩
theorem Enc.attest : Enc.Statement .attest := fun _ => ⟨trivial, trivial, trivial⟩
theorem Enc.loadReturn : Enc.Statement .loadReturn := fun _ => ⟨trivial, trivial, trivial⟩
theorem Enc.strandEnd : Enc.Statement .strandEnd := fun _ => ⟨trivial, trivial, trivial⟩
theorem Enc.amoReturn : Enc.Statement .amoReturn := fun _ => ⟨trivial, trivial, trivial⟩
theorem Enc.fenceDone : Enc.Statement .fenceDone := fun _ => ⟨trivial, trivial, trivial⟩
theorem Enc.flushDone : Enc.Statement .flushDone := fun _ => ⟨trivial, trivial, trivial⟩
theorem Enc.qfenceDone : Enc.Statement .qfenceDone := fun _ => ⟨trivial, trivial, trivial⟩
theorem Enc.qdrainDone : Enc.Statement .qdrainDone := fun _ => ⟨trivial, trivial, trivial⟩
theorem Enc.tkpopDone : Enc.Statement .tkpopDone := fun _ => ⟨trivial, trivial, trivial⟩
theorem Enc.barriveApplied : Enc.Statement .barriveApplied := fun _ => ⟨trivial, trivial, trivial⟩
theorem Enc.bwaitWake : Enc.Statement .bwaitWake := fun _ => ⟨trivial, trivial, trivial⟩
theorem Enc.bwaitoutDone : Enc.Statement .bwaitoutDone := fun _ => ⟨trivial, trivial, trivial⟩
theorem Enc.qputReserve : Enc.Statement .qputReserve := fun _ => ⟨trivial, trivial, trivial⟩
theorem Enc.qputPublish : Enc.Statement .qputPublish := fun _ => ⟨trivial, trivial, trivial⟩
theorem Enc.creditReturn : Enc.Statement .creditReturn := fun _ => ⟨trivial, trivial, trivial⟩
theorem Enc.inPackageWrite : Enc.Statement .inPackageWrite := fun _ => ⟨trivial, trivial, trivial⟩
theorem Enc.semsigDone : Enc.Statement .semsigDone := fun _ => ⟨trivial, trivial, trivial⟩
theorem Enc.capgetReturn : Enc.Statement .capgetReturn := fun _ => ⟨trivial, trivial, trivial⟩
theorem Enc.icinvDone : Enc.Statement .icinvDone := fun _ => ⟨trivial, trivial, trivial⟩
theorem Enc.corePowerGate : Enc.Statement .corePowerGate := fun _ => ⟨trivial, trivial, trivial⟩
theorem Enc.debugHalt : Enc.Statement .debugHalt := fun _ => ⟨trivial, trivial, trivial⟩

end Sys2Proof.Laws
end

