-- ==== Sys2Proof/Laws/Vectors.lean ====
section
/-!
SUPPORT. Elements of vector registers (R380, R219): what an element of a built vector and of a masked merge is, and the frame of a masked write.
-/
namespace Sys2Proof.Machine

/-- The widths of elements (R380). -/
abbrev IsWidth (w : Nat) : Prop := w = 8 ∨ w = 16 ∨ w = 32
theorem vWidth_isWidth (t : VType) : IsWidth (vWidth t) := by cases t <;> decide

theorem joinElems_lt (w : Nat) (f : Nat → Nat) : ∀ n, joinElems w f n < 2 ^ (w * n)
  | 0 => by simp [joinElems]
  | n + 1 => by
    have h := joinElems_lt w f n
    have h2 : f n % 2 ^ w < 2 ^ w := Nat.mod_lt _ (Nat.two_pow_pos w)
    have e : 2 ^ (w * (n + 1)) = 2 ^ w * 2 ^ (w * n) := by rw [Nat.mul_succ, Nat.pow_add, Nat.mul_comm]
    show joinElems w f n + f n % 2 ^ w * 2 ^ (w * n) < _
    rw [e]
    calc joinElems w f n + f n % 2 ^ w * 2 ^ (w * n) < 2 ^ (w * n) + f n % 2 ^ w * 2 ^ (w * n) := Nat.add_lt_add_right h _
      _ = (f n % 2 ^ w + 1) * 2 ^ (w * n) := by rw [Nat.add_mul, Nat.one_mul, Nat.add_comm]
      _ ≤ 2 ^ w * 2 ^ (w * n) := Nat.mul_le_mul_right _ h2

/-- Bit b of the number that elements make: a bit of the element that it falls in. -/
theorem joinElems_testBit (w : Nat) (f : Nat → Nat) (k b : Nat) (hb : b < w) :
    ∀ n, k < n → (joinElems w f n).testBit (w * k + b) = (f k).testBit b
  | 0, h => absurd h (Nat.not_lt_zero k)
  | n + 1, h => by
    have hl := joinElems_lt w f n
    show (joinElems w f n + f n % 2 ^ w * 2 ^ (w * n)).testBit (w * k + b) = _
    rw [Nat.add_comm, Nat.mul_comm (f n % 2 ^ w), Nat.testBit_two_pow_mul_add _ hl]
    by_cases hk : k = n
    · subst hk
      rw [if_neg (by omega), Nat.add_sub_cancel_left, Nat.testBit_mod_two_pow]; simp [hb]
    · have hkn : k < n := by omega
      have : w * k + b < w * n := by
        have : w * (k + 1) ≤ w * n := Nat.mul_le_mul_left w hkn
        rw [Nat.mul_succ] at this; omega
      rw [if_pos this]; exact joinElems_testBit w f k b hb n hkn

/-- Bit b of an element. -/
theorem elem_testBit (v : Vec) (w k b : Nat) : (elem v w k).testBit b = (decide (b < w) && v.toNat.testBit (w * k + b)) := by
  unfold elem; rw [Nat.testBit_mod_two_pow, Nat.testBit_div_two_pow, Nat.add_comm]

/-- The elements of a built vector. -/
theorem elem_buildV (w : Nat) (f : Nat → Nat) (k : Nat) (hk : k < 4096 / w) : elem (buildV w f) w k = f k % 2 ^ w := by
  have h0 : 0 < w := by rcases Nat.eq_zero_or_pos w with h | h; · subst h; simp at hk
                        · exact h
  have hle : w * (4096 / w) ≤ 4096 := by rw [Nat.mul_comm]; exact Nat.div_mul_le_self 4096 w
  apply Nat.eq_of_testBit_eq
  intro b
  rw [elem_testBit, Nat.testBit_mod_two_pow]
  by_cases hb : b < w
  · simp only [hb, decide_true, Bool.true_and]
    unfold buildV
    have hlt : joinElems w f (4096 / w) < 2 ^ 4096 :=
      Nat.lt_of_lt_of_le (joinElems_lt w f _) (Nat.pow_le_pow_right (by decide) hle)
    rw [BitVec.toNat_ofNat, Nat.mod_eq_of_lt hlt, joinElems_testBit w f k b hb _ hk]
  · simp [hb]

/-- An element of a merge comes from the enabled vector where its lane is enabled, else from the other (R219). -/
theorem elem_mergeLanes (m : BitVec 128) (a b : Vec) (w k : Nat) (hw : IsWidth w) (hk : k < 4096 / w) :
    elem (mergeLanes m a b) w k = if maskBit m (laneOf w k) then elem a w k else elem b w k := by
  have hlane : laneOf w k < 128 := by unfold laneOf; rcases hw with h | h | h <;> subst h <;> omega
  unfold mergeLanes
  by_cases hm : m = BitVec.allOnes 128
  · rw [if_pos hm]; unfold maskBit; rw [hm, BitVec.getLsbD_allOnes]; simp [hlane]
  · rw [if_neg hm]
    apply Nat.eq_of_testBit_eq
    intro i
    by_cases hi : i < w
    · obtain ⟨r, hr, e⟩ : ∃ r, r + 0 < 32 ∧ w * k + i = 32 * laneOf w k + r := by
        refine ⟨w * k + i - 32 * laneOf w k, ?_, ?_⟩ <;> (unfold laneOf; rcases hw with h | h | h <;> subst h <;> omega)
      have hr' : r < 32 := hr
      have hj : laneOf w k < 4096 / 32 := hlane
      have key := elem_buildV 32 (fun i => if maskBit m i then elem a 32 i else elem b 32 i) (laneOf w k) hj
      have kb := congrArg (fun n => n.testBit r) key
      simp only [elem_testBit, Nat.testBit_mod_two_pow, hr', decide_true, Bool.true_and] at kb
      rw [elem_testBit, e, kb]
      split <;> simp [elem_testBit, hi, hr', e]
    · rw [elem_testBit]; split <;> simp [elem_testBit, hi]

theorem wholeWord_iff (r : Nat) (m : BitVec 128) (k : Nat) : wholeWord r m k = true ↔ Covers r m k := by
  unfold wholeWord Covers maskBit
  simp only [Bool.and_eq_true, beq_iff_eq, and_assoc]
/-- A bundle that writes the lanes of a vector register that a mask enables and goes on: the poison and the errors that are left. -/
theorem State.mem_poisV_setVMask (s : State) (r : Nat) (m : BitVec 128) (x : Vec) (k : Nat) :
    k ∈ ((s.setVMask r m x).retireN 8).ctx.poisV ↔ k ∈ s.ctx.poisV ∧ ¬ Covers r m k := by
  rw [State.ctx_setVMask_retireN, State.ctx_setVMask]
  simp only [List.mem_filter, Bool.not_eq_true', ← Bool.not_eq_true, wholeWord_iff]
theorem State.mem_err_setVMask (s : State) (r : Nat) (m : BitVec 128) (x : Vec) (e : Nat × Nat) :
    e ∈ ((s.setVMask r m x).retireN 8).ctx.err ↔ e ∈ s.ctx.err ∧ (e.1 < 64 ∨ ¬ Covers r m (e.1 - 64)) := by
  rw [State.ctx_setVMask_retireN, State.ctx_setVMask]
  simp only [List.mem_filter, Bool.not_eq_true', ← Bool.not_eq_true, Bool.and_eq_true, decide_eq_true_eq, wholeWord_iff]
  by_cases h : e.1 < 64
  · simp [h, Nat.not_le.mpr h]
  · simp [h, Nat.not_lt.mp h]
/-- A bundle that writes a whole vector under the mask stack and goes on. -/
theorem State.writesV (s : State) (r w : Nat) (x : Vec) (f : Nat → Nat) (hw : IsWidth w)
    (hf : ∀ k, k < 4096 / w → elem x w k = f k % 2 ^ w) : WritesV s ((s.setV r x).retire) r w f := by
  refine ⟨(CtxOnly.modCtx s _).trans (CtxOnly.retireN _ 8), ?_, ?_, ?_, State.mem_poisV_setVMask s r s.top x, State.mem_err_setVMask s r s.top x⟩
  · have h := State.ctx_setVMask_retireN s r s.top x 8
    show ((s.setVMask r s.top x).retireN 8).ctx = { s.ctx.advance 8 with
      v := ((s.setVMask r s.top x).retireN 8).ctx.v, poisV := ((s.setVMask r s.top x).retireN 8).ctx.poisV,
      err := ((s.setVMask r s.top x).retireN 8).ctx.err }
    rw [h]
  · intro k hk
    rw [State.rv_retire, State.rv_setV, if_pos rfl, elem_mergeLanes _ _ _ _ _ hw hk, hf k hk]
  · intro q hq; rw [State.rv_retire, State.rv_setV, if_neg hq]
/-- A bundle that writes elements under the mask stack and goes on. -/
theorem State.writesV_build (s : State) (r w : Nat) (f : Nat → Nat) (hw : IsWidth w) :
    WritesV s ((s.setV r (buildV w f)).retire) r w f := State.writesV s r w _ f hw fun k hk => elem_buildV w f k hk

theorem elem_lt (v : Vec) (w k : Nat) : elem v w k < 2 ^ w := by unfold elem; exact Nat.mod_lt _ (Nat.two_pow_pos w)
/-- The scalar operand of R383: the low bits of a register, or the sign-extended immediate modulo 2^w. -/
theorem State.vScalar_eq (s : State) (b : SOperand) (w : Nat) (hw : IsWidth w) : s.vScalar b w =
    match b with | .reg r => (s.rs r).toNat % 2 ^ w | .imm i => (i.signExtend 64).toNat % 2 ^ w := by
  cases b with
  | reg r => rfl
  | imm i =>
    show wrap w (sx12 i) = (i.signExtend 64).toNat % 2 ^ w
    rw [sx12_toInt]; unfold wrap
    have h1 : (i.signExtend 64).toInt = i.toInt := BitVec.toInt_signExtend_of_le (by decide)
    have h2 := (i.signExtend 64).isLt
    rw [BitVec.toInt_eq_toNat_cond] at h1
    rw [← h1]
    rcases hw with e | e | e <;> subst e <;> split <;> omega
theorem State.vScalar_lt (s : State) (b : SOperand) (w : Nat) (hw : IsWidth w) : s.vScalar b w < 2 ^ w := by
  rw [State.vScalar_eq s b w hw]; cases b <;> exact Nat.mod_lt _ (Nat.two_pow_pos w)
/-- The value of an integer element (R384). -/
theorem vInt_eq (ty : VType) (n : Nat) (hn : n < 2 ^ vWidth ty) :
    vInt ty n = if ty = .ui8 then (n : Int) else (BitVec.ofNat (vWidth ty) n).toInt := by
  unfold vInt
  split
  · rfl
  · rw [BitVec.toInt_eq_toNat_cond]; unfold sgn
    rw [BitVec.toNat_ofNat]
    generalize vWidth ty = w at *
    rw [Nat.mod_eq_of_lt hn]
    cases w with
    | zero => simp at hn; subst hn; simp
    | succ w => rw [Nat.add_sub_cancel, Nat.pow_succ] at *; split <;> split <;> first | rfl | omega

end Sys2Proof.Machine
end

