-- ==== Sys2Proof/Laws/Words.lean ====
section
/-!
SUPPORT. Words and their fields: a number is given back by its bytes, and fields that fit their widths are given back by the word that joins
them.
-/
namespace Sys2Proof.Laws

/-- The bytes of a number give back the number, below 256 to the power of their count. -/
theorem ofLE_toLE : ∀ (n w : Nat), ofLE (toLE n w) = w % 256 ^ n
  | 0, w => by simp [toLE, ofLE, Nat.mod_one]
  | n + 1, w => by
    simp only [toLE, ofLE, ofLE_toLE n, BitVec.toNat_ofNat]
    rw [show 256 ^ (n + 1) = 256 * 256 ^ n from by rw [Nat.pow_succ, Nat.mul_comm], Nat.mod_mul]

theorem toLE_length : ∀ (n w : Nat), (toLE n w).length = n
  | 0, _ => rfl
  | n + 1, w => by simp [toLE, toLE_length n]

/-- Fields that fit their widths make a word of the widths' sum. -/
theorem joinFields_lt : ∀ (ws fs : List Nat), Fits ws fs → joinFields ws fs < 2 ^ ws.sum
  | [], [], _ => by simp [joinFields]
  | w :: ws, x :: xs, h => by
    have ih := joinFields_lt ws xs h.2
    have hx : x + 1 ≤ 2 ^ w := h.1
    have := Nat.mul_le_mul_right (2 ^ ws.sum) hx
    simp only [joinFields, List.sum_cons, Nat.pow_add]
    rw [Nat.add_mul] at this; omega

/-- Splitting a word reads its fields below the sum of the widths only. -/
theorem splitFields_mod : ∀ (ws : List Nat) (n m : Nat), ws.sum ≤ m → splitFields ws (n % 2 ^ m) = splitFields ws n
  | [], _, _, _ => rfl
  | w :: ws, n, m, h => by
    have hs : w + ws.sum ≤ m := by simpa using h
    simp only [splitFields]
    rw [splitFields_mod ws n m (by omega)]
    congr 1
    obtain ⟨d, rfl⟩ : ∃ d, m = ws.sum + (w + d) := ⟨m - (ws.sum + w), by omega⟩
    rw [Nat.pow_add, Nat.mod_mul_right_div_self, Nat.pow_add]
    exact Nat.mod_mod_of_dvd _ ⟨2 ^ d, rfl⟩

/-- The fields that a word was joined from come back. -/
theorem splitFields_joinFields : ∀ (ws fs : List Nat), Fits ws fs → splitFields ws (joinFields ws fs) = fs
  | [], [], _ => rfl
  | w :: ws, x :: xs, h => by
    have hj := joinFields_lt ws xs h.2
    simp only [splitFields, joinFields]
    congr 1
    · rw [Nat.mul_comm, Nat.mul_add_div (Nat.two_pow_pos _), Nat.div_eq_of_lt hj, Nat.add_zero, Nat.mod_eq_of_lt h.1]
    · rw [← splitFields_mod ws _ ws.sum (Nat.le_refl _), Nat.mul_comm, Nat.mul_add_mod, Nat.mod_eq_of_lt hj, splitFields_joinFields ws xs h.2]

end Sys2Proof.Laws
end

