-- ==== Sys2Proof/Tests/Slice0.lean ====
section
/-!
SUPPORT. Tests: what well-formedness refuses, words that the spec writes out, single steps with the results that the spec gives, and a witness
for the hypotheses of each statement.
-/
open Sys2Proof Sys2Proof.Machine

section
set_option maxRecDepth 4000

/-! ### Well-formedness refuses an ill-formed term for each check (R330, R334, R350, R112, R201) -/

theorem test_wf_guard : WellFormed (.nop ⟨0, true⟩) = false ∧ WellFormed (.nop ⟨8, false⟩) = false ∧ WellFormed (.nop ⟨7, true⟩) = true := by decide
theorem test_wf_scalar_register : WellFormed (.add ⟨0, false⟩ 64 1 2) = false ∧ WellFormed (.add ⟨0, false⟩ 63 1 2) = true := by decide
theorem test_wf_vector_register : WellFormed (.vmov ⟨0, false⟩ 640 1) = false ∧ WellFormed (.vmov ⟨0, false⟩ 639 1) = true := by decide
theorem test_wf_predicate_destination : WellFormed (.pnot ⟨0, false⟩ 0 1) = false ∧ WellFormed (.pnot ⟨0, false⟩ 1 8) = false := by decide
theorem test_wf_tile : WellFormed (.accz ⟨0, false⟩ 8 ⟨false, false, false, false, 0, 0⟩ false) = false := by decide
theorem test_wf_scope : WellFormed (.fenceAcq ⟨0, false⟩ 16) = false ∧ WellFormed (.fenceAcq ⟨0, false⟩ 15) = true := by decide
theorem test_wf_repeat : WellFormed (.accz ⟨0, false⟩ 0 ⟨false, false, false, false, 256, 0⟩ false) = false := by decide
theorem test_wf_no_repeat : WellFormed (.wswap ⟨0, false⟩ ⟨false, false, false, false, 1, 0⟩ false) = false ∧
    WellFormed (.wswap ⟨0, false⟩ ⟨false, false, false, false, 0, 1⟩ false) = false := by decide
theorem test_wf_arithmetic_type : WellFormed (.vadd ⟨0, false⟩ 1 2 3 .e4m3 .rne false) = false ∧
    WellFormed (.vadd ⟨0, false⟩ 1 2 3 .f32 .rsr false) = false ∧ WellFormed (.vadd ⟨0, false⟩ 1 2 3 .f32 .rne true) = false ∧
    WellFormed (.vadd ⟨0, false⟩ 1 2 3 .i8 .rtz false) = false := by decide
theorem test_wf_other_types : WellFormed (.vmin ⟨0, false⟩ 1 2 3 .e5m2) = false ∧ WellFormed (.vabs ⟨0, false⟩ 1 2 .ui8 false) = false ∧
    WellFormed (.vshl ⟨0, false⟩ 1 2 3 .f32) = false ∧ WellFormed (.vscan ⟨0, false⟩ 1 2 .i8 false) = false ∧
    WellFormed (.vscale ⟨0, false⟩ 1 2 .f32 .rne) = false ∧ WellFormed (.vamax ⟨0, false⟩ 1 2 .i32) = false := by decide
theorem test_wf_compare : WellFormed (.vcmp ⟨0, false⟩ .ltu 1 2 3 .f32) = false ∧ WellFormed (.vcmp ⟨0, false⟩ .ltu 1 2 3 .i32) = true := by decide
theorem test_wf_convert : WellFormed (.vcvt ⟨0, false⟩ 1 2 .f32 .f32 .rne false) = false ∧
    WellFormed (.vcvt ⟨0, false⟩ 1 2 .f32 .bf16 .rtz false) = false ∧ WellFormed (.vcvt ⟨0, false⟩ 1 2 .e4m3 .f32 .rsr true) = true := by decide
theorem test_wf_immediate_operand : WellFormed (.vbcast ⟨0, false⟩ 1 (.imm 1) .f32) = false ∧
    WellFormed (.vbcast ⟨0, false⟩ 1 (.reg 64) .f32) = false := by decide
theorem test_wf_lane : WellFormed (.vextr ⟨0, false⟩ 1 2 4096 .i32) = false ∧ WellFormed (.vextr ⟨0, false⟩ 1 2 128 .i32) = true := by decide
theorem test_wf_pbuild_reserved : decodeCore 0x90016D75C8000000 0 ≠ none ∧ decodeCore 0x90016D75C8000040 0 = none := by decide
theorem test_wf_csr : WellFormed (.csrr ⟨0, false⟩ 1 0x00F) = false ∧ WellFormed (.csrw ⟨0, false⟩ 1 0x002) = false := by decide
theorem test_wf_peer_offset : WellFormed (.sppeer ⟨0, false⟩ 1 2 0x400000) = false := by decide
theorem test_wf_pair_nop : WellFormed (.pair ⟨0, false⟩ .nop 1 0 0 .addF 1 2 3) = false := by decide
theorem test_wf_atomic : WellFormed (.amo ⟨0, false⟩ .fadd .rel .i64 3 1 2 3 0) = false ∧ WellFormed (.amo ⟨0, false⟩ .add .none .i64 3 1 2 3 0) = false ∧
    WellFormed (.amocas ⟨0, false⟩ .rel .f32 3 1 2 3 4 0) = false := by decide
theorem test_wf_queues : WellFormed (.qfence ⟨0, false⟩ 0) = false ∧ WellFormed (.qput ⟨0, false⟩ 1 4) = false := by decide
theorem test_wf_direction : WellFormed (.psend ⟨0, false⟩ 1 2 3 6) = false ∧ WellFormed (.fwd 6) = false := by decide
theorem test_wf_pebble : WellFormed (.pushk 4) = false ∧ WellFormed (.ctr 256) = false ∧ WellFormed (.coord 3) = false ∧
    WellFormed (.loadCount 6) = false ∧ WellFormed (.clone 0) = false := by decide
theorem test_wf_slate : WellFormed (.ldv 16 0 true 0 0) = false ∧ WellFormed (.ldv 0 1 false 0 0) = false ∧ WellFormed (.brf 0 3 1) = false ∧
    WellFormed (.brf 1 0 1) = false ∧ WellFormed (.slateLoop 0 256 0) = false ∧ WellFormed (.emitFaultact 0 4) = false ∧
    WellFormed (.slateAdd 0 0 16) = false := by decide

/-! ### Words that the spec writes out, by family (the encoding tables and programs of chapters 14 to 23, R112, R201) -/

theorem test_decode_scalar : decodeCore 0x04011461C0000000 0 = some (.add ⟨2, false⟩ 5 6 7) ∧
    decodeCore 0x101A006400000003 0 = some (.cmpImm ⟨0, false⟩ .eq 6 2 3) ∧ decodeCore 0x1020344000000000 0 = some (.sppeer ⟨0, false⟩ 13 4 0) ∧
    decodeCore 0x3001240000000000 0x0102000000400000 = some (.li ⟨0, false⟩ 9 0x0102000000400000) := by decide
theorem test_decode_memory : decodeCore 0x104B280000000100 0 = some (.sts ⟨0, false⟩ .d 10 0 0x100) ∧
    decodeCore 0x104571B000000000 0 = some (.lds ⟨0, false⟩ .wu 28 27 0) ∧ decodeCore 0x105B004000000000 0 = some (.stg ⟨0, false⟩ .d 0 4 0) ∧
    decodeCore 0x10566DA0000000F8 0 = some (.ldg ⟨0, false⟩ .d 27 26 248) := by decide
theorem test_decode_control : decodeCore 0x2401000000000002 0 = some (.br ⟨2, false⟩ 2) ∧ decodeCore 0x2003180000000002 0 = some (.bnz ⟨0, false⟩ 6 2) ∧
    decodeCore 0x2005000000000008 0 = some (.call ⟨0, false⟩ 8) ∧ decodeCore 0x2007000000000000 0 = some (.ret ⟨0, false⟩) ∧
    decodeCore 0x2009100000000006 0 = some (.loop ⟨0, false⟩ 4 6) ∧ decodeCore 0x200A000000000016 0 = some (.loopq ⟨0, false⟩ 22) ∧
    decodeCore 0x20010000FFFFFFF8 0 = some (.br ⟨0, false⟩ 0xFFFFFFF8) := by decide
theorem test_decode_system : decodeCore 0xA001240020000000 0 = some (.csrr ⟨0, false⟩ 9 0x020) ∧
    decodeCore 0xA00B019000000000 0 = some (.fmtpush ⟨0, false⟩ 25) ∧ decodeCore 0xCC20841840A0501E 0 = some (.pair ⟨1, true⟩ .add 1 2 3 .addF 10 20 30) ∧
    decodeCore 0xB000000000000000 0 = none ∧ decodeCore 0x0100000000000000 0 = none := by decide
theorem test_decode_vector : decodeCore 0x400400C040140600 0 = some (.vfma ⟨0, false⟩ 3 4 5 6 .f32 .rne false) ∧
    decodeCore 0x401302009000002A 0 = some (.vcvt ⟨0, false⟩ 8 9 .e4m3 .f32 .rsr true) ∧
    decodeCore 0x4010008070200270 0 = some (.vcmp ⟨0, false⟩ .lt 2 7 8 .i32) ∧ decodeCore 0x4011024070240560 0 = some (.vsel ⟨0, false⟩ 9 7 9 5 .i16) ∧
    decodeCore 0x4018008010000070 0 = some (.vredadd ⟨0, false⟩ 2 1 .i32 .rne false) ∧ decodeCore 0x401D00C020000070 0 = some (.vhist ⟨0, false⟩ 3 2 .i32) ∧
    decodeCore 0x4025000020000000 0 = some (.mpush ⟨0, false⟩ 2) ∧ decodeCore 0x4026000000000000 0 = some (.minv ⟨0, false⟩) := by decide
theorem test_decode_vector_scalar : decodeCore 0x5001004010000171 0 = some (.vaddScalar ⟨0, false⟩ 1 1 (.imm 1) .i32 .rne false) ∧
    decodeCore 0x5010004000000A75 0 = some (.vcmpScalar ⟨0, false⟩ .lt 1 0 (.imm 10) .i32) ∧
    decodeCore 0x5003004002400000 0 = some (.vmulScalar ⟨0, false⟩ 1 0 (.reg 9) .f32 .rne false) ∧
    decodeCore 0x5031030001004000 0 = some (.vld ⟨0, false⟩ 12 4 64) ∧ decodeCore 0x503200C000040000 0 = some (.vst ⟨0, false⟩ 3 0 0x400) ∧
    decodeCore 0x5035000027800070 0 = some (.vextr ⟨0, false⟩ 30 2 0 .i32) := by decide
theorem test_decode_matrix : decodeCore 0x6003005800000000 0 = some (.mm ⟨0, false⟩ 0 22 false ⟨false, false, false, false, 0, 0⟩ false) ∧
    decodeCore 0x6001002000100000 0 = some (.ldw ⟨0, false⟩ 8 true ⟨false, false, false, false, 0, 0⟩ false) ∧
    decodeCore 0x6006086000000000 0 = some (.accld ⟨0, false⟩ 0 24 ⟨false, false, false, false, 0, 0⟩ true) ∧
    decodeCore 0x6007005150000000 0 = some (.accwr ⟨0, false⟩ 0 20 21 ⟨false, false, false, false, 0, 0⟩ false) ∧
    decodeCore 0x6009000000003100 0 = some (.plnld ⟨0, false⟩ 0 0 ⟨false, false, false, false, 3, 256⟩ false) ∧
    decodeCore 0x600A002CB0000000 0 = some (.margset ⟨0, false⟩ 11 11 ⟨false, false, false, false, 0, 0⟩ false) := by decide
theorem test_decode_copy : decodeCore 0x7008810518703001 0 = some (.cpout ⟨0, false⟩ 4 5 6 7 ⟨true, false, false, false, 3, 1⟩) ∧
    decodeCore 0x7002000C34000000 0 = some (.cpinScl ⟨0, false⟩ 12 13 ⟨false, false, false, false, 0, 0⟩) ∧
    decodeCore 0x7009010518700000 0 = some (.cppeer ⟨0, false⟩ 4 5 6 7 ⟨false, false, false, false, 0, 0⟩) ∧
    decodeCore 0x700B028C2C000000 0 = some (.cpscat ⟨0, false⟩ 10 12 11 0 ⟨false, false, false, false, 0, 0⟩) ∧
    decodeCore 0x7001101864000000 0 = some (.cpin ⟨0, false⟩ 0 24 25 0 ⟨false, false, false, true, 0, 0⟩) := by decide
theorem test_decode_sync : decodeCore 0x8001F1461C015008 0 = some (.amo ⟨0, false⟩ .add .rel .i64 15 5 6 7 8) ∧
    decodeCore 0x8003F00000020000 0 = some (.fenceRel ⟨0, false⟩ 15) ∧ decodeCore 0x8008000000000001 0 = some (.tkpop ⟨0, false⟩ true) ∧
    decodeCore 0x8009000720900000 0 = some (.binit ⟨0, false⟩ 7 8 9) ∧ decodeCore 0x800C070720000000 0 = some (.bwait ⟨0, false⟩ 3 4 7 8) ∧
    decodeCore 0x8010000900000001 0 = some (.qput ⟨0, false⟩ 9 1) ∧ decodeCore 0x8011300414000000 0 = some (.semsig ⟨0, false⟩ 3 4 5) ∧
    decodeCore 0x8013050600000000 0 = some (.capget ⟨0, false⟩ 20 6) ∧ decodeCore 0x8015000400000000 0 = some (.cqpush ⟨0, false⟩ 4) := by decide
theorem test_decode_fabric : decodeCore 0x900200A2CCE00000 0 = some (.psend ⟨0, false⟩ 10 11 12 7) ∧
    decodeCore 0x90016D75C8000000 0 = some (.pbuild ⟨0, false⟩ 27 23 23 8 0) ∧ decodeCore 0x900400C1C0000040 0 = some (.rwst ⟨0, false⟩ 12 7 0x40) := by
  decide
theorem test_decode_pebble : decodePebble 0x0840 = some (.pushi 0x40) ∧ decodePebble 0x9000 = some .ldr ∧ decodePebble 0x1001 = some (.pushk 1) ∧
    decodePebble 0x8802 = some (.pebbleBnz 2) ∧ decodePebble 0xC000 = some (.fwd 0) ∧ decodePebble 0xD000 = some .deliver := by decide
theorem test_decode_slate : decodeSlate 0xED000003 = some (.slateCmpeqImm 4 0 3) ∧ decodeSlate 0x25C00D04 = some (.slateLoop 7 13 4) ∧
    decodeSlate 0x34000000 = some .slateRet := by decide

/-! ### Single steps -/

/-- The state after a step. -/
def after (s : State) : State := match step s with | .next t => t | _ => s
/-- Core 0 of a team of one strand, about to run a bundle, with registers set. -/
def bundleWith (w : Nat) (regs : List (Nat × W64)) : State :=
  (State.reset.withFetchWord 64 w).modCore 0 fun c => { c with act := { c.act with s := regs } }
/-- A running core 0 with vector registers set, on which a meaning is run. -/
def lanes (vs : List (Nat × Vec)) : State := State.reset.modCur fun c => { c with run := .running, act := { Ctx.zero with v := vs } }
/-- The state that an answer holds. -/
def got (o : Host.Outcome State Fault Refusal) : State := match o with | .next t => t | _ => State.reset
/-- A vector register with 32-bit elements at the bottom. -/
def words (l : List Nat) : Vec := BitVec.ofNat 4096 (l.foldr (fun x n => x + 2 ^ 32 * n) 0)

theorem test_add_wraps : (after (bundleWith 0x00011461C0000000 [(6, -1), (7, 1)])).rs 5 = 0 ∧
    (after (bundleWith 0x00011461C0000000 [(6, -1), (7, 1)])).ctx.pc = 0x100000008 := by decide
-- the corners of R355
theorem test_div_by_zero : aluDiv 5 0 = 0xFFFFFFFFFFFFFFFF ∧ aluRem 5 0 = 5 := by decide
theorem test_div_overflow : aluDiv (BitVec.ofInt 64 (-2 ^ 63)) (-1) = BitVec.ofInt 64 (-2 ^ 63) ∧ aluRem (BitVec.ofInt 64 (-2 ^ 63)) (-1) = 0 := by decide
-- R356
theorem test_shift_by_64 : aluShl 1 64 = 0 ∧ aluShr (-1) 64 = 0 ∧ aluSar (BitVec.ofInt 64 (-2 ^ 63)) 100 = 0xFFFFFFFFFFFFFFFF := by decide
-- STS.d is little-endian (R3): the word of chapter 15 at 0x40 stores s10 at 0x100
theorem test_sts_byte_order : (after (bundleWith 0x104B280000000100 [(10, 0x1122334455667788)])).byte (spadKey 0 0x100) = 0x88 ∧
    (after (bundleWith 0x104B280000000100 [(10, 0x1122334455667788)])).byte (spadKey 0 0x107) = 0x11 := by decide
-- 0xB is no class: ILLEGAL_OP with FAULTPC and FAULTADDR at the bundle (R350)
theorem test_illegal_class : (after (bundleWith 0xB000000000000000 [])).csr.code = 0x01 ∧
    (after (bundleWith 0xB000000000000000 [])).csr.faultPc = 0x100000000 ∧ (after (bundleWith 0xB000000000000000 [])).cur.run = .faulted := by decide
-- a branch of -8 bundles (chapter 14, worked encoding 5)
theorem test_branch_backward : (after (bundleWith 0x20010000FFFFFFF8 [])).ctx.pc = 0xFFFFFFC0 := by decide
-- a false guard only goes on
theorem test_guard_false : (after (bundleWith 0x2401000000000002 [])).ctx.pc = 0x100000008 := by decide
-- the histogram of chapter 16: ten indices and its bins, and their exclusive scan (events 4 and 5)
theorem test_vhist : (got (execVhist ⟨0, false⟩ 3 2 .i32 (lanes [(2, words ([0, 3, 2, 1, 0, 3, 2, 1, 0, 3] ++ List.replicate 118 0xFFFFFFFF))]))).rv 3 =
    words [3, 2, 2, 3] := by decide +kernel
theorem test_vscan : (got (execVscan ⟨0, false⟩ 4 3 .i32 false (lanes [(3, words [3, 2, 2, 3])]))).rv 4 =
    words ([0, 3, 5, 7] ++ List.replicate 124 10) := by decide +kernel
-- an amax of 896 gives the scale 2.0 for .e4m3 (R404)
theorem test_vscale : elem ((got (execVscale ⟨0, false⟩ 1 2 .e4m3 .rne (lanes [(2, words [0x44600000])]))).rv 1) 32 0 = 0x40000000 := by decide +kernel
-- the reciprocal of 2^-128 (chapter 16)
theorem test_vrcp_rne : elem ((got (execVrcp ⟨0, false⟩ 1 2 .f32 .rne (lanes [(2, words [0x00200000])]))).rv 1) 32 0 = 0x7F800000 := by decide +kernel
theorem test_vrcp_rtz : elem ((got (execVrcp ⟨0, false⟩ 1 2 .f32 .rtz (lanes [(2, words [0x00200000])]))).rv 1) 32 0 = 0x7F7FFFFF := by decide +kernel
-- CAPUPD on the table of R187: loads 0, 1, 37 and 130 from EWMA 128
theorem test_capupd : [0, 1, 37, 130].map (fun l => capStep 2 384 64 4096 l 128) = [(96, 144), (96, 144), (105, 158), (128, 192)] := by decide
-- R112
theorem test_pebble_pushi : ((after (State.reset.withFetchWord 16 0x0840)).visit.map fun v => v.pkt.top) = some 0x40 := by decide
-- a RET ends the invocation (R209)
theorem test_slate_ret : ((after (State.reset.withFetchWord 32 0x34000000)).getPart 0).inv = none := by decide
-- FMTPUSH appends bits [31:0] (R407)
theorem test_fmtpush : (after (bundleWith 0xA00B019000000000 [(25, 0x1_1110_0000)])).cur.fmt = [0x11100000] := by decide
-- FENCE.rel with nothing outstanding goes on
theorem test_fence : (after (bundleWith 0x8003F00000020000 [])).ctx.pc = 0x100000008 := by decide
-- an elapsed turn moves the clock, and a machine with no turn left lets a nanosecond pass
theorem test_elapse : (after State.reset).now = 1 := by decide

/-! ### Witnesses -/

/-! ### AddSubtractMultiplyAndLogic -/
theorem test_witness_AddSubtractMultiplyAndLogic : State.reset.holds ⟨0, false⟩ = true := by decide

/-! ### DivisionNeverFaults -/
theorem test_witness_DivisionNeverFaults : State.reset.holds ⟨0, false⟩ = true := by decide

/-! ### ShiftsByAnyCount -/
theorem test_witness_ShiftsByAnyCount : State.reset.holds ⟨0, false⟩ = true := by decide

/-! ### UnaryScalarOperations -/
theorem test_witness_UnaryScalarOperations : State.reset.holds ⟨0, false⟩ = true := by decide

/-! ### PredicatesAndWideImmediates -/
theorem test_witness_ComparesAndPredicates : State.reset.holds ⟨0, false⟩ = true ∧ (7 : Nat) < 8 := by decide
theorem test_witness_WideImmediatesAndAddresses : State.reset.holds ⟨0, false⟩ = true := by decide

/-! ### OwnScratchpadLoadsAndStores -/
theorem test_witness_OwnScratchpad_reset : State.reset.holds ⟨0, false⟩ = true ∧ State.reset.ctx.ptrOwn 0 = true ∧
    State.reset.ctx.rankOk 0 = true := by decide
theorem test_witness_OwnScratchpad_inRange : ((0 : Int) + (BitVec.ofNat 32 4194296).toInt) % 8 = 0 ∧
    (0 : Int) + (BitVec.ofNat 32 4194296).toInt + 8 ≤ 4194304 := by decide
theorem test_witness_OwnScratchpad_sound : State.reset.sound (spadKey 0 4194296) 8 := by intro e h; cases h
theorem test_witness_OwnScratchpad_outOfRange : ((0 : Int) + (BitVec.ofNat 32 4194304).toInt) % 8 = 0 ∧
    4194304 < (0 : Int) + (BitVec.ofNat 32 4194304).toInt + 8 := by decide

/-! ### PeerScratchpadAndPointerFaults -/
/-- A core 0 whose strand is rank 0 of a team of two and holds a value in s1. -/
def peerState (v : W64) : State :=
  (State.reset.modCur fun c => { c with run := .running }).modCtx fun x =>
    { x with s := [(1, v)], csr := { x.csr with teamSize := 2 } }
theorem test_witness_Peer : (peerState 0x40400000).holds ⟨0, false⟩ = true ∧
    (peerState 0x40400000).ctx.ptrOwn ((peerState 0x40400000).rs 1).toNat = false ∧
    (peerState 0x40400000).ctx.rankOk ((peerState 0x40400000).rs 1).toNat = true := by decide
theorem test_witness_PointerFaults_reserved : (peerState 0x80000000).cur.run = .running ∧ 2 ^ 31 ≤ ((peerState 0x80000000).rs 1).toNat := by
  decide
theorem test_witness_PointerFaults_aligned : (peerState 1).cur.run = .running ∧
    (((peerState 1).rs 1).toNat % 2 ^ 22 + (0 : BitVec 32).toInt) % (2 : Int) ≠ 0 := by decide

/-! ### LoadsAndStoresByVirtualAddress -/
/-- An extent of one 4 KiB unit at virtual address 0x1000, mapped to physical address 0x2000 of a node, with a page order. -/
def oneExtent (node order : Nat) : Extent :=
  ⟨0x1000, 1, node * 2 ^ 48 + 0x2000, false, true, true, true, order, false, false, false, false, false, false, []⟩
/-- Team 1 of one member on core 0, with extents. -/
def oneTeam (es : List Extent) : Team :=
  ⟨1, 0, 0, 0, 0, 1, [], [0], false, false, false, .running, es, [], [], [], [], 0, [], 0, 0, 0, 0, false, 0, [], 0, none, false, 0⟩
/-- Core 0 running rank 0 of team 1, of one member, under one extent; s1 holds a value. -/
def teamState (e : Extent) (v : W64) : State :=
  let s := State.reset.modCur fun c => { c with run := .running, act := { Ctx.zero with s := [(1, v)] } }
  { s.modCsr (fun c => { c with teamId := 1, teamSize := 1 }) with teams := [oneTeam [e]] }
theorem test_witness_VirtualLocal : (teamState (oneExtent 0 1) 0x1FF8).xlate .read 0x1FF8 8 =
      .ok [⟨0x1FF8, 8, 0, 0x2FF8, 1, false, false, false, false, false⟩] ∧
    (teamState (oneExtent 0 1) 0x1FF8).xlate .write 0x1FF8 8 = .ok [⟨0x1FF8, 8, 0, 0x2FF8, 1, false, false, false, false, false⟩] := by
  decide
theorem test_witness_VirtualLocal_free : (teamState (oneExtent 0 1) 0x1FF8).cur.mayIssue ((teamState (oneExtent 0 1) 0x1FF8).accOf 1 0 0
      ⟨0x1FF8, 8, 0, 0x2FF8, 1, false, false, false, false, false⟩) = true ∧
    (teamState (oneExtent 0 1) 0x1FF8).cur.mayPerform ((teamState (oneExtent 0 1) 0x1FF8).accOf 1 0 0
      ⟨0x1FF8, 8, 0, 0x2FF8, 1, false, false, false, false, false⟩) = true ∧ (teamState (oneExtent 0 1) 0x1FF8).cur.shadow = [] := by
  decide
theorem test_witness_VirtualRemote : (teamState (oneExtent 5 1) 0x1000).xlate .write 0x1000 4 =
    .ok [⟨0x1000, 4, 5, remoteKey 5 0x1000, 1, false, false, false, false, false⟩] := by decide
/-- The same extent on a SYNC page, whose first line cannot be read. -/
def syncState : State :=
  (teamState { oneExtent 0 1 with sync := true } 0x1000).modDie 0 fun d => { d with stuck := [0x2000 / 64] }
theorem test_witness_VirtualSync : syncState.xlate .write 0x1000 4 = .ok [⟨0x1000, 4, 0, 0x2000, 1, false, true, false, false, false⟩] ∧
    syncState.lineHeld syncState.myAsid 0x1000 0x2000 = true ∧ (syncState.die 0).parked = [] ∧
    (syncState.accOf 1 0 0 ⟨0x1000, 4, 0, 0x2000, 1, false, true, false, false, false⟩).sync = true := by decide
theorem test_witness_VirtualFaults : (teamState (oneExtent 0 1) (2 ^ 55)).cur.run = .running ∧
    2 ^ 55 ≤ ((teamState (oneExtent 0 1) (2 ^ 55)).rs 1 + (0 : BitVec 32).signExtend 64).toNat ∧
    ((teamState (oneExtent 0 1) 1).rs 1 + (0 : BitVec 32).signExtend 64).toNat % 2 ≠ 0 := by decide

/-! ### LoadDataReturns -/
/-- Core 0 with one outstanding load of s2, four bytes from 0x40 of its own scratchpad's key space. -/
def loadingState : State :=
  { State.reset.modCur fun c => { c with run := .running, pend := [⟨spadAcc 1 0 0 0 0x40 4, .scalar .w 2, false, none⟩] } with
    args := [1], mem := [(spadKey 0 0x43, 0x80)] }
theorem test_witness_LoadDataReturns : loadingState.cur.wait = .none ∧ loadingState.cur.pend.find? (fun p => p.acc.id == 1) =
      some ⟨spadAcc 1 0 0 0 0x40 4, .scalar .w 2, false, none⟩ ∧ loadingState.cur.mayPerform (spadAcc 1 0 0 0 0x40 4) = true := by decide
theorem test_witness_LoadDataReturns_sound : loadingState.sound (spadKey 0 0x40) 4 := by intro e h; cases h
/-- The same with an earlier write of the same bytes outstanding. -/
def orderedState : State := loadingState.modCur fun c => { c with outw := [⟨spadAcc 0 0 0 0 0x40 4, none⟩] }
theorem test_witness_LoadDataReturns_held : orderedState.cur.mayPerform (spadAcc 1 0 0 0 0x40 4) = false ∧
    loadingState.bankBusy 0 (spadKey 0 0x40) 4 = false := by decide

/-! ### BranchesTransferControl -/
theorem test_witness_Branches : State.reset.holds ⟨0, false⟩ = true ∧ (State.reset.rs 1).toNat % 8 = 0 := by decide
theorem test_witness_Branches_misaligned : ((peerState 4).rs 1).toNat % 8 ≠ 0 ∧ (peerState 4).cur.run = .running ∧
    (peerState 4).holds ⟨0, false⟩ = true := by decide

/-! ### CallsAndReturns -/
/-- Core 0 running with n return addresses, a stack from 0x100 up to 0x200 and s63 in it. -/
def stackState (n sp : Nat) : State :=
  (State.reset.modCur fun c => { c with run := .running }).modCtx fun x =>
    { x with s := [(63, w64 sp)], ras := List.replicate n 0x1000, csr := { x.csr with stkBase := 0x200, stkLim := 0x100 } }
theorem test_witness_Calls_room : (stackState 15 0x200).ctx.ras.length < 16 ∧ (stackState 15 0x200).holds ⟨0, false⟩ = true := by decide
theorem test_witness_Calls_spill : (stackState 16 0x108).ctx.ras.length = 16 ∧
    (stackState 16 0x108).csr.stkBase ≠ (stackState 16 0x108).csr.stkLim ∧
    (stackState 16 0x108).csr.stkLim.toNat + 8 ≤ ((stackState 16 0x108).rs 63).toNat ∧ ((stackState 16 0x108).rs 63).toNat % 8 = 0 ∧
    ((stackState 16 0x108).rs 63).toNat ≤ 4194304 := by decide
theorem test_witness_Calls_overflow : (stackState 16 0x100).ctx.ras.length = 16 ∧ (stackState 16 0x100).cur.run = .running ∧
    ((stackState 16 0x100).rs 63 - 8).toNat < (stackState 16 0x100).csr.stkLim.toNat := by decide
theorem test_witness_Calls_misaligned : (stackState 16 0x10C).csr.stkLim.toNat ≤ ((stackState 16 0x10C).rs 63 - 8).toNat ∧
    ((stackState 16 0x10C).rs 63).toNat % 8 ≠ 0 ∧ (stackState 0 0x1FC).ctx.ras = [] ∧
    ((stackState 0 0x1FC).rs 63).toNat < (stackState 0 0x1FC).csr.stkBase.toNat := by decide
theorem test_witness_Ret_store : (stackState 1 0x200).ctx.ras = [0x1000] := by decide
theorem test_witness_Ret_reload : (stackState 0 0x1F8).ctx.ras = [] ∧
    ((stackState 0 0x1F8).rs 63).toNat < (stackState 0 0x1F8).csr.stkBase.toNat ∧ ((stackState 0 0x1F8).rs 63).toNat % 8 = 0 ∧
    (stackState 0 0x1F8).readN (spadKey 0 0x1F8) 8 % 8 = 0 := by decide
theorem test_witness_Ret_reload_sound : (stackState 0 0x1F8).sound (spadKey 0 0x1F8) 8 := by intro e h; cases h
theorem test_witness_Ret_underflow : (stackState 0 0x200).csr.stkBase.toNat ≤ ((stackState 0 0x200).rs 63).toNat ∧
    (stackState 0 0x200).cur.run = .running := by decide

/-! ### HardwareLoops -/
/-- Core 0 running with a count queue. -/
def countState (l : List W32) : State := State.reset.modCur fun c => { c with run := .running, counts := l.map fun w => (w, none) }
theorem test_witness_Loops : (countState [3]).holds ⟨0, false⟩ = true ∧ 0 < (BitVec.ofNat 32 6).toInt ∧ (countState [3]).ctx.lpDepth < 4 ∧
    (countState [3]).ctx.lpDepth = 0 ∧ (countState [3]).cur.counts = [(3, none)] := by decide
theorem test_witness_Loops_empty : (countState []).cur.counts = [] ∧ (countState []).cur.el.hasCqfill = false ∧
    (countState []).cur.run = .running := by decide
/-- The same with a CQFILL in the queue of L. -/
def cqfillState : State := (countState []).modCur fun c =>
  { c with el := { c.el with q := [⟨1, 0, .cqfill ⟨0, false⟩ 1 2 ⟨false, false, false, false, 0, 0⟩, 0, 1, 0, 0, 0, false, .none⟩] } }
theorem test_witness_Loops_cqfill : cqfillState.cur.counts = [] ∧ cqfillState.cur.el.hasCqfill = true := by decide
theorem test_witness_Loops_poison : ((countState []).modCur fun c => { c with counts := [(3, some 0x40)] }).cur.counts = [(3, some 0x40)] ∧
    ((countState []).modCur fun c => { c with counts := [(3, some 0x40)] }).cur.run = .running := by decide
theorem test_witness_Loops_illegal : ¬ (0 < (BitVec.ofNat 32 0).toInt) ∧ (countState []).ctx.lpDepth ≤ 4 := by decide
/-- A context at 0x30 with two levels open, the inner one ending there with n passes left. -/
def nestCtx (n : W64) : Ctx :=
  { Ctx.zero with pc := 0x30, lpDepth := 2, levels := [⟨0x10, 0x38, 3, 0⟩, ⟨0x20, 0x30, n, 0⟩, Level.zero, Level.zero] }
theorem test_witness_LoopEnd_stays : (nestCtx 4).lpDepth ≠ 0 ∧ ((nestCtx 4).level 1).last = (nestCtx 4).pc ∧
    ((nestCtx 4).level 1).cd = (nestCtx 4).callDepth ∧ 1 < ((nestCtx 4).level 1).cnt.toNat := by decide
theorem test_witness_LoopEnd_closes : ((nestCtx 1).level 1).cnt.toNat ≤ 1 ∧ ((nestCtx 1).level 0).last ≠ (nestCtx 1).pc := by decide
theorem test_witness_LoopEnd_outside : ¬ (Ctx.zero.lpDepth ≠ 0) := by decide

/-! ### ExitEndsTheStrand -/
theorem test_witness_Exit : State.reset.holds ⟨0, false⟩ = true ∧ State.reset.cur.pend = [] ∧ State.reset.cur.failed = [] ∧
    State.reset.cur.drained = true := by decide
theorem test_witness_Exit_waits : (∀ p ∈ loadingState.cur.pend, p.fail = none) ∧ loadingState.cur.drained = false := by decide
/-- A strand that waits in EXIT. -/
def exitingState : State := State.reset.modCur fun c => { c with run := .running, wait := .exit }
theorem test_witness_StrandEnd : exitingState.cur.wait = .exit ∧ exitingState.cur.run = .running ∧ exitingState.cur.drained = true ∧
    exitingState.cur.pend = [] ∧ exitingState.cur.failed = [] := by decide
/-- A strand one of whose writes has failed. -/
def failedState : State := State.reset.modCur fun c => { c with run := .running, failed := [⟨0, .node 5, 0x1000, 3⟩] }
theorem test_witness_Exit_failed : failedState.cur.failed = [⟨0, .node 5, 0x1000, 3⟩] ∧ failedState.cur.drained = true ∧
    failedState.cur.run = .running ∧ failedState.cur.pend = [] := by decide

/-! ### ControlAndStatusRegisters -/
theorem test_witness_ControlAndStatusRegisters : State.reset.holds ⟨0, false⟩ = true := by decide

/-! ### TrapsAndInstructionCache -/
theorem test_witness_Traps : exitingState.cur.run = .running ∧ exitingState.holds ⟨0, false⟩ = true ∧
    exitingState.writesDone 3 false = true := by decide
/-- A strand with a write of a die's memory outstanding, and one that waits in ICINV. -/
def writingState : State := State.reset.modCur fun c =>
  { c with run := .running, outw := [⟨⟨1, 0, 0, .die 0, false, true, false, 0, 8, 0, false⟩, none⟩] }
theorem test_witness_Icinv_waits : writingState.writesDone 3 false = false ∧ writingState.cur.run = .running := by decide
theorem test_witness_IcinvDone : (State.reset.modCur fun c => { c with run := .running, wait := .icinv }).cur.wait = .icinv ∧
    (State.reset.modCur fun c => { c with run := .running, wait := .icinv }).writesDone 3 false = true := by decide

/-! ### IntegerElementArithmetic -/
theorem test_witness_IntegerElementArithmetic : State.reset.holds ⟨0, false⟩ = true ∧ VType.i16 ∈ [VType.i8, .ui8, .i16, .i32] := by decide

/-! ### FloatingElementArithmetic -/
theorem test_witness_FloatingElementArithmetic :
    State.reset.holds ⟨0, false⟩ = true ∧ VType.bf16 ∈ [VType.f32, .bf16] ∧ Rnd.rtz ∈ [Rnd.rne, .rtz] := by decide
theorem test_witness_FloatingElementArithmetic_formats : (fmtE4m3, 8, 4, (-6 : Int), 448, 0x7F, false) ∈
    [(fmtF32, 32, 24, -126, (2 ^ 24 - 1) * 2 ^ 104, 0x7FC00000, true),
      (fmtBf16, 16, 8, -126, (2 ^ 8 - 1) * 2 ^ 120, 0x7FC0, true), (fmtE4m3, 8, 4, -6, 448, 0x7F, false),
      (fmtE5m2, 8, 3, -14, 57344, 0x7E, true)] := by simp
theorem test_witness_FloatingElementArithmetic_values : (FV.fin true 3 0).IsFin true 3 ∧ (FV.fin false 0 0).IsFin false 0 :=
  ⟨⟨3, 0, rfl, by simp⟩, ⟨0, 0, rfl, by simp⟩⟩

/-! ### VectorLogicShiftsAndMoves -/
theorem test_witness_VectorLogicShiftsAndMoves : State.reset.holds ⟨0, false⟩ = true := by decide

/-! ### VectorComparesAndSelection -/
theorem test_witness_VectorComparesAndSelection : State.reset.holds ⟨0, false⟩ = true ∧
    VType.ui8 ∈ [VType.f32, .bf16, .i8, .ui8, .i16, .i32] ∧ (VType.ui8 ∈ [VType.f32, .bf16] → Cond.geu ≠ .ltu ∧ Cond.geu ≠ .geu) ∧
    (VType.f32 ∈ [VType.f32, .bf16] → Cond.ge ≠ .ltu ∧ Cond.ge ≠ .geu) := by decide

/-! ### MaskStackActs -/
/-- The reset state with masks on the stack of core 0. -/
def withMasks (m : List (BitVec 128)) : State := State.reset.modCtx fun x => { x with masks := m }
theorem test_witness_MaskStackActs : (withMasks []).holds ⟨0, false⟩ = true ∧ (withMasks []).ctx.masks.length < 8 ∧
    (withMasks [5]).ctx.masks = 5 :: [] ∧ (withMasks [5]).holds ⟨0, false⟩ = true := by decide
theorem test_witness_MaskStackActs_faults : (withMasks (List.replicate 8 1)).ctx.masks.length = 8 ∧
    (withMasks (List.replicate 8 1)).holds ⟨0, false⟩ = true ∧ (withMasks (List.replicate 8 1)).cur.run ≠ .faulted ∧
    (withMasks []).ctx.masks = [] ∧ (withMasks []).cur.run ≠ .faulted := by decide

/-! ### ConversionsAndFunctions -/
theorem test_witness_ConversionsAndFunctions : State.reset.holds ⟨0, false⟩ = true ∧ Rnd.rne ≠ .rsr := by decide
theorem test_witness_ConversionsAndFunctions_values : (FV.fin false 3 0).IsFin false 3 ∧ (fmtF32.value 0).IsFin false 0 ∧
    fmtF32.value 0x7FC00000 = .nan ∧ fmtF32.value 0xFF800000 = .inf true ∧ fmtF32.value 0x7F800000 = .inf false :=
  ⟨⟨3, 0, rfl, by simp⟩, ⟨0, _, rfl, by simp⟩, by rfl, by rfl, by rfl⟩
theorem test_witness_ConversionsAndFunctions_finite : (fmtF32.value 0x4B000000).Is (8388608 : Nat) ∧ (fmtF32.value 0).Is (0 : Int) :=
  have same (q : Rat) : q = (if false = true then -1 else 1) * (q * 2 ^ (0 : Int)) := by simp
  ⟨⟨false, 8388608, 0, by rfl, same _⟩, ⟨false, 0, _, by rfl, by simp⟩⟩

/-! ### ReductionsScansAndHistograms -/
theorem test_witness_ReductionsScansAndHistograms : State.reset.holds ⟨0, false⟩ = true ∧ vIsFloat .ui8 = false ∧
    VType.bf16 ∈ [VType.f32, .bf16] := by decide
theorem test_witness_ReductionsScansAndHistograms_values : fmtF32.value 0x7FC00000 = .nan ∧ fmtF32.value 0xFF800000 = .inf true ∧
    fmtF32.value 0x7F800000 = .inf false ∧ (fmtF32.value 0x3F800000).special = false ∧
    (fmtF32.value 0x3F000000).lt (fmtF32.value 0x3F800000) = true := by decide
theorem test_witness_ReductionsScansAndHistograms_zero : (fmtF32.value 0).Is 0 := ⟨false, 0, _, rfl, by simp⟩

/-! ### VectorScratchpadAccesses -/
theorem test_witness_VectorScratchpadAccesses : State.reset.holds ⟨0, false⟩ = true ∧ State.reset.ctx.ptrOwn 0 = true ∧
    State.reset.ctx.rankOk 0 = true ∧ ((0 : Int) + (BitVec.ofNat 12 1984).toInt) % 64 = 0 ∧
    (0 : Int) + (BitVec.ofNat 12 1984).toInt + 512 ≤ 4194304 := by decide
theorem test_witness_VectorScratchpadAccesses_sound : State.reset.sound (spadKey 0 1984) 512 ∧
    ∀ i, State.reset.sound (spadKey 0 i) 4 := by
  refine ⟨fun e h => ?_, fun i e h => ?_⟩ <;> cases h
/-- Every lane of a zero vector register lies at the pointer itself. -/
theorem test_witness_VectorScratchpadAccesses_lanes : State.reset.ctx.v = [] ∧ maskBit State.reset.top 127 = true := by decide

/-! ### VectorScratchpadFaults -/
/-- The reset state with s1 of core 0 set. -/
def withS1 (v : W64) : State := State.reset.setS 1 v
theorem test_witness_VectorScratchpadFaults : (withS1 0x80000000).holds ⟨0, false⟩ = true ∧ (withS1 0x80000000).cur.run ≠ .faulted ∧
    2 ^ 31 ≤ ((withS1 0x80000000).rs 1).toNat % 2 ^ 32 ∧ ((withS1 4).rs 1).toNat % 2 ^ 32 < 2 ^ 31 ∧
    ((((withS1 4).rs 1).toNat % 2 ^ 32 % 2 ^ 22 : Nat) + (0 : Int)) % 64 ≠ 0 ∧
    ((((withS1 0x3FFFC0).rs 1).toNat % 2 ^ 32 % 2 ^ 22 : Nat) + (0 : Int)) % 64 = 0 ∧
    4194304 < ((((withS1 0x3FFFC0).rs 1).toNat % 2 ^ 32 % 2 ^ 22 : Nat) + (0 : Int)) + 512 := by decide
/-- A team of two whose rank 1 pointer names a peer. -/
def withTwo : State := (withS1 0x40400000).modCsr fun c => { c with teamSize := 2 }
theorem test_witness_VectorScratchpadFaults_peer : withTwo.holds ⟨0, false⟩ = true ∧
    withTwo.ctx.ptrOwn ((withTwo.rs 1).toNat % 2 ^ 32) = false ∧ withTwo.ctx.rankOk ((withTwo.rs 1).toNat % 2 ^ 32) = true ∧
    ((withTwo.rs 1).toNat % 2 ^ 32) < 2 ^ 31 ∧ (withTwo.rs 1).toNat % 2 ^ 32 % 2 ^ 22 = 0 := by decide
/-- Lane 0 alone enabled: no two enabled lanes name one address, and its address may be misaligned or out of range. -/
theorem test_witness_VectorScratchpadFaults_lane : (withTwo.modCtx fun x => { x with masks := [1] }).top = 1 ∧
    (withS1 2).rs 1 = 2 ∧ (withS1 0x3FFFFE).rs 1 = 0x3FFFFE ∧
    (withS1 2).ctx.v = [] := by decide
theorem test_witness_VectorScratchpadFaults_lane_alone : ∀ i, i < 128 → maskBit 1 i = true → i = 0 := by
  intro i _ h
  rcases i with _ | i
  · rfl
  · simp [maskBit, BitVec.getLsbD_one] at h
theorem test_witness_VectorScratchpadFaults_rank : ((withS1 0x40400000).ctx.rankOk 0x40400000) = false := by decide

/-! ### LaneMoves -/
theorem test_witness_LaneMoves : State.reset.holds ⟨0, false⟩ = true ∧ VType.i16 ∈ [VType.i8, .ui8, .i16, .i32] ∧ 255 < 4096 / vWidth .i16 := by
  decide

/-! ### PairActsOnBothParts -/
theorem test_witness_PairActsOnBothParts : State.reset.holds ⟨0, false⟩ = true := by decide

/-! ### MatrixCommandsEnqueue -/
/-- The reset state with format words and promised scales on core 0. -/
def withWords (ws : List W32) (scales : Nat) : State := State.reset.modCur fun c => { c with fmt := ws, unbound := scales }
theorem test_witness_MatrixCommandsEnqueue : (withWords [0x11100000] 33).cur.em.q.length < 64 ∧ (withWords [0x11100000] 33).holds ⟨0, false⟩ = true ∧
    (withWords [0x11100000] 33).holds ⟨0, true⟩ = false ∧ (withWords [0x11100000] 33).cur.unbound = 33 * (0 + 1) ∧
    (withWords [0x11100000] 33).cur.fmt[0]? = some 0x11100000 ∧ (0x11100000#32).toNat / 2 ^ 28 ∈ [1, 2] := by decide
theorem test_witness_MatrixCommandsEnqueue_none : (withWords [] 0).cur.fmt[0]? = none ∧ (withWords [] 0).cur.run ≠ .faulted ∧
    (withWords [] 0).cur.fmt.length < 64 ∧ fwOk (((State.reset.setS 1 0x30000000).rs 1).truncate 32) = true := by decide
theorem test_witness_MatrixCommandsEnqueue_desync : (withWords [0x11100000] 1).cur.unbound < 33 * (0 + 1) ∧
    33 * (0 + 1) < (withWords [0x11100000] 34).cur.unbound ∧ (withWords [0x11100000] 34).holds ⟨0, false⟩ = true ∧
    (withWords [0x11100000] 34).cur.run ≠ .faulted ∧ (withWords [0x11100000] 34).cur.fmt[0]? = some 0x11100000 := by decide

/-! ### CopyCommandsEnqueue -/
/-- The reset state with an armed object at offset 0x100 of core 0, s1 = 64, and s2 a barrier operand that counts there. -/
def withObject : State := ((State.reset.setObj 0 0x100 (Obj.fresh 1 0)).setS 1 64).setS 2 0x0400000000000100
theorem test_witness_CopyCommandsEnqueue : withObject.holds ⟨0, false⟩ = true ∧ (withObject.cur.engine 3).q.length < 64 ∧
    (withObject.rs 1).toNat ≤ 4194304 ∧ withObject.ctx.ptrOwn ((withObject.rs 1).toNat % 2 ^ 32) = true ∧
    (withObject.rs 2).getLsbD 58 = true ∧ (withObject.rs 2).toNat / 2 ^ 32 % 2 ^ 26 = 0 ∧ (withObject.rs 2).toNat % 2 ^ 22 = 0x100 := by
  decide
theorem test_witness_CopyCommandsEnqueue_object : (withObject.obj 0 0x100).ok = true ∧ (withObject.obj 0 0x100).outb = 0 := by decide
theorem test_witness_CopyCommandsEnqueue_words : (BitVec.ofNat 64 (2 ^ 30 + 64)).toNat / 2 ^ 30 % 2 ^ 12 = 1 ∧
    (BitVec.ofNat 64 (2 ^ 30 + 64)).toNat % 2 ^ 17 = 64 ∧ 0 < State.reset.torus3.1 ∧ 4194304 < (BitVec.ofNat 64 4194305).toNat := by decide

/-! ### EngineCommandsBegin -/
/-- A core that runs in a team of one, with commands in the queue of M. -/
def withQueue (q : List Cmd) : State := (teamState (oneExtent 0 1) 0).modCur fun c => { c with em := { c.em with q := q } }
/-- ACCZ of tile 3, at address 8. -/
def acczCmd : Cmd :=
  { id := 1, pc := 8, op := .accz ⟨0, false⟩ 3 ⟨false, false, false, false, 0, 0⟩ false, a := 0, b := 0, c := 0, d := 0, begun := 0,
    nullified := false }
/-- ACCZ's iteration. -/
def acczIter : Iter :=
  { cmd := acczCmd, idx := 0, words := [], scales := [], joined := [], took := [], src := [], dst := [], rows := [], hand := none,
    reads := [], got := [], gotBad := [], moved := false, rest := [], desc := [], drew := none }
theorem test_witness_EngineCommandsBegin : acczCmd.begun ≤ (ectlOf acczCmd.op).rep ∧ (withQueue [acczCmd]).mayBegin 2 = true ∧
    (withQueue [acczCmd]).cur.pathFree acczCmd.op = true ∧ wordsOf acczCmd = 0 ∧ scalesOf acczCmd = 0 ∧
    (ectlOf acczCmd.op).wp = false ∧ (ectlOf acczCmd.op).wn = false := by decide
/-- The same core with one command in the queue of L or of S. -/
def withCopy (c : Cmd) : State := (withQueue []).modCur fun x => if isS c.op then { x with es := { x.es with q := [c] } } else { x with el := { x.el with q := [c] } }
  where isS (i : Instr) : Bool := match i with | .cppeer .. | .cpout .. | .cpscat .. | .cpmc .. | .cpmem .. => true | _ => false
/-- CQFILL of two entries at offset 0x40, and CPPEER of 16 bytes from there to offset 0x200. -/
def cqfillCmd : Cmd := { acczCmd with op := .cqfill ⟨0, false⟩ 1 2 ⟨false, false, false, false, 0, 0⟩, a := 0x40, b := 2 }
def cppeerCmd : Cmd := { acczCmd with op := .cppeer ⟨0, false⟩ 1 2 3 0 ⟨false, false, false, false, 0, 0⟩, a := 0x40, b := 16, d := 0x200 }
theorem test_witness_EngineCommandsBegin_copies : (withCopy cqfillCmd).mayBegin 1 = true ∧ (withCopy cqfillCmd).cur.el.q = [cqfillCmd] ∧
    (withCopy cqfillCmd).cur.counts.length + 2 ≤ 64 ∧ (withCopy cppeerCmd).mayBegin 3 = true ∧ (withCopy cppeerCmd).cur.es.q = [cppeerCmd] ∧
    (withCopy cppeerCmd).srcReady 3 { acczIter with cmd := cppeerCmd } = true ∧ (withCopy cppeerCmd).ctx.rankOk 0x200 = true ∧
    (withCopy cppeerCmd).ctx.ptrOwn 0x200 = true := by decide
theorem test_witness_EngineCommandsBegin_sound : (withCopy cqfillCmd).sound (spadKey (withCopy cqfillCmd).core 0x40) 16 := by intro e h; cases h

/-! ### MatrixIterationsComplete -/
/-- A core on whose multiply array an iteration is under way. -/
def withIter (it : Iter) : State :=
  let s := (withQueue []).modCur fun c => { c with em := { c.em with run := some it } }
  { s with args := [2] }
theorem test_witness_MatrixIterationsComplete : acczIter.cmd.nullified = false ∧ (withIter acczIter).cur.replay = 0 ∧
    (withIter acczIter).args.headD 0 = 2 ∧ (withIter acczIter).cur.em.run = some acczIter ∧
    (withIter acczIter).cur.mat.planTile 3 = false := by decide
theorem test_witness_MatrixIterationsComplete_operand : (withIter acczIter).ctx.ptrOwn 0 = true ∧ (4177920 : Int) % 64 = 0 ∧
    (withIter acczIter).sound (spadKey 0 4177920) 16384 ∧ (0x28000000#32).toNat / 2 ^ 28 = 2 ∧ (0x28000000#32).getLsbD 25 = false := by
  refine ⟨by decide, by decide, fun e h => ?_, by decide, by decide⟩; cases h
/-- An MM under a BF16 word, and an MGROUP of one group of one row, its plane at 0x8000, its table at 0x400. -/
def mmIter : Iter := { acczIter with cmd := { acczCmd with op := .mm ⟨0, false⟩ 1 1 false ⟨false, false, false, false, 0, 0⟩ false }, words := [0x11100000] }
def groupIter : Iter :=
  { acczIter with cmd := { acczCmd with op := .mgroup ⟨0, false⟩ 1 1 2 3 ⟨false, false, false, false, 0, 0⟩ false, a := 0x1000, b := 0x400, c := 1 }
                  words := [0x12200000] }
def grouping : State := (withIter groupIter).writeN (spadKey 0 0x400) 16 (2 ^ 64 + 0x8000)
theorem test_witness_MatrixIterationsComplete_float : (0x11100000#32).toNat / 2 ^ 28 = 1 ∧ atBytes 0x11100000 = 2 ∧ scalesBad mmIter.scales = none ∧
    planeBad (withIter mmIter).cur.mat.badA 0x11100000 = false ∧ (withIter mmIter).cur.mat.badM = false ∧
    (withIter mmIter).cur.mat.planTile 1 = false ∧ (withIter mmIter).ctx.ptrOwn 0 = true := by decide
theorem test_witness_MatrixIterationsComplete_group : grouping.cur.em.run = some groupIter ∧ grouping.cur.mat.planTile 1 = false ∧
    scalesBad groupIter.scales = none ∧ grouping.readN (spadKey 0 0x400 + 8) 1 = 1 ∧ grouping.readN (spadKey 0 0x400 + 9) 1 = 0 ∧
    grouping.readN (spadKey 0 0x400 + 10) 6 = 0 ∧ grouping.readN (spadKey 0 0x400) 8 = 0x8000 ∧ grouping.marks = [] ∧
    16384 * wtBytes 0x12200000 + 0x8000 ≤ 4194304 ∧ grouping.ctx.ptrOwn 0x8000 = true := by decide
/-- An ACCWR of one row as it stands, and of one under a scale, a shift and a zero point. -/
def drainIter (d : List Byte) : Iter :=
  { acczIter with cmd := { acczCmd with op := .accwr ⟨0, false⟩ 1 1 2 ⟨false, false, false, false, 0, 0⟩ false, b := 0x400 }, desc := d }
def rawDesc : List Byte := toLE 64 (0x10000 + 64 * 2 ^ 32)
def quantDesc : List Byte := toLE 64 (0x04010804 + 64 * 2 ^ 32 + 0x1000 * 2 ^ 64 + 0x1200 * 2 ^ 96)
theorem test_witness_MatrixIterationsComplete_drain : rawDesc.length = 64 ∧ leField rawDesc 2 1 = 1 ∧ leField rawDesc 4 4 = 64 ∧
    leField rawDesc 16 48 = 0 ∧ otypeOf (leField rawDesc 0 1) = some .f32 ∧ leField rawDesc 1 1 = 0 ∧ leField rawDesc 8 4 = 0 ∧
    otypeOf (leField quantDesc 0 1) = some .i8 ∧ leField quantDesc 1 1 = 8 ∧ leField quantDesc 2 1 = 1 ∧ leField quantDesc 3 1 = 4 ∧
    leField quantDesc 8 4 = 0x1000 ∧ leField quantDesc 12 4 = 0x1200 ∧ (withIter (drainIter rawDesc)).cur.em.pathWaits 2 = false := by decide
/-- A configured plan in group 0, with a plan word for one BALANCE sweep of tolerance 0. -/
def planning : State := (withIter acczIter).modCur fun c => { c with mat := { c.mat with plan := some ⟨0, [], [], [], [], 0, 0⟩ } }
theorem test_witness_MatrixIterationsComplete_plan : planning.cur.mat.plan = some ⟨0, [], [], [], [], 0, 0⟩ ∧ planning.cur.mat.planTile 1 = true ∧
    (0x30000000#32).toNat / 2 ^ 12 % 2 ^ 16 = 0 ∧ (0x301FF000#32).toNat / 2 ^ 20 % 2 ^ 8 = 1 ∧ (0x301FF000#32).toNat / 2 ^ 12 % 2 ^ 8 = 255 ∧
    planning.readN (spadKey 0 0x1000) 4 ≤ 0x7F7FFFFF ∧ planning.readN (spadKey 0 (0x1000 + 4 * 4095)) 4 % 2 ^ 31 ≤ 0x4E800000 ∧
    planning.cur.em.pathWaits 2 = false ∧ (∀ x ∈ planning.cur.mat.badTiles, x / 4 ≠ 0) := by decide

/-! ### CopyIterationsCompleteAndReplay -/
/-- CPFILL of 16 bytes at offset 0x200. -/
def fillCmd : Cmd :=
  { id := 1, pc := 8, op := .cpfill ⟨0, false⟩ 1 2 3 0 ⟨false, false, false, false, 0, 0⟩, a := 0x0102030405060708, b := 16, c := 0,
    d := 0x200, begun := 0, nullified := false }
/-- CPFILL's iteration. -/
def fillIter : Iter := { acczIter with cmd := fillCmd }
theorem test_witness_CopyIterationsComplete : fillCmd.nullified = false ∧ fillIter.reads = [] ∧ fillCmd.c.getLsbD 59 = false ∧
    fillCmd.c.getLsbD 58 = false ∧ ((fillCmd.d.toNat % 2 ^ 22 : Nat) : Int) + (16 : Int) ≤ 4194304 := by decide
/-- A replay of a window whose only iteration is an ACCZ with TS = 1. -/
def withReplay : State := (withIter acczIter).modCur fun c => { c with replay := 2, win := some ⟨c.mat, [acczIter]⟩ }
theorem test_witness_Replay : withReplay.cur.replay ≠ 0 ∧ withReplay.cur.em.onPath withReplay.cur.replay = some acczIter ∧
    withReplay.cur.win = some ⟨withReplay.cur.mat, [acczIter]⟩ := by decide
/-- A core with an iteration of L or of S under way; a part of an access to this node or another. -/
def onCopy (e : Nat) (it : Iter) : State :=
  { ((withIter it).modCur fun c => if e = 1 then { c with el := { c.el with run := some it } } else { c with es := { c.es with run := some it } }) with args := [e] }
def partAt (va len node : Nat) : Piece := ⟨va, len, node, va, 0, false, false, false, false, false⟩
/-- CPIN of 20 bytes, four of them another node's; CPIN.SCL of the same; CPGATH of rows 0 and 2 of 8 bytes. -/
def cpinIter (i : Instr) (b : W64) : Iter :=
  { acczIter with cmd := { acczCmd with op := i, b := b, d := 0x203 }, src := [partAt 0x40000 16 0, partAt 0x90000 4 1], got := [(0x90000, 0xAA)], rows := [0, 2] }
theorem test_witness_CopyIterations_in (i : Instr) (b : W64) (h : i = .cpin ⟨0, false⟩ 1 2 3 0 ⟨false, false, false, false, 0, 0⟩ ∧ b = 20 ∨
    i = .cpinScl ⟨0, false⟩ 2 3 ⟨false, false, false, false, 0, 0⟩ ∧ b = 20 ∨
    i = .cpgath ⟨0, false⟩ 1 2 3 0 ⟨false, false, false, false, 0, 0⟩ ∧ b = 0xC000000A) :
    let s := onCopy 1 (cpinIter i b)
    s.cur.el.run = some (cpinIter i b) ∧ s.srcReady 1 (cpinIter i b) = true ∧ s.args.headD 0 = 1 ∧ (s.srcBytes (cpinIter i b)).length = 20 ∧
      s.marks = [] ∧ s.msys.flights = [] := by
  obtain ⟨rfl, rfl⟩ | ⟨rfl, rfl⟩ | ⟨rfl, rfl⟩ := h <;> decide
/-- CPOUT, CPSCAT or CPMEM of 16 bytes to a part of this node or of another, and CPMC of 16 bytes to the box of this node. -/
def cpoutIter (i : Instr) (b : W64) (node : Nat) : Iter :=
  { acczIter with cmd := { acczCmd with op := i, a := 0x40, b := b, d := 0x50000 }, src := [partAt 0x40000 16 0], dst := [partAt 0x50000 16 node], rows := [0, 2] }
theorem test_witness_CopyIterations_out (i : Instr) (b : W64) (node : Nat) (hn : node = 0 ∨ node = 1)
    (h : i = .cpout ⟨0, false⟩ 1 2 3 0 ⟨false, false, false, false, 0, 0⟩ ∧ b = 16 ∨
    i = .cpscat ⟨0, false⟩ 1 2 3 0 ⟨false, false, false, false, 0, 0⟩ ∧ b = 0xC0000008 ∨
    i = .cpmem ⟨0, false⟩ 1 2 3 0 ⟨false, false, false, false, 0, 0⟩ ∧ b = 16 ∨
    i = .cpmc ⟨0, false⟩ 1 2 3 0 ⟨false, false, false, false, 0, 0⟩ ∧ b = 16) :
    let s := onCopy 3 (cpoutIter i b node)
    s.cur.es.run = some (cpoutIter i b node) ∧ s.srcReady 3 (cpoutIter i b node) = true ∧ s.args.headD 0 = 3 ∧
      (s.srcBytes (cpoutIter i b node)).length = 16 ∧ ((cpoutIter i b node).dst.map (·.len)).sum = 16 ∧ s.mg.node.toNat = 0 ∧
      s.marks = [] ∧ s.msys.flights = [] := by
  obtain rfl | rfl := hn <;> obtain ⟨rfl, rfl⟩ | ⟨rfl, rfl⟩ | ⟨rfl, rfl⟩ | ⟨rfl, rfl⟩ := h <;> decide
theorem test_witness_CopyIterations_source : ((withIter fillIter).modCur fun c => { c with el := { c.el with run := some fillIter } }).srcReady 1 fillIter =
    true ∧ (withIter fillIter).msys.flights = [] := by decide

/-! ### FencesAndDrainsWait -/
/-- Core 0 running with a wait, and with one write to die 0 outstanding when told so. -/
def waiting (w : Wait) (busy : Bool) : State :=
  let outw : List OutW := if busy then [⟨⟨1, 0, 0, .die 0, false, false, false, 0, 8, 0, false⟩, none⟩] else []
  (teamState (oneExtent 0 1) 0).modCur fun c => { c with wait := w, outw := outw }
theorem test_witness_FencesAndDrainsWait : (waiting .none false).holds ⟨0, false⟩ = true ∧ (waiting .none false).cur.pend = [] ∧
    (waiting .none false).cur.outw = [] ∧ (waiting .none false).cur.failed = [] ∧ (waiting .none false).cur.em.q = [] := by decide
theorem test_witness_FencesAndDrainsWait_waits : (waiting .none true).cur.outw = [⟨⟨1, 0, 0, .die 0, false, false, false, 0, 8, 0, false⟩, none⟩] ∧
    (waiting .none true).cur.prior 0 = true ∧ (waiting .none true).inScope 2 0 (.die 0) = true ∧
    (waiting (.flush 2) false).cur.run = .running ∧ (waiting (.flush 2) false).cur.wait = .flush 2 ∧
    (waiting (.flush 2) false).csr.timed = false ∧ (waiting (.amoAcq 2 7) false).cur.pend = [] := by decide

/-! ### TokensAndCounts -/
/-- Core 0 with tokens in a channel. -/
def withTokens (ch : Nat) (ts : List (List Nat)) : State := (teamState (oneExtent 0 1) 5).modCtx fun x => x.setChannel ch ts
theorem test_witness_TokensAndCounts : (withTokens 4 [[1]]).holds ⟨0, false⟩ = true ∧ (withTokens 4 [[1]]).cur.el.sigs = [] ∧
    (withTokens 4 [[1]]).cur.em.sigs = [] ∧ (withTokens 4 [[1]]).cur.es.sigs = [] ∧ (withTokens 4 [[1]]).ctx.channel 4 ≠ [] ∧
    (withTokens 4 [[1]]).cur.wait = .none ∧ ((withTokens 4 [[1]]).ctx.channel 0).length < 15 ∧ (withTokens 4 [[1]]).ctx.channel 3 = [] ∧
    15 ≤ ((withTokens 0 (List.replicate 15 [])).ctx.channel 0).length := by decide
theorem test_witness_TokensAndCounts_counts : (withTokens 0 []).cur.counts.length < 64 ∧ (withTokens 0 []).cur.run ≠ .faulted ∧
    64 ≤ ((withTokens 0 []).modCur fun c => { c with counts := List.replicate 64 (0, none) }).cur.counts.length := by decide
theorem test_witness_TokensAndCounts_team : ((withTokens 0 []).modCsr fun c => { c with timed := true }).csr.timed = true ∧
    ((withTokens 0 []).modCsr fun c => { c with timed := true }).myTeam = some (oneTeam [oneExtent 0 1]) ∧
    (oneTeam [oneExtent 0 1]).cores.head? = some 0 ∧ (withTokens 0 []).cur.settled = none ∧ (withTokens 0 []).cur.awaits [1] = false := by decide

/-! ### AtomicsReadModifyWrite -/
/-- A 64-bit addition of 3 to physical address 0x2FF8, outstanding and named 7. -/
def addPend : Pend := ⟨⟨7, 0, 0, .die 0, false, true, false, 0x2FF8, 8, 0x1FF8, false⟩, .atomic 1 8 false 3 0 2, false, none⟩
theorem test_witness_AtomicsReadModifyWrite : (teamState (oneExtent 0 1) 0x1FF8).xlate .atomic 0x1FF8 8 =
      .ok [⟨0x1FF8, 8, 0, 0x2FF8, 1, false, false, false, false, false⟩] ∧
    ((teamState (oneExtent 0 1) 0x1FF8).rs 1 + (0 : BitVec 12).signExtend 64).toNat % awSize .i64 = 0 ∧
    (teamState (oneExtent 0 1) 0x1FF8).cur.mayIssue ((teamState (oneExtent 0 1) 0x1FF8).accOf 1 0 0
      ⟨0x1FF8, 8, 0, 0x2FF8, 1, false, false, false, false, false⟩) = true ∧
    (teamState (oneExtent 0 1) 0x1FF8).relDone 3 true = true := by decide
/-- Core 0 with that atomic outstanding. -/
def withAtomic : State :=
  let s := (teamState (oneExtent 0 1) 0).modCur fun c => { c with pend := [addPend] }
  { s with args := [7] }
theorem test_witness_AtomicsReadModifyWrite_return : withAtomic.cur.pend = [addPend] ∧ withAtomic.cur.outw = [] ∧ withAtomic.cur.wait = .none ∧
    withAtomic.moving withAtomic.myAsid 0x1FF8 = false ∧ (withAtomic.die 0).parked = [] := by decide
theorem test_witness_AtomicsReadModifyWrite_sound : withAtomic.sound (64 * (0x2FF8 / 64)) 64 := by intro e h; cases h
theorem test_witness_AtomicsReadModifyWrite_poison : (3 : Nat) = 3 ∧ 8 * (0x2FF8 / 64) ≤ 0x2FF8 / 8 ∧ 0x2FF8 / 8 < 8 * (0x2FF8 / 64) + 8 ∧
    (0x2FF8 / 8, 3) ∈ ({ withAtomic with marks := [(0x2FF8 / 8, 3)] } : State).marks ∧
    0x2FF8 / 64 ∈ ((withAtomic.modDie 0 fun d => { d with stuck := [0x2FF8 / 64] }).die 0).stuck := by decide

/-! ### BarrierInstructionsAct -/
/-- Core 0 of a team of one, with an object at offset 0x100 and s1 pointing to it. -/
def withObj (o : Obj) : State := (teamState (oneExtent 0 1) 0x100).setObj 0 0x100 o
theorem test_witness_BarrierInstructionsAct : (withObj (Obj.fresh 2 3)).holds ⟨0, false⟩ = true ∧ (withObj (Obj.fresh 2 3)).ctx.ptrOwn 0x100 = true ∧
    (withObj (Obj.fresh 2 3)).ctx.rankOk 0x100 = true ∧ (withObj (Obj.fresh 2 3)).cur.wait = .none ∧
    (withObj (Obj.fresh 2 3)).rs 1 = 0x100 ∧ (withObj (Obj.fresh 2 3)).ctx.heldFor 0x100 = 0 := by decide
theorem test_witness_BarrierInstructionsAct_object : ((withObj (Obj.fresh 2 3)).obj 0 0x100) = Obj.fresh 2 3 ∧ (Obj.fresh 2 3).ok = true ∧
    (Obj.fresh 2 3).outb = 0 ∧ (Obj.fresh 2 3).pend = 2 ∧ (16 + (Obj.fresh 2 3).gen - 0) % 16 = 3 ∧
    ((withObj { Obj.fresh 2 3 with armed := false }).obj 0 0x100).ok = false := by decide
theorem test_witness_BarrierInstructionsAct_sound (o : Obj) (h : (withObj o).marks = []) : (withObj o).sound (spadKey 0 0x100) 16 := by
  intro e he; rw [h] at he; cases he
theorem test_witness_BarrierInstructionsAct_last : ((withObj (Obj.fresh 1 3)).obj 0 0x100).pend = 1 ∧ ((withObj (Obj.fresh 1 3)).obj 0 0x100).inb = 0 ∧
    ((withObj { Obj.fresh 1 3 with inb := -8 }).obj 0 0x100).inb ≠ 0 ∧ ((withObj { Obj.fresh 1 3 with inb := -8 }).obj 0 0x100).pend = 1 := by decide
theorem test_witness_BarrierInstructionsAct_place : (withObj (Obj.fresh 2 3)).place 1 0 = .here 0 ∧ (withObj (Obj.fresh 2 3)).marks = [] ∧
    (withObj (Obj.fresh 2 3)).relDone 3 true = true ∧ (withObj (Obj.fresh 2 3)).csr.timed = false ∧
    ((withObj { Obj.fresh 2 3 with rsv := 1 }).obj 0 0x100).rsv = 1 ∧ ((withObj (Obj.fresh 2 3)).getCore 0).act.early.length < 16 := by decide

/-! ### QueuesSemaphoresAndCapacity -/
/-- The example of R187: entry 2 of pipeline 0 with LOAD 37 and EWMA 128, CAPALPHA 2, CAPFACTOR 384, CAPMIN 64, CAPMAX 4,096 and NEXP 4. -/
def withCapacity : State :=
  let s := teamState (oneExtent 0 1) 2
  ((((((s.setMg (pipeAt 0 0 + 1) 1 2).setMg (pipeAt 0 0 + 4) 2 4).setMg (pipeAt 0 0 + 6) 2 384).setMg (pipeAt 0 0 + 8) 4 64).setMg
    (pipeAt 0 0 + 12) 4 4096).setMg (capAt 0 0 2) 4 37).setMg (capAt 0 0 2 + 4) 4 128
theorem test_witness_QueuesSemaphoresAndCapacity : withCapacity.holds ⟨0, false⟩ = true ∧ withCapacity.nexp = 4 ∧ withCapacity.cur.pend = [] ∧
    (withCapacity.rs 1).toNat < withCapacity.nexp ∧ withCapacity.nexp ≤ ((withCapacity.setS 1 4).rs 1).toNat := by decide
theorem test_witness_QueuesSemaphoresAndCapacity_waits : (waiting (.semsig 3 1 3) false).relDone 3 true = true ∧
    (waiting (.semsig 3 1 3) false).cur.run = .running ∧ (waiting (.semsig 3 1 3) false).csr.timed = false ∧
    (waiting (.semsig 3 1 3) false).marks = [] ∧ (waiting (.semsig 3 1 3) false).cur.wait = .semsig 3 1 3 := by decide
theorem test_witness_QueuesSemaphoresAndCapacity_get :
    (withCapacity.modCur fun c => { c with pend := [⟨⟨9, 0, 0, .hub, false, false, true, 0, 0, 0, false⟩, .cap 2 1, false, none⟩] }).cur.wait =
      .none := by decide

/-! ### PebbleInjectionAndWindowWords -/
theorem test_witness_PebbleInjection : (withS1 0x1000).holds ⟨0, false⟩ = true ∧
    (withS1 0x1000).ctx.ptrOwn (((withS1 0x1000).rs 1).toNat % 2 ^ 32) = true ∧
    ((withS1 0x1000).rs 1).toNat % 2 ^ 22 + 64 * (3 + (32 + 7) / 8) ≤ 4194304 ∧ ((withS1 0x1000).rs 1).toNat % 64 = 0 ∧
    (withS1 0x1000).sound (spadKey 0 0x1000) 448 := by
  refine ⟨by decide, by decide, by decide, by decide, fun e h => ?_⟩; cases h
/-- Tenant entry 0 of partition 0 for tenant 5, and s1 naming offset 8 of its window. -/
def withTenant : State := (withS1 0x50008).setMg (tenAt 0) 8 (5 + 2 ^ 21 + 0xFFFF * 2 ^ 32)
theorem test_witness_WindowWords : withTenant.holds ⟨0, false⟩ = true ∧
    withTenant.tenantEntry ((withTenant.rs 1).toNat / 2 ^ 16 % 2 ^ 16) = some 0 ∧
    tenPart (withTenant.tenWord 0) = withTenant.csr.part.toNat ∧ (withTenant.rs 1).toNat % 2 ^ 16 = 8 ∧
    withTenant.cur.pend = [] ∧ withTenant.cur.outw = [] ∧ withTenant.cur.run ≠ .faulted := by decide
/-- An image of a pebble of tenant 5 with an empty list, at offset 0x1000. -/
def withImage : State :=
  (withTenant.setS 1 0x1000).writeN (spadKey 0 (0x1000 + 16)) 16
    (endTurns * 2 ^ 64 + 0xA * 2 ^ 60 + 2 * 2 ^ 58 + 2 * 2 ^ 49 + 5 * 2 ^ 16 + 4 * 2 ^ 32)
theorem test_witness_PebbleInjection_image :
    let pl := withImage.readN (spadKey 0 0x1010) 16 / 2 ^ 40 % 2 ^ 6
    pl ≤ 32 ∧ (withImage.rs 1).toNat = 0x1000 ∧ withImage.readN (spadKey 0 0x1010) 16 / 2 ^ 16 % 2 ^ 16 = 5 := by decide

/-! ### PebbleOperationsOnTheStack -/
/-- A pebble of tenant 5 with two stack entries, 3 under 9, a hop budget of 4 and its list ended. -/
def pebble : Packet :=
  let h : Packet := { head := 0, flits := [0, 0] }
  let q := ((h.setF 127 0 (endTurns * 2 ^ 64 + 0xA * 2 ^ 60 + 2 * 2 ^ 58 + 2 * 2 ^ 49)).setPb 31 16 5).setPb 39 32 4
  (q.push 3).push 9
/-- Its visit at tenant entry 0, whose mask grants everything, in engine 0. -/
def visit : Visit := ⟨pebble, 6, 0, 2, 1⟩
/-- The reset state with that tenant bound and that visit under way. -/
def visiting (v : Visit) : State :=
  let s := State.reset.setMg (tenAt 0) 8 (5 + 2 ^ 21 + 0xFFFF * 2 ^ 32)
  { s with router := { s.router with visits := [(0, some v)] } }
theorem test_witness_PebbleOperations : (visiting visit).visit = some visit ∧ visit.pc < 15 ∧ 2 ≤ visit.pkt.flits.length ∧
    visit.pkt.depth ≤ 7 ∧ visit.pkt.stack = [] ++ [3, 9] ∧ visit.pkt.stack = [3] ++ [9] := by decide
theorem test_witness_PebbleOperations_mask : permits (tenMask ((visiting visit).tenWord 0)) 5 = true ∧
    permits (tenMask ((visiting visit).tenWord 0)) 7 = true ∧ permits (tenMask ((visiting visit).tenWord 0)) 8 = true := by decide
theorem test_witness_PebbleOperations_sound (k n : Nat) (h : (visiting visit).marks = []) : (visiting visit).sound k n := by
  intro e he; rw [h] at he; cases he
theorem test_witness_PebbleOperations_window : (visiting visit).marks = [] ∧ (16#64).toNat % 8 = 0 ∧ (16#64).toNat < 65536 ∧
    (0 : Int) ≤ (2 : Int) + (BitVec.ofNat 11 2046).toInt ∧ (2 : Int) + (BitVec.ofNat 11 2046).toInt ≤ 15 := by decide

/-! ### PebbleVisitsEnd -/
theorem test_witness_PebbleVisitsEnd : visit.pkt.depth ≤ 8 ∧ ((visiting visit).router.parks.filter fun k => k.entry == 0).length < 1024 ∧ (visiting { visit with steps := 32 }).visit =
    some { visit with steps := 32 } ∧ (visiting visit).router.outq = [] ∧ fanout (tenMask ((visiting visit).tenWord 0)) = 6 ∧
    (visiting visit).portUp 0 = false := by decide
/-- The same with every port up in a torus of two nodes in X. -/
def linked : State :=
  let s := visiting visit
  { s with mg := { s.mg with modstatus := BitVec.ofNat 32 (0x3F * 2 ^ 20), torus := 2 * 2 ^ 16 + 2 ^ 8 + 1 } }
theorem test_witness_PebbleVisitsEnd_exits : linked.visit = some visit ∧ (∀ d ∈ dirsOf 3, linked.exitCode pebble d = none) ∧
    (∀ d ∈ dirsOf 3, linked.hasCredits d (linked.exited pebble d) = true) ∧ (dirsOf 3).length = 2 ∧ pebble.depth ≤ 8 := by decide
/-- A pebble that waits at port 2, and one whose exit is down. -/
def arrived : State :=
  let s := visiting visit
  { s with args := [1, 0], router := { s.router with arrivals := [⟨pebble, 2, none, 0, 0⟩] } }
theorem test_witness_PebbleVisitsEnd_arrives : arrived.router.arrivals = [⟨pebble, 2, none, 0, 0⟩] ∧ pebble.isPebble = true ∧
    pebble.pebbleBad = false ∧ arrived.lost = false ∧ arrived.tenantEntry pebble.tenant = some 0 ∧ Tab.get none arrived.router.visits 1 = none := by decide
/-- A pebble for rank 0 of team 1 that carries one slot to offset 0x80. -/
def delivering : Visit := { visit with pkt := ((pebble.setPb 127 96 1).setPb 87 69 16).setPb 7 5 1 }
theorem test_witness_PebbleVisitsEnd_deliver : delivering.pkt.pb 127 96 = 1 ∧ delivering.pkt.pb 95 88 = 0 ∧ delivering.pkt.pb 46 46 = 0 ∧
    delivering.pkt.delivery.length = 8 ∧ 8 * delivering.pkt.pb 87 69 = 0x80 := by decide
theorem test_witness_PebbleVisitsEnd_place : FreePlace arrived 0 0 := by
  refine ⟨by decide, fun k h => ?_, fun j h => by omega⟩
  cases h

/-! ### PolicyArithmetic -/
/-- Partition 0, ACTIVE, in an invocation for a DISPATCH of stage 5, with 7 in g2 and 3 in m4, in a loop over words 2 to 9. -/
def invoked : State := State.reset.modPart 0 fun x =>
  { x with pstate := 2, inv := some ⟨1, 1, 5, 0⟩, g := [(2, 7)], m := [(4, 3)], pc := 3, used := 10, loops := [⟨2, 9, 4, 1, 7⟩] }
theorem test_witness_PolicyArithmetic : (invoked.getPart invoked.pol).inv.isSome = true ∧ (invoked.getPart invoked.pol).used + 2 ≤ 2048 := by
  decide

/-! ### PolicyMemoryAndControl -/
theorem test_witness_PolicyMemory : (invoked.getPart invoked.pol).inv.isSome = true ∧ (invoked.getPart invoked.pol).used + 131 ≤ 2048 ∧
    colSize 0x20 = some 4096 ∧ colSize 0x0D = none ∧ ((invoked.getPart invoked.pol).rg 2).toNat = 7 ∧ 7 + 2047 < 4096 ∧
    (invoked.getPart invoked.pol).pc + 252 ≤ 255 := by decide
theorem test_witness_PolicyMemory_argmax (i : Nat) (_ : 7 ≤ i) (_ : i ≤ 7 + 2047) :
    (Tab.get 0 (invoked.getPart invoked.pol).snap (4096 * 0x20 + i)).toNat ≤
      (Tab.get 0 (invoked.getPart invoked.pol).snap (4096 * 0x20 + 7)).toNat := Nat.le_refl 0
/-- The same at its ENDL. -/
def atEndl : State := invoked.modPart 0 fun x => { x with pc := 9 }
theorem test_witness_PolicyMemory_endl : (atEndl.getPart atEndl.pol).loops = [⟨2, 9, 4, 1, 7⟩] ∧ (atEndl.getPart atEndl.pol).pc = 9 := by decide

/-! ### PolicyDecisionsAndEnds -/
theorem test_witness_PolicyDecisions : (invoked.getPart invoked.pol).inv.isSome = true ∧ (invoked.getPart invoked.pol).used + 2 ≤ 2048 ∧
    (invoked.getPart invoked.pol).decs.length < 32 ∧ ((invoked.getPart invoked.pol).rg 2).toNat ≤ 256 := by decide
/-- An invocation that has used 2,047 cycles and stands at MUL g1, g2, g3. -/
def spent : State := invoked.modPart 0 fun x => { x with used := 2047, act := [(3, 0x48480003)] }
theorem test_witness_PolicyBudget : (spent.getPart spent.pol).opAt = some (.slateMul 1 2 3) ∧
    2048 < (spent.getPart spent.pol).used + slateCost (.slateMul 1 2 3) := by decide

/-! ### PolicyEvents -/
/-- A module in READY whose partition 0 is ACTIVE with a policy, a waiting one and a pending event. -/
def policed (swap : Bool) : State :=
  let s := State.reset.modPart 0 fun x => { x with pstate := 2, act := [(0, 0x34000000)], events := [⟨1, 1, 5, 0⟩], swapPend := swap }
  { s with mg := { s.mg with modstatus := 0x80000009 }, now := 100000 }
theorem test_witness_PolicyEvents : (policed false).ready = true ∧ ((policed false).getPart (policed false).pol).pstate = 2 ∧
    (policed false).retirable 0 = false ∧ ((policed false).getPart 0).events = [⟨1, 1, 5, 0⟩] ∧ ((policed false).getPart 0).act ≠ [] ∧
    ((policed false).getPart 0).lastTick + 100000 ≤ (policed false).now := by decide
theorem test_witness_PolicyEvents_swap : (policed true).ready = true ∧ ((policed true).getPart (policed true).pol).pstate = 2 ∧
    ((policed true).getPart 0).inv = none ∧ ((policed true).getPart 0).swapPend = true := by decide

/-! ### SchedulerEvents -/
/-- A team of one strand on core 5 for pipeline 0 and stage 0 of partition 0. -/
def soleTeam (phase : Phase) : Team :=
  { id := 1, part := 0, pipe := 0, stage := 0, asid := 0, n := 1, record := zeros 64, cores := [5], timed := false, grouped := false
    image := false, phase := phase, exts := [], pset := [], saved := [], exitedRanks := [], logs := [[]], area := 0, notDies := [], sched := 0
    preempts := 0, started := 0, since := 0, quantumTold := false, entry := 0, waiting := [], areaAt := 0, stop := none, wire := false, beat := 0 }
/-- The reset state in which partition 0 is ACTIVE with that team, its core in a state of its own. -/
def teamed (phase : Phase) (run : Run) : State :=
  let s := (State.reset.modPart 0 fun x => { x with pstate := 2 }).modCore 5 fun c =>
    { c with run := run, act := { c.act with csr := { c.act.csr with teamId := 1, code := 4 } } }
  { s with teams := [soleTeam phase], args := [1, 0], mg := { s.mg with modstatus := 0x80000000 } }
theorem test_witness_SchedulerEvents : (teamed .starting .setUp).team 1 = some (soleTeam .starting) ∧
    (∀ c ∈ ((soleTeam .starting).cores[0]?).toList, ((teamed .starting .setUp).getCore c).run = .setUp) ∧
    (∀ c ∈ (soleTeam .running).cores, ((teamed .running .exited).getCore c).run = .exited) ∧
    (∀ c ∈ (soleTeam .stopping).cores, ((teamed .stopping .stopped).getCore c).wait = .none ∧
      ((teamed .stopping .stopped).getCore c).pend = [] ∧ ((teamed .stopping .stopped).getCore c).em.run = none) ∧
    (soleTeam .restoring).n = (soleTeam .restoring).cores.length ∧ (soleTeam .restoring).cores.Nodup := by decide
theorem test_witness_SchedulerEvents_fault : ((teamed .running .faulted).getCore 5).run = .faulted ∧
    (teamed .running .faulted).team ((teamed .running .faulted).getCore 5).act.csr.teamId.toNat = some (soleTeam .running) ∧
    ((teamed .running .faulted).getPart 0).slots = [] ∧ ((teamed .running .faulted).getPart 0).pstate = 2 := by decide
/-- The same with a quantum of 1 µs for the stage, 5 µs on. -/
def quantumOver : State := { ((teamed .running .running).setMg (stageAt 0 0 0 + 20) 4 1) with now := 5000 }
theorem test_witness_SchedulerEvents_quantum : quantumOver.readN (mgKey (stageAt 0 0 0 + 20)) 4 = 1 ∧
    quantumOver.team 1 = some (soleTeam .running) := by decide
/-- s with HBM group 0 held by partition 0, and the first 512 MiB of address space 0 of it mapped to the first of HBM, readable and writable. -/
def mapped (s : State) : State :=
  ((({ s with mg := { s.mg with owners := [(1000, 1)] } } : State).setMg 0x20000000 8 0x10001).writeN 0x10000 8 0x20001).writeN 0x20000 8 7
/-- Pipeline 0 of partition 0 on, stage 0 declared with host-fed input queue 0 at 0x40000, and one record in it that has no rows, carries
SKIP_IF_ZERO and adds 3 to semaphore 2. -/
def withHead : State :=
  let s := ((mapped (teamed .running .running)).setMg (pipeAt 0 0) 1 1).setMg (stageAt 0 0 0 + 8) 8 0xFFFFFFFF00000004
  let s := ((s.setMg (queueAt 0 0 0) 8 0x40000).setMg (queueAt 0 0 0 + 16) 4 1).writeN 0x40008 8 0x100030200
  { s with args := [0, 0] }
theorem test_witness_SchedulerEvents_queue : withHead.ready = true ∧ withHead.pipeOn 0 0 = true ∧ withHead.stTeam 0 0 0 = 4 ∧
    (match withHead.headOf 0 0 0 with
      | some (.ok r) => recRows r == 0 && recSkip r && recSigAdd r == 3 && withHead.semOk 0 0 r
      | _ => false) = true := by decide
/-- The same with a record that has no rows and does not carry SKIP_IF_ZERO, and the running team faulted in policy slot 0. -/
def toDispatch : State :=
  let s := (withHead.writeN 0x40008 8 0x30200).writeN 0x20000 8 0xF
  (s.modPart 0 fun x => { x with slots := [(0, some ⟨some 1, false, 0, 4, [], false⟩)] }).modCore 5 fun c => { c with run := .faulted }
theorem test_witness_PolicyDecisions_dispatch : toDispatch.ready = true ∧ toDispatch.pipeOn 0 0 = true ∧ toDispatch.stTeam 0 0 0 = 4 ∧
    toDispatch.savedOf 0 0 0 = [] ∧ toDispatch.stTimed 0 0 0 = false ∧ toDispatch.stGrouped 0 0 0 = false ∧ toDispatch.marks = [] ∧
    (match toDispatch.headOf 0 0 0 with
      | some (.ok r) => toDispatch.semOk 0 0 r && !recSkip r && !recImage r &&
          (match toDispatch.taskExtents 0 (toDispatch.pipeAsid 0 0) (toDispatch.mg4 (stageAt 0 0 0) 8) r with | .ok _ => true | _ => false)
      | _ => false) = true := by decide
/-- The same where partition 0 holds the cores of cluster 2: the cores 8 to 11 are placed, whether the stage is ungrouped, grouped or timed. -/
def placing : State := { toDispatch with mg := { toDispatch.mg with owners := [(2, 1), (1000, 1)] } }
theorem test_witness_PolicyDecisions_free (on : Nat → Bool) (h : on 0 = true) : LowestFree placing 0 4 on [8, 9, 10, 11] := by
  refine ⟨rfl, by decide, fun c hc => ?_, fun c hc hn => ?_⟩
  · have h2 : ∀ c ∈ [8, 9, 10, 11], c < 256 ∧ c / 16 = 0 ∧ placing.holdsUnit 0 (c / 4) = true ∧
        ∀ t ∈ placing.teams, t.phase ≠ .saved → c ∉ t.cores := by decide
    obtain ⟨h1, h2, h3⟩ := h2 c hc
    exact ⟨h1, h2 ▸ h, h3⟩
  · have hk : ∀ k, k < 64 → placing.holdsUnit 0 k = true → k = 2 := by decide
    have := hk (c / 4) (by omega) hc.2.2.1
    simp at hn
    omega
theorem test_witness_PolicyDecisions_placed (grouped timed : Bool) (on : Nat → Bool) (h : on 0 = true) :
    Placed placing 0 4 on grouped timed [8, 9, 10, 11] := by
  cases timed
  · cases grouped
    · exact test_witness_PolicyDecisions_free on h
    · have hk : ∀ k, k < 64 → placing.holdsUnit 0 k = true → k = 2 := by decide
      have h2 : ∀ i, i < 4 → ∀ t ∈ placing.teams, t.phase ≠ .saved → 4 * 2 + i ∉ t.cores := by decide
      refine ⟨[2], rfl, rfl, by decide, fun k hk => ?_, fun k hf hn => ?_⟩
      · obtain rfl := List.mem_singleton.1 hk
        exact ⟨by decide, h, by decide, h2⟩
      · exact absurd (List.mem_singleton.2 (hk k hf.1 hf.2.2.1)) hn
  · exact ⟨0, ⟨by decide, h, by decide⟩, test_witness_PolicyDecisions_free _ rfl, fun e he => by omega⟩
/-- The same with a timed stage whose slot table, one entry from rank 0 to rank 1 on the east chain, stands at 0x50000. -/
def slotted : State := ((placing.setMg (stageAt 0 0 0 + 10) 1 2).setMg (stageAt 0 0 0 + 40) 8 0x50000).writeN 0x50000 12 (1 + 0x80100000 * 2 ^ 64)
theorem test_witness_PolicyDecisions_slots : slotted.stTimed 0 0 0 = true ∧ slotted.slotHeld 0 0 0x50000 = false ∧
    slotted.slotTab 0 0 0 = 0x50000 ∧ (match slotted.slotTable 0 0 0x50000 [8, 9, 10, 11] with | .ok t => t == [0x80100000] | _ => false) = true := by decide
/-- The same with an image of one frame resident on die 0, and a bedrock bank group of die 1. -/
def imaged : State := ({ placing with mg := { placing.mg with owners := [(2, 1), (1000, 1), (3008, 1)] } } : State).modPart 0 fun x => { x with images := [⟨0, 0, 0x10000, [1], 0, 0, []⟩] }
theorem test_witness_PolicyDecisions_image : 0 ∈ imaged.residentDies 0 0 (0x10000, [1]) ∧ 1 ∉ imaged.residentDies 0 0 (0x10000, [1]) ∧
    (imaged.bedRoom 0 1 0 0x10000 [1]).isSome = true := by decide
theorem test_witness_PolicyDecisions_acts : Tab.get none (toDispatch.getPart 0).slots 0 = some ⟨some 1, false, 0, 4, [], false⟩ ∧
    toDispatch.team 1 = some (soleTeam .running) ∧ (∃ c ∈ (soleTeam .running).cores, (toDispatch.getCore c).run ≠ .exited) ∧
    (toDispatch.getCore 5).run = .faulted ∧ (toDispatch.getCore 5).act.csr.code = 0x04 ∧
    (toDispatch.walk 0 (toDispatch.getCore 5).act.csr.faultAddr.toNat == .absent) = false := by decide
theorem test_witness_PolicyEvents_fallback : toDispatch.headGood 0 0 0 = true ∧ (toDispatch.getPart 0).shares = [] ∧
    (∀ m ∈ toDispatch.teams, m.phase ≠ .saved) ∧ Tab.get 0 (toDispatch.getPart 0).headTime (toDispatch.stInq 0 0 0) - 1 ≤ toDispatch.now ∧
    (∀ q, q < 16 → toDispatch.pipeOn 0 q = true → q = 0) ∧ ∀ k, k < 64 → toDispatch.stTeam 0 0 k ≠ 0 → k = 0 := by decide
theorem test_witness_SchedulerEvents_saved : (teamed .stopping .stopped).msys.shoots = [] ∧ (teamed .stopping .stopped).marks = [] ∧
    (soleTeam .stopping).record.length = 64 ∧ (soleTeam .stopping).areaAt + 0x10000 + 0x590000 ≤ 2 ^ 48 ∧
    ((teamed .stopping .stopped).getCore 5).act.err = [] ∧ ((teamed .stopping .stopped).getCore 5).act.v = [] ∧
    ((teamed .stopping .stopped).getCore 5).Fits :=
  ⟨by decide, by decide, by decide, by decide, by decide, by decide, ⟨by decide, by decide, by decide, by decide, by decide⟩⟩
theorem test_witness_SchedulerEvents_restored : (soleTeam .restoring).areaAt + 0x10000 + 0x590000 ≤ 2 ^ 48 ∧
    (teamed .restoring .none).marks = [] ∧ (teamed .restoring .none).readN 0x400 8 = 0 ∧ (teamed .restoring .none).readN 0x408 8 = 0 := by decide

/-! ### BringUpSequence -/
/-- The reset state in a phase, with more bits of MODSTATUS. -/
def inBoot (phase more : Nat) (args : List Nat) : State :=
  { State.reset with args := args, mg := { State.reset.mg with modstatus := BitVec.ofNat 32 (phase * 2 ^ 16 + more), released := phase != 0 } }
theorem test_witness_BringUpSequence : (inBoot 0 0 []).bootPhase = 0 ∧ (inBoot 0 0 []).mg.released = false ∧ (inBoot 1 0 []).bootPhase = 1 ∧
    (inBoot 1 0 []).ready = false ∧ (inBoot 1 0 []).cfgArea 0 = [] ∧ cfgValid [] = false ∧ (inBoot 2 0 [0]).bootPhase = 2 ∧
    (inBoot 3 0 [0]).bootPhase = 3 ∧ (inBoot 3 0 [0]).arg 0 = 0 ∧ (inBoot 3 0 [33]).arg 0 = 32 + 1 ∧
    (inBoot 3 0 []).mg.modstatus.getLsbD 28 = false := by decide
/-- The reset state after release with an image whose version is below the lowest one accepted. -/
def oldFirmware : State :=
  { State.reset with mg := { State.reset.mg with released := true, fw := [⟨[], [], 1⟩], fwMin := 2 } }
theorem test_witness_BringUpSequence_old : oldFirmware.bootPhase = 0 ∧ oldFirmware.mg.released = true ∧ oldFirmware.ready = false ∧
    ∃ i ∈ oldFirmware.mg.fw, i.version < oldFirmware.mg.fwMin := ⟨by decide, rfl, by decide, _, .head _, by decide⟩

/-! ### FailuresClocksAndPorts -/
theorem test_witness_Failures : (inBoot 3 0 [33]).bootPhase ≠ 5 ∧ (inBoot 3 0 [33]).arg 0 ≤ 33 ∧ (inBoot 4 0x80000000 [0x40]).ready = true ∧
    (inBoot 4 0x80000000 [0x40]).bootPhase ≠ 5 ∧ (inBoot 0 0 [0]).mg.clock = 700 ∧ (inBoot 4 0x02000000 [0]).portUp 0 = true ∧
    17 * 3 + 16 ∉ (inBoot 4 0 [3, 16]).mg.linksDown := by decide
/-- The same with the configuration that enables every port. -/
def enabled : State :=
  let s := inBoot 4 0 [0]
  { s with mg := { s.mg with cfg := some ⟨0, 1, 6600, 350, 63, 3, 64, 0, []⟩, clock := 675 } }
theorem test_witness_Failures_ports : enabled.portUp 0 = false ∧ enabled.bootPhase = 4 ∧ enabled.arg 0 = 0 ∧ enabled.mg.clock + 25 ≤ 700 ∧
    (match enabled.mg.cfg with | some c => c.ports.getLsbD 5 | none => false) = true := by decide

/-! ### CoreAndChannelEvents -/
theorem test_witness_CoreEvents : (inBoot 4 0x02000000 [0, 2, 3]).router.outq = [] ∧ (inBoot 4 0x02000000 []).portUp 0 = true ∧
    (inBoot 4 0 [7]).args = [7] ∧ ∀ t ∈ (inBoot 4 0 [7]).teams, 7 ∉ t.cores := by decide
/-- A pebble that waits for credits of exit 0. -/
def waitingOut : OutPkt := { pkt := pebble, dir := 0, port := 2, time := 0, idx := 2, sent := none }
theorem test_witness_CoreEvents_out : waitingOut.pkt.vc = 4 ∧ 0 + waitingOut.pkt.size ≤ 32 := by decide

/-! ### PacketsRouteBranchAndCombine -/
/-- A READ of 8 bytes at 0x1000 of address space 0 from node 0 to itself, its list ended. -/
def readPkt : Packet :=
  ({ head := BitVec.ofNat 512 (endTurns * 2 ^ 64 + 2 * 2 ^ 60 + 1 * 2 ^ 32), flits := [] } : Packet).setB 16 8 0x1000 |>.setB 26 2 8
/-- An AMO of the combined-atomic class that adds 1 to 8 bytes at 0x1000. -/
def addPkt : Packet :=
  ((({ head := BitVec.ofNat 512 (endTurns * 2 ^ 64 + 4 * 2 ^ 60 + 3 * 2 ^ 58), flits := [] } : Packet).setB 16 8 0x1000).setB 26 2 8
    |>.setB 30 1 1).setB 40 8 1
/-- The reset state in READY with every port up in a torus of two nodes in X, and one packet at an input port. -/
def routing (p : Packet) (mask : Option Nat) (args : List Nat) : State :=
  let s := State.reset
  { s with args := args, mg := { s.mg with modstatus := BitVec.ofNat 32 (0x80000000 + 0x3F * 2 ^ 20), torus := 2 * 2 ^ 16 + 2 ^ 8 + 1 }
           router := { s.router with arrivals := [⟨p, 2, mask, 0, 0⟩] } }
theorem test_witness_PacketsRoute_eject : segDir (seg0 readPkt.turns) = 7 ∧ readPkt.isPebble = false ∧ readPkt.combines = false ∧
    readPkt.stream = 0 ∧ readPkt.dest = (routing readPkt none [0, 0]).mg.node.toNat := by decide
/-- The same toward +X, and as a multicast of a box of two nodes in X. -/
def eastPkt : Packet := readPkt.setF 95 64 (0b000000001 * 2 ^ 18 + 0b111000000 * 2 ^ 9 + 0b111000000)
def castPkt : Packet := ((readPkt.setF 63 60 1).setF 54 53 2).setF 31 16 (2 ^ 10)
theorem test_witness_PacketsRoute_east : segDir (seg0 eastPkt.turns) = 0 ∧ (routing eastPkt none [0, 0]).portUp 0 = true ∧
    (routing eastPkt none [0, 0]).router.outq = [] ∧
    Tab.get 0 (routing eastPkt none [0, 0]).router.used (chanKey 0 eastPkt.vc) + eastPkt.size ≤ 32 ∧
    (routing eastPkt none [0, 0]).lost = false := by decide
theorem test_witness_PacketsRoute_cast : castPkt.stream = 2 ∧ castPkt.kind = 1 ∧ (routing castPkt none [0, 0]).boxBad castPkt = false ∧
    (65 : Nat).testBit 0 = true ∧ (routing castPkt (some 65) [0, 0]).portUp 0 = true ∧ castPkt.size = 1 ∧
    (64 : Nat).testBit 6 = true := by decide
/-- A combining request whose key is recent, beside an open slot of its key or none. -/
def combining (slots : List Slot) : State :=
  let s := routing addPkt none [0, 0]
  { s with router := { s.router with recents := [(addPkt.key, 0)], slots := slots } }
theorem test_witness_PacketsRoute_combine : addPkt.combines = true ∧ addPkt.headBad = false ∧ addPkt.combBad = false ∧
    ((combining []).record 0).used = false ∧ [(addPkt, 1)].length < 8 ∧ (combining []).now < 0 + 256 ∧
    (∃ e ∈ (combining []).router.recents, e.1 = addPkt.key ∧ (combining []).now ≤ e.2 + 256) :=
  ⟨by decide, by decide, by decide, by decide, by decide, by decide, _, .head _, by decide⟩
/-- A slot of two children that closes 256 ns after it opened, and its record 64 µs later. -/
def closing (now : Nat) : State :=
  let s := combining [⟨addPkt.key, 0, [(addPkt, 1), (addPkt, 2)], 0⟩]
  { s with args := [0], now := now, router := { s.router with records := [(0, { Record.zero with used := true, closed := some 256 })] } }
theorem test_witness_PacketsRoute_close : 0 + 256 ≤ (closing 256).now ∧ (closing 256).lost = false ∧ addPkt.cls = 3 ∧
    ([addPkt, addPkt].flatMap Packet.childLeaves).length = 2 ∧
    ((closing 64256).record 0).used = true ∧ ((closing 64256).record 0).closed = some 256 ∧ 256 + 64000 ≤ (closing 64256).now := by decide
/-- A combined reply of two leaves. -/
def combReply : Packet := ((({ head := BitVec.ofNat 512 (endTurns * 2 ^ 64 + 5 * 2 ^ 60 + 2 ^ 58), flits := [0, 0] } : Packet).setB 31 1 3).setB 32 1 2)
theorem test_witness_PacketsRoute_decombine : combReply.kind = 5 ∧ combReply.b31 % 4 = 3 ∧ 2 ≤ combReply.b 32 1 ∧
    (closing 0).recordFits (combReply.setF 59 58 3) = false := by decide

/-! ### RequestsLeaveAndAreAnswered -/
/-- A READ of 8 bytes at 0x1000 of address space 0 at the node itself, which an engine of core 0 asks for. -/
def readReq : Req :=
  ⟨1, 2, .engine 0 0 1, 0, 0, 0x1000, 0, 8, 0, false, false, [], 0, 0, 0, none, none, 0, 0, 0, [], none⟩
/-- It stands in the egress queue, in the retransmission store with SEQ 1, and among those that wait for their back-off. -/
def requesting : State :=
  let s := routing readPkt none [0]
  { s with now := 32000, gate := { s.gate with egress := [readReq], resend := [readReq]
                                               store := [⟨readPkt, readReq, 0, 0, 0, 1, 0, 0, [], false⟩] } }
theorem test_witness_RequestsLeave : requesting.gate.egress[0]? = some readReq ∧ requesting.soReady readReq = true ∧
    requesting.behindRetry readReq = false ∧ (∀ f ∈ requesting.flowsOf readReq, f.held = none ∧ (requesting.unacked f).length < 4096) ∧
    requesting.storeUsed + 64 * ((requesting.packetOf readReq 1 true).size + 1) ≤ 16777216 ∧
    readReq.node = requesting.mg.node.toNat ∧ readReq.node < 65536 ∧ (requesting.flowOut 0 0 0).next < 65536 := by decide
/-- A response of a kind to it, and one for a confidential request. -/
def respPkt (kind code : Nat) : Packet :=
  (({ head := BitVec.ofNat 512 (endTurns * 2 ^ 64 + kind * 2 ^ 60 + 2 ^ 58 + 2 ^ 32), flits := [] } : Packet).setB 30 1 code).setB 26 2 0
def answering (kind code : Nat) : State := { requesting with gate := { requesting.gate with inbox := [(respPkt kind code, 0)] } }
theorem test_witness_RequestsLeave_answers : (respPkt 6 0).headBad = false ∧ (respPkt 6 0).cipher = false ∧ (respPkt 9 0).headBad = false ∧
    (answering 7 2).matching (respPkt 7 2) 1 = some 0 ∧ (respPkt 7 2).code = 2 ∧ (respPkt 7 2).seq = 1 ∧ (respPkt 3 0).kind = 3 ∧
    (answering 3 0).matching (respPkt 3 0) 1 = some 0 ∧ (respPkt 5 0).b31 % 4 ≠ 3 ∧ ((answering 6 0).ackAll (respPkt 6 0) (respPkt 6 0).acked).isSome = true ∧
    ackRest (ackBase [1, 2]) [1, 2] = [] := by decide
/-- The host's request in place of the engine's, and one to another node, strongly ordered or not, over a list through port 0. -/
def hosting (kind code : Nat) : State :=
  let s := answering kind code
  { s with gate := { s.gate with store := [⟨readPkt, { readReq with asker := .host }, 0, 0, 0, 1, 0, 0, [], false⟩] } }
theorem test_witness_RequestsLeave_host : (hosting 7 5).matching (respPkt 7 5) 1 = some 0 ∧ (respPkt 6 0).b 32 4 / 2 = 0 ∧
    ({ readReq with asker := .host } : Req).box = none ∧ (respPkt 7 5).code = 5 ∧ (respPkt 7 5).b31 % 4 ≠ 3 := by decide
def remoteReq (order : Nat) : Req := { readReq with node := 1, order := order }
def abroad (order : Nat) : State :=
  let s := requesting
  { s with gate := { s.gate with egress := [remoteReq order], resend := [], lists := [(4, BitVec.ofNat 32 (2 ^ 31 + eastPkt.turns))] } }
theorem test_witness_RequestsLeave_remote : (abroad 0).soReady (remoteReq 0) = true ∧ (abroad 2).soReady (remoteReq 2) = true ∧
    (abroad 0).behindRetry (remoteReq 0) = false ∧ ((abroad 2).listsTo 1).head? = some 0 ∧ (remoteReq 2).stream = 1 ∧
    ((abroad 0).listsFrom 1 (Tab.get 0 (abroad 0).gate.rot 1))[0]? = some 0 ∧ segDir (seg0 eastPkt.turns) = 0 ∧
    (abroad 0).portUp 0 = true ∧ Tab.get 0 (abroad 0).router.used (chanKey 0 0) + 1 ≤ 32 ∧ requesting.listsTo 1 = [] := by decide
/-- An ACTIVE key slot of partition 0 for every peer. -/
def keyed : State :=
  { requesting with mg := { requesting.mg with keys := [(5, { KeySlot.zero with st := 2, part := 0, pany := true })] } }
theorem test_witness_RequestsLeave_sealed : keyed.sealSlot 0 0 = some 5 ∧ requesting.sealSlot 0 0 = none := by decide

/-! ### RequestsArePerformed -/
/-- The reset state in READY with 512 MiB of address space 0 mapped, remote access allowed, and a READ of it at the gateway. -/
def serving (p : Packet) : State :=
  let s := (mapped (routing readPkt none [0, 0])).setMg 0x20000000 8 0x10003
  { s with gate := { s.gate with inbox := [(p, 2)] } }
theorem test_witness_RequestsArePerformed_in : (serving readPkt).ready = true ∧ readPkt.bodyBad = false ∧ readPkt.headBad = false ∧
    ((serving readPkt).flowFor 0 0 0 1 false).classify readPkt.seq = .new ∧ (serving readPkt).marks = [] ∧
    pteR ((serving readPkt).asidEntry 0) = true ∧ pteW ((serving readPkt).asidEntry 0) = false ∧
    (serving readPkt).walk 0 readPkt.va = .leaf 7 2 0x20000 0x1000 ∧ pteOrder 7 = readPkt.ord ∧ pteNode 7 = 0 := by decide
/-- A job for a request, at a stage. -/
def jobOf (p : Packet) (stage : Nat) : Job := ⟨9, p, 2, stage, none, 0x1000, 0, [], 0⟩
/-- The state with that job, 4 µs on. -/
def performing (p : Packet) (stage : Nat) : State :=
  let s := serving p
  { s with args := [9], now := 4000, gate := { s.gate with jobs := [jobOf p stage] } }
theorem test_witness_RequestsArePerformed (kind stage : Nat) : (performing (readPkt.setF 63 60 kind) stage).marks = [] := rfl
theorem test_witness_RequestsArePerformed_job : (performing readPkt 1).job 9 = some (jobOf readPkt 1) ∧
    (performing readPkt 1).mayCheck (jobOf readPkt 1) = true ∧ (readPkt.setF 63 60 1).moves = false ∧
    (performing readPkt 1).lineHeld 0 0x1000 0x1000 = false ∧ ((performing readPkt 1).die 0).parked = [] ∧ (performing readPkt 2).job 9 = some (jobOf readPkt 2) ∧
    (jobOf readPkt 2).since + 4000 ≤ (performing readPkt 2).now ∧ (performing readPkt 1).gate.acks = [] := by decide
theorem test_witness_RequestsArePerformed_sound : (performing readPkt 1).sound 0x1000 8 ∧ (performing readPkt 1).sound 0x1000 64 :=
  ⟨fun _ h => (by cases h), fun _ h => (by cases h)⟩
/-- The same with tenant entry 0 bound to tenant 0 of partition 0, ACTIVE, and an EVENT. -/
def eventing : State :=
  ((performing (readPkt.setF 63 60 0xB) 1).modPart 0 fun x => { x with pstate := 2 }).setMg (tenAt 0) 8 (2 ^ 21)
theorem test_witness_RequestsArePerformed_event : eventing.tenantEntry 0 = some 0 ∧ (eventing.getPart (tenPart (eventing.tenWord 0))).pstate = 2 := by
  decide

/-! ### PageTablesMovesAndSnapshots -/
/-- Partition 0 ACTIVE in READY with HBM group 0, its address space 0 with tables in frames 1, 2 and 3, page 0 mapped to frame 4 with MIG, and
operands. -/
def managed (args : List Nat) : State :=
  let s := (mapped (teamed .running .running)).writeN 0x20000 8 0x30001
  { (s.writeN 0x30000 8 (4 * 65536 + 0x407)) with args := args }
theorem test_witness_PageTables : (managed []).ready = true ∧ (managed []).mg.hostWait = none ∧ ((managed []).getPart 0).pstate = 2 ∧
    pteV ((managed []).asidEntry 0) = true ∧ asidPart ((managed []).asidEntry 0) = 0 := by decide
theorem test_witness_PageTables_table : (managed []).pteAt 0 (2 ^ 29) 2 = some 0x20008 ∧ pteV ((managed []).pte 0x20008) = false ∧
    (managed []).frameOf 0 5 = true := by decide
theorem test_witness_PageTables_map : (managed []).pteAt 0 0x10000 3 = some 0x30008 ∧ pteV ((managed []).pte 0x30008) = false ∧
    (managed []).leafBad 0 3 0x50007 = false ∧ (managed []).moving 0 0x10000 = false := by decide
theorem test_witness_PageTables_unmap : (managed []).rangeEntries 0 0 1 = some [(3, 0x30000)] ∧ isLeaf ((managed []).pte 0x30000) = true ∧
    pteX ((managed []).pte 0x30000) = false ∧ (managed []).leafBad 0 3 (pteWith ((managed []).pte 0x30000) 11 1 3) = false ∧
    (managed []).leafBad 0 3 (pteWith ((managed []).pte 0x30000) 10 10 1) = false ∧
    pteNode (pteWith ((managed []).pte 0x30000) 10 10 1) = 0 := by decide
theorem test_witness_PageTables_pool : frameTier 9 = 0 ∧ (managed []).frameOf 0 9 = true ∧ (managed []).framesMapped 0 9 1 = false := by decide
/-- The same with a shoot-down under way, a counted page, and frame 9 in the pool. -/
def moving (args : List Nat) : State :=
  let s := managed args
  { s with msys := { s.msys with shoots := [⟨0, 0, 0, 1, none, false, []⟩], migs := [⟨0, 0, 4, 0, 0, 7, 64, 0, false⟩], pools := [(0, 0, 9)] } }
theorem test_witness_PageTables_moves : (moving [0]).msys.shoots[0]? = some ⟨0, 0, 0, 1, none, false, []⟩ ∧ (moving []).inFlight 0 0 1 = false ∧
    (moving []).movable 0 0 = some (0x30000, 0x40407) ∧ (0 : Nat) + (moving []).migThresh ≤ 64 := by decide
/-- The same where page 0 stands in the first frame of the LP tier. -/
def lpPage : State :=
  let s := (moving []).writeN 0x30000 8 (2 ^ 42 + 0x607)
  { s with mg := { s.mg with owners := [(1000, 1), (2000, 1)] } }
theorem test_witness_PageTables_tier : lpPage.movable 0 0 = some (0x30000, 0x40000000607) ∧ pteTier 0x40000000607 = true ∧
    lpPage.msys.pools.find? (fun f => f.1 == 0 && f.2.1 == 0) = some (0, 0, 9) ∧ (∀ m ∈ lpPage.msys.moves, m.asid ≠ 0) ∧
    lpPage.migThresh ≤ 64 + 0 := by decide
/-- A page under way to frame 9, copied or not. -/
def pageMove (copied : Bool) : Move := ⟨0, 0, 0x40407, some 0, 9, false, copied, 0, false⟩
def underWay (copied : Bool) : State := { managed [] with msys := { (managed []).msys with moves := [pageMove copied] } }
theorem test_witness_PageTables_complete : (underWay true).moveOf 0 0 = some (pageMove true) ∧ (underWay true).pteAt 0 0 3 = some 0x30000 ∧
    pteNode (pageMove true).pte = 0 ∧ (underWay false).moveOf 0 0 = some (pageMove false) ∧ (underWay false).inFlight 0 0 1 = false := by decide
/-- A snapshot armed for page 0, its header at 0x50000, with frames 9 to 12 in the pool. -/
def snapped (snaps : List Snap) : State :=
  let s := (managed []).setMg (partBlock 0 + 0x420) 8 0x50000
  { s with msys := { s.msys with snaps := snaps, pools := [(0, 0, 9), (0, 0, 10), (0, 0, 11), (0, 0, 12)] } }
theorem test_witness_PageTables_snaps : (snapped []).snapHdr 0 = some 0x50000 ∧ (snapped []).snapOf 0 = none ∧
    ((snapped []).copyTables 0 3 1 (fld ((snapped []).asidEntry 0) 47 16)).isSome = true ∧
    (snapped [⟨0, 0, 9, [9], [0], []⟩]).snapOf 0 = some ⟨0, 0, 9, [9], [0], []⟩ ∧ (snapped [⟨0, 0, 9, [9], [0], []⟩]).isCow 0 0 = true ∧
    (snapped [⟨0, 0, 9, [9], [0], []⟩]).pageEntry 0 0 = some (3, 0x30000) ∧
    ((snapped [⟨0, 0, 9, [9], [0], []⟩]).takeFrame 0 0).isSome = true := by decide
/-- A team with a stale extent of page 0. -/
def stale : State :=
  let s := managed [1, 0]
  { s with teams := [{ soleTeam .running with exts := [{ leafExtent 0x40407 3 0 16 0x40000 with stale := true }] }] }
theorem test_witness_PageTables_stale : (stale.team 1).map (fun t => t.exts.findIdx? fun e => e.stale && e.covers 0) = some (some 0) := by decide
/-- Pages 0 and 1 of which one stays mapped, under a stale extent of both. -/
theorem test_witness_PageTables_units : stale.walk 0 0x4000 = .leaf 0x40407 3 0x30000 0x44000 ∧ stale.walk 0 0x10000 = .absent ∧
    stale.marks = [] ∧ ∀ q, q < 16 → stale.pipeOn 0 q = false := by decide

/-! ### HostRequestsAnswer -/
theorem test_witness_HostRequests : (managed []).mg.hostWait = none ∧ (managed []).ready = true ∧ State.reset.mg.hostWait = none ∧
    State.reset.ready = false ∧ mgReg 0x1000 8 = some (.ring false) ∧ mgReg 2 4 = none ∧ mgReg (semAt 0 1 2) 4 = some (.sem 0 1) ∧
    mgReg (stageAt 0 1 2) 8 = some (.stage 0 1) ∧ mgReg (pipeAt 0 1) 4 = some (.pipe 0 1 0) := by decide
theorem test_witness_HostRequests_read : pteV ((managed []).asidEntry 0) = true ∧ (managed []).walk 0 0x20 = .leaf 0x40407 3 0x30000 0x40020 ∧
    pteConf 0x40407 = false ∧ pteR 0x40407 = true ∧ pteW 0x40407 = true ∧ pteBed 0x40407 = false ∧ (managed []).isCow 0 0x20 = false ∧
    (managed []).walk 0 0x10000 = .absent ∧ (managed []).moving 0 0x10000 = false ∧ pteV ((managed []).asidEntry 1) = false := by decide
theorem test_witness_HostRequests_sound : (managed []).marks = [] ∧ (managed []).heldVa 0 0x40 4 = false := by decide
/-- A pipeline whose descriptors pass R162, and a doorbell for its stage 0. -/
theorem test_witness_HostRequests_queues :
    (((withHead.setMg (queueAt 0 0 0 + 8) 4 4).setMg (pipeAt 0 0) 4 0).setMg (pipeAt 0 0) 4 1).enableBad 0 0 = false ∧
    (withHead.setMg (queueAt 0 0 0 + 8) 4 4).bellBad 0 2 = false ∧ withHead.bellBad 0 2 = true := by decide
/-- An image of one RET. -/
theorem test_witness_HostRequests_image :
    (match ((managed []).writeN 0x40040 4 0x34000000).readVa 0 0 0x40 4 with
      | .ok b => !slateBad [BitVec.ofNat 32 (leField b 0 4)]
      | .error _ => false) = true ∧
    slateBad [0x34000000] = false ∧ (managed []).asidOf 0 0 = true ∧ ((managed []).setMg 0x100C 4 1).mg.ringOut = [] ∧
    ((managed []).setMg 0x100C 4 1).readN (mgKey 0x100C) 4 ≠ ((managed []).setMg 0x100C 4 1).readN (mgKey 0x1010) 4 := by decide

/-! ### ManagementCommandsAct -/
/-- Partition 0 with a policy processor, cluster 0, HBM group 0, tenant entry 0, window 0 and key slot 0, in a state of its life. -/
def owning (state : Nat) (args : List Nat) : State :=
  let s := (managed args).modPart 0 fun x => { x with pstate := state }
  { s with mg := { s.mg with owners := [(0, 1), (1000, 1), (5000, 1), (6000, 1), (10000, 1), (20000, 1)] } }
theorem test_witness_ManagementCommands : (owning 1 [0]).ready = true ∧ (owning 1 [0]).mg.hostWait = none ∧
    (((owning 1 [0]).unitsOf 0).filter fun u => decide (6000 ≤ u) && decide (u < 6016)).length = 1 ∧ 0 ∈ (owning 1 [0]).unitsOf 0 ∧
    1000 ∈ (owning 1 [0]).unitsOf 0 ∧ ((owning 0 [0]).getPart 0).pstate = 0 ∧ isUnit 6000 = true ∧ (owning 1 [0, 7]).owner 7 = 0 := by decide
theorem test_witness_ManagementCommands_destroy : ((owning 2 [0]).stopPart 0).partBusy 0 = false := by decide
/-- With tenant entry 0 bound to tenant 5 and a pebble parked there. -/
def withPark (args : List Nat) : State :=
  let s := (owning 2 args).setMg (tenAt 0) 8 (5 + 2 ^ 20 + 2 ^ 21 + 0xFFF0 * 2 ^ 32)
  { s with router := { s.router with parks := [⟨0, 0, pebble, 0x0C, 2, 1, 0⟩] }
           mg := { s.mg with modstatus := BitVec.ofNat 32 (0x80000000 + 0x3F * 2 ^ 20), torus := 2 * 2 ^ 16 + 2 ^ 8 + 1 } }
theorem test_witness_ManagementCommands_tenants : (owning 2 []).owner (5000 + 0) = 0 + 1 ∧ tenBound ((owning 2 []).tenWord 0) = false ∧
    (owning 2 []).tenantEntry 5 = none ∧ tenBound ((withPark []).tenWord 0) = true ∧
    (withPark []).parkAt 0 0 = some ⟨0, 0, pebble, 0x0C, 2, 1, 0⟩ := by decide
theorem test_witness_ManagementCommands_redirect :
    let p := pebble.setPb 39 32 (min 4 (hopCap (tenMask ((withPark []).tenWord 0))))
    (withPark []).router.outq = [] ∧ (withPark []).exitCode p 0 = none ∧ (withPark []).hasCredits 0 ((withPark []).exited p 0) = true := by decide
theorem test_witness_ManagementCommands_windows : (owning 2 []).owner (10000 + 0) = 0 + 1 ∧ winState ((owning 2 []).win 0) = 0 ∧
    (owning 2 []).asidOf 0 0 = true ∧ winState (((owning 2 []).setMg (winAt 0) 32 (2 ^ 206)).win 0) = 1 ∧
    nfld (((owning 2 []).setMg (winAt 0) 32 (2 ^ 206)).win 0) 202 202 = 0 ∧ winState (((owning 2 []).setMg (winAt 0) 32 (3 * 2 ^ 206)).win 0) = 3 := by
  decide
theorem test_witness_ManagementCommands_team : (owning 2 [0, 1]).team 1 = some (soleTeam .running) ∧ (soleTeam .running).id / 2 ^ 28 = 0 := by decide
theorem test_witness_ManagementCommands_keys : (owning 2 []).owner (20000 + 0) = 0 + 1 ∧ ((owning 2 []).keySlot 0).st = 0 ∧
    (((owning 2 []).setKey 0 ⟨1, 0, 3, false, 9, 0⟩).keySlot 0).st = 1 := by decide
theorem test_witness_ManagementCommands_slots : Tab.wf KeySlot.zero ((owning 2 []).setKey 0 ⟨1, 0, 3, false, 9, 0⟩).mg.keys := by decide

/-! ### EncodeThenDecode -/
theorem test_witness_EncodeThenDecode : WellFormed (.sub ⟨3, true⟩ 1 2 3) = true ∧ (encode (.sub ⟨3, true⟩ 1 2 3)).isSome = true ∧
    WellFormed (.addx ⟨0, false⟩ 1 2 (-1)) = true ∧ (encode (.addx ⟨0, false⟩ 1 2 (-1))).map (·.1) = some 128 ∧
    WellFormed (.clone 3) = true ∧ (encode (.clone 3)).map (·.1) = some 16 ∧ WellFormed .endl = true ∧ (encode .endl).map (·.1) = some 32 := by
  decide

/-! ### StepRunsTheDecodedInstruction -/
/-- Core 0 of a running team of one strand that has the word of ADD s5, s6, s7 at 0x100000000 in its cache, or in memory at 0x10000. -/
def issuing (cached : Bool) : State :=
  let s := State.reset.withFetchWord 64 0x00011461C0000000
  if cached then s.modCore 0 fun c => { c with icache := [(0x100000000, 0x00011461C0000000)] } else s
theorem test_witness_StepRuns_cached : (issuing true).turns = [.bundle 0] ∧
    ({ issuing true with turns := [] } : State).mayIssueBundle = true ∧ (issuing true).cur.cached 0x100000000 = some 0x00011461C0000000 ∧
    coreLength 0x00011461C0000000 = 8 ∧ decodeCore 0x00011461C0000000 0 = some (.add ⟨0, false⟩ 5 6 7) ∧
    (issuing true).hold (.add ⟨0, false⟩ 5 6 7) = none := by decide
/-- The same in a timed team of one. -/
def issuingTimed : State :=
  let s := issuing true
  { s with teams := s.teams.map fun t => { t with timed := true } }
theorem test_witness_StepRuns_timed : (issuing true).myTeam.map (·.timed) = some false ∧ (issuing true).ctx.err = [] ∧
    issuingTimed.myTeam.map (fun t => (t.timed, t.phase, decide (t.beat ≤ issuingTimed.cycle), issuingTimed.members t)) =
      some (true, .running, true, [0]) ∧ issuingTimed.cannotIssue 0 = false := by decide
theorem test_witness_StepRuns_memory : (issuing false).cur.cached 0x100000000 = none ∧ (issuing false).marks = [] ∧
    (match (issuing false).xlate .fetch 0x100000000 8 with | .ok (q :: _) => q.key == 0x10000 | _ => false) = true := by decide
theorem test_witness_StepRuns_others : ((State.reset.withFetchWord 16 0x0840).visit.map fun v => decodePebble (BitVec.ofNat 16 (v.pkt.codeAt v.pc))) =
      some (some (.pushi 0x40)) ∧ ((State.reset.withFetchWord 32 0x34000000).getPart 0).opAt = some .slateRet ∧ encode .tick = none ∧
    encode .slateRet ≠ none := by decide

/-! ### FailedGuardOnlyAdvances -/
theorem test_witness_FailedGuard : (encodeFields (.div ⟨1, false⟩ 1 2 3)).isSome = true ∧ guardOf (.div ⟨1, false⟩ 1 2 3) = some ⟨1, false⟩ ∧
    State.reset.holds ⟨1, false⟩ = false := by decide

/-! ### MemoryStaysCanonical -/
theorem test_witness_MemoryStaysCanonical : Memory.wf State.reset.mem ∧ Memory.wf (State.reset.writeN 0x1000 8 0x100).mem := by decide
theorem test_witness_MemoryStaysCanonical_step : ∃ t, step State.reset = .next t := ⟨_, rfl⟩

end
end

section
/-!
SUPPORT. Bit fields of a number and of MODSTATUS (R54): what a field and a bit read after a field is replaced, and what each operation of
bring-up, failure and ports leaves of them.
-/
namespace Sys2Proof.Machine

/-! ### Bit fields -/

/-- Bit i of a number whose bits hi to lo were replaced. -/
theorem testBit_setFld (n hi lo v i : Nat) (h : lo ≤ hi) :
    (setFld n hi lo v).testBit i = if lo ≤ i ∧ i ≤ hi then v.testBit (i - lo) else n.testBit i := by
  have e : setFld n hi lo v = 2 ^ lo * (2 ^ (hi + 1 - lo) * (n / 2 ^ (hi + 1)) + v % 2 ^ (hi + 1 - lo)) + n % 2 ^ lo := by
    have hp : 2 ^ (hi + 1) = 2 ^ lo * 2 ^ (hi + 1 - lo) := by rw [← Nat.pow_add]; congr 1; omega
    unfold setFld
    rw [Nat.mul_add, ← Nat.mul_assoc, ← hp, Nat.mul_comm (n / _), Nat.mul_comm (v % _)]
    omega
  rw [e, Nat.testBit_two_pow_mul_add _ (Nat.mod_lt _ (Nat.two_pow_pos lo))]
  by_cases hl : i < lo
  · rw [if_pos hl, if_neg (by omega), Nat.testBit_mod_two_pow]; simp [hl]
  · rw [if_neg hl, Nat.testBit_two_pow_mul_add _ (Nat.mod_lt _ (Nat.two_pow_pos _))]
    by_cases hh : i ≤ hi
    · rw [if_pos (by omega), if_pos ⟨by omega, hh⟩, Nat.testBit_mod_two_pow]
      simp only [show i - lo < hi + 1 - lo from by omega, decide_true, Bool.true_and]
    · rw [if_neg (by omega), if_neg (by omega), Nat.testBit_div_two_pow]
      congr 1; omega
/-- Bit i of a field of a number. -/
theorem testBit_nfld (n hi lo i : Nat) : (nfld n hi lo).testBit i = (decide (i < hi + 1 - lo) && n.testBit (lo + i)) := by
  unfold nfld; rw [Nat.testBit_mod_two_pow, Nat.testBit_div_two_pow, Nat.add_comm i]
/-- Two numbers with the same bits hi to lo have the same field there. -/
theorem nfld_congr {n m hi lo : Nat} (h : ∀ i, lo ≤ i → i ≤ hi → n.testBit i = m.testBit i) : nfld n hi lo = nfld m hi lo := by
  refine Nat.eq_of_testBit_eq fun i => ?_
  rw [testBit_nfld, testBit_nfld]
  by_cases hi' : i < hi + 1 - lo
  · rw [h (lo + i) (by omega) (by omega)]
  · simp [hi']
/-- A field all of whose bits are one. -/
theorem nfld_ones {n hi lo : Nat} (h : ∀ i, lo ≤ i → i ≤ hi → n.testBit i = true) : nfld n hi lo = 2 ^ (hi + 1 - lo) - 1 := by
  refine Nat.eq_of_testBit_eq fun i => ?_
  rw [testBit_nfld, Nat.testBit_two_pow_sub_one]
  by_cases hi' : i < hi + 1 - lo
  · rw [h (lo + i) (by omega) (by omega)]; simp
  · simp [hi']

/-! ### MODSTATUS -/

section
variable (s : State) (hi lo v : Nat)

/-- Bit i of MODSTATUS after a field of it is replaced. -/
theorem State.setStatus_bit (i : Nat) (h : lo ≤ hi) (hh : hi < 32) : (s.setStatus hi lo v).mg.modstatus.getLsbD i =
    if lo ≤ i ∧ i ≤ hi then v.testBit (i - lo) else s.mg.modstatus.getLsbD i := by
  show (BitVec.ofNat 32 (setFld s.mg.modstatus.toNat hi lo v)).getLsbD i = _
  rw [BitVec.getLsbD_ofNat, testBit_setFld _ _ _ _ _ h, BitVec.testBit_toNat]
  by_cases hi' : i < 32
  · simp [hi']
  · rw [if_neg (by omega)]; simp [hi', s.mg.modstatus.getLsbD_of_ge i (by omega)]
/-- A field of MODSTATUS reads what was put there. -/
theorem State.setStatus_fld_same (h : lo ≤ hi) (hh : hi < 32) :
    nfld (s.setStatus hi lo v).mg.modstatus.toNat hi lo = v % 2 ^ (hi + 1 - lo) := by
  refine Nat.eq_of_testBit_eq fun i => ?_
  rw [testBit_nfld, Nat.testBit_mod_two_pow, BitVec.testBit_toNat, s.setStatus_bit hi lo v _ h hh]
  by_cases hi' : i < hi + 1 - lo
  · rw [if_pos ⟨by omega, by omega⟩, Nat.add_sub_cancel_left]
  · simp [hi']
/-- Another field of MODSTATUS stays as it is. -/
theorem State.setStatus_fld_other (hi' lo' : Nat) (h : lo ≤ hi) (hh : hi < 32) (hd : hi' < lo ∨ hi < lo') :
    nfld (s.setStatus hi lo v).mg.modstatus.toNat hi' lo' = nfld s.mg.modstatus.toNat hi' lo' := by
  refine nfld_congr fun i h1 h2 => ?_
  rw [BitVec.testBit_toNat, BitVec.testBit_toNat, s.setStatus_bit hi lo v i h hh, if_neg (by omega)]
end

/-- The bits that mark a state READY or FAILED say the same of two states with those bits alike. -/
theorem State.lost_congr {s t : State} (h : ∀ i, 16 ≤ i → i ≤ 18 ∨ 26 ≤ i ∧ i ≤ 30 → t.mg.modstatus.getLsbD i = s.mg.modstatus.getLsbD i) :
    t.lost = s.lost := by
  unfold State.lost
  rw [nfld_congr (n := t.mg.modstatus.toNat) (m := s.mg.modstatus.toNat) (hi := 18) (lo := 16)
      fun i h1 h2 => by rw [BitVec.testBit_toNat, BitVec.testBit_toNat]; exact h i h1 (.inl h2),
    nfld_congr (n := t.mg.modstatus.toNat) (m := s.mg.modstatus.toNat) (hi := 30) (lo := 26)
      fun i h1 h2 => by rw [BitVec.testBit_toNat, BitVec.testBit_toNat]; exact h i (by omega) (.inr ⟨h1, h2⟩)]

end Sys2Proof.Machine
end

section
/-!
SUPPORT. The steps of bring-up (R49 to R56): what entering FAILED and READY says of MODSTATUS, and what zeroed memory reads.
-/
namespace Sys2Proof.Machine

/-! ### Tables -/

/-- An entry of a table with every value changed: the default, or the change of some value. -/
theorem Tab.get_mapV_cases {α : Type} [DecidableEq α] (d : α) (f : α → α) (t : Tab α) (i : Nat) :
    Tab.get d (Tab.mapV d f t) i = d ∨ ∃ v, Tab.get d (Tab.mapV d f t) i = f v := by
  unfold Tab.mapV
  induction t with
  | nil => exact .inl rfl
  | cons e t ih =>
    by_cases hd : f e.2 = d
    · rw [List.map_cons, List.filter_cons_of_neg (by simp [hd])]; exact ih
    · rw [List.map_cons, List.filter_cons_of_pos (by simp [hd]), Tab.get]
      split
      · exact .inr ⟨e.2, rfl⟩
      · exact ih
/-- What a read gives after a run of keys is cleared. -/
theorem Tab.get_clear {α : Type} (d : α) (t : Tab α) (k n i : Nat) :
    Tab.get d (Tab.clear t k n) i = if k ≤ i ∧ i < k + n then d else Tab.get d t i := by
  unfold Tab.clear
  split
  · exact Tab.get_filter_out d t _ i fun v => by simp; omega
  · exact Tab.get_filter d t _ i fun v => by simp; omega

/-! ### Memory -/

/-- What a byte reads after memory is zeroed. -/
theorem State.byte_zeroMem (s : State) (k n a : Nat) : (s.zeroMem k n).byte a = if k ≤ a ∧ a < k + n then 0 else s.byte a :=
  Tab.get_clear 0 s.mem k n a

/-! ### Entering FAILED (R54) -/

/-- MODSTATUS in the FAILED phase with its failing unit and code (R54). -/
structure FailedWith (t : State) (unit code : Nat) : Prop where
  phase : t.bootPhase = 5
  ready : t.ready = false
  flag : t.mg.modstatus.getLsbD 19 = true
  unit : nfld t.mg.modstatus.toNat 15 8 = unit
  code : nfld t.mg.modstatus.toNat 7 0 = code

/-- A module that has not failed yet enters FAILED with the unit and the code. -/
theorem State.enterFailed_failed (s : State) (unit code : Nat) (h : s.bootPhase ≠ 5) (hu : unit < 256) (hc : code < 256) :
    FailedWith (s.enterFailed unit code) unit code := by
  unfold State.enterFailed
  rw [if_neg h]
  generalize (if s.ready then s.stopAll else s) = t
  constructor
  · simp [State.bootPhase, State.setStatus_fld_other, State.setStatus_fld_same]
  · simp [State.ready, State.setStatus_bit, -BitVec.getLsbD_eq_getElem]
  · simp [State.setStatus_bit, -BitVec.getLsbD_eq_getElem]
  · simp [State.setStatus_fld_other, State.setStatus_fld_same, Nat.mod_eq_of_lt hu]
  · simp [State.setStatus_fld_same, Nat.mod_eq_of_lt hc]

/-! ### Entering READY (R54, R56) -/

/-- The host is told of READY (R56, log 66). -/
def State.tellReady (s : State) : State := { s with mg := { s.mg with hostOut := s.mg.hostOut ++ [.ready] } }
@[simp] theorem State.tellReady_modstatus (s : State) : s.tellReady.mg.modstatus = s.mg.modstatus := (rfl)
@[simp] theorem State.tellReady_hostOut (s : State) : s.tellReady.mg.hostOut = s.mg.hostOut ++ [.ready] := (rfl)
@[simp] theorem State.setStatus_hostOut (s : State) (hi lo v : Nat) : (s.setStatus hi lo v).mg.hostOut = s.mg.hostOut := (rfl)
@[simp] theorem State.tellReady_cores (s : State) : s.tellReady.cores = s.cores := (rfl)
@[simp] theorem State.setStatus_cores (s : State) (hi lo v : Nat) : (s.setStatus hi lo v).cores = s.cores := (rfl)
theorem State.tryReady_eq (s : State) : s.tryReady =
    if s.bootPhase = 3 ∧ nfld s.mg.modstatus.toNat 30 26 = 31 then ((s.setStatus 18 16 4).setStatus 31 31 1).tellReady else s := rfl

/-- Whether READY is entered or not, the bits of MODSTATUS from 19 to 30 stay as they are. -/
theorem State.tryReady_bit (s : State) (i : Nat) (h : 19 ≤ i) (hh : i ≤ 30) :
    s.tryReady.mg.modstatus.getLsbD i = s.mg.modstatus.getLsbD i := by
  rw [State.tryReady_eq]
  split
  · rw [State.tellReady_modstatus, State.setStatus_bit _ _ _ _ _ (by decide) (by decide), if_neg (by omega),
      State.setStatus_bit _ _ _ _ _ (by decide) (by decide), if_neg (by omega)]
  · rfl
/-- READY is entered once the five bits of its conditions stand. -/
theorem State.tryReady_ready (s : State) (hp : s.bootPhase = 3) (hb : ∀ i, 26 ≤ i → i ≤ 30 → s.mg.modstatus.getLsbD i = true) :
    s.tryReady.ready = true ∧ s.tryReady.bootPhase = 4 ∧ s.tryReady.mg.hostOut = s.mg.hostOut ++ [.ready] := by
  have h31 : nfld s.mg.modstatus.toNat 30 26 = 31 := nfld_ones fun i h1 h2 => by rw [BitVec.testBit_toNat]; exact hb i h1 h2
  rw [State.tryReady_eq, if_pos ⟨hp, h31⟩]
  refine ⟨?_, ?_, ?_⟩
  · simp [State.ready, State.setStatus_bit, -BitVec.getLsbD_eq_getElem]
  · simp [State.bootPhase, State.setStatus_fld_other, State.setStatus_fld_same]
  · simp
@[simp] theorem State.tryReady_cores (s : State) : s.tryReady.cores = s.cores := by rw [State.tryReady_eq]; split <;> simp
@[simp] theorem State.tryReady_byte (s : State) (a : Nat) : s.tryReady.byte a = s.byte a := by
  unfold State.byte; rw [State.tryReady_mem]

/-- A condition of READY that is met: its bit stands whether READY is entered or not. -/
theorem State.bitReady_bit (s : State) (b : Nat) (hb : 26 ≤ b) (hb' : b ≤ 30) : (s.setStatus b b 1).tryReady.mg.modstatus.getLsbD b = true := by
  rw [State.tryReady_bit _ b (by omega) hb', State.setStatus_bit _ _ _ _ _ (Nat.le_refl b) (by omega), if_pos ⟨Nat.le_refl b, Nat.le_refl b⟩,
      Nat.sub_self]
  decide
theorem State.setStatus_phase (s : State) (b v : Nat) (hb : 19 ≤ b) (hb' : b ≤ 31) : (s.setStatus b b v).bootPhase = s.bootPhase := by
  unfold State.bootPhase
  exact State.setStatus_fld_other s b b v 18 16 (Nat.le_refl b) (by omega) (.inl (by omega))
/-- The last condition of READY that is met: READY is entered and the host told. -/
theorem State.bitReady_last (s : State) (b : Nat) (hb : 26 ≤ b) (hb' : b ≤ 30) (hp : s.bootPhase = 3)
    (h : ∀ i, 26 ≤ i → i ≤ 30 → (s.setStatus b b 1).tryReady.mg.modstatus.getLsbD i = true) :
    (s.setStatus b b 1).tryReady.ready = true ∧ (s.setStatus b b 1).tryReady.bootPhase = 4 ∧
      (s.setStatus b b 1).tryReady.mg.hostOut = s.mg.hostOut ++ [.ready] := by
  have hu : ∀ i, 26 ≤ i → i ≤ 30 → (s.setStatus b b 1).mg.modstatus.getLsbD i = true := fun i h1 h2 => by
    rw [← State.tryReady_bit _ i (by omega) h2]; exact h i h1 h2
  have hr := State.tryReady_ready _ (by rw [State.setStatus_phase s b 1 (by omega) (by omega)]; exact hp) hu
  rwa [State.setStatus_hostOut] at hr

end Sys2Proof.Machine
end

section
/-!
PROOFS. The reset state (O59) and the sequence of bring-up (O46).
-/
namespace Sys2Proof.Machine

/-- Settles O59: every table of the reset state is empty. -/
theorem resetLeaves : Obligations.ResetLeaves := by
  unfold Obligations.ResetLeaves
  exact ⟨rfl, rfl, rfl, rfl, fun _ => ⟨rfl, rfl⟩, fun _ => ⟨rfl, rfl, rfl, fun _ => rfl⟩, fun _ => rfl, fun _ => rfl, rfl, rfl, rfl, rfl,
    fun _ => rfl, Tab.wf_nil 0⟩

/-! ### Reset and firmware (R52, R152) -/

/-- MODULE_RESET keeps the bytes of flash alone. -/
theorem byte_moduleReset (m : Tab Byte) (k : Nat) :
    Tab.get 0 (m.filter fun e => decide (flashKey 0 ≤ e.1)) k = if flashKey 0 ≤ k then Tab.get 0 m k else 0 := by
  split
  case isTrue h => exact Tab.get_filter 0 m _ k fun _ => decide_eq_true h
  case isFalse h => exact Tab.get_filter_out 0 m _ k fun _ => decide_eq_false h

section
variable {s : State}

/-- Every image verifies and is not too old: CONFIG begins. -/
theorem firmwareVerified_begins (hp : s.bootPhase = 0) (hr : s.mg.released = true)
    (h : ∀ i ∈ s.mg.fw, rootVerifies i.bytes i.sig = true ∧ s.mg.fwMin ≤ i.version) :
    Completes .firmwareVerified s fun t => t.bootPhase = 1 := by
  have ha : s.mg.fw.all (fun i => rootVerifies i.bytes i.sig && decide (s.mg.fwMin ≤ i.version)) = true := by
    simpa using h
  refine .intro (t := s.setStatus 18 16 1) ?_ ?_
  · show execFirmwareVerified s = _
    unfold execFirmwareVerified
    rw [if_neg (by simp [hp, hr]), if_pos ha]
  · exact State.setStatus_fld_same s 18 16 1 (by decide) (by decide)
/-- Some image does not verify or is too old: bring-up fails. -/
theorem firmwareVerified_fails (hp : s.bootPhase = 0) (hr : s.mg.released = true)
    (h : ∃ i ∈ s.mg.fw, rootVerifies i.bytes i.sig = false ∨ i.version < s.mg.fwMin) :
    Completes .firmwareVerified s fun t => FailedWith t 0x10 4 := by
  have ha : ¬ s.mg.fw.all (fun i => rootVerifies i.bytes i.sig && decide (s.mg.fwMin ≤ i.version)) = true := by
    obtain ⟨i, hi, hb⟩ := h
    rw [List.all_eq_true]
    intro hall
    have hi := hall i hi
    rw [Bool.and_eq_true, decide_eq_true_eq] at hi
    rcases hb with hb | hb
    · rw [hb] at hi; exact absurd hi.1 (by decide)
    · omega
  refine .intro (t := s.enterFailed 0x10 4) ?_ (s.enterFailed_failed 0x10 4 (by omega) (by decide) (by decide))
  show execFirmwareVerified s = _
  unfold execFirmwareVerified
  rw [if_neg (by simp [hp, hr]), if_neg ha]

/-! ### Configuration (R50, R51) -/

/-- The area that is applied: the valid one with the larger SEQ, area A for equal ones (R50). -/
def chosenArea (a b : List CfgRec) : Option Nat :=
  if cfgValid a = true ∧ (cfgValid b = false ∨ cfgSeq b ≤ cfgSeq a) then some 0 else if cfgValid b = true then some 1 else none

/-- CALIBRATE begins with the configuration of an area applied (R50, R52). -/
structure Applied (t : State) (area : Nat) : Prop where
  phase : t.bootPhase = 2
  flag : t.mg.modstatus.getLsbD 30 = true
  cfg : ∃ c, t.mg.cfg = some c ∧ c.area = area
@[simp] theorem State.setStatus_cfg (s : State) (hi lo v : Nat) : (s.setStatus hi lo v).mg.cfg = s.mg.cfg := (rfl)
theorem State.applyCfg_applied (s : State) (area : Nat) (rs : List CfgRec) : Applied (s.applyCfg area rs) area := by
  unfold State.applyCfg
  constructor
  · simp [State.bootPhase, State.setStatus_fld_same]
  · simp [State.setStatus_bit, -BitVec.getLsbD_eq_getElem]
  · simp only [State.setStatus_cfg]
    exact ⟨_, rfl, rfl⟩
theorem configApply_applies (hp : s.bootPhase = 1) (n : Nat) (h : chosenArea (s.cfgArea 0) (s.cfgArea 1) = some n) :
    Completes .configApply s fun t => Applied t n := by
  suffices hs : ∃ u rs, execConfigApply s = .next (State.applyCfg u n rs) by
    obtain ⟨u, rs, hs⟩ := hs
    exact .intro hs (u.applyCfg_applied n rs)
  unfold execConfigApply
  unfold chosenArea at h
  dsimp only
  rw [if_neg (by omega)]
  cases ha : cfgValid (s.cfgArea 0) <;> cases hb : cfgValid (s.cfgArea 1) <;> simp only [ha, hb] at h ⊢
  case false.false => simp at h
  case false.true => obtain rfl : 1 = n := by simpa using h
                     exact ⟨_, _, rfl⟩
  case true.false => obtain rfl : 0 = n := by simpa using h
                     exact ⟨_, _, rfl⟩
  case true.true =>
    rcases Nat.lt_trichotomy (cfgSeq (s.cfgArea 0)) (cfgSeq (s.cfgArea 1)) with hlt | heq | hgt
    · obtain rfl : 1 = n := by simpa [Nat.not_le.2 hlt] using h
      rw [if_pos hlt]; exact ⟨_, _, rfl⟩
    · obtain rfl : 0 = n := by simpa [heq] using h
      rw [if_neg (by omega), if_pos heq]; exact ⟨_, _, rfl⟩
    · obtain rfl : 0 = n := by simpa [Nat.le_of_lt hgt] using h
      rw [if_neg (by omega), if_neg (by omega)]; exact ⟨_, _, rfl⟩
theorem configApply_fails (hp : s.bootPhase = 1) (h : chosenArea (s.cfgArea 0) (s.cfgArea 1) = none) :
    Completes .configApply s fun t => FailedWith t 0xF0
      (if (∀ r ∈ s.cfgArea 0, r.signed = true) ∧ ∀ r ∈ s.cfgArea 1, r.signed = true then 5 else 4) := by
  have hv : cfgValid (s.cfgArea 0) = false ∧ cfgValid (s.cfgArea 1) = false := by
    unfold chosenArea at h
    split at h
    case isTrue => cases h
    case isFalse ha =>
      split at h
      case isTrue => cases h
      case isFalse hb =>
        have hb := Bool.eq_false_iff.2 hb
        exact ⟨Bool.eq_false_iff.2 fun hv => ha ⟨hv, .inl hb⟩, hb⟩
  have hc : (if (∀ r ∈ s.cfgArea 0, r.signed = true) ∧ ∀ r ∈ s.cfgArea 1, r.signed = true then 5 else 4) =
      if (s.cfgArea 0).all (·.signed) && (s.cfgArea 1).all (·.signed) then 5 else 4 := by simp
  rw [hc]
  refine .intro ?_ (s.enterFailed_failed 0xF0 _ (by omega) (by decide) (by split <;> decide))
  show execConfigApply s = _
  unfold execConfigApply
  simp only [hv.1, hv.2]
  rw [if_neg (by omega)]

/-! ### Calibration and memory initialisation (R52, R53) -/

theorem State.bootStep_done (code : Nat) (f : State → State) (h : s.arg 0 = 0) : s.bootStep code f = f s := by
  unfold State.bootStep; rw [h]
theorem State.bootStep_failed (code : Nat) (f : State → State) (u : Nat) (h : s.arg 0 = u + 1) : s.bootStep code f = s.enterFailed u code := by
  unfold State.bootStep; rw [h]

/-- What is said of a step of MEMINIT that succeeds: its bit stands, and it is the last when all five stand. -/
structure BitReady (s t : State) (b : Nat) : Prop where
  flag : t.mg.modstatus.getLsbD b = true
  last : t.mg.modstatus.getLsbD 30 = true → t.mg.modstatus.getLsbD 29 = true → t.mg.modstatus.getLsbD 28 = true →
    t.mg.modstatus.getLsbD 27 = true → t.mg.modstatus.getLsbD 26 = true →
    t.ready = true ∧ t.bootPhase = 4 ∧ t.mg.hostOut = s.mg.hostOut ++ [.ready]
theorem State.bitReady (u : State) (b : Nat) (hb : 26 ≤ b) (hb' : b ≤ 30) (hp : s.bootPhase = 3) (hu : u.mg = s.mg) :
    BitReady s (u.setStatus b b 1).tryReady b := by
  refine ⟨u.bitReady_bit b hb hb', fun h30 h29 h28 h27 h26 => ?_⟩
  have hp' : u.bootPhase = 3 := by unfold State.bootPhase; rw [hu]; exact hp
  rw [← hu]
  refine u.bitReady_last b hb hb' hp' fun i h1 h2 => ?_
  obtain rfl | rfl | rfl | rfl | rfl : i = 26 ∨ i = 27 ∨ i = 28 ∨ i = 29 ∨ i = 30 := by omega
  all_goals assumption
@[simp] theorem State.setStatus_byte (s : State) (hi lo v a : Nat) : (s.setStatus hi lo v).byte a = s.byte a := by
  unfold State.byte; rw [State.setStatus_mem]
theorem getCore_setStatus (s : State) (hi lo v c : Nat) : (s.setStatus hi lo v).getCore c = s.getCore c := by
  unfold State.getCore; rw [State.setStatus_cores]
theorem getCore_tryReady (s : State) (c : Nat) : s.tryReady.getCore c = s.getCore c := by
  unfold State.getCore; rw [State.tryReady_cores]

/-- What a byte reads after a step of MEMINIT that zeroes a range. -/
theorem zeroed_byte (u : State) (b k n a : Nat) (h : k ≤ a) (h' : a < k + n) :
    (((u.zeroMem k n).setStatus b b 1).tryReady).byte a = 0 := by
  rw [State.tryReady_byte, State.setStatus_byte, State.byte_zeroMem, if_pos ⟨h, h'⟩]
theorem calDone_step (hp : s.bootPhase = 2) :
    exec .calDone s = .next (s.bootStep 1 fun s => (s.setStatus 29 29 1).setStatus 18 16 3) := by
  show execCalDone s = _
  unfold execCalDone
  rw [if_neg (by omega)]
theorem hbmReady_step (hp : s.bootPhase = 3) (hb : ¬ s.mg.modstatus.getLsbD 28 = true) :
    exec .hbmReady s = .next (s.bootStep 2 fun s => ((s.zeroMem 0 (2 ^ 41)).setStatus 28 28 1).tryReady) := by
  show execHbmReady s = _
  unfold execHbmReady
  rw [if_neg (by rintro (h | h) <;> contradiction)]
theorem lpReady_step (hp : s.bootPhase = 3) (hb : ¬ s.mg.modstatus.getLsbD 27 = true) :
    exec .lpReady s = .next (s.bootStep 2 fun s => ((s.zeroMem (2 ^ 42) (2 ^ 42)).setStatus 27 27 1).tryReady) := by
  show execLpReady s = _
  unfold execLpReady
  rw [if_neg (by rintro (h | h) <;> contradiction)]
theorem calDone_done (hp : s.bootPhase = 2) (h : s.arg 0 = 0) :
    Completes .calDone s fun t => t.bootPhase = 3 ∧ t.mg.modstatus.getLsbD 29 = true := by
  refine .intro (t := (s.setStatus 29 29 1).setStatus 18 16 3) ?_ ⟨?_, ?_⟩
  · rw [calDone_step hp, State.bootStep_done _ _ h]
  · simp [State.bootPhase, State.setStatus_fld_same]
  · simp [State.setStatus_bit, -BitVec.getLsbD_eq_getElem]
theorem hbmReady_done (hp : s.bootPhase = 3) (h : s.arg 0 = 0) (hb : ¬ s.mg.modstatus.getLsbD 28 = true) :
    Completes .hbmReady s fun t => BitReady s t 28 ∧ ∀ a, 0 ≤ a → a < 0 + 2 ^ 41 → t.byte a = 0 := by
  refine .intro (t := ((s.zeroMem 0 (2 ^ 41)).setStatus 28 28 1).tryReady) ?_
    ⟨State.bitReady _ 28 (by decide) (by decide) hp rfl, fun a => zeroed_byte s 28 0 (2 ^ 41) a⟩
  rw [hbmReady_step hp hb, State.bootStep_done _ _ h]
theorem lpReady_done (hp : s.bootPhase = 3) (h : s.arg 0 = 0) (hb : ¬ s.mg.modstatus.getLsbD 27 = true) :
    Completes .lpReady s fun t => BitReady s t 27 ∧ ∀ a, 2 ^ 42 ≤ a → a < 2 ^ 42 + 2 ^ 42 → t.byte a = 0 := by
  refine .intro (t := ((s.zeroMem (2 ^ 42) (2 ^ 42)).setStatus 27 27 1).tryReady) ?_
    ⟨State.bitReady _ 27 (by decide) (by decide) hp rfl, fun a => zeroed_byte s 27 (2 ^ 42) (2 ^ 42) a⟩
  rw [lpReady_step hp hb, State.bootStep_done _ _ h]

/-! ### BEDROCK_READY (R53) -/

/-- The bedrocks, the scratchpads, and the router's windows and counters zeroed. -/
def State.zeroBedrock (s : State) : State :=
  (((s.zeroMem (2 ^ 43) (2 ^ 32)).zeroMem (spadKey 0 0) (2 ^ 30)).zeroMem (mgKey 0x20200000) 0x40000).zeroMem (mgKey 0x30000000) 0x400000
/-- Every core's registers, tiles and planes zeroed; what a debugger has set outlasts it. -/
def State.zeroCores (s : State) : State :=
  { s with cores := Tab.mapV Core.zero (fun c => { Core.zero with halted := c.halted, brk := c.brk }) s.cores }
theorem State.byte_zeroBedrock (s : State) (a : Nat) (h : (2 ^ 43 ≤ a ∧ a < 2 ^ 43 + 2 ^ 32) ∨ (spadKey 0 0 ≤ a ∧ a < spadKey 0 0 + 2 ^ 30) ∨
    (mgKey 0x20200000 ≤ a ∧ a < mgKey 0x20200000 + 0x40000) ∨ (mgKey 0x30000000 ≤ a ∧ a < mgKey 0x30000000 + 0x400000)) :
    s.zeroBedrock.byte a = 0 := by
  unfold State.zeroBedrock
  rw [State.byte_zeroMem, State.byte_zeroMem, State.byte_zeroMem, State.byte_zeroMem]
  by_cases h4 : mgKey 0x30000000 ≤ a ∧ a < mgKey 0x30000000 + 0x400000
  · rw [if_pos h4]
  by_cases h3 : mgKey 0x20200000 ≤ a ∧ a < mgKey 0x20200000 + 0x40000
  · rw [if_neg h4, if_pos h3]
  by_cases h2 : spadKey 0 0 ≤ a ∧ a < spadKey 0 0 + 2 ^ 30
  · rw [if_neg h4, if_neg h3, if_pos h2]
  have h1 : 2 ^ 43 ≤ a ∧ a < 2 ^ 43 + 2 ^ 32 := h.resolve_right fun h => h.elim h2 fun h => h.elim h3 h4
  rw [if_neg h4, if_neg h3, if_neg h2, if_pos h1]
theorem State.getCore_zeroCores (s : State) (c : Nat) : (s.zeroCores.getCore c).run = .none ∧ (s.zeroCores.getCore c).act = Ctx.zero := by
  have e : s.zeroCores.getCore c =
    Tab.get Core.zero (Tab.mapV Core.zero (fun c => { Core.zero with halted := c.halted, brk := c.brk }) s.cores) c := rfl
  rw [e]
  rcases Tab.get_mapV_cases Core.zero (fun c => { Core.zero with halted := c.halted, brk := c.brk }) s.cores c with h | ⟨v, h⟩
  · rw [h]; exact ⟨rfl, rfl⟩
  · rw [h]; exact ⟨rfl, rfl⟩
theorem State.byte_zeroCores (s : State) (a : Nat) : s.zeroCores.byte a = s.byte a := rfl
/-- What is zeroed by BEDROCK_READY. -/
structure BedrockZero (t : State) : Prop where
  bytes : ∀ a, ((2 ^ 43 ≤ a ∧ a < 2 ^ 43 + 2 ^ 32) ∨ (spadKey 0 0 ≤ a ∧ a < spadKey 0 0 + 2 ^ 30) ∨
    (mgKey 0x20200000 ≤ a ∧ a < mgKey 0x20200000 + 0x40000) ∨ (mgKey 0x30000000 ≤ a ∧ a < mgKey 0x30000000 + 0x400000)) → t.byte a = 0
  cores : ∀ c, (t.getCore c).run = .none ∧ (t.getCore c).act = Ctx.zero
theorem execBedrockReady_eq (s : State) : execBedrockReady s = .next (
    if s.bootPhase ≠ 3 ∨ s.mg.modstatus.getLsbD 26 then s
    else s.bootStep 2 fun s => (s.zeroBedrock.zeroCores.setStatus 26 26 1).tryReady) := rfl
theorem bedrockReady_step (hp : s.bootPhase = 3) (hb : ¬ s.mg.modstatus.getLsbD 26 = true) :
    exec .bedrockReady s = .next (s.bootStep 2 fun s => (s.zeroBedrock.zeroCores.setStatus 26 26 1).tryReady) := by
  show execBedrockReady s = _
  rw [execBedrockReady_eq, if_neg (by rintro (h | h) <;> contradiction)]
theorem bedrockReady_done (hp : s.bootPhase = 3) (h : s.arg 0 = 0) (hb : ¬ s.mg.modstatus.getLsbD 26 = true) :
    Completes .bedrockReady s fun t => BitReady s t 26 ∧ BedrockZero t := by
  refine .intro (t := (s.zeroBedrock.zeroCores.setStatus 26 26 1).tryReady) ?_
    ⟨State.bitReady _ 26 (by decide) (by decide) hp rfl, ⟨fun a ha => ?_, fun c => ?_⟩⟩
  · rw [bedrockReady_step hp hb, State.bootStep_done _ _ h]
  · rw [State.tryReady_byte, State.setStatus_byte, State.byte_zeroCores]
    exact s.byte_zeroBedrock a ha
  · rw [getCore_tryReady, getCore_setStatus]
    exact s.zeroBedrock.getCore_zeroCores c

/-- A step of bring-up that ends in the failure of a unit, in a module that has not failed, enters FAILED with its code (R54). -/
theorem bootStep_fails {i : Instr} {code u : Nat} {f : State → State} (he : exec i s = .next (s.bootStep code f)) (hp : s.bootPhase ≠ 5)
    (hu : s.arg 0 = u + 1) (h : u < 256) (hc : code < 256) : Completes i s fun t => FailedWith t u code := by
  rw [State.bootStep_failed code f u hu] at he
  exact .intro he (s.enterFailed_failed u code hp h hc)

end

theorem Completes.imp {i : Instr} {s : State} {P Q : State → Prop} (h : Completes i s P) (hpq : ∀ t, P t → Q t) : Completes i s Q := by
  obtain ⟨t, ht, hp⟩ := h
  exact ⟨t, ht, hpq t hp⟩
theorem FailedWith.parts {t : State} {unit code : Nat} (h : FailedWith t unit code) : t.bootPhase = 5 ∧ t.ready = false ∧
    t.mg.modstatus.getLsbD 19 = true ∧ nfld t.mg.modstatus.toNat 15 8 = unit ∧ nfld t.mg.modstatus.toNat 7 0 = code :=
  ⟨h.phase, h.ready, h.flag, h.unit, h.code⟩

/-- Settles O46, one lemma for each step and outcome. -/
theorem bringUpSequence : Obligations.BringUpSequence := by
  unfold Obligations.BringUpSequence
  intro s zeroes bit fails a b chosen
  have failed {i : Instr} {unit code : Nat} (h : Completes i s fun t => FailedWith t unit code) : Completes i s fun t => fails t unit code :=
    h.imp fun _ => FailedWith.parts
  refine ⟨.intro rfl ⟨rfl, rfl, rfl, rfl, rfl, rfl, rfl, rfl, byte_moduleReset s.mem⟩, fun hp hr => ?release, fun hp hr => ⟨?_, ?_⟩,
    fun hp => ⟨fun n hn => ?_, fun hn _ => ?_⟩, fun hp h => calDone_done hp h, fun hp h => ⟨fun hb => ?_, fun hb => ?_, fun hb => ?_⟩,
    fun u hu h _ => ⟨fun hp => ?_, fun hp => ⟨fun hb => ?_, fun hb => ?_, fun hb => ?_⟩⟩⟩
  case release =>
    refine .intro ?_ rfl
    show execResetRelease s = _
    unfold execResetRelease
    rw [if_neg (by simp [hp, hr])]
  · exact firmwareVerified_begins hp hr
  · exact fun h _ => failed (firmwareVerified_fails hp hr h)
  · exact (configApply_applies hp n hn).imp fun _ h => ⟨h.phase, h.flag, h.cfg⟩
  · exact failed (configApply_fails hp hn)
  · exact (hbmReady_done hp h hb).imp fun _ ⟨h, hz⟩ => ⟨h.flag, hz, h.last⟩
  · exact (lpReady_done hp h hb).imp fun _ ⟨h, hz⟩ => ⟨h.flag, hz, h.last⟩
  · refine (bedrockReady_done hp h hb).imp fun t ⟨h, hz⟩ => ⟨h.flag, fun a h1 h2 => hz.bytes a (.inl ⟨h1, h2⟩),
      fun a h1 h2 => hz.bytes a (.inr (.inl ⟨h1, h2⟩)), fun a h1 h2 => hz.bytes a (.inr (.inr (.inl ⟨h1, h2⟩))),
      fun a h1 h2 => hz.bytes a (.inr (.inr (.inr ⟨h1, h2⟩))), fun c r => ⟨(hz.cores c).1, ?_⟩, h.last⟩
    rw [(hz.cores c).2]; rfl
  · exact failed (bootStep_fails (calDone_step hp) (by omega) hu h (by decide))
  · exact failed (bootStep_fails (hbmReady_step hp hb) (by omega) hu h (by decide))
  · exact failed (bootStep_fails (lpReady_step hp hb) (by omega) hu h (by decide))
  · exact failed (bootStep_fails (bedrockReady_step hp hb) (by omega) hu h (by decide))

end Sys2Proof.Machine
end

section
/-!
PROOFS. Failures, links, clocks and ports (O47).
-/
namespace Sys2Proof.Machine

/-! ### What a change of MODSTATUS leaves alone -/

section
variable (s : State) (hi lo v : Nat)
@[simp] theorem State.setStatus_teams : (s.setStatus hi lo v).teams = s.teams := (rfl)
@[simp] theorem State.setStatus_router : (s.setStatus hi lo v).router = s.router := (rfl)
@[simp] theorem State.setStatus_gate : (s.setStatus hi lo v).gate = s.gate := (rfl)
@[simp] theorem State.setStatus_msys : (s.setStatus hi lo v).msys = s.msys := (rfl)
end

theorem State.raiseRing_onlyMem (s : State) (n : Nat) (e : EvRec) : s.OnlyMem (s.raiseRing n e) := State.ringPut_onlyMem s _ _
@[simp] theorem State.raiseRing_mg (s : State) (n : Nat) (e : EvRec) : (s.raiseRing n e).mg = s.mg := (s.raiseRing_onlyMem n e).mg
@[simp] theorem State.raiseRing_router (s : State) (n : Nat) (e : EvRec) : (s.raiseRing n e).router = s.router := (s.raiseRing_onlyMem n e).router
@[simp] theorem State.raiseRing_gate (s : State) (n : Nat) (e : EvRec) : (s.raiseRing n e).gate = s.gate := (s.raiseRing_onlyMem n e).gate

/-! ### A FABRIC_READY bit (R56, R58) -/

/-- The host is told of a fabric event (R56, R58, log 66). -/
def State.tellFabric (s : State) (d : Nat) (up : Bool) : State := { s with mg := { s.mg with hostOut := s.mg.hostOut ++ [.fabric d up] } }
section
variable (s : State) (d : Nat) (up : Bool)
@[simp] theorem State.tellFabric_modstatus : (s.tellFabric d up).mg.modstatus = s.mg.modstatus := (rfl)
@[simp] theorem State.tellFabric_hostOut : (s.tellFabric d up).mg.hostOut = s.mg.hostOut ++ [.fabric d up] := (rfl)
@[simp] theorem State.tellFabric_router : (s.tellFabric d up).router = s.router := (rfl)
@[simp] theorem State.tellFabric_gate : (s.tellFabric d up).gate = s.gate := (rfl)

/-- The state of portBit before the host is told. -/
def State.portSet (e : EvRec) : State := (s.setStatus (25 - d) (25 - d) up.toNat).raiseRing 1 e
variable (e : EvRec)
theorem State.portBit_eq : s.portBit d up e =
    if (s.portSet d up e).ready ∨ (s.portSet d up e).lost then (s.portSet d up e).tellFabric d up else s.portSet d up e := rfl
@[simp] theorem State.portSet_hostOut : (s.portSet d up e).mg.hostOut = s.mg.hostOut := by unfold State.portSet; simp
@[simp] theorem State.portBit_router : (s.portBit d up e).router = s.router := by
  rw [State.portBit_eq]; split <;> simp [State.portSet]
@[simp] theorem State.portBit_gate : (s.portBit d up e).gate = s.gate := by
  rw [State.portBit_eq]; split <;> simp [State.portSet]
theorem State.portSet_bit (h : d < 6) (i : Nat) :
    (s.portSet d up e).mg.modstatus.getLsbD i = if i = 25 - d then up else s.mg.modstatus.getLsbD i := by
  unfold State.portSet
  rw [State.raiseRing_mg, State.setStatus_bit _ _ _ _ _ (Nat.le_refl _) (by omega)]
  by_cases hi : i = 25 - d
  · subst hi; rw [if_pos ⟨Nat.le_refl _, Nat.le_refl _⟩, if_pos rfl, Nat.sub_self]; cases up <;> rfl
  · rw [if_neg (by omega), if_neg hi]
/-- A change of a FABRIC_READY bit changes that bit of MODSTATUS alone. -/
theorem State.portBit_bit (h : d < 6) (i : Nat) :
    (s.portBit d up e).mg.modstatus.getLsbD i = if i = 25 - d then up else s.mg.modstatus.getLsbD i := by
  rw [State.portBit_eq]; split
  · rw [State.tellFabric_modstatus, State.portSet_bit s d up e h]
  · exact State.portSet_bit s d up e h i
/-- The host is told where READY has been entered, in FAILED after it too. -/
theorem State.portBit_hostOut (h : d < 6) : (s.portBit d up e).mg.hostOut =
    s.mg.hostOut ++ if s.ready = true ∨ s.lost = true then [.fabric d up] else [] := by
  have hr : (s.portSet d up e).ready = s.ready := by
    unfold State.ready; rw [State.portSet_bit s d up e h, if_neg (by omega)]
  have hl : (s.portSet d up e).lost = s.lost := State.lost_congr fun i h1 h2 => by rw [State.portSet_bit s d up e h, if_neg (by omega)]
  rw [State.portBit_eq, hr, hl]; split <;> simp
end

/-- A change of the bit of port d is a change of that port alone. -/
theorem State.portUp_of_bit {s t : State} {d : Nat} {up : Bool} (h : d < 6)
    (hb : ∀ i, t.mg.modstatus.getLsbD i = if i = 25 - d then up else s.mg.modstatus.getLsbD i) (c : Nat) :
    t.portUp c = if c = d then up else s.portUp c := by
  unfold State.portUp
  rw [hb]
  by_cases hc : c = d
  · subst hc; simp [h]
  · rw [if_neg hc]
    by_cases h6 : c < 6
    · rw [if_neg (by omega)]
    · simp [h6]
theorem State.portUp_lt {s : State} {d : Nat} (h : s.portUp d = true) : d < 6 := by
  unfold State.portUp at h
  rw [Bool.and_eq_true, decide_eq_true_eq] at h
  exact h.1

/-! ### A port that goes down (R58, R69) -/

/-- Every packet but pebbles that waits for exit d is discarded. -/
def State.dropOut (s : State) (d : Nat) : State :=
  { s with router := { s.router with outq := s.router.outq.filter fun o => !(o.dir == d && !o.pkt.isPebble) } }
section
variable (s : State) (d : Nat)
theorem State.takePortDown_eq : s.takePortDown d =
    ((s.dropOut d).portBit d false { kind := 3, port := d, arg0 := (s.router.outq.filter fun o => o.dir == d && !o.pkt.isPebble).length }).logErr
      (portRing d) { kind := 8, unit := 0x80, port := d, arg0 := (s.router.outq.filter fun o => o.dir == d && !o.pkt.isPebble).length } := rfl
theorem State.dropOut_mg : (s.dropOut d).mg = s.mg := rfl
theorem State.takePortDown_bit (h : d < 6) (i : Nat) :
    (s.takePortDown d).mg.modstatus.getLsbD i = if i = 25 - d then false else s.mg.modstatus.getLsbD i := by
  rw [State.takePortDown_eq, State.logErr_mg, State.portBit_bit _ _ _ _ h, State.dropOut_mg]
/-- A port that is taken down is down, and every other port as it was. -/
theorem State.portUp_takePortDown (h : d < 6) (c : Nat) : (s.takePortDown d).portUp c = if c = d then false else s.portUp c :=
  State.portUp_of_bit h (s.takePortDown_bit d h) c
theorem State.takePortDown_outq :
    (s.takePortDown d).router.outq = s.router.outq.filter fun o => !(o.dir == d && !o.pkt.isPebble) := by
  rw [State.takePortDown_eq, State.logErr_router, State.portBit_router]; rfl
theorem State.takePortDown_hostOut (h : d < 6) : (s.takePortDown d).mg.hostOut =
    s.mg.hostOut ++ if s.ready = true ∨ s.lost = true then [.fabric d false] else [] := by
  have hr : (s.dropOut d).ready = s.ready := rfl
  have hl : (s.dropOut d).lost = s.lost := rfl
  rw [State.takePortDown_eq, State.logErr_mg, State.portBit_hostOut _ _ _ _ h, State.dropOut_mg, hr, hl]
end

/-! ### What a failure in READY stops (R54) -/

/-- A port is taken down if it is up. -/
def State.closePort (s : State) (d : Nat) : State := if s.portUp d then s.takePortDown d else s
theorem State.portUp_closePort (s : State) (d c : Nat) : (s.closePort d).portUp c = (s.portUp c && decide (c ≠ d)) := by
  unfold State.closePort
  by_cases hc : c = d
  · subst hc
    split
    case isTrue h => rw [State.portUp_takePortDown s c (State.portUp_lt h)]; simp
    case isFalse h => simp [Bool.eq_false_iff.2 h]
  · split
    case isTrue h => rw [State.portUp_takePortDown s d (State.portUp_lt h), if_neg hc]; simp [hc]
    case isFalse h => simp [hc]
/-- The ports of a list are down after each is closed. -/
theorem State.portUp_closePorts (ds : List Nat) (s : State) (c : Nat) : (ds.foldl State.closePort s).portUp c = (s.portUp c && decide (c ∉ ds)) := by
  induction ds generalizing s with
  | nil => simp
  | cons d ds ih => rw [List.foldl_cons, ih, State.portUp_closePort]; by_cases hd : c = d <;> simp [hd]

/-- What is under way when the ports are down is lost: teams, strands, invocations, packets and page moves. -/
def State.silence (s : State) : State :=
  { s with teams := [], cores := Tab.mapV Core.zero Core.freed s.cores
           parts := Tab.mapV Part.zero (fun x => { x with inv := none, events := [], decs := [], slots := [], resync := false }) s.parts
           router := { Router.zero with parks := s.router.parks }
           gate := { Gateway.zero with lists := s.gate.lists, rot := s.gate.rot, ancient := s.gate.ancient }
           msys := { s.msys with flights := [], shoots := [], moves := [], migs := [] } }
theorem State.stopAll_eq (s : State) : s.stopAll =
    let u := ((List.range 6).foldl State.closePort s).silence
    if u.mg.hostWait.isSome then u.hostDone 1 [] else u := rfl

/-- The partitions run nothing and every port is down. -/
structure Silent (t : State) : Prop where
  teams : t.teams = []
  strands : ∀ c, (t.getCore c).run = .none
  ports : ∀ d, d < 6 → t.portUp d = false
  moves : t.msys.moves = []
  migs : t.msys.migs = []
  flights : t.msys.flights = []
  outq : t.router.outq = []
  arrivals : t.router.arrivals = []
theorem Silent.silence (s : State) (h : ∀ d, d < 6 → s.portUp d = false) : Silent s.silence := by
  refine ⟨rfl, fun c => ?_, h, rfl, rfl, rfl, rfl, rfl⟩
  have e : s.silence.getCore c = Tab.get Core.zero (Tab.mapV Core.zero Core.freed s.cores) c := rfl
  rw [e]
  rcases Tab.get_mapV_cases Core.zero Core.freed s.cores c with h | ⟨v, h⟩
  · rw [h]; rfl
  · rw [h]; rfl
theorem Silent.hostDone {s : State} (h : Silent s) (code : Nat) (data : List Byte) : Silent (s.hostDone code data) :=
  ⟨h.teams, h.strands, h.ports, h.moves, h.migs, h.flights, h.outq, h.arrivals⟩
theorem State.stopAll_silent (s : State) : Silent s.stopAll := by
  have h : Silent ((List.range 6).foldl State.closePort s).silence :=
    .silence _ fun d hd => by rw [State.portUp_closePorts, decide_eq_false (by simp [hd]), Bool.and_false]
  rw [State.stopAll_eq]
  dsimp only
  split
  · exact h.hostDone 1 []
  · exact h
/-- A change of MODSTATUS outside the bits of the ports keeps everything silent. -/
theorem Silent.setStatus {s : State} (h : Silent s) (hi lo v : Nat) (hl : lo ≤ hi) (hh : hi < 32) (hd : hi < 20 ∨ 25 < lo) :
    Silent (s.setStatus hi lo v) := by
  refine ⟨?_, fun c => ?_, fun d h6 => ?_, ?_, ?_, ?_, ?_, ?_⟩
  · rw [State.setStatus_teams]; exact h.teams
  · rw [getCore_setStatus]; exact h.strands c
  · have := h.ports d h6
    unfold State.portUp at this ⊢
    rw [State.setStatus_bit _ _ _ _ _ hl hh, if_neg (by omega)]; exact this
  · rw [State.setStatus_msys]; exact h.moves
  · rw [State.setStatus_msys]; exact h.migs
  · rw [State.setStatus_msys]; exact h.flights
  · rw [State.setStatus_router]; exact h.outq
  · rw [State.setStatus_router]; exact h.arrivals
/-- A failure in READY stops everything. -/
theorem State.enterFailed_silent (s : State) (unit code : Nat) (h : s.bootPhase ≠ 5) (hr : s.ready = true) : Silent (s.enterFailed unit code) := by
  unfold State.enterFailed
  rw [if_neg h, if_pos hr]
  refine Silent.setStatus ?_ 7 0 code (by decide) (by decide) (.inl (by decide))
  refine Silent.setStatus ?_ 15 8 unit (by decide) (by decide) (.inl (by decide))
  refine Silent.setStatus ?_ 18 16 5 (by decide) (by decide) (.inl (by decide))
  refine Silent.setStatus ?_ 19 19 1 (by decide) (by decide) (.inl (by decide))
  exact Silent.setStatus s.stopAll_silent 31 31 0 (by decide) (by decide) (.inr (by decide))

end Sys2Proof.Machine
end

section
/-!
PROOFS. The steps of failures, clocks and ports (O47).
-/
namespace Sys2Proof.Machine
section
variable {s : State}

/-- A failure enters FAILED with its unit and code, and one in READY leaves nothing running. -/
theorem enterFailed_completes {i : Instr} {unit code : Nat} (he : exec i s = .next (s.enterFailed unit code)) (hp : s.bootPhase ≠ 5)
    (hu : unit < 256) (hc : code < 256) : Completes i s fun t => FailedWith t unit code ∧ (s.ready = true → Silent t) :=
  .intro he ⟨s.enterFailed_failed unit code hp hu hc, s.enterFailed_silent unit code hp⟩
theorem railUnit_lt (r : Nat) : railUnit r < 256 := by
  unfold railUnit
  split
  · omega
  · split
    · omega
    · split <;> decide
theorem railFault_fails (hp : s.bootPhase ≠ 5) (hr : s.arg 0 ≤ 33) :
    Completes .railFault s fun t => FailedWith t (railUnit (s.arg 0)) 3 ∧ (s.ready = true → Silent t) := by
  refine enterFailed_completes ?_ hp (railUnit_lt _) (by decide)
  show execRailFault s = _
  unfold execRailFault
  rw [if_neg (by omega)]
theorem unitFailed_fails (hp : s.bootPhase ≠ 5) (hr : s.ready = true) (hu : s.arg 0 ≤ 0x10 ∨ 0x20 ≤ s.arg 0 ∧ s.arg 0 < 0x60) :
    Completes .unitFailed s fun t => FailedWith t (s.arg 0) 6 ∧ (s.ready = true → Silent t) := by
  refine enterFailed_completes ?_ hp (by omega) (by decide)
  show execUnitFailed s = _
  unfold execUnitFailed
  rw [if_pos ⟨hr, by simpa [isFailUnit] using hu⟩]
theorem arg_zero {r : Nat} {l : List Nat} (h : s.args = r :: l) : s.arg 0 = r := by unfold State.arg; rw [h]; rfl
theorem arg_one {r b : Nat} {l : List Nat} (h : s.args = r :: b :: l) : s.arg 1 = b := by unfold State.arg; rw [h]; rfl
theorem ucieLinkFailed_marks {r b : Nat} (h : s.args = [r, b]) (hr : r < 16) (hb : b ≤ 16) (hn : r ≠ b) (hl : 17 * r + b ∉ s.mg.linksDown) :
    Completes .ucieLinkFailed s fun t => t.mg.linksDown = s.mg.linksDown ++ [17 * r + b] ∧ t.cores = s.cores ∧ t.router = s.router := by
  refine .intro (t := ({ s with mg := { s.mg with linksDown := s.mg.linksDown ++ [17 * r + b] } } : State).logErr r
    { kind := 8, sev := 2, unit := 21, arg0 := b }) ?_ ⟨?_, ?_, ?_⟩
  · show execUcieLinkFailed s = _
    unfold execUcieLinkFailed
    dsimp only
    rw [arg_zero h, arg_one h, if_neg]
    rintro (h | h | h | h)
    · omega
    · omega
    · exact hn h
    · exact hl (List.contains_iff_mem.1 h)
  · rw [State.logErr_mg]
  · rw [State.logErr_cores]
  · rw [State.logErr_router]

/-! ### The clock (R47, R48) -/

/-- The lowest clock that CLOCK_STEP may set. -/
def State.clockFloor (s : State) : Nat := max 350 ((s.mg.cfg.map Cfg.floor).getD 350)
/-- The state with another clock. -/
def State.withClock (s : State) (c : Nat) : State := { s with mg := { s.mg with clock := c } }
theorem clockStep_eq (s : State) : exec .clockStep s = .next (
    if s.arg 0 = 0 then (if s.clockFloor + 25 ≤ s.mg.clock then s.withClock (s.mg.clock - 25) else s)
    else if s.mg.clock + 25 ≤ 700 then s.withClock (s.mg.clock + 25) else s) := rfl
theorem clockStep_down (h : s.arg 0 = 0) (hc : s.clockFloor + 25 ≤ s.mg.clock) :
    exec .clockStep s = .next (s.withClock (s.mg.clock - 25)) := by rw [clockStep_eq, if_pos h, if_pos hc]
theorem clockStep_floor (h : s.arg 0 = 0) (hc : s.mg.clock < s.clockFloor + 25) : exec .clockStep s = .next s := by
  rw [clockStep_eq, if_pos h, if_neg (Nat.not_le.2 hc)]
theorem clockStep_rises (h : s.arg 0 ≠ 0) (hc : s.mg.clock + 25 ≤ 700) : exec .clockStep s = .next (s.withClock (s.mg.clock + 25)) := by
  rw [clockStep_eq, if_neg h, if_pos hc]

/-! ### Ports (R52, R58, R64, R78) -/

/-- Every channel of exit d has every credit, and every flow of the node owes a SYN. -/
def State.freshPort (s : State) (d : Nat) : State :=
  { s with router := { s.router with used := s.router.used.filter fun e => e.1 / 8 != d, freed := s.router.freed.filter fun e => e.1 / 8 != d }
           gate := { s.gate with flowsOut := s.gate.flowsOut.map fun f => { f with syn := true } } }
theorem portUp_step {r : Nat} (h : s.arg 0 = r) (hr : r < 6) (hd : s.portUp r = false) (hp : 2 ≤ s.bootPhase) {c : Cfg} (hc : s.mg.cfg = some c)
    (hb : c.ports.getLsbD (5 - r) = true) : exec .portUp s = .next ((s.freshPort r).portBit r true { kind := 4, port := r }) := by
  show execPortUp s = _
  unfold execPortUp
  dsimp only
  rw [h, hc, if_neg]
  · rfl
  · rw [hd]; simp [hb]; omega
/-- The credits of a channel of a port that has come up. -/
theorem freshPort_credits (t : Tab Nat) (r v : Nat) (h : v < 8) : Tab.get 0 (t.filter fun e => e.1 / 8 != r) (chanKey r v) = 0 :=
  Tab.get_filter_out 0 t _ _ fun _ => by unfold chanKey; simp; omega
/-- A port that comes up: its bit, its credits, the SYNs and the fabric event. -/
theorem portUp_up (d : Nat) (e : EvRec) (h : d < 6) :
    let t := (s.freshPort d).portBit d true e
    t.portUp d = true ∧ (∀ c, c ≠ d → t.portUp c = s.portUp c) ∧
    (∀ v, v < 8 → Tab.get 0 t.router.used (chanKey d v) = 0 ∧ Tab.get 0 t.router.freed (chanKey d v) = 0) ∧
    (∀ f ∈ t.gate.flowsOut, f.syn = true) ∧ t.gate.flowsOut.length = s.gate.flowsOut.length ∧
    t.mg.hostOut = s.mg.hostOut ++ if s.ready = true ∨ s.lost = true then [.fabric d true] else [] := by
  intro t
  have hport : ∀ c, t.portUp c = if c = d then true else (s.freshPort d).portUp c :=
    State.portUp_of_bit h ((s.freshPort d).portBit_bit d true e h)
  have hrouter : t.router = (s.freshPort d).router := State.portBit_router ..
  have hgate : t.gate = (s.freshPort d).gate := State.portBit_gate ..
  refine ⟨by rw [hport, if_pos rfl], fun c hc => by rw [hport, if_neg hc]; rfl, fun v hv => ?_, ?_, ?_, (s.freshPort d).portBit_hostOut d true e h⟩
  · rw [hrouter]; exact ⟨freshPort_credits _ d v hv, freshPort_credits _ d v hv⟩
  · rw [hgate]; simp [State.freshPort]
  · rw [hgate]; simp [State.freshPort]
theorem portDown_step (h : s.portUp (s.arg 0) = true) : exec .portDown s = .next (s.takePortDown (s.arg 0)) := by
  show execPortDown s = _
  unfold execPortDown
  rw [if_pos h]

end

/-- Settles O47, one lemma for each step. -/
theorem failuresClocksAndPorts : Obligations.FailuresClocksAndPorts := by
  unfold Obligations.FailuresClocksAndPorts
  intro s bit fails r tells floor
  have failed {i : Instr} {unit code : Nat} (h : Completes i s fun t => FailedWith t unit code ∧ (s.ready = true → Silent t)) :
      Completes i s fun t => fails t unit code :=
    h.imp fun t ⟨hf, hs⟩ => ⟨hf.phase, hf.ready, hf.flag, hf.unit, hf.code, fun hr =>
      ⟨(hs hr).teams, (hs hr).strands, (hs hr).ports, (hs hr).moves, (hs hr).migs, (hs hr).flights, (hs hr).outq, (hs hr).arrivals⟩⟩
  refine ⟨fun hp hr => failed (railFault_fails hp hr), fun hp hr hu => failed (unitFailed_fails hp hr hu),
    fun b h hr hb hn hl => ucieLinkFailed_marks h hr hb hn hl, fun h hc => .intro (clockStep_down h hc) rfl,
    fun h hc => .intro (clockStep_rises h hc) rfl, fun h hc => .intro (clockStep_floor h hc) rfl,
    fun hr hd hp c hc hb => .intro (portUp_step rfl hr hd hp hc hb) (portUp_up r _ hr), fun h => ?_⟩
  · have hr : r < 6 := State.portUp_lt h
    refine .intro (portDown_step h) ⟨?_, fun d hd => ?_, s.takePortDown_outq r, s.takePortDown_hostOut r hr⟩
    · rw [State.portUp_takePortDown s r hr, if_pos rfl]
    · rw [State.portUp_takePortDown s r hr, if_neg hd]

end Sys2Proof.Machine
end

section
/-!
PROOFS. The answers to the host (O53): a slate load outside READY.
-/
namespace Sys2Proof.Machine

/-- A module that is not in READY, in which partition 0 is ACTIVE, address space 0 is its own, and page 0 of it is in the move table; the operands
are those of a slate load of one word from that page (R198, R250). -/
def loadFromMovingPage : State :=
  { State.reset with
    args := [0, 0, 0, 1, 0], mem := [(mgKey 0x20000000, 1)], parts := [(0, { Part.zero with pstate := 2 })]
    msys := { MemSys.zero with moves := [⟨0, 0, 0, none, 0, false, false, 0, false⟩] } }
/-- The hold of a page that moves is looked at before READY: the load waits and is not answered (R55, R250). -/
theorem sload_waits : exec .sload loadFromMovingPage = .next loadFromMovingPage := by
  show execSload loadFromMovingPage = _
  unfold execSload
  rw [if_pos (by decide)]

/-- Refutes O53: the statement is over every state, and outside READY a slate load from a page in the move table is not answered NOT_READY; it waits,
as it does in READY, and gives no completion. -/
theorem not_hostRequestsAnswer : ¬ Obligations.HostRequestsAnswer := by
  unfold Obligations.HostRequestsAnswer
  intro h
  obtain ⟨-, -, -, hReady, -⟩ := h loadFromMovingPage rfl
  obtain ⟨t, ht, ⟨hout, -⟩, -⟩ := hReady rfl .sload (by simp)
  rw [sload_waits] at ht
  cases ht
  exact absurd hout (by decide)

end Sys2Proof.Machine
end
